-- ==== Sys2Proof/Word.lean ====
section
/-! DEFINITION. The word types of the Byric instruction set (00_scope.md R5, R6; 02_clauses_encoding.md R41, R45). -/

namespace Sys2Proof

/-- A byte of memory. -/
abbrev Byte := BitVec 8

/-- An instruction word, and the data of a v register (R41, R45). -/
abbrev Word := BitVec 32

/-- An s register, a key, a virtual address (R41, R47). -/
abbrev DWord := BitVec 64

/-- A register number: v0–v63 in the lane stream, s0–s63 in the uniform stream (R41). -/
abbrev Reg := BitVec 6

end Sys2Proof
end

