-- ==== Sys2Proof/Syntax.lean ====
section
/-! DEFINITION. The instructions of the Byric instruction set and the events of the module: one constructor of `Instr`
per row of spec/opcode_table.json. A field of a word stands as the spec names it (02_clauses_encoding.md R45, R46, R52);
an event carries what the outside world, or the choice the spec leaves open, supplies. -/

namespace Sys2Proof

/-- The format tag of a v register (Table 2-5). -/
inductive Tag where
  | raw | s32 | z32 | f32 | bf16x2 | f16x2 | e4m3x4 | e5m2x4 | e2m1x8 | e8m0x4 | s8x4 | f32p | mxq
  deriving DecidableEq, Repr

/-- The SZ field of format M (R46): byte, half, word, and the pair (lane stream) or doubleword (uniform stream). -/
inductive Size where
  | byte | half | word | wide
  deriving DecidableEq, Repr

/-- The WIN field of format M (R46). -/
inductive Win where
  | global | spad | gsm | csp | priv
  deriving DecidableEq, Repr

/-- The SC field (R46), from the narrowest scope to the widest. -/
inductive Scope where
  | plot | pav | grove | dev | pod | sys
  deriving DecidableEq, Repr

/-- The RM field of formats A (FOP) and F (R46). -/
inductive Rm where
  | rne | rz | rd | ru
  deriving DecidableEq, Repr

/-- The RND field of CVT (R52, major 0x12). -/
inductive CvtRnd where
  | rne | rz | sr | rd
  deriving DecidableEq, Repr

/-- The condition of a B-format word (R46): always, or on one of the four flags. -/
inductive Cond where
  | always
  | ifSet (f : BitVec 2)
  | ifClear (f : BitVec 2)
  deriving DecidableEq, Repr

/-- The integer conditions (Table 4-7). -/
inductive ICond where
  | eq | ne | lts | les | ltz | lez | tst
  deriving DecidableEq, Repr

/-- The floating-point conditions (Table 4-13). -/
inductive FCond where
  | eq | ne | lt | le | gt | ge | un | ord
  deriving DecidableEq, Repr

/-- The mode of LDV (R52, major 0x1A). -/
inductive LdvMode where
  | newest | exact | nowait
  deriving DecidableEq, Repr

/-- The format pairs of MMA and MMAG (05_matrix_engine.md R116). -/
abbrev Pair := Fin 9

/-- The mode of DRAIN (R52, major 0x33). -/
inductive DrainMode where
  | store | add | storez
  deriving DecidableEq, Repr

/-- The rounding of DRAIN (R52, major 0x33). -/
inductive DrainRnd where
  | rne | rz | sr
  deriving DecidableEq, Repr

/-- The destination format of DRAIN (R52, major 0x33). -/
inductive DrainDst where
  | s32 | f32 | bf16x2 | f16x2
  deriving DecidableEq, Repr

/-- The two instruction streams (R38). -/
inductive Stream where
  | lane | uniform
  deriving DecidableEq, Repr

/-- An agent of a plot: its front thread, or the strand with this number (the model's own, in order of start). -/
inductive Who where
  | front
  | strand (k : Nat)
  deriving DecidableEq, Repr

/-- The masters that can reach the management interface (15_isolation.md R364); classes 1, 2 and 3 of Table 15-4. -/
inductive Master where
  | host | bmc | pod
  deriving DecidableEq, Repr

/-- The response to a Page Request Group (R361). -/
inductive PrgResponse where
  | success | invalid | failure
  deriving DecidableEq, Repr

/-- An ATS Translation Completion (R358, R359): a grant of 2^log2 bytes with its permissions, or a refusal. -/
inductive AtsResult where
  | grant (addr : DWord) (log2 : Nat) (r w : Bool)
  | unsupported
  | abort
  deriving DecidableEq, Repr

/-- What every fabric request carries: the source module, its tag and generation (R249), the group and the source's member
index in it (R248). -/
structure FabHdr where
  src : Nat
  tag : BitVec 12
  gen : BitVec 4
  group : Nat
  member : Nat
  deriving DecidableEq, Repr

/-- The body of a reply (R250): acknowledged bytes, data, or a page the target's host refused. -/
inductive ReplyBody where
  | ack (n : Nat)
  | data (bytes : List Byte)
  | refused
  | errored
  deriving DecidableEq, Repr

/-- What a contribution chunk carries (R264), with the descriptor fields R259 compares. -/
structure ContribHdr where
  bucket : Nat
  step : DWord
  chunk : Nat
  n : Nat
  elems : Nat
  fmt : Nat
  mode : Nat
  op : Nat
  deriving DecidableEq, Repr

/-- The instructions and events, in the order of spec/opcode_table.json but for the events before bundleFormation, which the model
itself raises and which lead the others. -/
inductive Instr where
  | add (d a b : Reg)
  | sub (d a b : Reg)
  | mul (d a b : Reg)
  | mulhs (d a b : Reg)
  | mulhz (d a b : Reg)
  | andR (d a b : Reg)
  | orR (d a b : Reg)
  | xorR (d a b : Reg)
  | andn (d a b : Reg)
  | shl (d a b : Reg)
  | shr (d a b : Reg)
  | sra (d a b : Reg)
  | rol (d a b : Reg)
  | mins (d a b : Reg)
  | maxs (d a b : Reg)
  | minz (d a b : Reg)
  | maxz (d a b : Reg)
  | absd (d a b : Reg)
  | popc (d a : Reg)
  | clz (d a : Reg)
  | brev (d a : Reg)
  | addsat (d a b : Reg)
  | subsat (d a b : Reg)
  | bfx (d a b : Reg)
  | bfi (d a b : Reg)
  | selF0 (d a b : Reg)
  | selF1 (d a b : Reg)
  | selF2 (d a b : Reg)
  | selF3 (d a b : Reg)
  | addi (d a : Reg) (i : BitVec 14)
  | andi (d a : Reg) (i : BitVec 14)
  | ori (d a : Reg) (i : BitVec 14)
  | xori (d a : Reg) (i : BitVec 14)
  | shfiShl (d a : Reg) (n : BitVec 6)
  | shfiShr (d a : Reg) (n : BitVec 6)
  | shfiSra (d a : Reg) (n : BitVec 6)
  | shfiRol (d a : Reg) (n : BitVec 6)
  | movh (d : Reg) (i : BitVec 20)
  | movw (d : Reg) (lit : Word)
  | icmp (f : BitVec 2) (c : ICond) (a b : Reg)
  | icmpi (f : BitVec 2) (c : ICond) (a : Reg) (i : BitVec 11)
  | fadd (d a b : Reg) (r : Rm)
  | fsub (d a b : Reg) (r : Rm)
  | fmul (d a b : Reg) (r : Rm)
  | fmin (d a b : Reg)
  | fmax (d a b : Reg)
  | fminn (d a b : Reg)
  | fmaxn (d a b : Reg)
  | fabs (d a : Reg)
  | fneg (d a : Reg)
  | fcpys (d a b : Reg)
  | fsqrt (d a : Reg) (r : Rm)
  | frcp (d a : Reg) (r : Rm)
  | frsq (d a : Reg) (r : Rm)
  | fexp2 (d a : Reg) (r : Rm)
  | flog2 (d a : Reg) (r : Rm)
  | faddX2 (d a b : Reg) (r : Rm)
  | fmulX2 (d a b : Reg) (r : Rm)
  | faddP2 (d a b : Reg) (r : Rm)
  | fmulP2 (d a b : Reg) (r : Rm)
  | fclass (d a : Reg)
  | fma (d a b c : Reg) (r : Rm)
  | fms (d a b c : Reg) (r : Rm)
  | fnma (d a b c : Reg) (r : Rm)
  | fmaX2 (d a b c : Reg) (r : Rm)
  | fmaP2 (d a b c : Reg) (r : Rm)
  | fcmp (f : BitVec 2) (c : FCond) (a b : Reg)
  | cvt (d a b : Reg) (t : Tag) (r : CvtRnd) (satf : Bool)
  | tagset (d a : Reg) (c : Tag)
  | tagget (d a : Reg)
  | tagchk (a : Reg) (c : Tag)
  | shfl (d a b : Reg)
  | shflx (d a b : Reg)
  | shflu (d a b : Reg)
  | shfld (d a b : Reg)
  | ballot (d : Reg) (f : BitVec 2)
  | anyF (g f : BitVec 2)
  | allF (g f : BitVec 2)
  | redadd (d a : Reg)
  | redmaxs (d a : Reg)
  | redfadd (d a : Reg)
  | scanadd (d a : Reg)
  | mxqE2m1 (d a b : Reg)
  | mxqE4m3 (d a b : Reg)
  | mxqE5m2 (d a b : Reg)
  | mxdq (d a b : Reg)
  | bcast (d a : Reg) (l : BitVec 5)
  | ld (d a : Reg) (z : Size) (w : Win) (s : Scope) (o : BitVec 6)
  | lda (d a : Reg) (z : Size) (w : Win) (s : Scope) (o : BitVec 6)
  | ldi (d a : Reg) (z : Size) (w : Win) (s : Scope) (o : BitVec 6)
  | st (d a : Reg) (z : Size) (w : Win) (s : Scope) (o : BitVec 6)
  | stl (d a : Reg) (z : Size) (w : Win) (s : Scope) (o : BitVec 6)
  | ldv (d a b : Reg) (z : Size) (s : Scope) (m : LdvMode)
  | atomAdd (d a b : Reg) (ar : Bool) (s : Scope)
  | atomAnd (d a b : Reg) (ar : Bool) (s : Scope)
  | atomOr (d a b : Reg) (ar : Bool) (s : Scope)
  | atomXor (d a b : Reg) (ar : Bool) (s : Scope)
  | atomMins (d a b : Reg) (ar : Bool) (s : Scope)
  | atomMaxs (d a b : Reg) (ar : Bool) (s : Scope)
  | atomMinz (d a b : Reg) (ar : Bool) (s : Scope)
  | atomMaxz (d a b : Reg) (ar : Bool) (s : Scope)
  | atomXchg (d a b : Reg) (ar : Bool) (s : Scope)
  | atomCas (d a b : Reg) (ar : Bool) (s : Scope)
  | atomFadd (d a b : Reg) (ar : Bool) (s : Scope)
  | atomIncw (d a b : Reg) (ar : Bool) (s : Scope)
  | fenceFull (s : Scope)
  | fenceAcq (s : Scope)
  | fenceRel (s : Scope)
  | fenceView (s : Scope)
  | stmx (d a b : Reg) (s : Scope)
  | pf (a : Reg) (l2only : Bool)
  | vopen (d a b : Reg)
  | vcommit (a b : Reg) (s : Scope)
  | vquery (d a : Reg)
  | vretire (a b : Reg)
  | br (c : Cond) (o : BitVec 22)
  | brx (c : Cond) (o : BitVec 22)
  | call (c : Cond) (o : BitVec 22)
  | jr (a : Reg)
  | ret
  | callr (a : Reg)
  | wait (ld st cp tl : BitVec 4)
  | yield
  | exit
  | join (c : BitVec 4)
  | leave
  | rdv
  | spawn (a : Reg)
  | reorder (a : Reg) (k : BitVec 6)
  | popq (d : Reg)
  | peekq (d : Reg)
  | pushq (a : Reg)
  | movsr (d : Reg) (n : BitVec 6)
  | movrs (a : Reg) (n : BitVec 6)
  | nop
  | barInit (a : Reg) (n : BitVec 4)
  | barArrive (d : Reg) (n : BitVec 4)
  | barWait (d : Reg) (n : BitVec 4)
  | barSync (d : Reg) (n : BitVec 4)
  | barInval (n : BitVec 4)
  | barQuery (d : Reg) (n : BitVec 4)
  | ainit (a b : Reg)
  | await (d a b : Reg)
  | aadd (a b : Reg)
  | rinit (d a : Reg)
  | rwaitf (d a : Reg)
  | rrel (a : Reg)
  | rstat (d a : Reg)
  | trap (n : BitVec 6)
  | brk (n : BitVec 6)
  | eret
  | rkset (a : Reg) (i : BitVec 2)
  | ud
  | mma (d a b : Reg) (p : Pair) (k : BitVec 4)
  | mmag (d a b : Reg) (p : Pair) (k : BitVec 4)
  | tzero (d : Reg) (f32 : Bool)
  | tld (d a : Reg) (f32 : Bool)
  | tst (d a : Reg)
  | tscal (d a : Reg)
  | tadd (d a b : Reg)
  | drain (d a b : Reg) (m : DrainMode) (r : DrainRnd) (t : DrainDst)
  | cpyTload (d a b : Reg) (l : Bool) (s : Scope)
  | cpyTstore (d a b : Reg) (l : Bool) (s : Scope)
  | cpyTaddf (d a b : Reg) (l : Bool) (s : Scope)
  | cpyLinr (d a b : Reg) (l : Bool) (s : Scope)
  | cpyGather (d a b : Reg) (l : Bool) (s : Scope)
  | cpyPubl (d a b : Reg) (l : Bool) (s : Scope)
  | cpyPull (d a b : Reg) (l : Bool) (s : Scope)
  | fabRwrite (d a : Reg) (l : Bool)
  | fabRread (d a : Reg) (l : Bool)
  | fabRadd (d a : Reg) (l : Bool)
  | fabRatom (d a : Reg) (l : Bool)
  | fabMcast (d a : Reg) (l : Bool)
  | fabSend (d a : Reg) (ch : BitVec 6) (l : Bool)
  | fabRecv (d a : Reg) (ch : BitVec 6) (l : Bool)
  | fabRfence (l : Bool)
  | copen (d a b : Reg)
  | contrib (d a b : Reg)
  | cwait (d a : Reg)
  | cstat (d a : Reg)
  | cclose (a : Reg)
  | crepost (a : Reg)
  | sadv (d a : Reg)
  | swait (d a : Reg)
  | speer (d a b : Reg)
  | smin (d a : Reg)
  | sabs (d a b : Reg)
  | slead (d a : Reg)
  | emit (a b : Reg)
  | emitw (d a b : Reg)
  | qstat (d a : Reg)
  | depth (d a : Reg)
  | illegalEncoding (row : Nat) (w : Word)
  | unknownOpPacket (ctx q : Nat)
  | versionWaitTimeout (plot : Nat) (who : Who)
  | requestRetryTimeout (tag : BitVec 12)
  | backoffExpiry (tag : BitVec 12)
  | quorumTimerExpiry (ctx handle : Nat)
  | collEmitRetry (ctx handle : Nat)
  | presenceSend (group : Nat)
  | silenceTimerExpiry (group member : Nat)
  | bundleFormation (plot : Nat)
  | agePromotion (plot : Nat) (addr : Word)
  | loadDataLands (plot : Nat) (who : Who) (i : Nat)
  | storePerformed (plot : Nat) (who : Who) (i : Nat)
  | rendezvousTimeout (plot : Nat) (cohort : BitVec 4)
  | regrouperRelease (plot : Nat) (addr : Word)
  | exileWaitExpiry (plot : Nat) (addr : Word)
  | regrouperMove (plot : Nat)
  | reorderTimeout (plot : Nat)
  | trapDelivery (plot : Nat) (uni : Bool)
  | launchCompletion (launch : Nat)
  | plotPlacement (pav : Nat) (beds : List Nat)
  | doorbell (ctx q : Nat) (wi : Word)
  | packetNop (ctx q : Nat)
  | launch (ctx q : Nat)
  | trellis (ctx q : Nat)
  | signal (ctx q : Nat)
  | waitsig (ctx q : Nat)
  | waitsigPoll (ctx q : Nat)
  | bufdep (ctx q : Nat)
  | viewreg (ctx q : Nat)
  | viewRemoveEffect (region : Nat)
  | verreg (ctx q : Nat)
  | collreg (ctx q : Nat)
  | rkinit (ctx q : Nat)
  | repair (ctx q : Nat)
  | budgetPeriod (activity : Nat)
  | queueAgeExpiry (handle stage : Nat)
  | stageGroupStart (handle stage pav bed : Nat)
  | emitwTimeout (plot : Nat) (who : Who)
  | trellisCompletion (handle : Nat)
  | runaheadLimit (plot : Nat)
  | plotPark (plot : Nat)
  | pageRequestResponse (pasid group : Nat) (r : PrgResponse)
  | plotReturn (plot bed : Nat)
  | atsTranslationCompletion (req : Nat) (r : AtsResult)
  | atsInvalidateRequest (itag pasid : Nat) (everyPasid : Bool) (va : DWord) (log2 : Nat)
  | invalidateCompletion (itag : Nat)
  | copyChunkDelivered (plot op chunk : Nat)
  | matrixOpComplete (plot : Nat)
  | rwriteRequest (h : FabHdr) (addr : DWord) (data : List Byte)
  | rreadRequest (h : FabHdr) (addr : DWord) (n : Nat)
  | raddRequest (h : FabHdr) (addr : DWord) (fmt : BitVec 4) (data : List Byte)
  | ratomRequest (h : FabHdr) (addr : DWord) (op : BitVec 4) (n : Nat) (b c : DWord)
  | mcastRequest (h : FabHdr) (addr : DWord) (data : List Byte)
  | sendMessage (h : FabHdr) (ch : BitVec 6) (data : List Byte)
  | relayForward (src dst : Nat) (msg : List Byte)
  | fabricReply (tag : BitVec 12) (gen : BitVec 4) (r : ReplyBody)
  | receiverNotReadyReply (tag : BitVec 12) (gen : BitVec 4)
  | closedReply (tag : BitVec 12) (gen : BitVec 4)
  | dedupMemoryExpiry (src : Nat) (tag : BitVec 12) (gen : BitVec 4)
  | contributionChunk (h : FabHdr) (c : ContribHdr) (data : List Byte)
  | imageChunk (h : FabHdr) (bucket : Nat) (step : DWord) (msg : List Byte)
  | shortMessage (h : FabHdr) (bucket : Nat) (step : DWord)
  | linkLevelRetry (port : Nat)
  | portFailure (port : Nat)
  | stepMessage (h : FabHdr) (step : DWord)
  | presenceMessage (h : FabHdr)
  | resyncAnswer (tag : BitVec 12) (gen : BitVec 4)
  | claim (m : Master) (nonce : DWord) (ecdsa lms : Nat)
  | ctxWrite (m : Master) (cmd : Word)
  | ctxResident (m : Master) (cmd : Word)
  | ctxFlags (m : Master) (cmd : Word)
  | ctxRemove (m : Master) (cmd : Word)
  | queueWrite (m : Master) (cmd : Word)
  | imageLoad (m : Master) (cmd : Word)
  | liveUpdate (m : Master) (cmd : Word)
  | liveUpdateSwitch
  | failover (m : Master) (cmd : Word)
  | statement (m : Master) (cmd : Word)
  | handoverResetComplete
  | identityLoad (m : Master) (cmd : Word)
  | stage (m : Master) (cmd : Word)
  | heartbeat
  | takeoverTimeout
  | lodgeFailureReport
  | powerCapWrite (m : Master) (v : Word)
  | budgetWrite (m : Master) (i : Fin 6) (v : Word)
  | portRetrain (m : Master) (port : Nat) (v : Word)
  | registerWrite (m : Master) (off : Nat) (v : Word)
  | thermalSample (tenths : Nat)
  | portEventResend (port : Nat)
  | scrub (stack pa n : Nat) (found : List Nat)
  | moduleReset
  | standbyPower
  | getVersion (m : Master)
  | getCapabilities (m : Master)
  | negotiateAlgorithms (m : Master) (supported : Bool)
  | getDigests (m : Master)
  | getCertificate (m : Master) (slot : Nat)
  | challenge (m : Master) (slot nonce : Nat)
  | getMeasurements (m : Master) (index : Nat)
  | keyExchange (m : Master) (exchange : Nat)
  | finish (m : Master) (verify : Nat)
  | endSession (m : Master)
  | spdmUnsupportedRequest (m : Master) (code : Nat)
  | pldmSensorRequest (m : Master) (sensor : Nat)
  | deviceMemoryBarAccess (off : Nat) (n : Nat) (write : Option (List Byte))
  | portTrainingComplete (port : Nat)
  | mainPowerOn
  deriving DecidableEq, Repr

end Sys2Proof
end

