-- ==== Sys2Proof/WellFormed.lean ====
section
/-! DEFINITION. The operand register constraints of row 8 of Table 2-11 (02_clauses_encoding.md R51, R54) and the reserved
salt field of CVT (R52), per stream: an instruction that breaks one raises ILLEGAL at its word. A tile outside the plot's
allocation and the source run of a CVT depend on the machine's state and are checked where the word executes. -/

namespace Sys2Proof

def evenReg (r : Reg) : Bool := r.getLsbD 0 == false

/-- A run of n registers from r does not pass register 63. -/
def runOk (r : Reg) (n : Nat) : Bool := decide (r.toNat + n ≤ 64)

/-- A tile number is 0–15. -/
def tileOk (r : Reg) : Bool := decide (r.toNat < 16)

/-- A 64-bit operand: a pair with an even low register in the lane stream, one register in the uniform stream. -/
def pairOk (st : Stream) (r : Reg) : Bool :=
  match st with
  | .lane => evenReg r
  | .uniform => true

/-- The operands of LD, LDA, LDI, ST and STL (R47, Table 2-10). -/
def memOk (st : Stream) (d a : Reg) (z : Size) (w : Win) : Bool :=
  match st with
  | .lane => (w != .global || evenReg a) && (z != .wide || evenReg d)
  | .uniform => true

/-- The operands of CPY (Table 9-11). -/
def cpyOk (st : Stream) (linr : Bool) (d a b : Reg) : Bool :=
  runOk d 2 && pairOk st a &&
  (match st with
   | .lane => if linr then evenReg b else runOk b 4
   | .uniform => linr || runOk b 2)

/-- The wide result or operand of LDV (R221). -/
def ldvOk (st : Stream) (d a : Reg) (z : Size) : Bool :=
  match st with
  | .lane => evenReg a && (z != .wide || evenReg d)
  | .uniform => true

def devOrWider : Scope → Bool
  | .dev | .pod | .sys => true
  | _ => false

/-- The checks of row 8, and the reserved B of a CVT that does not round stochastically. [DEDUCED: log entries 29, 106] -/
def wf (st : Stream) : Instr → Bool
  | .faddX2 d a b _ | .fmulX2 d a b _ | .faddP2 d a b _ | .fmulP2 d a b _ => evenReg d && evenReg a && evenReg b
  | .fmaX2 d a b c _ | .fmaP2 d a b c _ => evenReg d && evenReg a && evenReg b && evenReg c
  | .cvt d _ b t r _ => (t != .f32p || evenReg d) && (r == .sr || b == 0#6) && t != .raw
  | .mxqE2m1 d a _ => runOk d 2 && runOk a 8
  | .mxqE4m3 d a _ | .mxqE5m2 d a _ => runOk d 2 && runOk a 4
  | .mxdq d _ _ => runOk d 8
  | .ld d a z w _ _ | .lda d a z w _ _ | .ldi d a z w _ _ | .st d a z w _ _ | .stl d a z w _ _ => memOk st d a z w
  | .ldv d a _ z _ _ => ldvOk st d a z
  | .atomAdd _ a _ _ _ | .atomAnd _ a _ _ _ | .atomOr _ a _ _ _ | .atomXor _ a _ _ _ | .atomMins _ a _ _ _
  | .atomMaxs _ a _ _ _ | .atomMinz _ a _ _ _ | .atomMaxz _ a _ _ _ | .atomXchg _ a _ _ _ | .atomFadd _ a _ _ _
  | .atomIncw _ a _ _ _ => pairOk st a
  | .atomCas _ a b _ _ => pairOk st a && evenReg b
  | .fenceView s => devOrWider s
  | .stmx d a b _ => runOk d 2 && evenReg a && evenReg b
  | .pf a _ => evenReg a
  | .vopen d a _ => pairOk st a && pairOk st d
  | .vcommit a _ _ => pairOk st a
  | .vquery d a => pairOk st a && pairOk st d
  | .vretire a _ => pairOk st a
  | .movsr _ n => decide (n.toNat < 23)
  | .movrs _ n => n == 19#6 || n == 21#6
  | .rkset a _ => pairOk st a
  | .mma d _ _ _ _ => tileOk d
  | .mmag d a _ _ _ => tileOk d && runOk a 2
  | .tzero d _ | .tld d _ _ | .tst d _ | .tscal d _ => tileOk d
  | .tadd d a b => tileOk d && tileOk a && tileOk b
  | .drain d a b _ _ _ => tileOk d && runOk a 2 && runOk b 2
  | .cpyTload d a b _ _ | .cpyTstore d a b _ _ | .cpyTaddf d a b _ _ | .cpyGather d a b _ _ | .cpyPubl d a b _ _
  | .cpyPull d a b _ _ => cpyOk st false d a b
  | .cpyLinr d a b _ _ => cpyOk st true d a b
  | .fabRwrite _ a _ | .fabRread _ a _ | .fabRadd _ a _ | .fabRatom _ a _ | .fabMcast _ a _ | .fabSend _ a _ _
  | .fabRecv _ a _ _ => runOk a 4
  | .emit _ b | .emitw _ _ b => runOk b 8
  | _ => true

end Sys2Proof
end

