-- ==== Sys2Proof/Decode.lean ====
section
/-! DEFINITION. The decoder of an instruction word and, after it, the encoder (02_clauses_encoding.md R45, R46, R51–R54,
Tables 2-8 to 2-11). A word that names no instruction is rejected under the row of Table 2-11 that refuses it. Rows 1–3, 5
and 10 and the register constraints of row 8 need the clause, the stream or the machine and are checked where the word is
fetched and executed. -/

namespace Sys2Proof

/-- Why bytes are no instruction: a major never assigned (row 4), an unassigned function, condition, mode, rounding or
format code (row 6), a non-zero reserved field (row 7), a window or scope code (row 8), a MOVW whose literal is missing
(row 9), or fewer than four bytes. -/
inductive Reject where
  | major | unassigned | reserved | operand | literal | short
  deriving DecidableEq, Repr

/-- The row of Table 2-11 that reports the rejection. -/
def Reject.row : Reject → Nat
  | .major => 4
  | .unassigned => 6
  | .reserved => 7
  | .operand => 8
  | .literal => 9
  | .short => 9

/-! ### Fields of a word (Table 2-8) -/

def majOf (w : Word) : BitVec 6 := w.extractLsb' 26 6
def dOf (w : Word) : Reg := w.extractLsb' 20 6
def aOf (w : Word) : Reg := w.extractLsb' 14 6
def bOf (w : Word) : Reg := w.extractLsb' 8 6
def fnOf (w : Word) : BitVec 8 := w.extractLsb' 0 8
def immOf (w : Word) : BitVec 14 := w.extractLsb' 0 14

/-! ### Codes of fields (R46) -/

def sizeOf2 (c : BitVec 2) : Size :=
  if c = 0#2 then .byte else if c = 1#2 then .half else if c = 2#2 then .word else .wide

def winOf (c : BitVec 3) : Option Win :=
  if c = 0#3 then some .global else if c = 1#3 then some .spad else if c = 2#3 then some .gsm
  else if c = 3#3 then some .csp else if c = 4#3 then some .priv else none

def scopeOf (c : BitVec 3) : Option Scope :=
  if c = 0#3 then some .plot else if c = 1#3 then some .pav else if c = 2#3 then some .grove
  else if c = 3#3 then some .dev else if c = 4#3 then some .pod else if c = 5#3 then some .sys else none

def rmOf (c : BitVec 2) : Rm := if c = 0#2 then .rne else if c = 1#2 then .rz else if c = 2#2 then .rd else .ru

def cvtRndOf (c : BitVec 2) : CvtRnd := if c = 0#2 then .rne else if c = 1#2 then .rz else if c = 2#2 then .sr else .rd

def icondOf (c : BitVec 3) : Option ICond :=
  if c = 0#3 then some .eq else if c = 1#3 then some .ne else if c = 2#3 then some .lts else if c = 3#3 then some .les
  else if c = 4#3 then some .ltz else if c = 5#3 then some .lez else if c = 6#3 then some .tst else none

def fcondOf (c : BitVec 3) : FCond :=
  if c = 0#3 then .eq else if c = 1#3 then .ne else if c = 2#3 then .lt else if c = 3#3 then .le
  else if c = 4#3 then .gt else if c = 5#3 then .ge else if c = 6#3 then .un else .ord

def tagOf (c : BitVec 4) : Option Tag :=
  if c = 0#4 then some .raw else if c = 1#4 then some .s32 else if c = 2#4 then some .z32 else if c = 3#4 then some .f32
  else if c = 4#4 then some .bf16x2 else if c = 5#4 then some .f16x2 else if c = 6#4 then some .e4m3x4
  else if c = 7#4 then some .e5m2x4 else if c = 8#4 then some .e2m1x8 else if c = 9#4 then some .e8m0x4
  else if c = 10#4 then some .s8x4 else if c = 11#4 then some .f32p else if c = 12#4 then some .mxq else none

def ldvOf (c : BitVec 3) : Option LdvMode :=
  if c = 0#3 then some .newest else if c = 1#3 then some .exact else if c = 2#3 then some .nowait else none

def drainModeOf (c : BitVec 2) : Option DrainMode :=
  if c = 0#2 then some .store else if c = 1#2 then some .add else if c = 2#2 then some .storez else none

def drainRndOf (c : BitVec 2) : Option DrainRnd :=
  if c = 0#2 then some .rne else if c = 1#2 then some .rz else if c = 2#2 then some .sr else none

def drainDstOf (c : BitVec 4) : Option DrainDst :=
  if c = 1#4 then some .s32 else if c = 3#4 then some .f32 else if c = 4#4 then some .bf16x2
  else if c = 5#4 then some .f16x2 else none

def pairOf (c : BitVec 4) : Option Pair := if h : c.toNat < 9 then some ⟨c.toNat, h⟩ else none

/-! ### Decoding -/

abbrev Dec := Except Reject Instr

/-- The instruction when its reserved fields are zero (row 7). -/
def whenZero (zero : Bool) (i : Instr) : Dec := if zero then .ok i else .error .reserved

/-- The instruction with the scope its field names (row 8). -/
def withScope (c : BitVec 3) (f : Scope → Instr) : Dec :=
  match scopeOf c with
  | some s => .ok (f s)
  | none => .error .operand

def decodeIop (d a b : Reg) (fn : BitVec 8) : Dec :=
  match fn.toNat with
  | 0 => .ok (.add d a b)
  | 1 => .ok (.sub d a b)
  | 2 => .ok (.mul d a b)
  | 3 => .ok (.mulhs d a b)
  | 4 => .ok (.mulhz d a b)
  | 5 => .ok (.andR d a b)
  | 6 => .ok (.orR d a b)
  | 7 => .ok (.xorR d a b)
  | 8 => .ok (.andn d a b)
  | 9 => .ok (.shl d a b)
  | 10 => .ok (.shr d a b)
  | 11 => .ok (.sra d a b)
  | 12 => .ok (.rol d a b)
  | 13 => .ok (.mins d a b)
  | 14 => .ok (.maxs d a b)
  | 15 => .ok (.minz d a b)
  | 16 => .ok (.maxz d a b)
  | 17 => .ok (.absd d a b)
  | 18 => whenZero (b == 0#6) (.popc d a)
  | 19 => whenZero (b == 0#6) (.clz d a)
  | 20 => whenZero (b == 0#6) (.brev d a)
  | 21 => .ok (.addsat d a b)
  | 22 => .ok (.subsat d a b)
  | 23 => .ok (.bfx d a b)
  | 24 => .ok (.bfi d a b)
  | 25 => .ok (.selF0 d a b)
  | 26 => .ok (.selF1 d a b)
  | 27 => .ok (.selF2 d a b)
  | 28 => .ok (.selF3 d a b)
  | _ => .error .unassigned

def decodeShfi (d a : Reg) (imm : BitVec 14) : Dec :=
  let n : BitVec 6 := imm.extractLsb' 0 6
  let k : BitVec 2 := imm.extractLsb' 6 2
  let z : Bool := (imm.extractLsb' 8 6 : BitVec 6) == 0#6
  if k = 0#2 then whenZero z (.shfiShl d a n)
  else if k = 1#2 then whenZero z (.shfiShr d a n)
  else if k = 2#2 then whenZero z (.shfiSra d a n)
  else whenZero z (.shfiRol d a n)

/-- The flag named by D[1:0] where D[5:2] must be zero. -/
def flagField (r : Reg) : BitVec 2 := r.extractLsb' 0 2
def flagZero (r : Reg) : Bool := (r.extractLsb' 2 4 : BitVec 4) == 0#4

def decodeIcmp (d a b : Reg) (fn : BitVec 8) : Dec :=
  if (fn.extractLsb' 3 5 : BitVec 5) = 0#5 then
    match icondOf (fn.extractLsb' 0 3) with
    | some c => whenZero (flagZero d) (.icmp (flagField d) c a b)
    | none => .error .unassigned
  else .error .unassigned

def decodeIcmpi (d a : Reg) (imm : BitVec 14) : Dec :=
  match icondOf (imm.extractLsb' 11 3) with
  | some c => whenZero (flagZero d) (.icmpi (flagField d) c a (imm.extractLsb' 0 11))
  | none => .error .unassigned

def decodeFcmp (d a b : Reg) (fn : BitVec 8) : Dec :=
  if (fn.extractLsb' 3 5 : BitVec 5) = 0#5 then
    whenZero (flagZero d) (.fcmp (flagField d) (fcondOf (fn.extractLsb' 0 3)) a b)
  else .error .unassigned

def decodeFop (d a b : Reg) (fn : BitVec 8) : Dec :=
  let r := rmOf (fn.extractLsb' 0 2)
  let r0 : Bool := (fn.extractLsb' 0 2 : BitVec 2) == 0#2
  let b0 : Bool := b == 0#6
  match (fn.extractLsb' 2 6 : BitVec 6).toNat with
  | 0 => .ok (.fadd d a b r)
  | 1 => .ok (.fsub d a b r)
  | 2 => .ok (.fmul d a b r)
  | 3 => whenZero r0 (.fmin d a b)
  | 4 => whenZero r0 (.fmax d a b)
  | 5 => whenZero r0 (.fminn d a b)
  | 6 => whenZero r0 (.fmaxn d a b)
  | 7 => whenZero (r0 && b0) (.fabs d a)
  | 8 => whenZero (r0 && b0) (.fneg d a)
  | 9 => whenZero r0 (.fcpys d a b)
  | 10 => whenZero b0 (.fsqrt d a r)
  | 11 => whenZero b0 (.frcp d a r)
  | 12 => whenZero b0 (.frsq d a r)
  | 13 => whenZero b0 (.fexp2 d a r)
  | 14 => whenZero b0 (.flog2 d a r)
  | 15 => .ok (.faddX2 d a b r)
  | 16 => .ok (.fmulX2 d a b r)
  | 17 => .ok (.faddP2 d a b r)
  | 18 => .ok (.fmulP2 d a b r)
  | 19 => whenZero (r0 && b0) (.fclass d a)
  | _ => .error .unassigned

def decodeCvt (d a b : Reg) (fn : BitVec 8) : Dec :=
  let r := cvtRndOf (fn.extractLsb' 2 2)
  if (fn.extractLsb' 1 1 : BitVec 1) = 0#1 then
    match tagOf (fn.extractLsb' 4 4) with
    | some .raw => .error .unassigned
    | some t => whenZero (r == .sr || b == 0#6) (.cvt d a b t r (fn.getLsbD 0))
    | none => .error .unassigned
  else .error .unassigned

/-- The tag operations (04_lane_arithmetic.md R103): a TAGGET reserves its format code. [DESIGN CHOICE: log entry 140] -/
def decodeTag (d a b : Reg) (fn : BitVec 8) : Dec :=
  let op : BitVec 4 := fn.extractLsb' 4 4
  let code : BitVec 4 := fn.extractLsb' 0 4
  if op = 0#4 then
    match tagOf code with
    | some t => whenZero (b == 0#6) (.tagset d a t)
    | none => .error .unassigned
  else if op = 1#4 then whenZero (code == 0#4 && b == 0#6) (.tagget d a)
  else if op = 2#4 then
    match tagOf code with
    | some t => whenZero (d == 0#6 && b == 0#6) (.tagchk a t)
    | none => .error .unassigned
  else .error .unassigned

def decodeXln (d a b : Reg) (fn : BitVec 8) : Dec :=
  let b0 : Bool := b == 0#6
  match fn.toNat with
  | 0 => .ok (.shfl d a b)
  | 1 => .ok (.shflx d a b)
  | 2 => .ok (.shflu d a b)
  | 3 => .ok (.shfld d a b)
  | 4 => whenZero (flagZero a && b0) (.ballot d (flagField a))
  | 5 => whenZero (flagZero d && flagZero a && b0) (.anyF (flagField d) (flagField a))
  | 6 => whenZero (flagZero d && flagZero a && b0) (.allF (flagField d) (flagField a))
  | 7 => whenZero b0 (.redadd d a)
  | 8 => whenZero b0 (.redmaxs d a)
  | 9 => whenZero b0 (.redfadd d a)
  | 10 => whenZero b0 (.scanadd d a)
  | 11 => .ok (.mxqE2m1 d a b)
  | 12 => .ok (.mxqE4m3 d a b)
  | 13 => .ok (.mxqE5m2 d a b)
  | 14 => .ok (.mxdq d a b)
  | 15 => whenZero (b.getLsbD 5 == false) (.bcast d a (b.extractLsb' 0 5))
  | _ => .error .unassigned

def decodeMem (w : Word) (f : Reg → Reg → Size → Win → Scope → BitVec 6 → Instr) : Dec :=
  match winOf (w.extractLsb' 9 3), scopeOf (w.extractLsb' 6 3) with
  | some win, some s => .ok (f (dOf w) (aOf w) (sizeOf2 (w.extractLsb' 12 2)) win s (w.extractLsb' 0 6))
  | _, _ => .error .operand

def decodeLdv (d a b : Reg) (fn : BitVec 8) : Dec :=
  match ldvOf (fn.extractLsb' 0 3) with
  | some m => withScope (fn.extractLsb' 3 3) (fun s => .ldv d a b (sizeOf2 (fn.extractLsb' 6 2)) s m)
  | none => .error .unassigned

def decodeAtom (d a b : Reg) (fn : BitVec 8) : Dec :=
  let o := fn.getLsbD 3
  let sc : BitVec 3 := fn.extractLsb' 0 3
  match (fn.extractLsb' 4 4 : BitVec 4).toNat with
  | 0 => withScope sc (fun s => .atomAdd d a b o s)
  | 1 => withScope sc (fun s => .atomAnd d a b o s)
  | 2 => withScope sc (fun s => .atomOr d a b o s)
  | 3 => withScope sc (fun s => .atomXor d a b o s)
  | 4 => withScope sc (fun s => .atomMins d a b o s)
  | 5 => withScope sc (fun s => .atomMaxs d a b o s)
  | 6 => withScope sc (fun s => .atomMinz d a b o s)
  | 7 => withScope sc (fun s => .atomMaxz d a b o s)
  | 8 => withScope sc (fun s => .atomXchg d a b o s)
  | 9 => withScope sc (fun s => .atomCas d a b o s)
  | 10 => withScope sc (fun s => .atomFadd d a b o s)
  | 11 => withScope sc (fun s => .atomIncw d a b o s)
  | _ => .error .unassigned

def decodeFence (d a b : Reg) (fn : BitVec 8) : Dec :=
  if d = 0#6 ∧ a = 0#6 ∧ b = 0#6 ∧ (fn.extractLsb' 5 3 : BitVec 3) = 0#3 then
    let k : BitVec 2 := fn.extractLsb' 3 2
    withScope (fn.extractLsb' 0 3) (fun s =>
      if k = 0#2 then .fenceFull s else if k = 1#2 then .fenceAcq s else if k = 2#2 then .fenceRel s else .fenceView s)
  else .error .reserved

def decodeStmx (d a b : Reg) (fn : BitVec 8) : Dec :=
  if (fn.extractLsb' 3 5 : BitVec 5) = 0#5 then withScope (fn.extractLsb' 0 3) (fun s => .stmx d a b s)
  else .error .reserved

def decodePf (d a b : Reg) (fn : BitVec 8) : Dec :=
  if fn.getLsbD 1 = true then .error .unassigned
  else whenZero (d == 0#6 && b == 0#6 && (fn.extractLsb' 2 6 : BitVec 6) == 0#6) (.pf a (fn.getLsbD 0))

def decodeVer (d a b : Reg) (fn : BitVec 8) : Dec :=
  let op : BitVec 2 := fn.extractLsb' 0 2
  let sc : BitVec 3 := fn.extractLsb' 2 3
  let hi : Bool := (fn.extractLsb' 5 3 : BitVec 3) == 0#3
  if op = 0#2 then whenZero (hi && sc == 0#3) (.vopen d a b)
  else if op = 1#2 then
    if hi = true ∧ d = 0#6 then withScope sc (fun s => .vcommit a b s) else .error .reserved
  else if op = 2#2 then whenZero (hi && sc == 0#3 && b == 0#6) (.vquery d a)
  else whenZero (hi && sc == 0#3 && d == 0#6) (.vretire a b)

def decodeBranch (w : Word) (f : Cond → BitVec 22 → Instr) : Dec :=
  let c : BitVec 2 := w.extractLsb' 24 2
  let fl : BitVec 2 := w.extractLsb' 22 2
  let o : BitVec 22 := w.extractLsb' 0 22
  if c = 0#2 then whenZero (fl == 0#2) (f .always o)
  else if c = 1#2 then .ok (f (.ifSet fl) o)
  else if c = 2#2 then .ok (f (.ifClear fl) o)
  else .error .unassigned

def decodeJr (d a b : Reg) (fn : BitVec 8) : Dec :=
  let z : Bool := d == 0#6 && b == 0#6
  match fn.toNat with
  | 0 => whenZero z (.jr a)
  | 1 => whenZero (z && a == 0#6) .ret
  | 2 => whenZero z (.callr a)
  | _ => .error .unassigned

def decodeWait (w : Word) : Dec :=
  whenZero ((w.extractLsb' 0 10 : BitVec 10) == 0#10)
    (.wait (w.extractLsb' 22 4) (w.extractLsb' 18 4) (w.extractLsb' 14 4) (w.extractLsb' 10 4))

def decodeCtl (d a b : Reg) (fn : BitVec 8) : Dec :=
  let d0 : Bool := d == 0#6
  let a0 : Bool := a == 0#6
  let b0 : Bool := b == 0#6
  match fn.toNat with
  | 0 => whenZero (d0 && a0 && b0) .yield
  | 1 => whenZero (d0 && a0 && b0) .exit
  | 2 => whenZero (d0 && a0 && (b.extractLsb' 4 2 : BitVec 2) == 0#2) (.join (b.extractLsb' 0 4))
  | 3 => whenZero (d0 && a0 && b0) .leave
  | 4 => whenZero (d0 && a0 && b0) .rdv
  | 5 => whenZero (d0 && b0) (.spawn a)
  | 6 => whenZero d0 (.reorder a b)
  | 7 => whenZero (a0 && b0) (.popq d)
  | 8 => whenZero (a0 && b0) (.peekq d)
  | 9 => whenZero (d0 && b0) (.pushq a)
  | 10 => whenZero a0 (.movsr d b)
  | 11 => whenZero d0 (.movrs a b)
  | 12 => whenZero (d0 && a0 && b0) .nop
  | _ => .error .unassigned

def decodeBar (d a b : Reg) (fn : BitVec 8) : Dec :=
  let n : BitVec 4 := fn.extractLsb' 0 4
  let d0 : Bool := d == 0#6
  let a0 : Bool := a == 0#6
  let b0 : Bool := b == 0#6
  match (fn.extractLsb' 4 4 : BitVec 4).toNat with
  | 0 => whenZero (d0 && b0) (.barInit a n)
  | 1 => whenZero (a0 && b0) (.barArrive d n)
  | 2 => whenZero (a0 && b0) (.barWait d n)
  | 3 => whenZero (a0 && b0) (.barSync d n)
  | 4 => whenZero (d0 && a0 && b0) (.barInval n)
  | 5 => whenZero (a0 && b0) (.barQuery d n)
  | _ => .error .unassigned

def decodeAwt (d a b : Reg) (fn : BitVec 8) : Dec :=
  let d0 : Bool := d == 0#6
  let b0 : Bool := b == 0#6
  match fn.toNat with
  | 0 => whenZero d0 (.ainit a b)
  | 1 => .ok (.await d a b)
  | 2 => whenZero d0 (.aadd a b)
  | 3 => whenZero b0 (.rinit d a)
  | 4 => whenZero b0 (.rwaitf d a)
  | 5 => whenZero (d0 && b0) (.rrel a)
  | 6 => whenZero b0 (.rstat d a)
  | _ => .error .unassigned

def decodeSysi (d a b : Reg) (fn : BitVec 8) : Dec :=
  let d0 : Bool := d == 0#6
  let a0 : Bool := a == 0#6
  let b0 : Bool := b == 0#6
  match fn.toNat with
  | 0 => whenZero (d0 && a0) (.trap b)
  | 1 => whenZero (d0 && a0) (.brk b)
  | 2 => whenZero (d0 && a0 && b0) .eret
  | 3 => whenZero (d0 && flagZero b) (.rkset a (flagField b))
  | 4 => whenZero (d0 && a0 && b0) .ud
  | _ => .error .unassigned

def decodeMma (fn : BitVec 8) (f : Pair → BitVec 4 → Instr) : Dec :=
  match pairOf (fn.extractLsb' 4 4) with
  | some p => .ok (f p (fn.extractLsb' 0 4))
  | none => .error .unassigned

/-- The format B names in TZERO and TLD (Table 5-6). -/
def mtlFmtOf (b : Reg) : Option Bool := if b = 3#6 then some true else if b = 1#6 then some false else none

def decodeMtl (d a b : Reg) (fn : BitVec 8) : Dec :=
  match fn.toNat with
  | 0 =>
    match mtlFmtOf b with
    | some f => whenZero (a == 0#6) (.tzero d f)
    | none => .error .unassigned
  | 1 =>
    match mtlFmtOf b with
    | some f => .ok (.tld d a f)
    | none => .error .unassigned
  | 2 => whenZero (b == 0#6) (.tst d a)
  | 3 => whenZero (b == 0#6) (.tscal d a)
  | 4 => .ok (.tadd d a b)
  | _ => .error .unassigned

def decodeDrain (d a b : Reg) (fn : BitVec 8) : Dec :=
  match drainModeOf (fn.extractLsb' 6 2), drainRndOf (fn.extractLsb' 4 2), drainDstOf (fn.extractLsb' 0 4) with
  | some m, some r, some t => .ok (.drain d a b m r t)
  | _, _, _ => .error .unassigned

def decodeCpy (d a b : Reg) (fn : BitVec 8) : Dec :=
  let l := fn.getLsbD 3
  let sc : BitVec 3 := fn.extractLsb' 0 3
  match (fn.extractLsb' 4 4 : BitVec 4).toNat with
  | 0 => withScope sc (fun s => .cpyTload d a b l s)
  | 1 => withScope sc (fun s => .cpyTstore d a b l s)
  | 2 => withScope sc (fun s => .cpyTaddf d a b l s)
  | 3 => withScope sc (fun s => .cpyLinr d a b l s)
  | 4 => withScope sc (fun s => .cpyGather d a b l s)
  | 5 => withScope sc (fun s => .cpyPubl d a b l s)
  | 6 => withScope sc (fun s => .cpyPull d a b l s)
  | _ => .error .unassigned

def decodeFab (d a b : Reg) (fn : BitVec 8) : Dec :=
  let l := fn.getLsbD 3
  let z : Bool := (fn.extractLsb' 0 3 : BitVec 3) == 0#3
  let b0 : Bool := b == 0#6
  match (fn.extractLsb' 4 4 : BitVec 4).toNat with
  | 0 => whenZero (z && b0) (.fabRwrite d a l)
  | 1 => whenZero (z && b0) (.fabRread d a l)
  | 2 => whenZero (z && b0) (.fabRadd d a l)
  | 3 => whenZero (z && b0) (.fabRatom d a l)
  | 4 => whenZero (z && b0) (.fabMcast d a l)
  | 5 => whenZero z (.fabSend d a b l)
  | 6 => whenZero z (.fabRecv d a b l)
  | 7 => whenZero (z && b0 && d == 0#6 && a == 0#6) (.fabRfence l)
  | _ => .error .unassigned

def decodeColl (d a b : Reg) (fn : BitVec 8) : Dec :=
  let d0 : Bool := d == 0#6
  let b0 : Bool := b == 0#6
  match fn.toNat with
  | 0 => .ok (.copen d a b)
  | 1 => .ok (.contrib d a b)
  | 2 => whenZero b0 (.cwait d a)
  | 3 => whenZero b0 (.cstat d a)
  | 4 => whenZero (d0 && b0) (.cclose a)
  | 5 => whenZero (d0 && b0) (.crepost a)
  | _ => .error .unassigned

def decodeStep (d a b : Reg) (fn : BitVec 8) : Dec :=
  let b0 : Bool := b == 0#6
  match fn.toNat with
  | 0 => whenZero b0 (.sadv d a)
  | 1 => whenZero b0 (.swait d a)
  | 2 => .ok (.speer d a b)
  | 3 => whenZero b0 (.smin d a)
  | 4 => .ok (.sabs d a b)
  | 5 => whenZero b0 (.slead d a)
  | _ => .error .unassigned

def decodeTrl (d a b : Reg) (fn : BitVec 8) : Dec :=
  match fn.toNat with
  | 0 => whenZero (d == 0#6) (.emit a b)
  | 1 => .ok (.emitw d a b)
  | 2 => whenZero (b == 0#6) (.qstat d a)
  | 3 => whenZero (b == 0#6) (.depth d a)
  | _ => .error .unassigned

/-- One instruction from its first word and, for MOVW, the word after it (R52, R53). [DEDUCED: log entry 29] -/
def decodeWord (w : Word) (lit : Option Word) : Dec :=
  let d := dOf w
  let a := aOf w
  let b := bOf w
  let fn := fnOf w
  match (majOf w).toNat with
  | 0x01 => decodeIop d a b fn
  | 0x02 => .ok (.addi d a (immOf w))
  | 0x03 => .ok (.andi d a (immOf w))
  | 0x04 => .ok (.ori d a (immOf w))
  | 0x05 => .ok (.xori d a (immOf w))
  | 0x06 => decodeShfi d a (immOf w)
  | 0x07 => .ok (.movh d (w.extractLsb' 0 20))
  | 0x08 =>
    if a = 0#6 ∧ immOf w = 0#14 then
      match lit with
      | some l => .ok (.movw d l)
      | none => .error .literal
    else .error .reserved
  | 0x09 => decodeIcmp d a b fn
  | 0x0A => decodeIcmpi d a (immOf w)
  | 0x0B => decodeFop d a b fn
  | 0x0C => .ok (.fma d a b (fn.extractLsb' 2 6) (rmOf (fn.extractLsb' 0 2)))
  | 0x0D => .ok (.fms d a b (fn.extractLsb' 2 6) (rmOf (fn.extractLsb' 0 2)))
  | 0x0E => .ok (.fnma d a b (fn.extractLsb' 2 6) (rmOf (fn.extractLsb' 0 2)))
  | 0x0F => .ok (.fmaX2 d a b (fn.extractLsb' 2 6) (rmOf (fn.extractLsb' 0 2)))
  | 0x10 => .ok (.fmaP2 d a b (fn.extractLsb' 2 6) (rmOf (fn.extractLsb' 0 2)))
  | 0x11 => decodeFcmp d a b fn
  | 0x12 => decodeCvt d a b fn
  | 0x13 => decodeTag d a b fn
  | 0x14 => decodeXln d a b fn
  | 0x15 => decodeMem w .ld
  | 0x16 => decodeMem w .lda
  | 0x17 => decodeMem w .ldi
  | 0x18 => decodeMem w .st
  | 0x19 => decodeMem w .stl
  | 0x1A => decodeLdv d a b fn
  | 0x1B => decodeAtom d a b fn
  | 0x1C => decodeFence d a b fn
  | 0x1D => decodeStmx d a b fn
  | 0x1E => decodePf d a b fn
  | 0x1F => decodeVer d a b fn
  | 0x20 => decodeBranch w .br
  | 0x21 => decodeBranch w .brx
  | 0x22 => decodeBranch w .call
  | 0x23 => decodeJr d a b fn
  | 0x24 => decodeWait w
  | 0x25 => decodeCtl d a b fn
  | 0x26 => decodeBar d a b fn
  | 0x27 => decodeAwt d a b fn
  | 0x28 => decodeSysi d a b fn
  | 0x30 => decodeMma fn (.mma d a b)
  | 0x31 => decodeMma fn (.mmag d a b)
  | 0x32 => decodeMtl d a b fn
  | 0x33 => decodeDrain d a b fn
  | 0x34 => decodeCpy d a b fn
  | 0x35 => decodeFab d a b fn
  | 0x36 => decodeColl d a b fn
  | 0x37 => decodeStep d a b fn
  | 0x38 => decodeTrl d a b fn
  | _ => .error .major

/-- Four bytes, lowest address first (R6). -/
def wordOfBytes (b0 b1 b2 b3 : Byte) : Word := b3 ++ b2 ++ b1 ++ b0

/-- Whether a word's major takes a literal (R53). -/
def takesLiteral (w : Word) : Bool := majOf w == 0x08#6

/-- The decoder on bytes as they lie in the code object: the instruction and the bytes after it. -/
def decode (bytes : List Byte) : Except Reject (Instr × List Byte) :=
  match bytes with
  | b0 :: b1 :: b2 :: b3 :: rest =>
    let w := wordOfBytes b0 b1 b2 b3
    if takesLiteral w then
      match rest with
      | c0 :: c1 :: c2 :: c3 :: rest' =>
        match decodeWord w (some (wordOfBytes c0 c1 c2 c3)) with
        | .ok i => .ok (i, rest')
        | .error e => .error e
      | _ =>
        match decodeWord w none with
        | .ok i => .ok (i, rest)
        | .error e => .error e
    else
      match decodeWord w none with
      | .ok i => .ok (i, rest)
      | .error e => .error e
  | _ => .error .short

/-- The bytes of a number, lowest first. -/
def leBytes (v : Nat) : Nat → List Byte
  | 0 => []
  | n + 1 => BitVec.ofNat 8 v :: leBytes (v / 256) n

/-- The instruction the decoder reads from a word of nbits bits, numbered as spec/opcode_table.json numbers them; the
bits above nbits are zero, up to the longest instruction (MOVW and its literal, 64 bits). -/
def decodeTableWord (nbits w : Nat) : Option Instr :=
  match decode (leBytes (w % 2 ^ nbits) 8) with
  | .ok (i, _) => some i
  | .error _ => none

/-! ### Encoding (Tables 2-8 and 2-10) -/

def fmtA (maj d a b : BitVec 6) (fn : BitVec 8) : Word := maj ++ d ++ a ++ b ++ fn
def fmtI (maj d a : BitVec 6) (imm : BitVec 14) : Word := maj ++ d ++ a ++ imm
def fmtW (maj d : BitVec 6) (imm : BitVec 20) : Word := maj ++ d ++ imm
def fmtM (maj d a : BitVec 6) (z : BitVec 2) (w s : BitVec 3) (o : BitVec 6) : Word := maj ++ d ++ a ++ z ++ w ++ s ++ o
def fmtB (maj : BitVec 6) (c : BitVec 4) (o : BitVec 22) : Word := maj ++ c ++ o
def fmtT (maj : BitVec 6) (ld st cp tl : BitVec 4) : Word := maj ++ ld ++ st ++ cp ++ tl ++ 0#10

def boolBit (b : Bool) : BitVec 1 := if b then 1#1 else 0#1
def sizeCode : Size → BitVec 2
  | .byte => 0#2
  | .half => 1#2
  | .word => 2#2
  | .wide => 3#2
def winCode : Win → BitVec 3
  | .global => 0#3
  | .spad => 1#3
  | .gsm => 2#3
  | .csp => 3#3
  | .priv => 4#3
def scopeCode : Scope → BitVec 3
  | .plot => 0#3
  | .pav => 1#3
  | .grove => 2#3
  | .dev => 3#3
  | .pod => 4#3
  | .sys => 5#3
def rmCode : Rm → BitVec 2
  | .rne => 0#2
  | .rz => 1#2
  | .rd => 2#2
  | .ru => 3#2
def cvtCode : CvtRnd → BitVec 2
  | .rne => 0#2
  | .rz => 1#2
  | .sr => 2#2
  | .rd => 3#2
def icondCode : ICond → BitVec 3
  | .eq => 0#3
  | .ne => 1#3
  | .lts => 2#3
  | .les => 3#3
  | .ltz => 4#3
  | .lez => 5#3
  | .tst => 6#3
def fcondCode : FCond → BitVec 3
  | .eq => 0#3
  | .ne => 1#3
  | .lt => 2#3
  | .le => 3#3
  | .gt => 4#3
  | .ge => 5#3
  | .un => 6#3
  | .ord => 7#3
def tagBits : Tag → BitVec 4
  | .raw => 0#4
  | .s32 => 1#4
  | .z32 => 2#4
  | .f32 => 3#4
  | .bf16x2 => 4#4
  | .f16x2 => 5#4
  | .e4m3x4 => 6#4
  | .e5m2x4 => 7#4
  | .e2m1x8 => 8#4
  | .e8m0x4 => 9#4
  | .s8x4 => 10#4
  | .f32p => 11#4
  | .mxq => 12#4
def ldvCode : LdvMode → BitVec 3
  | .newest => 0#3
  | .exact => 1#3
  | .nowait => 2#3
def condBits : Cond → BitVec 4
  | .always => 0#4
  | .ifSet f => 1#2 ++ f
  | .ifClear f => 2#2 ++ f
def mtlFmt (f32 : Bool) : Reg := if f32 then 3#6 else 1#6
def drainModeCode : DrainMode → BitVec 2
  | .store => 0#2
  | .add => 1#2
  | .storez => 2#2
def drainRndCode : DrainRnd → BitVec 2
  | .rne => 0#2
  | .rz => 1#2
  | .sr => 2#2
def drainDstCode : DrainDst → BitVec 4
  | .s32 => 1#4
  | .f32 => 3#4
  | .bf16x2 => 4#4
  | .f16x2 => 5#4

/-- The words of an instruction; an event has none. -/
def encode : Instr → List Word
  | .add d a b => [fmtA 0x01#6 d a b 0x00#8]
  | .sub d a b => [fmtA 0x01#6 d a b 0x01#8]
  | .mul d a b => [fmtA 0x01#6 d a b 0x02#8]
  | .mulhs d a b => [fmtA 0x01#6 d a b 0x03#8]
  | .mulhz d a b => [fmtA 0x01#6 d a b 0x04#8]
  | .andR d a b => [fmtA 0x01#6 d a b 0x05#8]
  | .orR d a b => [fmtA 0x01#6 d a b 0x06#8]
  | .xorR d a b => [fmtA 0x01#6 d a b 0x07#8]
  | .andn d a b => [fmtA 0x01#6 d a b 0x08#8]
  | .shl d a b => [fmtA 0x01#6 d a b 0x09#8]
  | .shr d a b => [fmtA 0x01#6 d a b 0x0A#8]
  | .sra d a b => [fmtA 0x01#6 d a b 0x0B#8]
  | .rol d a b => [fmtA 0x01#6 d a b 0x0C#8]
  | .mins d a b => [fmtA 0x01#6 d a b 0x0D#8]
  | .maxs d a b => [fmtA 0x01#6 d a b 0x0E#8]
  | .minz d a b => [fmtA 0x01#6 d a b 0x0F#8]
  | .maxz d a b => [fmtA 0x01#6 d a b 0x10#8]
  | .absd d a b => [fmtA 0x01#6 d a b 0x11#8]
  | .popc d a => [fmtA 0x01#6 d a 0#6 0x12#8]
  | .clz d a => [fmtA 0x01#6 d a 0#6 0x13#8]
  | .brev d a => [fmtA 0x01#6 d a 0#6 0x14#8]
  | .addsat d a b => [fmtA 0x01#6 d a b 0x15#8]
  | .subsat d a b => [fmtA 0x01#6 d a b 0x16#8]
  | .bfx d a b => [fmtA 0x01#6 d a b 0x17#8]
  | .bfi d a b => [fmtA 0x01#6 d a b 0x18#8]
  | .selF0 d a b => [fmtA 0x01#6 d a b 0x19#8]
  | .selF1 d a b => [fmtA 0x01#6 d a b 0x1A#8]
  | .selF2 d a b => [fmtA 0x01#6 d a b 0x1B#8]
  | .selF3 d a b => [fmtA 0x01#6 d a b 0x1C#8]
  | .addi d a i => [fmtI 0x02#6 d a i]
  | .andi d a i => [fmtI 0x03#6 d a i]
  | .ori d a i => [fmtI 0x04#6 d a i]
  | .xori d a i => [fmtI 0x05#6 d a i]
  | .shfiShl d a n => [fmtI 0x06#6 d a (0#6 ++ 0#2 ++ n)]
  | .shfiShr d a n => [fmtI 0x06#6 d a (0#6 ++ 1#2 ++ n)]
  | .shfiSra d a n => [fmtI 0x06#6 d a (0#6 ++ 2#2 ++ n)]
  | .shfiRol d a n => [fmtI 0x06#6 d a (0#6 ++ 3#2 ++ n)]
  | .movh d i => [fmtW 0x07#6 d i]
  | .movw d lit => [fmtI 0x08#6 d 0#6 0#14, lit]
  | .icmp f c a b => [fmtA 0x09#6 (0#4 ++ f) a b (0#5 ++ icondCode c)]
  | .icmpi f c a i => [fmtI 0x0A#6 (0#4 ++ f) a (icondCode c ++ i)]
  | .fadd d a b r => [fmtA 0x0B#6 d a b (0#6 ++ rmCode r)]
  | .fsub d a b r => [fmtA 0x0B#6 d a b (1#6 ++ rmCode r)]
  | .fmul d a b r => [fmtA 0x0B#6 d a b (2#6 ++ rmCode r)]
  | .fmin d a b => [fmtA 0x0B#6 d a b (3#6 ++ 0#2)]
  | .fmax d a b => [fmtA 0x0B#6 d a b (4#6 ++ 0#2)]
  | .fminn d a b => [fmtA 0x0B#6 d a b (5#6 ++ 0#2)]
  | .fmaxn d a b => [fmtA 0x0B#6 d a b (6#6 ++ 0#2)]
  | .fabs d a => [fmtA 0x0B#6 d a 0#6 (7#6 ++ 0#2)]
  | .fneg d a => [fmtA 0x0B#6 d a 0#6 (8#6 ++ 0#2)]
  | .fcpys d a b => [fmtA 0x0B#6 d a b (9#6 ++ 0#2)]
  | .fsqrt d a r => [fmtA 0x0B#6 d a 0#6 (10#6 ++ rmCode r)]
  | .frcp d a r => [fmtA 0x0B#6 d a 0#6 (11#6 ++ rmCode r)]
  | .frsq d a r => [fmtA 0x0B#6 d a 0#6 (12#6 ++ rmCode r)]
  | .fexp2 d a r => [fmtA 0x0B#6 d a 0#6 (13#6 ++ rmCode r)]
  | .flog2 d a r => [fmtA 0x0B#6 d a 0#6 (14#6 ++ rmCode r)]
  | .faddX2 d a b r => [fmtA 0x0B#6 d a b (15#6 ++ rmCode r)]
  | .fmulX2 d a b r => [fmtA 0x0B#6 d a b (16#6 ++ rmCode r)]
  | .faddP2 d a b r => [fmtA 0x0B#6 d a b (17#6 ++ rmCode r)]
  | .fmulP2 d a b r => [fmtA 0x0B#6 d a b (18#6 ++ rmCode r)]
  | .fclass d a => [fmtA 0x0B#6 d a 0#6 (19#6 ++ 0#2)]
  | .fma d a b c r => [fmtA 0x0C#6 d a b (c ++ rmCode r)]
  | .fms d a b c r => [fmtA 0x0D#6 d a b (c ++ rmCode r)]
  | .fnma d a b c r => [fmtA 0x0E#6 d a b (c ++ rmCode r)]
  | .fmaX2 d a b c r => [fmtA 0x0F#6 d a b (c ++ rmCode r)]
  | .fmaP2 d a b c r => [fmtA 0x10#6 d a b (c ++ rmCode r)]
  | .fcmp f c a b => [fmtA 0x11#6 (0#4 ++ f) a b (0#5 ++ fcondCode c)]
  | .cvt d a b t r s => [fmtA 0x12#6 d a b (tagBits t ++ cvtCode r ++ 0#1 ++ boolBit s)]
  | .tagset d a c => [fmtA 0x13#6 d a 0#6 (0#4 ++ tagBits c)]
  | .tagget d a => [fmtA 0x13#6 d a 0#6 0x10#8]
  | .tagchk a c => [fmtA 0x13#6 0#6 a 0#6 (2#4 ++ tagBits c)]
  | .shfl d a b => [fmtA 0x14#6 d a b 0x00#8]
  | .shflx d a b => [fmtA 0x14#6 d a b 0x01#8]
  | .shflu d a b => [fmtA 0x14#6 d a b 0x02#8]
  | .shfld d a b => [fmtA 0x14#6 d a b 0x03#8]
  | .ballot d f => [fmtA 0x14#6 d (0#4 ++ f) 0#6 0x04#8]
  | .anyF g f => [fmtA 0x14#6 (0#4 ++ g) (0#4 ++ f) 0#6 0x05#8]
  | .allF g f => [fmtA 0x14#6 (0#4 ++ g) (0#4 ++ f) 0#6 0x06#8]
  | .redadd d a => [fmtA 0x14#6 d a 0#6 0x07#8]
  | .redmaxs d a => [fmtA 0x14#6 d a 0#6 0x08#8]
  | .redfadd d a => [fmtA 0x14#6 d a 0#6 0x09#8]
  | .scanadd d a => [fmtA 0x14#6 d a 0#6 0x0A#8]
  | .mxqE2m1 d a b => [fmtA 0x14#6 d a b 0x0B#8]
  | .mxqE4m3 d a b => [fmtA 0x14#6 d a b 0x0C#8]
  | .mxqE5m2 d a b => [fmtA 0x14#6 d a b 0x0D#8]
  | .mxdq d a b => [fmtA 0x14#6 d a b 0x0E#8]
  | .bcast d a l => [fmtA 0x14#6 d a (0#1 ++ l) 0x0F#8]
  | .ld d a z w s o => [fmtM 0x15#6 d a (sizeCode z) (winCode w) (scopeCode s) o]
  | .lda d a z w s o => [fmtM 0x16#6 d a (sizeCode z) (winCode w) (scopeCode s) o]
  | .ldi d a z w s o => [fmtM 0x17#6 d a (sizeCode z) (winCode w) (scopeCode s) o]
  | .st d a z w s o => [fmtM 0x18#6 d a (sizeCode z) (winCode w) (scopeCode s) o]
  | .stl d a z w s o => [fmtM 0x19#6 d a (sizeCode z) (winCode w) (scopeCode s) o]
  | .ldv d a b z s m => [fmtA 0x1A#6 d a b (sizeCode z ++ scopeCode s ++ ldvCode m)]
  | .atomAdd d a b o s => [fmtA 0x1B#6 d a b (0#4 ++ boolBit o ++ scopeCode s)]
  | .atomAnd d a b o s => [fmtA 0x1B#6 d a b (1#4 ++ boolBit o ++ scopeCode s)]
  | .atomOr d a b o s => [fmtA 0x1B#6 d a b (2#4 ++ boolBit o ++ scopeCode s)]
  | .atomXor d a b o s => [fmtA 0x1B#6 d a b (3#4 ++ boolBit o ++ scopeCode s)]
  | .atomMins d a b o s => [fmtA 0x1B#6 d a b (4#4 ++ boolBit o ++ scopeCode s)]
  | .atomMaxs d a b o s => [fmtA 0x1B#6 d a b (5#4 ++ boolBit o ++ scopeCode s)]
  | .atomMinz d a b o s => [fmtA 0x1B#6 d a b (6#4 ++ boolBit o ++ scopeCode s)]
  | .atomMaxz d a b o s => [fmtA 0x1B#6 d a b (7#4 ++ boolBit o ++ scopeCode s)]
  | .atomXchg d a b o s => [fmtA 0x1B#6 d a b (8#4 ++ boolBit o ++ scopeCode s)]
  | .atomCas d a b o s => [fmtA 0x1B#6 d a b (9#4 ++ boolBit o ++ scopeCode s)]
  | .atomFadd d a b o s => [fmtA 0x1B#6 d a b (10#4 ++ boolBit o ++ scopeCode s)]
  | .atomIncw d a b o s => [fmtA 0x1B#6 d a b (11#4 ++ boolBit o ++ scopeCode s)]
  | .fenceFull s => [fmtA 0x1C#6 0#6 0#6 0#6 (0#3 ++ 0#2 ++ scopeCode s)]
  | .fenceAcq s => [fmtA 0x1C#6 0#6 0#6 0#6 (0#3 ++ 1#2 ++ scopeCode s)]
  | .fenceRel s => [fmtA 0x1C#6 0#6 0#6 0#6 (0#3 ++ 2#2 ++ scopeCode s)]
  | .fenceView s => [fmtA 0x1C#6 0#6 0#6 0#6 (0#3 ++ 3#2 ++ scopeCode s)]
  | .stmx d a b s => [fmtA 0x1D#6 d a b (0#5 ++ scopeCode s)]
  | .pf a l => [fmtA 0x1E#6 0#6 a 0#6 (0#7 ++ boolBit l)]
  | .vopen d a b => [fmtA 0x1F#6 d a b 0x00#8]
  | .vcommit a b s => [fmtA 0x1F#6 0#6 a b (0#3 ++ scopeCode s ++ 1#2)]
  | .vquery d a => [fmtA 0x1F#6 d a 0#6 0x02#8]
  | .vretire a b => [fmtA 0x1F#6 0#6 a b 0x03#8]
  | .br c o => [fmtB 0x20#6 (condBits c) o]
  | .brx c o => [fmtB 0x21#6 (condBits c) o]
  | .call c o => [fmtB 0x22#6 (condBits c) o]
  | .jr a => [fmtA 0x23#6 0#6 a 0#6 0x00#8]
  | .ret => [fmtA 0x23#6 0#6 0#6 0#6 0x01#8]
  | .callr a => [fmtA 0x23#6 0#6 a 0#6 0x02#8]
  | .wait ld st cp tl => [fmtT 0x24#6 ld st cp tl]
  | .yield => [fmtA 0x25#6 0#6 0#6 0#6 0x00#8]
  | .exit => [fmtA 0x25#6 0#6 0#6 0#6 0x01#8]
  | .join c => [fmtA 0x25#6 0#6 0#6 (0#2 ++ c) 0x02#8]
  | .leave => [fmtA 0x25#6 0#6 0#6 0#6 0x03#8]
  | .rdv => [fmtA 0x25#6 0#6 0#6 0#6 0x04#8]
  | .spawn a => [fmtA 0x25#6 0#6 a 0#6 0x05#8]
  | .reorder a k => [fmtA 0x25#6 0#6 a k 0x06#8]
  | .popq d => [fmtA 0x25#6 d 0#6 0#6 0x07#8]
  | .peekq d => [fmtA 0x25#6 d 0#6 0#6 0x08#8]
  | .pushq a => [fmtA 0x25#6 0#6 a 0#6 0x09#8]
  | .movsr d n => [fmtA 0x25#6 d 0#6 n 0x0A#8]
  | .movrs a n => [fmtA 0x25#6 0#6 a n 0x0B#8]
  | .nop => [fmtA 0x25#6 0#6 0#6 0#6 0x0C#8]
  | .barInit a n => [fmtA 0x26#6 0#6 a 0#6 (0#4 ++ n)]
  | .barArrive d n => [fmtA 0x26#6 d 0#6 0#6 (1#4 ++ n)]
  | .barWait d n => [fmtA 0x26#6 d 0#6 0#6 (2#4 ++ n)]
  | .barSync d n => [fmtA 0x26#6 d 0#6 0#6 (3#4 ++ n)]
  | .barInval n => [fmtA 0x26#6 0#6 0#6 0#6 (4#4 ++ n)]
  | .barQuery d n => [fmtA 0x26#6 d 0#6 0#6 (5#4 ++ n)]
  | .ainit a b => [fmtA 0x27#6 0#6 a b 0x00#8]
  | .await d a b => [fmtA 0x27#6 d a b 0x01#8]
  | .aadd a b => [fmtA 0x27#6 0#6 a b 0x02#8]
  | .rinit d a => [fmtA 0x27#6 d a 0#6 0x03#8]
  | .rwaitf d a => [fmtA 0x27#6 d a 0#6 0x04#8]
  | .rrel a => [fmtA 0x27#6 0#6 a 0#6 0x05#8]
  | .rstat d a => [fmtA 0x27#6 d a 0#6 0x06#8]
  | .trap n => [fmtA 0x28#6 0#6 0#6 n 0x00#8]
  | .brk n => [fmtA 0x28#6 0#6 0#6 n 0x01#8]
  | .eret => [fmtA 0x28#6 0#6 0#6 0#6 0x02#8]
  | .rkset a i => [fmtA 0x28#6 0#6 a (0#4 ++ i) 0x03#8]
  | .ud => [fmtA 0x28#6 0#6 0#6 0#6 0x04#8]
  | .mma d a b p k => [fmtA 0x30#6 d a b (BitVec.ofNat 4 p.val ++ k)]
  | .mmag d a b p k => [fmtA 0x31#6 d a b (BitVec.ofNat 4 p.val ++ k)]
  | .tzero d f => [fmtA 0x32#6 d 0#6 (mtlFmt f) 0x00#8]
  | .tld d a f => [fmtA 0x32#6 d a (mtlFmt f) 0x01#8]
  | .tst d a => [fmtA 0x32#6 d a 0#6 0x02#8]
  | .tscal d a => [fmtA 0x32#6 d a 0#6 0x03#8]
  | .tadd d a b => [fmtA 0x32#6 d a b 0x04#8]
  | .drain d a b m r t => [fmtA 0x33#6 d a b (drainModeCode m ++ drainRndCode r ++ drainDstCode t)]
  | .cpyTload d a b l s => [fmtA 0x34#6 d a b (0#4 ++ boolBit l ++ scopeCode s)]
  | .cpyTstore d a b l s => [fmtA 0x34#6 d a b (1#4 ++ boolBit l ++ scopeCode s)]
  | .cpyTaddf d a b l s => [fmtA 0x34#6 d a b (2#4 ++ boolBit l ++ scopeCode s)]
  | .cpyLinr d a b l s => [fmtA 0x34#6 d a b (3#4 ++ boolBit l ++ scopeCode s)]
  | .cpyGather d a b l s => [fmtA 0x34#6 d a b (4#4 ++ boolBit l ++ scopeCode s)]
  | .cpyPubl d a b l s => [fmtA 0x34#6 d a b (5#4 ++ boolBit l ++ scopeCode s)]
  | .cpyPull d a b l s => [fmtA 0x34#6 d a b (6#4 ++ boolBit l ++ scopeCode s)]
  | .fabRwrite d a l => [fmtA 0x35#6 d a 0#6 (0#4 ++ boolBit l ++ 0#3)]
  | .fabRread d a l => [fmtA 0x35#6 d a 0#6 (1#4 ++ boolBit l ++ 0#3)]
  | .fabRadd d a l => [fmtA 0x35#6 d a 0#6 (2#4 ++ boolBit l ++ 0#3)]
  | .fabRatom d a l => [fmtA 0x35#6 d a 0#6 (3#4 ++ boolBit l ++ 0#3)]
  | .fabMcast d a l => [fmtA 0x35#6 d a 0#6 (4#4 ++ boolBit l ++ 0#3)]
  | .fabSend d a ch l => [fmtA 0x35#6 d a ch (5#4 ++ boolBit l ++ 0#3)]
  | .fabRecv d a ch l => [fmtA 0x35#6 d a ch (6#4 ++ boolBit l ++ 0#3)]
  | .fabRfence l => [fmtA 0x35#6 0#6 0#6 0#6 (7#4 ++ boolBit l ++ 0#3)]
  | .copen d a b => [fmtA 0x36#6 d a b 0x00#8]
  | .contrib d a b => [fmtA 0x36#6 d a b 0x01#8]
  | .cwait d a => [fmtA 0x36#6 d a 0#6 0x02#8]
  | .cstat d a => [fmtA 0x36#6 d a 0#6 0x03#8]
  | .cclose a => [fmtA 0x36#6 0#6 a 0#6 0x04#8]
  | .crepost a => [fmtA 0x36#6 0#6 a 0#6 0x05#8]
  | .sadv d a => [fmtA 0x37#6 d a 0#6 0x00#8]
  | .swait d a => [fmtA 0x37#6 d a 0#6 0x01#8]
  | .speer d a b => [fmtA 0x37#6 d a b 0x02#8]
  | .smin d a => [fmtA 0x37#6 d a 0#6 0x03#8]
  | .sabs d a b => [fmtA 0x37#6 d a b 0x04#8]
  | .slead d a => [fmtA 0x37#6 d a 0#6 0x05#8]
  | .emit a b => [fmtA 0x38#6 0#6 a b 0x00#8]
  | .emitw d a b => [fmtA 0x38#6 d a b 0x01#8]
  | .qstat d a => [fmtA 0x38#6 d a 0#6 0x02#8]
  | .depth d a => [fmtA 0x38#6 d a 0#6 0x03#8]
  | .bundleFormation _ => []
  | .agePromotion _ _ => []
  | .loadDataLands _ _ _ => []
  | .storePerformed _ _ _ => []
  | .rendezvousTimeout _ _ => []
  | .regrouperRelease _ _ => []
  | .exileWaitExpiry _ _ => []
  | .regrouperMove _ => []
  | .reorderTimeout _ => []
  | .trapDelivery _ _ => []
  | .launchCompletion _ => []
  | .plotPlacement _ _ => []
  | .doorbell _ _ _ => []
  | .packetNop _ _ => []
  | .launch _ _ => []
  | .trellis _ _ => []
  | .signal _ _ => []
  | .waitsig _ _ => []
  | .waitsigPoll _ _ => []
  | .bufdep _ _ => []
  | .viewreg _ _ => []
  | .viewRemoveEffect _ => []
  | .verreg _ _ => []
  | .collreg _ _ => []
  | .rkinit _ _ => []
  | .repair _ _ => []
  | .budgetPeriod _ => []
  | .queueAgeExpiry _ _ => []
  | .stageGroupStart _ _ _ _ => []
  | .emitwTimeout _ _ => []
  | .trellisCompletion _ => []
  | .runaheadLimit _ => []
  | .plotPark _ => []
  | .pageRequestResponse _ _ _ => []
  | .plotReturn _ _ => []
  | .atsTranslationCompletion _ _ => []
  | .atsInvalidateRequest _ _ _ _ _ => []
  | .invalidateCompletion _ => []
  | .copyChunkDelivered _ _ _ => []
  | .matrixOpComplete _ => []
  | .rwriteRequest _ _ _ => []
  | .rreadRequest _ _ _ => []
  | .raddRequest _ _ _ _ => []
  | .ratomRequest _ _ _ _ _ _ => []
  | .mcastRequest _ _ _ => []
  | .sendMessage _ _ _ => []
  | .relayForward _ _ _ => []
  | .fabricReply _ _ _ => []
  | .receiverNotReadyReply _ _ => []
  | .closedReply _ _ => []
  | .requestRetryTimeout _ => []
  | .backoffExpiry _ => []
  | .dedupMemoryExpiry _ _ _ => []
  | .contributionChunk _ _ _ => []
  | .quorumTimerExpiry _ _ => []
  | .imageChunk _ _ _ _ => []
  | .shortMessage _ _ _ => []
  | .collEmitRetry _ _ => []
  | .linkLevelRetry _ => []
  | .portFailure _ => []
  | .stepMessage _ _ => []
  | .presenceSend _ => []
  | .presenceMessage _ => []
  | .silenceTimerExpiry _ _ => []
  | .resyncAnswer _ _ => []
  | .versionWaitTimeout _ _ => []
  | .claim _ _ _ _ => []
  | .ctxWrite _ _ => []
  | .ctxResident _ _ => []
  | .ctxFlags _ _ => []
  | .ctxRemove _ _ => []
  | .queueWrite _ _ => []
  | .imageLoad _ _ => []
  | .liveUpdate _ _ => []
  | .liveUpdateSwitch => []
  | .failover _ _ => []
  | .statement _ _ => []
  | .handoverResetComplete => []
  | .identityLoad _ _ => []
  | .stage _ _ => []
  | .heartbeat => []
  | .takeoverTimeout => []
  | .lodgeFailureReport => []
  | .powerCapWrite _ _ => []
  | .budgetWrite _ _ _ => []
  | .portRetrain _ _ _ => []
  | .registerWrite _ _ _ => []
  | .thermalSample _ => []
  | .portEventResend _ => []
  | .scrub _ _ _ _ => []
  | .moduleReset => []
  | .standbyPower => []
  | .getVersion _ => []
  | .getCapabilities _ => []
  | .negotiateAlgorithms _ _ => []
  | .getDigests _ => []
  | .getCertificate _ _ => []
  | .challenge _ _ _ => []
  | .getMeasurements _ _ => []
  | .keyExchange _ _ => []
  | .finish _ _ => []
  | .endSession _ => []
  | .spdmUnsupportedRequest _ _ => []
  | .pldmSensorRequest _ _ => []
  | .illegalEncoding _ _ => []
  | .unknownOpPacket _ _ => []
  | .deviceMemoryBarAccess _ _ _ => []
  | .portTrainingComplete _ => []
  | .mainPowerOn => []
/-- The bytes of a word, lowest address first (R6). -/
def bytesOfWord (w : Word) : List Byte :=
  [w.extractLsb' 0 8, w.extractLsb' 8 8, w.extractLsb' 16 8, w.extractLsb' 24 8]

/-- The bytes of an instruction as they lie in a code object. -/
def encodeBytes (i : Instr) : List Byte := (encode i).flatMap bytesOfWord

end Sys2Proof
end

