-- ==== Sys2Proof/Machine/Num.lean ====
section
/-! DEFINITION. Number formats, rounding, the Lemfy generator and MX blocks (03_number_formats.md R60–R77). Every value is
kept exact as a sign, a natural magnitude and a power of two until the one rounding its rule names. -/

namespace Sys2Proof.Machine

/-- Floating-point flags in the layout of Table 2-7: NV, DZ, OF, UF, NX from bit 4 down. -/
abbrev Fl := BitVec 5

def Fl.nv : Fl := 16#5
def Fl.dz : Fl := 8#5
def Fl.of : Fl := 4#5
def Fl.uf : Fl := 2#5
def Fl.nx : Fl := 1#5

/-- The flag `f` when `b` holds, and no flag otherwise. -/
def Fl.when (b : Bool) (f : Fl) : Fl := if b then f else 0#5

/-- Rounding modes of RoundToFormat (R67). -/
inductive Mode where
  | rne | rz | rd | ru | sr
  deriving DecidableEq, Repr

def Mode.ofRm : Rm → Mode
  | .rne => .rne
  | .rz => .rz
  | .rd => .rd
  | .ru => .ru

def Mode.ofCvt : CvtRnd → Mode
  | .rne => .rne
  | .rz => .rz
  | .sr => .sr
  | .rd => .rd

/-- An element value: a NaN, an infinity, or ± m × 2^e exactly (m = 0 is a zero, which keeps its sign). -/
inductive FVal where
  | nan (signalling : Bool)
  | inf (neg : Bool)
  | fin (neg : Bool) (m : Nat) (e : Int)
  deriving DecidableEq, Repr

/-- A floating-point element format (Table 3-1): fraction bits, bias, sign bit position, the magnitude codes of the
largest finite value, of infinity where there is one, and of the canonical NaN; magnitudes above `nanAbove` are NaN. -/
structure Fmt where
  mb : Nat
  bias : Nat
  sign : Nat
  maxCode : Nat
  infCode : Option Nat
  nanCode : Nat
  nanAbove : Nat
  deriving DecidableEq, Repr

def Fmt.fp32 : Fmt := ⟨23, 127, 31, 0x7F7FFFFF, some 0x7F800000, 0x7FC00000, 0x7F800000⟩
def Fmt.bf16 : Fmt := ⟨7, 127, 15, 0x7F7F, some 0x7F80, 0x7FC0, 0x7F80⟩
def Fmt.f16 : Fmt := ⟨10, 15, 15, 0x7BFF, some 0x7C00, 0x7E00, 0x7C00⟩
def Fmt.e5m2 : Fmt := ⟨2, 15, 7, 0x7B, some 0x7C, 0x7E, 0x7C⟩
def Fmt.e4m3 : Fmt := ⟨3, 7, 7, 0x7E, none, 0x7F, 0x7E⟩
def Fmt.e2m1 : Fmt := ⟨1, 1, 3, 7, none, 0, 7⟩

/-- The exponent of the format's least quantum: its subnormals are multiples of 2^qmin (R61). -/
def Fmt.qmin (f : Fmt) : Int := 1 - (f.bias : Int) - (f.mb : Int)

/-- The value of a code (R61); an FP32 NaN whose bit 22 is 0 is signalling (04_lane_arithmetic.md, before R93). -/
def Fmt.value (f : Fmt) (code : Nat) : FVal :=
  let neg := code.testBit f.sign
  let mag := code % 2 ^ f.sign
  if f.nanAbove < mag then .nan (f.sign == 31 && !(code.testBit 22))
  else if f.infCode = some mag then .inf neg
  else
    let ex := mag >>> f.mb
    let fr := mag % 2 ^ f.mb
    if ex = 0 then .fin neg fr f.qmin
    else .fin neg (fr + 2 ^ f.mb) (f.qmin + ((ex : Int) - 1))

def fp32Value (w : Word) : FVal := Fmt.fp32.value w.toNat

/-- A rounded magnitude: its code, unbounded above, whether rounding changed it, and whether the exact value was tiny. -/
structure Rounded where
  code : Nat
  inexact : Bool
  tiny : Bool
  deriving DecidableEq, Repr

/-- Whether a positive fraction rem / 2^s (plus something below one unit of rem when `sticky`) rounds the magnitude up
(R67, `up`); `odd` is LowCodeBitOdd, `neg` the sign of y. -/
def roundsUp (mode : Mode) (neg odd : Bool) (rem s : Nat) (sticky : Bool) (r : Word) : Bool :=
  match mode with
  | .rne => decide (2 ^ s < 2 * rem) || (decide (2 * rem = 2 ^ s) && (sticky || odd))
  | .rz => false
  | .rd => neg
  | .ru => !neg
  | .sr => decide (r.toNat < (rem * 2 ^ 32) >>> s)

/-- RoundToFormat (R67) on y = ± m × 2^e, m > 0; with `sticky`, |y| lies strictly between m × 2^e and (m + 1) × 2^e. The
exponent range is unbounded above; overflow is decided afterwards. -/
def roundMag (f : Fmt) (mode : Mode) (neg : Bool) (m : Nat) (e : Int) (sticky : Bool) (r : Word) : Rounded :=
  let top : Int := (m.log2 : Int) + e
  let q : Int := max (top - (f.mb : Int)) f.qmin
  let sh : Int := q - e
  let base : Nat := (q - f.qmin).toNat * 2 ^ f.mb
  let tiny : Bool := decide (top < 1 - (f.bias : Int))
  if sh ≤ 0 then
    let lo := base + m * 2 ^ (-sh).toNat
    let up := sticky && roundsUp mode neg (lo % 2 == 1) 0 1 true r
    ⟨if up then lo + 1 else lo, sticky, tiny⟩
  else
    let s := sh.toNat
    let rem := m % 2 ^ s
    let lo := base + m / 2 ^ s
    if rem = 0 ∧ sticky = false then ⟨lo, false, tiny⟩
    else
      let up := roundsUp mode neg (lo % 2 == 1) rem s sticky r
      ⟨if up then lo + 1 else lo, true, tiny⟩

/-- Table 3-6: whether an overflowing result goes away from zero in this mode. -/
def overflowAway (mode : Mode) (neg : Bool) : Bool :=
  match mode with
  | .rne => true
  | .sr => true
  | .rz => false
  | .rd => neg
  | .ru => !neg

/-- The sign bit of a code of the format. -/
def Fmt.signed (f : Fmt) (neg : Bool) (mag : Nat) : Nat := if neg then 2 ^ f.sign + mag else mag

/-- Table 3-6: the code an overflow or an infinite input delivers when it goes away from zero. -/
def Fmt.beyond (f : Fmt) (neg : Bool) : Nat :=
  match f.infCode with
  | some c => f.signed neg c
  | none => if f.nanCode = 0 then f.signed neg f.maxCode else f.nanCode

/-- R69: the code that an overflow delivers. -/
def Fmt.overflowed (f : Fmt) (mode : Mode) (neg satf : Bool) : Nat :=
  if satf then f.signed neg f.maxCode
  else if overflowAway mode neg then f.beyond neg
  else f.signed neg f.maxCode

/-- R66, R67, R69 on a finite non-zero magnitude: the code delivered and the flags set. -/
def Fmt.roundFin (f : Fmt) (mode : Mode) (satf : Bool) (neg : Bool) (m : Nat) (e : Int) (sticky : Bool) (r : Word) :
    Nat × Fl :=
  let q := roundMag f mode neg m e sticky r
  if f.maxCode < q.code then (f.overflowed mode neg satf, Fl.of ||| Fl.nx)
  else (f.signed neg q.code, Fl.when q.inexact Fl.nx ||| Fl.when (q.inexact && q.tiny) Fl.uf)

/-- R69 on an infinite input: away from zero in every mode, or the SATF column. A finite or NaN result sets NV. -/
def Fmt.ofInf (f : Fmt) (satf neg : Bool) : Nat × Fl :=
  if satf then (f.signed neg f.maxCode, Fl.nv)
  else (f.beyond neg, Fl.when f.infCode.isNone Fl.nv)

/-- RoundToFormat and Table 3-6 on any value. A NaN gives the canonical NaN with no flag here; whether it sets NV is the
operation's own rule. -/
def Fmt.round (f : Fmt) (mode : Mode) (satf : Bool) (r : Word) : FVal → Nat × Fl
  | .nan _ => (f.nanCode, 0#5)
  | .inf neg => f.ofInf satf neg
  | .fin neg m e => if m = 0 then (f.signed neg 0, 0#5) else f.roundFin mode satf neg m e false r

/-- One rounding to FP32 (R93, R96). -/
def roundFp32 (mode : Mode) (v : FVal) : Word × Fl :=
  let p := Fmt.fp32.round mode false 0#32 v
  (BitVec.ofNat 32 p.1, p.2)

def canonicalNaN32 : Word := 0x7FC00000#32

/-! ### Exact arithmetic on element values -/

def FVal.isNaN : FVal → Bool
  | .nan _ => true
  | _ => false

def FVal.isSNaN : FVal → Bool
  | .nan s => s
  | _ => false

def FVal.isInf : FVal → Bool
  | .inf _ => true
  | _ => false

def FVal.isZero : FVal → Bool
  | .fin _ m _ => m == 0
  | _ => false

/-- The sign of a value that is no NaN. -/
def FVal.neg : FVal → Bool
  | .nan _ => false
  | .inf n => n
  | .fin n _ _ => n

def FVal.negate : FVal → FVal
  | .nan s => .nan s
  | .inf n => .inf (!n)
  | .fin n m e => .fin (!n) m e

/-- The signed numerator of a finite value over 2^e0, for e0 at most its exponent. -/
def signedAt (neg : Bool) (m : Nat) (e e0 : Int) : Int :=
  let k : Nat := m * 2 ^ (e - e0).toNat
  if neg then -(k : Int) else (k : Int)

/-- An exact signed multiple of 2^e as a value; zero takes the sign given. -/
def FVal.ofInt (i : Int) (e : Int) (zeroNeg : Bool) : FVal :=
  if i = 0 then .fin zeroNeg 0 0 else .fin (decide (i < 0)) i.natAbs e

/-- The sign of an exact zero sum of x and w (R65, R98): theirs when they agree as zeros, otherwise − under RD only. -/
def zeroSumNeg (mode : Mode) (x w : FVal) : Bool :=
  if x.isZero && w.isZero && (x.neg == w.neg) then x.neg else decide (mode = .rd)

/-- The exact sum; `.nan false` for a NaN operand and for ∞ − ∞. -/
def FVal.add (mode : Mode) (x w : FVal) : FVal :=
  match x, w with
  | .nan s, .nan t => .nan (s || t)
  | .nan s, _ => .nan s
  | _, .nan t => .nan t
  | .inf n, .inf k => if n == k then .inf n else .nan false
  | .inf n, _ => .inf n
  | _, .inf k => .inf k
  | .fin n m e, .fin n' m' e' =>
    let e0 := min e e'
    .ofInt (signedAt n m e e0 + signedAt n' m' e' e0) e0 (zeroSumNeg mode x w)

/-- The exact product; `.nan false` for a NaN operand and for 0 × ∞. -/
def FVal.mul (x w : FVal) : FVal :=
  match x, w with
  | .nan s, .nan t => .nan (s || t)
  | .nan s, _ => .nan s
  | _, .nan t => .nan t
  | .inf n, .inf k => .inf (n != k)
  | .inf n, .fin k m _ => if m = 0 then .nan false else .inf (n != k)
  | .fin k m _, .inf n => if m = 0 then .nan false else .inf (n != k)
  | .fin n m e, .fin n' m' e' => .fin (n != n') (m * m') (e + e')

/-- The order of two values that are no NaN: −1, 0 or 1, with −0 = +0. -/
def FVal.cmp (x w : FVal) : Int :=
  match x, w with
  | .inf n, .inf k => if n == k then 0 else if n then -1 else 1
  | .inf n, _ => if n then -1 else 1
  | _, .inf k => if k then 1 else -1
  | .fin n m e, .fin n' m' e' =>
    let e0 := min e e'
    (signedAt n m e e0 - signedAt n' m' e' e0).sign
  | _, _ => 0

/-! ### Conversion into integers and scales -/

/-- The integer formats of R70. -/
inductive IntFmt where
  | s32 | z32 | s8
  deriving DecidableEq, Repr

def IntFmt.lo : IntFmt → Int
  | .s32 => -2147483648
  | .z32 => 0
  | .s8 => -128

def IntFmt.hi : IntFmt → Int
  | .s32 => 2147483647
  | .z32 => 4294967295
  | .s8 => 127

/-- R70, step 1: y = ± m × 2^e rounded to an integer, and whether that changed it. -/
def roundInt (mode : Mode) (neg : Bool) (m : Nat) (e : Int) (r : Word) : Int × Bool :=
  if 0 ≤ e then (signedAt neg m e 0, false)
  else
    let s := (-e).toNat
    let rem := m % 2 ^ s
    let lo := m / 2 ^ s
    let k := if rem ≠ 0 ∧ roundsUp mode neg (lo % 2 == 1) rem s false r = true then lo + 1 else lo
    (if neg then -(k : Int) else (k : Int), decide (rem ≠ 0))

/-- IntegerConvert (R70). [DEDUCED: log entry 104] -/
def integerConvert (f : IntFmt) (mode : Mode) (r : Word) : FVal → Int × Fl
  | .nan _ => (0, Fl.nv)
  | .inf neg => (if neg then f.lo else f.hi, Fl.nv)
  | .fin neg m e =>
    let p := roundInt mode neg m e r
    if p.1 < f.lo then (f.lo, Fl.nv)
    else if f.hi < p.1 then (f.hi, Fl.nv)
    else (p.1, Fl.when p.2 Fl.nx)

/-- ScaleConvert (R71): conversion into E8M0. [DEDUCED: log entry 105] -/
def scaleConvert (mode : Mode) (satf : Bool) (r : Word) : FVal → Nat × Fl
  | .nan _ => (0xFF, Fl.nv)
  | .inf neg => if neg then (0xFF, Fl.nv) else (if satf then 0xFE else 0xFF, Fl.nv)
  | .fin neg m e =>
    if m = 0 then (0, Fl.uf ||| Fl.nx)
    else if neg then (0xFF, Fl.nv)
    else
      let top : Int := (m.log2 : Int) + e
      if top < -127 then (0, Fl.uf ||| Fl.nx)
      else
        let s := m.log2
        let rem := m % 2 ^ s
        let lo : Nat := (top + 127).toNat
        let up := decide (rem ≠ 0) && roundsUp mode false (lo % 2 == 1) rem s false r
        let q := if up then lo + 1 else lo
        if 0xFE < q then
          (if satf then 0xFE else if overflowAway mode false then 0xFF else 0xFE, Fl.of ||| Fl.nx)
        else (q, Fl.when (decide (rem ≠ 0)) Fl.nx)

/-- The value of an E8M0 code (R61). -/
def e8m0Value (x : Nat) : FVal := if x = 0xFF then .nan false else .fin false 1 ((x : Int) - 127)

/-- An element value scaled by an E8M0 code (R75): NaN when the code is 0xFF or the element is NaN. -/
def scaledValue (scale : Nat) : FVal → FVal
  | .nan s => .nan s
  | .inf n => if scale = 0xFF then .nan false else .inf n
  | .fin n m e => if scale = 0xFF then .nan false else .fin n m (e + ((scale : Int) - 127))

/-! ### The Lemfy generator (R72) -/

def lemfyRound (x : DWord) : DWord :=
  let a := x ^^^ (x >>> 29)
  let b := a * 0xE7F3B2A1C9D58E13#64
  b ^^^ (b >>> 32)

/-- LemfyWord(K, salt, e) (R72). -/
def lemfyWord (k : DWord) (salt : Word) (e : DWord) : Word :=
  let x := k ^^^ (e * 0xA3B19C5D2E7F4861#64) ^^^ (salt.setWidth 64 * 0xD2C41A975B3E8F07#64)
  (lemfyRound (lemfyRound (lemfyRound x))).extractLsb' 32 32

/-! ### Packed registers (R63) -/

/-- How many elements one register of this tag holds. -/
def Tag.count : Tag → Nat
  | .bf16x2 | .f16x2 => 2
  | .e4m3x4 | .e5m2x4 | .s8x4 | .e8m0x4 => 4
  | .e2m1x8 => 8
  | _ => 1

/-- The width in bits of one element of a register of this tag. -/
def Tag.ebits (t : Tag) : Nat := 32 / Tag.count t

def Tag.code : Tag → Nat
  | .raw => 0
  | .s32 => 1
  | .z32 => 2
  | .f32 => 3
  | .bf16x2 => 4
  | .f16x2 => 5
  | .e4m3x4 => 6
  | .e5m2x4 => 7
  | .e2m1x8 => 8
  | .e8m0x4 => 9
  | .s8x4 => 10
  | .f32p => 11
  | .mxq => 12

/-- Element j of a packed register (Table 3-3). -/
def elemOf (t : Tag) (w : Word) (j : Nat) : Nat := (w.toNat >>> (Tag.ebits t * j)) % 2 ^ Tag.ebits t

/-- A packed register made of the given element codes, element 0 in the low bits. -/
def packElems (t : Tag) (l : List Nat) : Word :=
  BitVec.ofNat 32 (l.foldr (fun c acc => c % 2 ^ Tag.ebits t + acc * 2 ^ Tag.ebits t) 0)

/-! ### MX blocks (R75, R76) -/

/-- The element formats of an MX block. -/
inductive MxFmt where
  | e2m1 | e4m3 | e5m2
  deriving DecidableEq, Repr

def MxFmt.fmt : MxFmt → Fmt
  | .e2m1 => .e2m1
  | .e4m3 => .e4m3
  | .e5m2 => .e5m2

def MxFmt.tag : MxFmt → Tag
  | .e2m1 => .e2m1x8
  | .e4m3 => .e4m3x4
  | .e5m2 => .e5m2x4

def MxFmt.emax : MxFmt → Int
  | .e2m1 => 2
  | .e4m3 => 8
  | .e5m2 => 15

/-- ⌊log2⌋ of the greatest finite magnitude of a list, or none when every one is zero. -/
def maxLog2 : List FVal → Option Int
  | [] => none
  | .fin _ m e :: l =>
    let rest := maxLog2 l
    if m = 0 then rest
    else
      let t := (m.log2 : Int) + e
      match rest with
      | none => some t
      | some u => some (max t u)
  | _ :: l => maxLog2 l

/-- MxqBlock (R76): the scale code, the element codes and the flags. [DEDUCED: log entry 104] -/
def mxqBlock (f : MxFmt) (mode : Mode) (a : List (FVal × Word)) : Nat × List Nat × Fl :=
  if a.any (fun p => p.1.isNaN || p.1.isInf) then (0xFF, a.map (fun _ => f.fmt.nanCode), Fl.nv)
  else
    let x : Int :=
      match maxLog2 (a.map (·.1)) with
      | none => -127
      | some t => max (-127) (min 127 (t - f.emax))
    let q := a.map (fun p =>
      match p.1 with
      | .fin n m e => f.fmt.round mode true p.2 (.fin n m (e - x))
      | v => f.fmt.round mode true p.2 v)
    ((x + 127).toNat, q.map (·.1), q.foldl (fun acc p => acc ||| p.2) 0#5)

end Sys2Proof.Machine
end

