-- ==== Sys2Proof/Machine/Flags.lean ====
section
/-! DEFINITION. Every flag a compare computes: the integer conditions (04_lane_arithmetic.md R91, Table 4-7), the
floating-point conditions with the NV they set (R99, Table 4-13), and the class mask of FCLASS (R95). -/

namespace Sys2Proof.Machine

/-- Table 4-7: the flag ICMP and ICMPI write, on W-bit values. -/
def icond {w : Nat} (c : ICond) (a b : BitVec w) : Bool :=
  match c with
  | .eq => a == b
  | .ne => a != b
  | .lts => a.slt b
  | .les => a.sle b
  | .ltz => a.ult b
  | .lez => a.ule b
  | .tst => (a &&& b) != 0

/-- Table 4-13: the flag FCMP writes and the flags of srFPF it sets. -/
def fcond (c : FCond) (a b : Word) : Bool × Fl :=
  let x := fp32Value a
  let y := fp32Value b
  let un := x.isNaN || y.isNaN
  let sn := x.isSNaN || y.isSNaN
  let k := x.cmp y
  match c with
  | .eq => (!un && k == 0, Fl.when sn Fl.nv)
  | .ne => (un || k != 0, Fl.when sn Fl.nv)
  | .lt => (!un && decide (k < 0), Fl.when un Fl.nv)
  | .le => (!un && decide (k ≤ 0), Fl.when un Fl.nv)
  | .gt => (!un && decide (0 < k), Fl.when un Fl.nv)
  | .ge => (!un && decide (0 ≤ k), Fl.when un Fl.nv)
  | .un => (un, Fl.when sn Fl.nv)
  | .ord => (!un, Fl.when sn Fl.nv)

/-- The bit of the mask FCLASS sets for an FP32 code (R95). -/
def fclassBit (a : Word) : Nat :=
  match fp32Value a with
  | .nan s => if s then 8 else 9
  | .inf n => if n then 0 else 7
  | .fin n m _ =>
    if m = 0 then (if n then 3 else 4)
    else if m < 2 ^ 23 then (if n then 2 else 5)
    else (if n then 1 else 6)

/-- The 10-bit mask of FCLASS, with exactly one bit set (R95). -/
def fclassMask (a : Word) : Word := 1#32 <<< fclassBit a

/-- An ARITH condition: the flags the operation would set meet the enabled ones (R85). -/
def arithRaised (enabled fl : Fl) : Bool := (enabled &&& fl) != 0#5

/-- Flags ORed into srFPF (R44). -/
def orFlags (fpf : Word) (fl : Fl) : Word := fpf ||| fl.setWidth 32

end Sys2Proof.Machine
end

