-- ==== Sys2Proof/Config.lean ====
section
/-! DEFINITION. What an implementation fixes, and the values the spec leaves open: constants with no body, so that nothing
can prove a value of one. Each is named in the assumption log. -/

namespace Sys2Proof.Config

/-- The modules of the pod beyond the two it holds at least (10_fabric_collectives.md R244). [DESIGN CHOICE: log entry 16] -/
opaque podRest : Fin 15

/-- The number of modules of the pod, 2 to 16 (R244). [DESIGN CHOICE: log entry 16] -/
def podSize : Nat := podRest.val + 2

/-- This module among those of the pod (R244). [DESIGN CHOICE: log entry 16] -/
opaque index : Fin (podRest.val + 2)

/-- The number of this module in its pod, srMEMBER (R244). [DESIGN CHOICE: log entry 16] -/
def self : Fin 16 := ⟨index.val, Nat.lt_of_lt_of_le index.isLt (Nat.add_le_add_right (Nat.le_of_lt_succ podRest.isLt) 2)⟩

/-- The k-th random draw of a 64-bit nonce (15_isolation.md R365). [DESIGN CHOICE: log entry 7] -/
opaque nonce : Nat → BitVec 64

/-- A value the spec does not state, fresh for each count: the module power of Table 20-1, the result of a version operation on
an entry with an uncorrectable error (08_views_versions.md R206), srTVAL of the MCHK of a tile (05_matrix_engine.md R141), bytes
with uncorrectable errors that BAR2 reads. [DESIGN CHOICE: log entries 8, 21, 24, 25, 26] -/
opaque freeWord : Nat → BitVec 64

/-- What special registers 2–7, the coordinates and extent of a grid, read in a stage group, which has no grid (R43). [DESIGN CHOICE: log entry 20] -/
opaque stageGrid : Nat → BitVec 32

/-- Whether an ECDSA P-384 signature verifies, of the body under the key (R368, R370). [DESIGN CHOICE: log entry 17] -/
opaque ecdsaOk : Nat → List (BitVec 8) → List (BitVec 8) → Bool

/-- Whether an LMS signature verifies, of the body under the key (R368, R370). [DESIGN CHOICE: log entry 17] -/
opaque lmsOk : Nat → List (BitVec 8) → List (BitVec 8) → Bool

/-- Whether the ECDSA signature of a Genrik image or identity statement verifies under Waizel's key (R370). [DESIGN CHOICE: log entry 17] -/
opaque waizelEcdsaOk : List (BitVec 8) → Bool

/-- Whether the LMS signature of a Genrik image or identity statement verifies under Waizel's key (R370). [DESIGN CHOICE: log entry 17] -/
opaque waizelLmsOk : List (BitVec 8) → Bool

/-- The security version number in an image header (R371; the header's layout is not given). [DESIGN CHOICE: log entry 17] -/
opaque imageVersion : List (BitVec 8) → BitVec 16

/-- The schema of the lodge state table that an image writes (16_recovery.md Table 16-8). [DESIGN CHOICE: log entry 17] -/
opaque imageSchema : List (BitVec 8) → Nat

/-- Whether an image accepts a schema of the lodge state table (16_recovery.md R397). [DESIGN CHOICE: log entry 17] -/
opaque imageAccepts : List (BitVec 8) → Nat → Bool

/-- The owner policy an identity statement binds (R371; its layout is not given). [DESIGN CHOICE: log entry 17] -/
opaque identityPolicy : List (BitVec 8) → BitVec 2

/-- SHA-384 (R370, R373). [DESIGN CHOICE: log entry 17] -/
opaque sha384 : List (BitVec 8) → BitVec 384

/-- The digest of the boot ROM (Table 15-6). [DESIGN CHOICE: log entry 17] -/
opaque bootRomDigest : BitVec 384

/-- The content of the SPDM answers that no rule states, by request code, what the request carries and the module's answer count (R373).
[PRESUMED: log entry 18] [PRESUMED: log entry 18] -/
opaque spdmAnswer : Nat → Nat → Nat → BitVec 384

/-- Whether the verify data of a FINISH fits the session that a KEY_EXCHANGE began: by what each carries (R373). [DESIGN CHOICE: log entry 17] -/
opaque finishOk : Nat → Nat → Bool

/-- The cycles of its own clock that a lodge takes to take over (16_recovery.md R396). [DESIGN CHOICE: log entry 111] -/
opaque takeoverCycles : Nat

/-- Whether the channel of a master, by its class, can carry a port event at a cycle of the active lodge (20_package_management.md
R427). [DESIGN CHOICE: log entry 117] -/
opaque channelUp : Nat → Nat → Bool

/-- The HBM4 stack that holds a physical address (01_apnak_device.md R17: not architectural). [DESIGN CHOICE: log entry 15] -/
opaque stackOf : Nat → Fin 8

/-- The home slice and set of a line of 1,024 bytes of the L2, among the 1,024 slices with 16 sets each (R17: not architectural). [DESIGN CHOICE: log entry 22] -/
opaque l2Set : Nat → Fin 16384

/-- The set of a grove ATC, of 512, that an entry of a PASID and page may lie in (15_isolation.md Table 15-2). [DESIGN CHOICE: log entry 22] -/
opaque groveSet : Nat → Nat → Fin 512

/-- The slice, and the set in it, of the device ATC that an entry of a PASID and page may lie in: 1,024 slices of 128 sets, chosen by
a hash (R358). [DESIGN CHOICE: log entry 22] -/
opaque deviceSet : Nat → Nat → Fin 131072

/-- The physical address that the memory-error log and the header log carry for a byte of SPAD (kind 0), of CSP (kind 1) or an
element of a tile (kind 2); the spec gives those storages none (16_recovery.md R393). [DESIGN CHOICE: log entry 15] -/
opaque localAddress : Nat → Nat → Nat

/-- Whether the port from one module of the pod to another is live at a cycle, as this module learns it when it looks for a relay
(10_fabric_collectives.md R245): by the module, its peer and the cycle. [DESIGN CHOICE: log entry 75] -/
opaque peerLive : Nat → Nat → Nat → Bool

/-- Whether a byte of device memory, by its canonical address, lies in the record that the save reserve keeps of a plot (16_recovery.md
R388). [DESIGN CHOICE: log entry 137] -/
opaque saveArea : Nat → Nat → Bool

/-- Whether a load finds the bytes that an earlier LDI of its launch read (07_ordering_model.md R179). [DESIGN CHOICE: log entry 126] -/
opaque staleRead : Nat → Bool

/-- A word of SPAD that holds an uncorrectable error, as AWT words and completions read it (16_recovery.md R392 states no value). [DESIGN CHOICE: log entry 130] -/
opaque badSpad : Nat → BitVec 32

end Sys2Proof.Config
end

