-- ==== Sys2Proof/Machine/State.lean ====
section
/-! DEFINITION. The state of the module as plain data, the reasons a step can stop, and the state right after reset. Every
piece of state the spec gives the machine is here under the rule that names it; INVENTORY.md lists them. Fields that are
the model's own (which turn comes next, stamps of times, numbers of plots) say so. -/

namespace Sys2Proof.Machine

/-! ### Agents -/

/-- A v register: 32 bits and a format tag (02_clauses_encoding.md R41, R42). -/
structure VReg where
  val : Word
  tag : Tag
  deriving DecidableEq, Repr

def VReg.zero : VReg := ⟨0#32, .raw⟩

/-- Trap classes (Table 16-1), in delivery order. -/
inductive TrapClass where
  | mchk | illegal | format | cohort | range | busy | depth | stale | arith | trap | brk
  deriving DecidableEq, Repr

/-- A pending trap (16_recovery.md R375–R377): class, DETAIL, srTVAL, the offset srTPC receives, and whether it is delivered
as it was recorded, without the word being issued again. -/
structure Trap where
  cls : TrapClass
  detail : Nat
  tval : DWord
  pc : Word
  recorded : Bool
  deriving DecidableEq, Repr

/-- A storage space of a location (R162, Table 7-1): device memory by aperture address, host memory, SPAD and CSP bytes under a
flat number that names the part, a strand's PRIV window under a flat number that names the strand, and device memory by aperture
address where a strand's own path reaches it, past the L1. -/
inductive Space where
  | dev | host | spad | csp | priv | path
  deriving DecidableEq, Repr

/-- The first byte of an access: its space and address. -/
structure Loc where
  space : Space
  addr : Nat
  deriving DecidableEq, Repr

/-- Read-modify-write operations (Table 9-4). -/
inductive AtomOp where
  | add | and | or | xor | mins | maxs | minz | maxz | xchg | cas | fadd | incw
  deriving DecidableEq, Repr

/-- What a pending load does when it lands. -/
inductive LoadKind where
  | plain
  | invariant
  | cycles
  | versioned (region page slot : Nat)
  | atom (op : AtomOp) (b c : DWord)
  deriving DecidableEq, Repr

/-- A load, LDV, ATOM or MOVSR of srCYC whose destination is not yet written (11_strands_bundles.md R296, R297). `seq` is its
place in the agent's program order; `visit` the stay in a clause that issued it; `ea` the effective address MCHK reports. `parts`
gives the bytes by location; none for an access that reaches no memory (R195, R386). -/
structure PLoad where
  kind : LoadKind
  dst : Reg
  bytes : Nat
  pair : Bool
  handler : Bool
  parts : Option (List (Loc × Nat))
  ea : DWord
  scope : Scope
  acquire : Bool
  release : Bool
  mchk : Option (Nat × DWord)
  seq : Nat
  stamp : Nat
  lane : Nat
  visit : Nat
  itag : List Nat
  deriving DecidableEq, Repr

/-- A store not yet performed at its point of coherence (R296). `stamp` numbers the words the plot has issued and `lane` is the
home lane, for the order of R165; `itag` names the invalidations that wait for it (R362). -/
structure PStore where
  parts : List (Loc × List Byte)
  scope : Scope
  release : Bool
  seq : Nat
  stamp : Nat
  lane : Nat
  itag : List Nat
  deriving DecidableEq, Repr

/-- The clause an agent is in: the offset of its header and the header word (R33). -/
structure Clause where
  hpc : Word
  hw : Word
  deriving DecidableEq, Repr

/-- The scheduling state (Table 11-2). READY and HELD are both `waiting`: which of the two follows from the counts, a
pending trap and the overflow queue. -/
inductive Phase where
  | waiting | issuing | blocked | exiled | gathered | exited
  deriving DecidableEq, Repr

/-- What a BLOCKED agent waits for (Table 11-2, R36); an agent that stands at a SYNC keeps the token of its arrival (R316). -/
inductive Wait where
  | none
  | barrier (n : Nat) (d : Reg) (token : Word) (sync : Bool)
  | rendezvous
  | popq (d : Reg)
  | pushq
  | await (off : Nat) (target : Word)
  | ring (off : Nat)
  | version (name : DWord) (step : DWord) (opens : Bool) (exact : Bool)
  | emitw (a b : Reg) (limit : Nat)
  | collective (handle : Nat) (closes : Bool)
  | lead (group : Nat)
  | rfence
  deriving DecidableEq, Repr

/-- What strands and front threads share: the program counter, the scheduling state, the outstanding operations, the
handler-mode bit and the trap registers (R43, R270). `mchk` holds the MCHKs not yet raised and `later` those that were noted before
the agent entered handler mode. `since`, `blockedAt` and `visit`, the count of the clauses the agent has left, are the model's
own. -/
structure Agent where
  pc : Word
  clause : Option Clause
  phase : Phase
  wait : Wait
  since : Nat
  blockedAt : Nat
  yieldNext : Bool
  trap : Option Trap
  mchk : List (Nat × DWord)
  later : List (Nat × DWord)
  visit : Nat
  loads : List PLoad
  stores : List PStore
  seq : Nat
  handler : Bool
  tcause : Word
  tpc : Word
  tval : DWord
  deriving DecidableEq, Repr

/-- A strand (R270): registers, flags, its home slot, its cohort, and the counts its identity draws on (R273). `area` says which of
its plot's private areas is its own. -/
structure Strand where
  key : Nat
  sid : Word
  row : Nat
  lane : Nat
  cohort : Option (BitVec 4)
  regs : Vector VReg 64
  flags : Vector Bool 4
  spawned : Bool
  spawns : Nat
  depth : Nat
  sortKey : Word
  live : Nat
  area : Nat
  ag : Agent
  deriving DecidableEq, Repr

/-- The front thread of a plot (R272). -/
structure Front where
  regs : Vector DWord 64
  flags : Vector Bool 4
  depth : Nat
  ag : Agent
  deriving DecidableEq, Repr

/-! ### Plots -/

/-- A barrier (Table 12-6). -/
inductive BarState where
  | uninit | active | invalid
  deriving DecidableEq, Repr

structure Barrier where
  phase : Word
  state : BarState
  stray : Nat
  arrived : Nat
  expected : Nat
  deriving DecidableEq, Repr

/-- A frontier entry (R276): its address, age, the plot cycle of its promotion, and whether a yield lowers it (R283). -/
structure Entry where
  addr : Word
  age : Nat
  promoted : Option Nat
  yielded : Bool
  deriving DecidableEq, Repr

/-- A handler bank (R379). -/
structure Banks where
  lane : Vector VReg 8
  laneFlags : Vector Bool 4
  uni : Vector DWord 8
  uniFlags : Vector Bool 4
  deriving DecidableEq, Repr

/-- The part of a plot that run-ahead shadows and rollback restores (R381, R382). -/
structure Regs where
  strands : List Strand
  front : Front
  banks : Banks
  fpf : Word
  frontier : List Entry
  overflow : List Nat
  deriving DecidableEq, Repr

/-- The bytes of an engine operand: in a local space under the flat numbers of `Loc`, or by virtual address. [DEDUCED: log entry 49] -/
inductive Range where
  | local (sp : Space) (lo hi : Nat)
  | global (lo hi : Nat)
  deriving DecidableEq, Repr

/-- A range-lock entry (07_ordering_model.md R180): the context, the operation that holds it, whether it is a destination. -/
structure Lock where
  ctx : Nat
  plot : Nat
  op : Nat
  dst : Bool
  range : Range
  deriving DecidableEq, Repr

/-- The completion register (Table 9-12). -/
inductive Completion where
  | arrival (off : Nat)
  | ring (off slots : Nat)
  | barrier (n : Nat)
  | none
  deriving DecidableEq, Repr

/-- A tensor layout record (Table 9-14). -/
structure Layout where
  base : DWord
  d0 : Nat
  d1 : Nat
  d2 : Nat
  d3 : Nat
  stride1 : Nat
  stride2 : Nat
  stride3 : Nat
  box0 : Nat
  box1 : Nat
  box2 : Nat
  box3 : Nat
  fmt : Nat
  edge : Nat
  rk : Nat
  reserved : Bool
  pitch : Nat
  mofs : Nat
  salt : Word
  deriving DecidableEq, Repr

/-- A page the plot or a copy needs: its 4 KiB page number and whether write access is asked (R361). -/
structure PageNeed where
  page : Nat
  write : Bool
  deriving DecidableEq, Repr

/-- What a copy operation does (Table 9-16), or the copy half of a DRAIN (R137) with the tag its tile had. -/
inductive CopyOp where
  | tload | tstore | taddf | linr | gather | publ | pull
  | drain (mode : DrainMode) (s32 : Bool)
  deriving DecidableEq, Repr

/-- What a FAB operation or CONTRIB does (Table 10-3, Table 10-9). -/
inductive FabOp where
  | rwrite | rread
  | radd (fmt : Nat)
  | ratom (op : AtomOp)
  | mcast
  | send (ch : Nat)
  | recv (ch : Nat)
  | contrib (handle : Nat)
  deriving DecidableEq, Repr

/-- A chunk of a copy (R237), or of a FAB operation for one of its targets: whether it is delivered; whether its page was
refused; whether a page request or a fabric request for it is outstanding; its bytes. -/
structure Chunk where
  idx : Nat
  bytes : Nat
  done : Bool
  refused : Bool
  sent : Bool
  deriving DecidableEq, Repr

/-- The latched operands of a copy or of the copy half of a DRAIN: record, coordinates, index list, the local box's address,
the local format, the rounding and its key, LINR's destination, and the tile's elements once they are read. -/
structure BoxJob where
  op : CopyOp
  layout : Layout
  coords : List Nat
  idx : List Nat
  lea : DWord
  lfmt : Nat
  rnd : DrainRnd
  key : DWord
  dest : DWord
  data : List (Nat × Word)
  ready : Bool
  deriving DecidableEq, Repr

/-- The latched operands of a FAB operation or CONTRIB: the group, its targets, the remote and local addresses, the byte
count, and a CONTRIB's step. -/
structure FabJob where
  op : FabOp
  group : Nat
  targets : List Nat
  remote : DWord
  lea : DWord
  bytes : Nat
  step : DWord
  deriving DecidableEq, Repr

inductive Job where
  | box (b : BoxJob)
  | fab (f : FabJob)
  deriving DecidableEq, Repr

/-- An outstanding copy, DRAIN copy half, FAB operation or CONTRIB (R230, R253, R296): its issuing agent, its completion, what
it has delivered, the flags it has gathered, the ring slots it has filled and its ending (Table 9-17); `asked`, `answered` and
`refused` are the pages it has asked for, those answered with Success, and those refused; `order` is its place in the order of issue,
the model's own (R242). -/
structure CopyRec where
  id : Nat
  who : Who
  completion : Completion
  job : Job
  chunks : List Chunk
  fl : BitVec 5
  filled : Nat
  ended : Bool
  asked : List Nat
  answered : List PageNeed
  refused : List Nat
  order : Nat
  deriving DecidableEq, Repr

/-- A tile operation (05_matrix_engine.md R128–R134) with its latched words (R119) and the tags of R115. -/
inductive TileKind where
  | mma (d : Nat) (a b : DWord) (list : Option (List Nat)) (pair : Pair) (kb : Nat)
  | tzero (d : Nat)
  | tld (d : Nat) (a : DWord) (s32 : Bool)
  | tst (d : Nat) (a : DWord) (s32 : Bool)
  | tscal (d : Nat) (s : Word)
  | tadd (d a b : Nat) (s32 : Bool)
  | drainRead (d : Nat) (copy : Nat) (s32 : Bool) (zero : Bool)
  deriving DecidableEq, Repr

/-- A tile operation outstanding: the k-blocks done (R139), the flags so far, and what an error in its bytes has to report. -/
structure TileOp where
  id : Nat
  kind : TileKind
  done : Nat
  fl : BitVec 5
  deriving DecidableEq, Repr

/-- The state of a plot under faults (Table 16-4). -/
inductive RunState where
  | running | runahead | rollback | parked | returnable | halted
  deriving DecidableEq, Repr

/-- Run-ahead (R382): the words issued, the plot cycle it began at, the agents that stopped, the invalid registers and
flags (flag f as register 64 + f). -/
structure RunAhead where
  words : Nat
  began : Nat
  stopped : List Who
  invalid : List (Who × Nat)
  deriving DecidableEq, Repr

/-- A bundle in flight (R277): its members by strand number in ascending home lane. -/
structure Bundle where
  members : List Nat
  deriving DecidableEq, Repr

/-- A move the regrouper has planned (R287): a strand to a slot of the plot. -/
structure Move where
  key : Nat
  row : Nat
  lane : Nat
  deriving DecidableEq, Repr

/-- What started a plot (R273): a launch, or a stage of a trellis. -/
inductive Origin where
  | grid
  | stage (handle stage : Nat)
  deriving DecidableEq, Repr

/-- A physical tile (R112, R114): the context that used it last, its bits as a sparse list over the elements 64 × row + column,
and the elements that hold an uncorrectable error (R141). -/
structure Tile where
  ctx : Option Nat
  bits : List (Nat × Word)
  bad : List Nat
  deriving DecidableEq, Repr

/-- A plot (11_strands_bundles.md, 14_gatehouse_launch.md). `heldResponse` is a response to its page requests that has come
while its context was not resident (16_recovery.md R389), with whether it was Success and the pages. `privBase` is where the private areas of its
strands begin in its context's PRIV backing. `saved` holds its tiles while it is out of its pavilion, `halt` the trap
that halts it once its agents have stopped (R380), `stalled` and `issuedAt` whether its bundle waits on what it stalls on, and
when its bundle last issued or formed, by the count of all words (R278). -/
structure Plot where
  id : Nat
  launch : Nat
  origin : Origin
  ctx : Nat
  coord : Nat × Nat × Nat
  srPlot : Word
  pav : Nat
  bed : Nat
  rows : List Nat
  flags0 : Word
  spadKib : Nat
  privBytes : Nat
  privBase : Nat
  tiles : List Nat
  tileS32 : List Bool
  regs : Regs
  ck : Option Regs
  bundle : Option Bundle
  bars : Vector Barrier 16
  dq : List Word
  pcyc : Nat
  arrivals : Nat
  nextKey : Nat
  nextOp : Nat
  tops : List TileOp
  copies : List CopyRec
  gatherAt : Option Nat
  moves : List Move
  run : RunState
  ra : Option RunAhead
  batch : List PageNeed
  prg : Option Nat
  refused : List Nat
  answered : List PageNeed
  token : Bool
  resident : Bool
  saved : Option (List Tile)
  heldResponse : Option (Bool × List PageNeed)
  halt : Option (Who × Trap)
  stalled : Bool
  issuedAt : Nat
  deriving DecidableEq, Repr

/-! ### Pavilions and storage -/

/-- An entry of a translation cache (R358): PASID, virtual base and log2 of the cached page size, translated base, R, W. -/
structure AtcEntry where
  pasid : Nat
  va : Nat
  log2 : Nat
  pa : Nat
  r : Bool
  w : Bool
  deriving DecidableEq, Repr

/-- A 128-byte line of a pavilion's L1 (Table 7-1), by aperture address / 128. -/
structure Line where
  addr : Nat
  data : List Byte
  deriving DecidableEq, Repr

/-- A byte run in a pavilion's write-through queue (Table 7-3), by aperture address. -/
structure WtEntry where
  addr : Nat
  data : List Byte
  deriving DecidableEq, Repr

/-- A 128-byte sector the L2 holds of a view region, tagged by view through its aperture address (08 R198, R199). -/
structure Sector where
  addr : Nat
  data : List Byte
  dirty : Bool
  deriving DecidableEq, Repr

/-- A pavilion (Table 1-1): the contexts that hold a part of its SPAD, its range-lock table, tiles, µ-ATC, L1 and
write-through queue. -/
structure Pavilion where
  num : Nat
  parts : List Nat
  locks : List Lock
  tiles : List (Nat × Tile)
  atc : List AtcEntry
  l1 : List Line
  wtq : List WtEntry
  deriving DecidableEq, Repr

/-- A bed (R272, R278): the plot whose front thread has had the uniform slot last, and the slot row last admitted. A bed that no
entry lists has issued nothing. -/
structure Bed where
  pav : Nat
  num : Nat
  uni : Option Nat
  row : Option Nat
  deriving DecidableEq, Repr

/-- Bytes that an LDI of a launch has read (07_ordering_model.md R179). -/
structure Invariant where
  launch : Nat
  loc : Loc
  data : List Byte
  deriving DecidableEq, Repr

/-- Storage (R163): device memory by canonical address, host memory, SPAD and CSP bytes; the bytes that hold an uncorrectable
error; the view sectors of the L2; and what LDI has read. PRIV bytes lie in device memory (Table 7-1). -/
structure Store where
  dev : List Host.Cell
  host : List Host.Cell
  spad : List Host.Cell
  csp : List Host.Cell
  bad : List Loc
  sectors : List Sector
  invs : List Invariant
  deriving DecidableEq, Repr

/-! ### Views, versions -/

/-- A view region (Table 8-1); `removing` holds the launches whose completion a removal waits for (R193). -/
structure ViewRegion where
  num : Nat
  base : Nat
  rows : Nat
  cols : Nat
  esz : Nat
  removing : Option (List Nat)
  deriving DecidableEq, Repr

/-- The state of a version slot (Table 8-4). -/
inductive SlotState where
  | free | opened | committed
  deriving DecidableEq, Repr

structure VSlot where
  state : SlotState
  step : DWord
  deriving DecidableEq, Repr

/-- A page of a versioned region as the version unit holds it: its highest opened step H and its slots (R205–R207). -/
structure VPage where
  page : Nat
  h : Option DWord
  slots : List VSlot
  deriving DecidableEq, Repr

/-- A versioned region (Table 8-3). Pages not listed have H none and every slot FREE. -/
structure VRegion where
  num : Nat
  ctx : Nat
  nameBase : Nat
  pages : Nat
  z : Nat
  slotVa : Nat
  slotPa : Nat
  table : Nat
  group : Nat
  entries : List VPage
  deriving DecidableEq, Repr

/-! ### Gatehouse -/

/-- A queue (Table 14-3, R343–R346). `waiting` marks a packet whose own wait has begun; `taken` holds the launches and
trellises it has taken that have not completed (BAR, R344). -/
structure Queue where
  num : Nat
  base : DWord
  log2 : Nat
  privq : Bool
  en : Bool
  readWord : DWord
  rd : Word
  wr : Word
  error : Bool
  waiting : Bool
  taken : List Nat
  deriving DecidableEq, Repr

/-- A buffer handle (R350): its last writing launch and the reading launches since. -/
structure Handle where
  num : Nat
  writer : Option Nat
  readers : List Nat
  deriving DecidableEq, Repr

/-- A context (Table 14-1) with its keys (R74), handles (R350), error log index (R347), and the error records that wait for
the translation of the log. `spad` and `csp` are bytes. `present` holds from the time it is made resident until its pre-emption has
released its parts, and `locks` are the range locks of its save area, by pavilion (16_recovery.md R387, R388). -/
structure Context where
  slot : Nat
  pasid : Nat
  flags : Word
  spad : Nat
  csp : Nat
  priv : DWord
  elog : DWord
  vec : Nat
  resident : Bool
  present : Bool
  locks : List (Nat × Lock)
  queues : List Queue
  rk : Vector DWord 4
  handles : List Handle
  records : Nat
  pending : List (List Byte)
  deriving DecidableEq, Repr

/-- A launch taken (Table 14-8, R348). `next` is the next srPLOT to place, `retired` the count R351 tests. -/
structure Launch where
  id : Nat
  ctx : Nat
  queue : Nat
  nx : Nat
  ny : Nat
  nz : Nat
  n : Nat
  tiles : Nat
  gang : Bool
  spadKib : Nat
  priv : Nat
  bind : Option Nat
  code : DWord
  map : DWord
  bytes : Nat
  lane : Word
  uni : Word
  preload : List DWord
  handles : List (Nat × Bool × Bool)
  fed : Option Nat
  signal : DWord
  rk : Vector DWord 4
  next : Nat
  retired : Nat
  deriving DecidableEq, Repr

/-- An activity budget (Table 14-9): its limit, the limit from the next period on, what this period has spent by direction,
port or stack, the waits counted, the directions, ports or stacks that have waited in this period, and when the period began. -/
structure Budget where
  limit : Nat
  nextLimit : Nat
  spent : List Nat
  throttle : Word
  held : List Nat
  since : Nat
  deriving DecidableEq, Repr

/-- A record in a stage queue (Table 13-3). -/
structure Record where
  words : List Word
  depth : Nat
  seed : Bool
  coll : Bool
  emitter : Word
  seq : Nat
  at_ : Nat
  deriving DecidableEq, Repr

/-- The state of a stage queue (Table 13-5). -/
inductive QueueState where
  | idle | collecting | launchable
  deriving DecidableEq, Repr

/-- A stage (Table 13-2) with its queue: the waiting records, the ring's head and tail, and the groups started. -/
structure Stage where
  lane : Word
  uni : Word
  base : Nat
  cap : Nat
  thr : Nat
  maxDepth : Nat
  tiles : Nat
  spadKib : Nat
  timer : Nat
  priv : Nat
  succ : DWord
  state : QueueState
  recs : List Record
  head : Nat
  tail : Nat
  started : Nat
  deriving DecidableEq, Repr

/-- A live trellis (Table 13-1). `code` is the LAUNCH that serves it (R325); `rk` its own key copy (R74). -/
structure Trellis where
  handle : Nat
  id : Nat
  ctx : Nat
  queue : Nat
  groups : Nat
  pool : Nat
  signal : DWord
  stages : List Stage
  code : Option Launch
  rk : Vector DWord 4
  seq : Nat
  deriving DecidableEq, Repr

/-! ### Translation -/

/-- An ATS Translation Request outstanding (R360): who asked is not kept, since a waiting word is issued again. `stale` marks
one that an overlapping invalidation has met (R363). -/
structure AtsReq where
  id : Nat
  pasid : Nat
  page : Nat
  write : Bool
  pav : Nat
  stale : Bool
  deriving DecidableEq, Repr

/-- A refusal the last completion of a page brought: Unsupported Request or Completer Abort, or a grant that does not permit
the access (R361). -/
structure Denied where
  pasid : Nat
  page : Nat
  deriving DecidableEq, Repr

/-- A Page Request Group (R361, R383), unsent or sent: for a plot's batch, for a copy of a plot, or, with no plot, for the
gatehouses and reduction units. -/
structure PageGroup where
  id : Nat
  pasid : Nat
  ctx : Nat
  pages : List PageNeed
  sent : Bool
  plot : Option Nat
  copy : Option Nat
  deriving DecidableEq, Repr

/-- An invalidation whose completion is not yet sent (R362). -/
structure Inval where
  itag : Nat
  die : Nat
  at_ : Nat
  deriving DecidableEq, Repr

/-- Translation (R358–R363): the grove and device caches (the µ-ATCs stand in the pavilions), requests, page groups, and by
PASID the pages answered and refused for the gatehouses and reduction units. -/
structure Xlate where
  grove : List (Nat × AtcEntry)
  device : List AtcEntry
  reqs : List AtsReq
  denied : List Denied
  nextReq : Nat
  groups : List PageGroup
  nextGroup : Nat
  answered : List (Nat × PageNeed)
  refused : List (Nat × Nat)
  invals : List Inval
  deriving DecidableEq, Repr

/-! ### Fabric -/

/-- What a request asks for; kept so that it can be sent again (R250). -/
inductive ReqBody where
  | rwrite (addr : DWord) (data : List Byte)
  | rread (addr : DWord) (n : Nat)
  | radd (addr : DWord) (fmt : Nat) (data : List Byte)
  | ratom (addr : DWord) (op : AtomOp) (n : Nat) (b c : DWord)
  | mcast (addr : DWord) (data : List Byte)
  | send (ch : Nat) (data : List Byte)
  | contrib (c : ContribHdr) (data : List Byte)
  | image (bucket : Nat) (step : DWord) (msg : List Byte)
  | short (bucket : Nat) (step : DWord)
  | step (s : DWord)
  | presence
  deriving DecidableEq, Repr

/-- What a request serves: a chunk of an operation of a plot, or the unit and the management class. -/
inductive TagOwner where
  | copy (plot copy chunk : Nat)
  | unit
  deriving DecidableEq, Repr

/-- A request tag in use (R249, R250): whom it serves, where it goes, what it asks, its timer state, and data that has come and
waits for its destination's translation. `itag` names the invalidations that wait for it (R362); `extra` lists the further tags of a message of more than 4 KiB (R249). -/
structure TagReq where
  tag : BitVec 12
  gen : BitVec 4
  extra : List (BitVec 12)
  owner : TagOwner
  module : Nat
  group : Nat
  member : Nat
  body : ReqBody
  attempts : Nat
  sentAt : Nat
  backoff : Nat
  waiting : Bool
  landing : Option (List Byte)
  itag : List Nat
  deriving DecidableEq, Repr

/-- A request of the unit or of the management class that waits for a tag. -/
structure Queued where
  group : Nat
  member : Nat
  body : ReqBody
  deriving DecidableEq, Repr

/-- A SEND in the order of issue (R256). -/
structure Sending where
  ctx : Nat
  plot : Nat
  copy : Nat
  ch : Nat
  group : Nat
  member : Nat
  deriving DecidableEq, Repr

/-- A request this target has applied, with the reply it repeats (R251). -/
structure Applied where
  src : Nat
  tag : BitVec 12
  gen : BitVec 4
  reply : ReplyBody
  at_ : Nat
  deriving DecidableEq, Repr

/-- A posted RECV (R256). -/
structure Posted where
  ctx : Nat
  ch : Nat
  group : Nat
  member : Nat
  plot : Nat
  copy : Nat
  deriving DecidableEq, Repr

/-- A fabric port (R245, R421, Table 20-1). `event` is the lodge cycle at which a port event not yet delivered was last sent
(R427). -/
structure Port where
  failed : Bool
  training : Bool
  retry : Word
  fail : Word
  reroute : Word
  event : Option Nat
  deriving DecidableEq, Repr

/-- The fabric side of the module. -/
structure Fabric where
  tags : List TagReq
  gens : List (Nat × BitVec 4)
  queue : List Queued
  sends : List Sending
  applied : List Applied
  posted : List Posted
  staleReply : Word
  ports : Vector Port 24
  deriving DecidableEq, Repr

/-! ### Groups and collectives -/

/-- The state of a member in a view (R334). -/
inductive MemberState where
  | live | absent | left
  deriving DecidableEq, Repr

/-- A member in this module's view (R334); `failed` marks one whose last management message failed (R337). -/
structure Member where
  module : Nat
  ethernet : Bool
  endpoint : DWord
  step : DWord
  state : MemberState
  heard : Nat
  failed : Bool
  deriving DecidableEq, Repr

/-- The state of a bucket tag (R262); tags not listed are FRESH. -/
inductive BucketState where
  | fresh | opened | closed
  deriving DecidableEq, Repr

/-- A training group (R248) with its progress table (R334, R336) and tag states (R262). -/
structure Group where
  num : Nat
  ctx : Nat
  own : Nat
  lead : Nat
  silence : Nat
  fb : DWord
  members : List Member
  m : DWord
  buckets : List (Nat × BucketState)
  sentAt : Nat
  deriving DecidableEq, Repr

/-- A long-accumulator slot (Table 6-1); in FAST mode `fast` is VALUE[31:0] and `value` stays 0. -/
structure Acc where
  value : Int
  nan : Bool
  pinf : Bool
  ninf : Bool
  fast : Word
  deriving DecidableEq, Repr

/-- A chunk the greenhouse holds (R261). -/
structure HeldChunk where
  group : Nat
  bucket : Nat
  src : Nat
  step : DWord
  chunk : Nat
  image : Bool
  bytes : List Byte
  deriving DecidableEq, Repr

/-- A chunk identity in an applied-bitmap (R264). -/
structure ChunkId where
  src : Nat
  chunk : Nat
  image : Bool
  step : DWord
  deriving DecidableEq, Repr

/-- A write the reduction unit has still to make: the results of a 64-element group, or a status block, the last of which ends
the step. -/
structure CollWrite where
  addr : DWord
  data : List Byte
  grp : Option Nat
  final : Bool
  deriving DecidableEq, Repr

/-- An open collective at this member (Table 10-5, R258–R269). Accumulators not listed are empty; `whole` counts the whole
contributions of the open step and `folded` lists the contributions, by member and step, whose chunks were folded into it; `done` lists the 64-element
groups whose results are written, `emitted` counts the result chunks emitted, `shorts` the SHORTs no CWAIT has returned. -/
structure Coll where
  handle : Nat
  ctx : Nat
  queue : Nat
  pav : Nat
  group : Nat
  bucket : Nat
  fast : Bool
  avg : Bool
  n : Nat
  q : Nat
  floor : Nat
  drop : Bool
  bf16 : Bool
  sr : Bool
  elems : Nat
  timer : DWord
  contribAddr : DWord
  resultAddr : DWord
  statusAddr : DWord
  emit : Bool
  emitStage : Nat
  trellis : Nat
  rk3 : DWord
  step : DWord
  closed : Bool
  ended : Bool
  failed : Bool
  timerAt : Nat
  slots : List (Nat × Acc)
  counts : List (Nat × Nat)
  applied : List ChunkId
  folded : List (Nat × DWord)
  shardCounts : List (Nat × Nat × Nat)
  writes : List CollWrite
  done : List Nat
  emitted : Nat
  emitWait : Bool
  nans : Nat
  infs : Nat
  dropped : Nat
  malformed : Bool
  short : Bool
  shorts : Nat
  lastContrib : Option DWord
  deriving DecidableEq, Repr

/-! ### Lodges, ownership, management -/

/-- A lodge (R395–R397): its image, whether it is offline. -/
structure Lodge where
  image : List Byte
  offline : Bool
  deriving DecidableEq, Repr

/-- An SPDM session (R373): the class of its master, what its KEY_EXCHANGE carried, and whether FINISH has set it up. -/
structure Session where
  master : Nat
  exchange : Nat
  set : Bool
  deriving DecidableEq, Repr

/-- An entry of the context table as the lodge state table mirrors it (14_gatehouse_launch.md Table 14-1). -/
structure CtxRow where
  slot : Nat
  pasid : Nat
  flags : Word
  spad : Nat
  csp : Nat
  priv : DWord
  elog : DWord
  vec : Nat
  resident : Bool
  deriving DecidableEq, Repr

/-- The body of the lodge state table (16_recovery.md Table 16-8): port states are failed and in training. -/
structure TableBody where
  owner : Option Master
  epoch : BitVec 8
  nonce : DWord
  keys : Option (Nat × Nat)
  policy : Option (BitVec 2)
  limits : List Nat
  cap : Nat
  ports : List (Bool × Bool)
  ctxs : List CtxRow
  counters : List Word
  deriving DecidableEq, Repr

/-- A bank of the lodge state table (Table 16-8). -/
structure Bank where
  version : DWord
  schema : Nat
  length : Nat
  heartbeat : DWord
  digest : BitVec 384
  body : TableBody
  deriving DecidableEq, Repr

/-- Ownership, the owner interface, the lodges and the management registers (R365–R374, R395–R397, R423–R427, Table 20-1).
`version`, `schema` and `heartbeat` stand in the lodge state table; `beatSeen` and `beatAt` are the heartbeat the standby saw
last and when it changed, `lastBeat` when the active lodge raised it; `switching` marks a LIVE_UPDATE command that runs, and `switchAt` when it began; `table` holds the banks of the
two copies of the lodge state table that have been written, and `tookOver` the cycle of the active lodge at which it took over last;
`keys` are the owner's ECDSA and LMS keys; `moving` is the successor of a handover with RESET, with its keys; `sessions` lists the SPDM sessions; `answers` counts attestation answers. -/
structure Mgmt where
  eastActive : Bool
  east : Lodge
  west : Lodge
  version : DWord
  schema : Nat
  heartbeat : DWord
  beatSeen : DWord
  beatAt : Nat
  lastBeat : Nat
  switching : Bool
  switchAt : Nat
  table : Vector (Vector (Option Bank) 2) 2
  tookOver : Option Nat
  owner : Option Master
  epoch : BitVec 8
  nonce : DWord
  keys : Option (Nat × Nat)
  policy : Option (BitVec 2)
  identity : List Byte
  moving : Option (Master × Nat × Nat)
  fused : BitVec 16
  staging : List Byte
  arg : Vector Byte 256
  result : BitVec 8
  seq : Word
  status : Word
  refused : Vector Word 3
  cap : Nat
  thermal : Nat
  temp : BitVec 16
  trip : Bool
  sampledAt : Nat
  merrCount : Word
  merr : List (Nat × Nat)
  powered : Bool
  sessions : List Session
  answers : Nat
  deriving DecidableEq, Repr

/-- A message the module has sent (the outside world's side of it); `via` is the module that relays it (R245). [DESIGN CHOICE: log entry 125] -/
inductive Out where
  | atsRequest (id pasid : Nat) (va : DWord) (noWrite : Bool)
  | pageRequest (group pasid : Nat) (pages : List PageNeed)
  | invalidateDone (itag : Nat)
  | msix (vec : Nat)
  | aer (pa : Nat)
  | request (module : Nat) (via : Option Nat) (h : FabHdr) (body : ReqBody)
  | reply (module : Nat) (via : Option Nat) (tag : BitVec 12) (gen : BitVec 4) (body : ReplyBody)
  | notReady (module : Nat) (via : Option Nat) (tag : BitVec 12) (gen : BitVec 4)
  | closed (module : Nat) (via : Option Nat) (tag : BitVec 12) (gen : BitVec 4)
  | resync (module : Nat) (via : Option Nat) (tag : BitVec 12) (gen : BitVec 4)
  | forward (port : Nat) (src dst : Nat) (msg : List Byte)
  | portEvent (m : Master) (port : Nat)
  | barData (data : List Byte)
  | attest (m : Master) (code : Nat) (body : BitVec 384)
  | sensor (m : Master) (sensor : Nat) (value : Word)
  | busy (m : Master)
  deriving DecidableEq, Repr

/-! ### Turns and the machine -/

/-- Whose move comes next: the model's own plain data, since the spec leaves the order of independent agents open. [DESIGN CHOICE: log entry 121] -/
inductive Turn where
  | issueLane (plot : Nat)
  | issueFront (plot : Nat)
  | event (i : Instr)
  | dieClock (die n : Nat)
  | lodgeClock (lodge n : Nat)
  | evictLine (pav line : Nat)
  | evictSector (addr : Nat)
  | drainStore (pav : Nat)
  | runBlock (plot : Nat)
  deriving DecidableEq, Repr

/-- Who issues the word being executed: the bundle of a plot, its front thread, or one strand of which a trapped word is
issued again (R377); the offset of the word, the word and its length in bytes. -/
inductive Issuer where
  | bundle
  | front
  | again (who : Who)
  deriving DecidableEq, Repr

structure Issue where
  plot : Nat
  by_ : Issuer
  pc : Word
  word : Word
  len : Nat
  deriving DecidableEq, Repr

/-- The clocks: one per die and one per lodge (R2, R16, R20). -/
structure Clocks where
  die : Vector Nat 2
  lodge : Vector Nat 2
  deriving DecidableEq, Repr

/-- The whole module. `issue`, `ids`, `words` (the words issued so far), `out` (DESIGN CHOICE, log entry 11), `agenda` and `picks`, the turns taken where it was
empty (log entry 9), and `free` (log entry 8) are the model's own; the rest is the spec's. `bar2` is a DESIGN CHOICE of log entry 6. [DESIGN CHOICE: log entry 9] -/
structure State where
  clk : Clocks
  mem : Store
  xl : Xlate
  plots : List Plot
  pavs : List Pavilion
  ctxs : List Context
  launches : List Launch
  ids : Nat
  budgets : Vector Budget 6
  views : List ViewRegion
  vregs : List VRegion
  trellises : List Trellis
  groups : List Group
  colls : List Coll
  greenhouse : List HeldChunk
  beds : List Bed
  fab : Fabric
  mgmt : Mgmt
  bar2 : Nat
  issue : Option Issue
  agenda : List Turn
  picks : Nat
  free : Nat
  words : Nat
  out : List Out
  deriving DecidableEq, Repr

/-- Why the machine stops. -/
inductive Fault where
  /-- Raised where a translated access names an address of aperture 0 at or beyond 512 × 10^9 bytes: the module has no such
  memory (01_apnak_device.md Table 1-2). Safe: the hardware's answer is not given, and the model goes no further
  (DEDUCED, log entry 13). -/
  | absentMemory (pa : Nat)
  deriving DecidableEq, Repr

/-- Why an instruction has no effect in the model. -/
inductive Refusal where
  /-- Raised by an arm of `exec` whose instruction has no meaning yet. Safe: no claim rests on it. -/
  | notModelled (mnemonic : String)
  deriving DecidableEq, Repr

/-! ### Reset -/

def Agent.start (pc : Word) (ph : Phase) (since : Nat) : Agent :=
  { pc := pc, clause := none, phase := ph, wait := .none, since := since, blockedAt := 0, yieldNext := false, trap := none,
    mchk := [], later := [], visit := 0, loads := [], stores := [], seq := 0, handler := false, tcause := 0#32, tpc := 0#32, tval := 0#64 }

def Barrier.reset : Barrier := ⟨0#32, .uninit, 0, 0, 0⟩

def Banks.reset : Banks :=
  ⟨Vector.replicate 8 VReg.zero, Vector.replicate 4 false, Vector.replicate 8 0#64, Vector.replicate 4 false⟩

/-- A port after reset. [DESIGN CHOICE: log entry 5] -/
def Port.reset : Port := ⟨false, false, 0#32, 0#32, 0#32, none⟩

/-- The default budgets (Table 14-9). -/
def Budget.default (n : Nat) : Budget := ⟨n, n, [], 0#32, [], 0⟩

/-- Storage after reset: nothing listed. [DESIGN CHOICE: log entry 1] -/
def Store.reset : Store := ⟨[], [], [], [], [], [], []⟩

/-- Translation after reset: nothing cached, nothing asked. [DESIGN CHOICE: log entry 123] -/
def Xlate.reset : Xlate := ⟨[], [], [], [], 0, [], 0, [], [], []⟩

/-- The fabric side after reset. [DESIGN CHOICE: log entry 123] -/
def Fabric.reset : Fabric := ⟨[], [], [], [], [], [], 0#32, Vector.replicate 24 Port.reset⟩

/-- The management registers at reset (Tables 15-4, 20-1, 20-2, 20-3; R19, R365). The first nonce is a random draw (R365). [DESIGN CHOICE: log entries 3, 4, 7, 123] -/
def Mgmt.reset : Mgmt :=
  { eastActive := true, east := ⟨[], false⟩, west := ⟨[], false⟩, version := 0#64, schema := 0, heartbeat := 0#64,
    beatSeen := 0#64, beatAt := 0, lastBeat := 0, switching := false, switchAt := 0,
    table := Vector.replicate 2 (Vector.replicate 2 none), tookOver := none, owner := none, epoch := 0#8,
    nonce := Config.nonce 0, keys := none, policy := some 0#2, identity := [], moving := none, fused := 0#16, staging := [],
    arg := Vector.replicate 256 0#8, result := 0#8, seq := 0#32, status := 0#32, refused := Vector.replicate 3 0#32,
    cap := 3000, thermal := 3000, temp := 0#16, trip := false, sampledAt := 0, merrCount := 0#32, merr := [],
    powered := true, sessions := [], answers := 0 }

/-- The module right after reset. [DESIGN CHOICE: log entry 2] -/
def State.reset : State :=
  { clk := ⟨#v[0, 0], #v[0, 0]⟩
    mem := Store.reset
    xl := Xlate.reset
    plots := []
    pavs := []
    ctxs := []
    launches := []
    ids := 0
    budgets := #v[Budget.default 256000, Budget.default 100000, Budget.default 256, Budget.default 65536,
      Budget.default 1000, Budget.default 320]
    views := []
    vregs := []
    trellises := []
    groups := []
    colls := []
    greenhouse := []
    beds := []
    fab := Fabric.reset
    mgmt := Mgmt.reset
    bar2 := 0
    issue := none
    agenda := []
    picks := 0
    free := 1
    words := 0
    out := [] }

end Sys2Proof.Machine
end

