-- ==== Sys2Proof/Machine/Mem.lean ====
section
/-! DEFINITION. Memory as sparse lists of bytes in one canonical form, the accessors of the parts of the state, and the
registers of the agents (02_clauses_encoding.md R41, R43; 16_recovery.md R379). -/

namespace Sys2Proof.Machine

/-! ### Lists of bytes -/

/-- What an address that no entry lists reads as (the memory log entry). [DESIGN CHOICE: log entry 1] -/
def unlisted : Byte := 0#8

/-- The byte at an address. [DESIGN CHOICE: log entry 1] -/
def cellGet : List Host.Cell → Nat → Byte
  | [], _ => unlisted
  | (x, c) :: l, a => if x = a then c else cellGet l a

/-- The memory with one byte written, in canonical form. -/
def cellSet : List Host.Cell → Nat → Byte → List Host.Cell
  | [], a, b => if b = unlisted then [] else [(a, b)]
  | (x, c) :: l, a, b =>
    if a < x then (if b = unlisted then (x, c) :: l else (a, b) :: (x, c) :: l)
    else if a = x then (if b = unlisted then l else (a, b) :: l)
    else (x, c) :: cellSet l a b

/-- n bytes from an address up. -/
def cellsGet (m : List Host.Cell) (a : Nat) : Nat → List Byte
  | 0 => []
  | n + 1 => cellGet m a :: cellsGet m (a + 1) n

/-- Bytes written from an address up. -/
def cellsSet (m : List Host.Cell) (a : Nat) : List Byte → List Host.Cell
  | [] => m
  | b :: l => cellsSet (cellSet m a b) (a + 1) l

/-- Every entry lies above `lo`, the entries rise strictly, and none holds what an unlisted address reads as. -/
def cellsWf : List Host.Cell → Option Nat → Bool
  | [], _ => true
  | (x, c) :: l, lo => (match lo with | none => true | some y => decide (y < x)) && c != unlisted && cellsWf l (some x)

/-- The canonical form of a memory. -/
def Memory.wf (m : List Host.Cell) : Bool := cellsWf m none

/-- Zero every byte from lo up to hi (parts freed, R341). -/
def cellsClear (m : List Host.Cell) (lo hi : Nat) : List Host.Cell :=
  m.filter (fun c => !(decide (lo ≤ c.1) && decide (c.1 < hi)))

/-- A little-endian number from bytes (R6). -/
def leNat : List Byte → Nat
  | [] => 0
  | b :: l => b.toNat + 256 * leNat l

/-- The n low bytes of a number, lowest first (R6). -/
def natBytes (v : Nat) : Nat → List Byte
  | 0 => []
  | n + 1 => BitVec.ofNat 8 v :: natBytes (v / 256) n

/-- The bytes of a space that has a memory of its own; PRIV bytes lie in device memory (Table 7-1). -/
def Store.cells (m : Store) : Space → List Host.Cell
  | .dev => m.dev
  | .host => m.host
  | .spad => m.spad
  | .csp => m.csp
  | .priv | .path => []

def Store.setCells (m : Store) (sp : Space) (l : List Host.Cell) : Store :=
  match sp with
  | .dev => { m with dev := l }
  | .host => { m with host := l }
  | .spad => { m with spad := l }
  | .csp => { m with csp := l }
  | .priv | .path => m

/-! ### Parts of the state -/

/-- Apply f to the elements that p names. -/
def modifyWhere {α : Type} (p : α → Bool) (f : α → α) (l : List α) : List α := l.map (fun x => if p x then f x else x)

def State.plot? (s : State) (id : Nat) : Option Plot := s.plots.find? (fun p => p.id == id)

/-- Replace a plot by one of the same number. -/
def State.setPlot (s : State) (p : Plot) : State := { s with plots := modifyWhere (fun q => q.id == p.id) (fun _ => p) s.plots }

def State.modPlot (s : State) (id : Nat) (f : Plot → Plot) : State :=
  { s with plots := modifyWhere (fun q => q.id == id) f s.plots }

def State.ctx? (s : State) (slot : Nat) : Option Context := s.ctxs.find? (fun c => c.slot == slot)

def State.modCtx (s : State) (slot : Nat) (f : Context → Context) : State :=
  { s with ctxs := modifyWhere (fun c => c.slot == slot) f s.ctxs }

def State.launch? (s : State) (id : Nat) : Option Launch := s.launches.find? (fun l => l.id == id)

def State.modLaunch (s : State) (id : Nat) (f : Launch → Launch) : State :=
  { s with launches := modifyWhere (fun l => l.id == id) f s.launches }

def State.trellis? (s : State) (ctx handle : Nat) : Option Trellis :=
  s.trellises.find? (fun t => t.ctx == ctx && t.handle == handle)

def State.trellisById? (s : State) (id : Nat) : Option Trellis := s.trellises.find? (fun t => t.id == id)

def State.modTrellis (s : State) (id : Nat) (f : Trellis → Trellis) : State :=
  { s with trellises := modifyWhere (fun t => t.id == id) f s.trellises }

def State.group? (s : State) (ctx num : Nat) : Option Group := s.groups.find? (fun g => g.ctx == ctx && g.num == num)

def State.modGroup (s : State) (ctx num : Nat) (f : Group → Group) : State :=
  { s with groups := modifyWhere (fun g => g.ctx == ctx && g.num == num) f s.groups }

def State.coll? (s : State) (ctx handle : Nat) : Option Coll :=
  s.colls.find? (fun c => c.ctx == ctx && c.handle == handle)

def State.modColl (s : State) (ctx handle : Nat) (f : Coll → Coll) : State :=
  { s with colls := modifyWhere (fun c => c.ctx == ctx && c.handle == handle) f s.colls }

/-- A pavilion as it stands when nothing has used it. -/
def Pavilion.empty (n : Nat) : Pavilion := ⟨n, [], [], [], [], [], []⟩

/-- A pavilion of the module; one that no entry lists is untouched since reset. -/
def State.pav (s : State) (n : Nat) : Pavilion := (s.pavs.find? (fun p => p.num == n)).getD (Pavilion.empty n)

def State.setPav (s : State) (p : Pavilion) : State :=
  if 320 ≤ p.num then s
  else if s.pavs.any (fun q => q.num == p.num) then { s with pavs := modifyWhere (fun q => q.num == p.num) (fun _ => p) s.pavs }
  else { s with pavs := s.pavs ++ [p] }

/-- The number that stands for the gatehouses, which have no µ-ATC and no L1, where an access names its pavilion. [DEDUCED: log entry 45] -/
def gatehousePav : Nat := 320

def State.modPav (s : State) (n : Nat) (f : Pavilion → Pavilion) : State := s.setPav (f (s.pav n))

/-- The die, grove and place in the grove of a pavilion (Table 2-6). -/
def dieOf (pav : Nat) : Nat := pav / 160
def groveOf (pav : Nat) : Nat := pav / 8

def State.dieCycles (s : State) (die : Nat) : Nat := if die = 0 then s.clk.die[0] else s.clk.die[1]

/-- The local cycle count of a pavilion (R16, Table 2-6). -/
def State.cycles (s : State) (pav : Nat) : Nat := s.dieCycles (dieOf pav)

def State.lodgeCycles (s : State) (east : Bool) : Nat := if east then s.clk.lodge[0] else s.clk.lodge[1]

def State.emit (s : State) (o : Out) : State := { s with out := s.out ++ [o] }

/-- The PASID of a context slot. -/
def State.pasid (s : State) (slot : Nat) : Nat := match s.ctx? slot with | some c => c.pasid | none => 0

/-- The code object and map a plot runs (R29, R30): its launch's, or that of the LAUNCH that serves its trellis (R325). -/
def State.codeOf (s : State) (p : Plot) : Option Launch :=
  match p.origin with
  | .grid => s.launch? p.launch
  | .stage _ _ =>
    match s.trellisById? p.launch with
    | some t => t.code
    | none => none

/-- The keys a plot reads (R74): its launch's copy, or its trellis's. -/
def State.keysOf (s : State) (p : Plot) : Vector DWord 4 :=
  match p.origin with
  | .grid => match s.launch? p.launch with | some l => l.rk | none => Vector.replicate 4 0#64
  | .stage _ _ => match s.trellisById? p.launch with | some t => t.rk | none => Vector.replicate 4 0#64

/-- The queue that took the launch of a plot (R380). -/
def State.queueOf (s : State) (p : Plot) : Nat :=
  match p.origin with
  | .grid => match s.launch? p.launch with | some l => l.queue | none => 0
  | .stage _ _ => match s.trellisById? p.launch with | some t => t.queue | none => 0

/-! ### Agents -/

def Regs.strand? (g : Regs) (k : Nat) : Option Strand := g.strands.find? (fun st => st.key == k)

def Regs.modStrand (g : Regs) (k : Nat) (f : Strand → Strand) : Regs :=
  { g with strands := modifyWhere (fun st => st.key == k) f g.strands }

def Regs.agent? (g : Regs) : Who → Option Agent
  | .front => some g.front.ag
  | .strand k => (g.strand? k).map (fun st => st.ag)

def Regs.modAgent (g : Regs) (w : Who) (f : Agent → Agent) : Regs :=
  match w with
  | .front => { g with front := { g.front with ag := f g.front.ag } }
  | .strand k => g.modStrand k (fun st => { st with ag := f st.ag })

def Plot.modRegs (p : Plot) (f : Regs → Regs) : Plot := { p with regs := f p.regs }
def Plot.modAgent (p : Plot) (w : Who) (f : Agent → Agent) : Plot := p.modRegs (fun g => g.modAgent w f)
def Plot.modStrand (p : Plot) (k : Nat) (f : Strand → Strand) : Plot := p.modRegs (fun g => g.modStrand k f)
def Plot.agent? (p : Plot) (w : Who) : Option Agent := p.regs.agent? w

/-- The registers that are not speculative: the checkpoint during run-ahead (R381). -/
def Plot.real (p : Plot) : Regs := p.ck.getD p.regs

def Plot.modReal (p : Plot) (f : Regs → Regs) : Plot :=
  match p.ck with
  | some g => { p with ck := some (f g) }
  | none => { p with regs := f p.regs }

/-- Every agent of the plot: its front thread and its strands. -/
def Regs.agents (g : Regs) : List (Who × Agent) :=
  (.front, g.front.ag) :: g.strands.map (fun st => (.strand st.key, st.ag))

def streamOf : Who → Stream
  | .front => .uniform
  | .strand _ => .lane

/-! ### Registers (R41, R379) -/

/-- Whether a register number names the handler bank (R379). -/
def banked (handler : Bool) (r : Reg) : Bool := handler && decide (56 ≤ r.toNat)

theorem bankIdx (r : Reg) : r.toNat - 56 < 8 := by
  have h : r.toNat < 64 := r.isLt
  omega

/-- v[r] of a strand, or of the lane bank in handler mode. -/
def Regs.v (g : Regs) (k : Nat) (r : Reg) : VReg :=
  match g.strand? k with
  | some st =>
    if banked st.ag.handler r then g.banks.lane[r.toNat - 56]'(bankIdx r) else st.regs[r.toNat]'r.isLt
  | none => VReg.zero

/-- Write v[r] of a strand: the register or, where `bank` says so, the lane bank. -/
def Regs.setVAt (g : Regs) (k : Nat) (bank : Bool) (r : Reg) (x : VReg) : Regs :=
  if bank then { g with banks := { g.banks with lane := g.banks.lane.set (r.toNat - 56) x (bankIdx r) } }
  else g.modStrand k (fun st => { st with regs := st.regs.set r.toNat x r.isLt })

def Regs.setV (g : Regs) (k : Nat) (r : Reg) (x : VReg) : Regs :=
  match g.strand? k with
  | some st => g.setVAt k (banked st.ag.handler r) r x
  | none => g

/-- s[r]: s0 reads as zero. -/
def Regs.s (g : Regs) (r : Reg) : DWord :=
  if r = 0#6 then 0#64
  else if banked g.front.ag.handler r then g.banks.uni[r.toNat - 56]'(bankIdx r) else g.front.regs[r.toNat]'r.isLt

/-- Write s[r]: a write to s0 is discarded. -/
def Regs.setSAt (g : Regs) (bank : Bool) (r : Reg) (x : DWord) : Regs :=
  if r = 0#6 then g
  else if bank then { g with banks := { g.banks with uni := g.banks.uni.set (r.toNat - 56) x (bankIdx r) } }
  else { g with front := { g.front with regs := g.front.regs.set r.toNat x r.isLt } }

def Regs.setS (g : Regs) (r : Reg) (x : DWord) : Regs := g.setSAt (banked g.front.ag.handler r) r x

/-- f0–f3 of a strand, uf0–uf3 of the front thread, or the flags of the bank in handler mode. -/
def Regs.flag (g : Regs) (w : Who) (f : BitVec 2) : Bool :=
  match w with
  | .front => if g.front.ag.handler then g.banks.uniFlags[f.toNat]'f.isLt else g.front.flags[f.toNat]'f.isLt
  | .strand k =>
    match g.strand? k with
    | some st => if st.ag.handler then g.banks.laneFlags[f.toNat]'f.isLt else st.flags[f.toNat]'f.isLt
    | none => false

def Regs.setFlag (g : Regs) (w : Who) (f : BitVec 2) (b : Bool) : Regs :=
  match w with
  | .front =>
    if g.front.ag.handler then { g with banks := { g.banks with uniFlags := g.banks.uniFlags.set f.toNat b f.isLt } }
    else { g with front := { g.front with flags := g.front.flags.set f.toNat b f.isLt } }
  | .strand k =>
    match g.strand? k with
    | some st =>
      if st.ag.handler then { g with banks := { g.banks with laneFlags := g.banks.laneFlags.set f.toNat b f.isLt } }
      else g.modStrand k (fun st => { st with flags := st.flags.set f.toNat b f.isLt })
    | none => g

/-- The next register of a pair or run. -/
def regPlus (r : Reg) (n : Nat) : Reg := BitVec.ofNat 6 (r.toNat + n)

/-- A 64-bit operand: s[r], or v[r] with v[r+1] above it (R47). -/
def Regs.wide (g : Regs) (w : Who) (r : Reg) : DWord :=
  match w with
  | .front => g.s r
  | .strand k => (g.v k (regPlus r 1)).val ++ (g.v k r).val

/-- A register as a zero-extended 64-bit value. -/
def Regs.zx (g : Regs) (w : Who) (r : Reg) : DWord :=
  match w with
  | .front => g.s r
  | .strand k => (g.v k r).val.setWidth 64

/-- Write a result to one register: tagged in the lane stream, zero-extended in the uniform stream. -/
def Regs.setR (g : Regs) (w : Who) (r : Reg) (t : Tag) (x : Word) : Regs :=
  match w with
  | .front => g.setS r (x.setWidth 64)
  | .strand k => g.setV k r ⟨x, t⟩

/-- Write a 64-bit result: s[r], or the pair v[r], v[r+1] tagged RAW (R228). -/
def Regs.setWide (g : Regs) (w : Who) (r : Reg) (x : DWord) : Regs :=
  match w with
  | .front => g.setS r x
  | .strand k => (g.setV k r ⟨x.setWidth 32, .raw⟩).setV k (regPlus r 1) ⟨(x >>> 32).setWidth 32, .raw⟩

/-- The tag of v[r] (Table 3-9); the uniform stream has none. -/
def Regs.tagOf (g : Regs) (w : Who) (r : Reg) : Tag :=
  match w with
  | .front => .raw
  | .strand k => (g.v k r).tag

/-- OR flags into srFPF (R44). -/
def Regs.orFpf (g : Regs) (fl : BitVec 5) : Regs := { g with fpf := g.fpf ||| fl.setWidth 32 }

end Sys2Proof.Machine
end

