-- ==== Sys2Proof/Machine/Access.lean ====
section
/-! DEFINITION. How an access reaches storage: the views (08_views_versions.md R194–R199), the points of coherence
(07_ordering_model.md R163, R167, R176), and translation through the three caches (15_isolation.md R358–R361). -/

namespace Sys2Proof.Machine

/-! ### Views -/

def ViewRegion.extent (r : ViewRegion) : Nat := r.rows * r.cols * r.esz

/-- ViewOffset (R194): where element (i, j) of the region lies in a view. -/
def ViewRegion.viewOffset (r : ViewRegion) (view i j : Nat) : Nat :=
  let rb := r.cols * r.esz
  if view = 0 then (i * r.cols + j) * r.esz
  else if view = 1 then (j * r.rows + i) * r.esz
  else ((i / 32) * (rb / 32) + (j * r.esz) / 32) * 1024 + (i % 32) * 32 + (j * r.esz) % 32

/-- The canonical offset of the byte at an offset of a view: the inverse of ViewOffset, byte by byte (R194). -/
def ViewRegion.canon (r : ViewRegion) (view off : Nat) : Nat :=
  let rb := r.cols * r.esz
  if view = 0 then off
  else if view = 1 then ((off / r.esz) % r.rows * r.cols + off / r.esz / r.rows) * r.esz + off % r.esz
  else (off / 1024 / (rb / 32) * 32 + off % 1024 / 32) * rb + off / 1024 % (rb / 32) * 32 + off % 32

def apertureOf (pa : Nat) : Nat := pa / 2 ^ 50

/-- The registered view region that holds an aperture address. -/
def State.regionAt (s : State) (pa : Nat) : Option ViewRegion :=
  s.views.find? (fun r => decide (r.base ≤ pa % 2 ^ 50) && decide (pa % 2 ^ 50 < r.base + r.extent))

/-- The canonical address of the byte at an aperture address; none where the address is unregistered (R195). -/
def State.canonOf (s : State) (pa : Nat) : Option Nat :=
  let off := pa % 2 ^ 50
  if apertureOf pa = 0 then some off
  else if apertureOf pa = 3 then none
  else
    match s.regionAt pa with
    | some r => some (r.base + r.canon (apertureOf pa) (off - r.base))
    | none => none

/-! ### The L2 (R198, R199): sectors of the three views of registered regions, and ordinary memory -/

def sectorBase (pa : Nat) : Nat := pa / 128 * 128

/-- The byte the memory behind the L2 holds for an aperture address. -/
def State.hbmByte (s : State) (pa : Nat) : Byte :=
  match s.canonOf pa with
  | some a => cellGet s.mem.dev a
  | none => unlisted

def State.sector? (s : State) (pa : Nat) : Option Sector := s.mem.sectors.find? (fun x => x.addr == sectorBase pa)

def State.l2Byte (s : State) (pa : Nat) : Byte :=
  match s.sector? pa with
  | some x => x.data.getD (pa % 128) unlisted
  | none => s.hbmByte pa

def byteRun (f : Nat → Byte) (a : Nat) : Nat → List Byte
  | 0 => []
  | n + 1 => f a :: byteRun f (a + 1) n

/-- Fetch the sector of an aperture address into the L2, where a view region holds it. -/
def State.l2Fill (s : State) (pa : Nat) : State :=
  match s.regionAt pa, s.sector? pa with
  | some _, none =>
    if apertureOf pa < 3 then
      { s with mem := { s.mem with sectors := s.mem.sectors ++ [⟨sectorBase pa, byteRun s.hbmByte (sectorBase pa) 128, false⟩] } }
    else s
  | _, _ => s

/-- n bytes read at the home L2 slices. [DESIGN CHOICE: log entry 14] -/
def State.l2Read (s : State) (pa : Nat) : Nat → State × List Byte
  | 0 => (s, [])
  | n + 1 =>
    let s1 := s.l2Fill pa
    let r := s1.l2Read (pa + 1) n
    (r.1, s1.l2Byte pa :: r.2)

def State.l2SetByte (s : State) (pa : Nat) (b : Byte) : State :=
  let s1 := s.l2Fill pa
  match s1.sector? pa with
  | some _ =>
    let l := modifyWhere (fun (x : Sector) => x.addr == sectorBase pa)
      (fun x => { x with data := x.data.set (pa % 128) b, dirty := true }) s1.mem.sectors
    { s1 with mem := { s1.mem with sectors := l } }
  | none =>
    match s1.canonOf pa with
    | some a => { s1 with mem := { s1.mem with dev := cellSet s1.mem.dev a b } }
    | none => s1

def State.l2SetBytes (s : State) (pa : Nat) : List Byte → State
  | [] => s
  | b :: l => (s.l2SetByte pa b).l2SetBytes (pa + 1) l

/-- The byte of storage that a location names: device memory by canonical address, whatever the view or path. -/
def State.storageOf (s : State) (l : Loc) : Option Loc :=
  match l.space with
  | .dev | .path => (s.canonOf l.addr).map (fun a => ⟨.dev, a⟩)
  | _ => some l

/-- Whether the runs of bytes a write has written hold a byte of storage. -/
def State.written (s : State) (w : List (Loc × Nat)) (b : Loc) : Bool :=
  w.any (fun x => (List.range x.2).any (fun i => s.storageOf ⟨x.1.space, x.1.addr + i⟩ == some b))

/-- A sector of 128 bytes that a write covers whole holds good data afterwards (16_recovery.md R392). [DEDUCED: log entry 46] -/
def State.heal (s : State) (w : List (Loc × Nat)) : State :=
  { s with mem := { s.mem with bad := s.mem.bad.filter (fun b =>
      !((List.range 128).all (fun i => s.written w ⟨b.space, sectorBase b.addr + i⟩))) } }

/-- Bytes written at the home L2 slices. -/
def State.l2Write (s : State) (pa : Nat) (data : List Byte) : State := (s.l2SetBytes pa data).heal [(⟨.dev, pa⟩, data.length)]

/-- Write one dirty sector back to memory. -/
def State.writeBack (s : State) (x : Sector) : State :=
  if x.dirty then
    let d := (x.data.zipIdx).foldl (fun m p =>
      match s.canonOf (x.addr + p.2) with
      | some a => cellSet m a p.1
      | none => m) s.mem.dev
    { s with mem := { s.mem with dev := d } }
  else s

/-- Make every write visible in every view: write back every dirty sector and drop all of them (R186, R188). [DEDUCED: log entry 43] -/
def State.syncViews (s : State) : State :=
  let s1 := s.mem.sectors.foldl State.writeBack s
  { s1 with mem := { s1.mem with sectors := [] } }

/-- The sectors, newest first, of which no set holds more than 16 lines of 1,024 bytes: those that stay, and those that go. `kept`
holds the lines kept so far (01_apnak_device.md Table 1-1, Table 1-2). -/
def sectorsKept (kept : List Nat) : List Sector → List Sector × List Sector
  | [] => ([], [])
  | x :: l =>
    let line := x.addr / 1024
    if kept.contains line || decide ((kept.filter (fun y => Config.l2Set y == Config.l2Set line)).length < 16) then
      let r := sectorsKept (if kept.contains line then kept else line :: kept) l
      (x :: r.1, r.2)
    else
      let r := sectorsKept kept l
      (r.1, x :: r.2)

/-- Evict what the ways of the L2 do not hold, the sectors longest in it first. [DESIGN CHOICE: log entry 22] -/
def State.trimL2 (s : State) : State :=
  if s.mem.sectors.length ≤ 16 then s
  else
    let r := sectorsKept [] s.mem.sectors.reverse
    let s1 := r.2.foldl State.writeBack s
    { s1 with mem := { s1.mem with sectors := r.1.reverse } }

/-- The lines of 128 bytes that an L1 of 256 KiB holds (Table 7-1). -/
def l1Lines : Nat := 2048

/-- Drop what the L1s do not hold, the lines longest in them first. [DESIGN CHOICE: log entry 22] -/
def State.trimL1 (s : State) : State :=
  { s with pavs := s.pavs.map (fun v => { v with l1 := v.l1.take l1Lines }) }

/-! ### The L1 and the write-through queue of a pavilion (Table 7-1, Table 7-3, R176) -/

def WtEntry.meets (e : WtEntry) (line : Nat) : Bool :=
  decide (e.addr / 128 ≤ line) && decide (line ≤ (e.addr + e.data.length - 1) / 128)

/-- Whether a queued write meets any line from lo to hi. -/
def WtEntry.within (e : WtEntry) (lo hi : Nat) : Bool :=
  decide (e.addr / 128 ≤ hi) && decide (lo ≤ (e.addr + e.data.length - 1) / 128)

/-- Perform at the L2 the queued writes of a pavilion that p selects, oldest first. -/
def State.drainWhere (s : State) (pav : Nat) (p : WtEntry → Bool) : State :=
  let q := (s.pav pav).wtq
  let s1 := s.modPav pav (fun v => { v with wtq := v.wtq.filter (fun e => !p e) })
  (q.filter p).foldl (fun s e => s.l2Write e.addr e.data) s1

def State.drainLine (s : State) (pav line : Nat) : State := s.drainWhere pav (fun e => e.meets line)
def State.drainAll (s : State) (pav : Nat) : State := s.drainWhere pav (fun _ => true)

def overlay (base : Nat) (data : List Byte) (e : WtEntry) : List Byte :=
  (e.data.zipIdx).foldl (fun d p =>
    if base ≤ e.addr + p.2 then d.set (e.addr + p.2 - base) p.1 else d) data

def Pavilion.line? (v : Pavilion) (line : Nat) : Option Line := v.l1.find? (fun x => x.addr == line)

def State.setLine (s : State) (pav line : Nat) (d : List Byte) : State :=
  s.modPav pav (fun v => { v with l1 := ⟨line, d⟩ :: v.l1.filter (fun x => x.addr != line) })

/-- Bring a line into a pavilion's L1: the L2's bytes under the pavilion's own queued writes. -/
def State.l1Fill (s : State) (pav line : Nat) : State :=
  let r := s.l2Read (line * 128) 128
  r.1.setLine pav line (((s.pav pav).wtq.filter (fun e => e.meets line)).foldl (overlay (line * 128)) r.2)

def State.l1Need (s : State) (pav line : Nat) : State :=
  match (s.pav pav).line? line with
  | some _ => s
  | none => s.l1Fill pav line

def State.l1Byte (s : State) (pav pa : Nat) : Byte :=
  match (s.pav pav).line? (pa / 128) with
  | some x => x.data.getD (pa % 128) unlisted
  | none => s.l2Byte pa

/-- A write hit updates the line; a miss allocates none. -/
def State.l1Update (s : State) (pav pa : Nat) (data : List Byte) : State :=
  s.modPav pav (fun v =>
    { v with l1 := v.l1.map (fun x => { x with data := (overlay (x.addr * 128) x.data (WtEntry.mk pa data)).take 128 }) })

/-- Drop every line of a pavilion's L1 (07_ordering_model.md R176). [DEDUCED: log entry 122] -/
def State.invalidateL1 (s : State) (pav : Nat) : State := s.modPav pav (fun v => { v with l1 := [] })

/-- Whether a scope is served at the pavilion's L1 rather than the L2 (Table 7-3). -/
def nearScope : Scope → Bool
  | .plot | .pav => true
  | _ => false

/-- A load from device memory (R167, R176). -/
def State.readDev (s : State) (pav pa n : Nat) (sc : Scope) : State × List Byte :=
  if nearScope sc then
    let s1 := (s.l1Need pav (pa / 128)).l1Need pav ((pa + n - 1) / 128)
    (s1, byteRun (s1.l1Byte pav) pa n)
  else
    let s1 := (s.drainLine pav (pa / 128)).drainLine pav ((pa + n - 1) / 128)
    let r := s1.l2Read pa n
    ((r.1.l1Fill pav (pa / 128)).l1Fill pav ((pa + n - 1) / 128), r.2)

/-- A store to device memory (R167). -/
def State.writeDev (s : State) (pav pa : Nat) (data : List Byte) (sc : Scope) : State :=
  if nearScope sc then
    (s.modPav pav (fun v => { v with wtq := v.wtq ++ [WtEntry.mk pa data] })).l1Update pav pa data
  else
    (((s.drainLine pav (pa / 128)).drainLine pav ((pa + data.length - 1) / 128)).l2Write pa data).l1Update pav pa data

/-- A load performed at its point of coherence (Table 7-3). -/
def State.readAt (s : State) (pav : Nat) (l : Loc) (n : Nat) (sc : Scope) : State × List Byte :=
  match l.space with
  | .dev => s.readDev pav l.addr n sc
  | .path => s.l2Read l.addr n
  | sp => (s, cellsGet (s.mem.cells sp) l.addr n)

/-- A store performed at its point of coherence (Table 7-3). -/
def State.writeAt (s : State) (pav : Nat) (l : Loc) (data : List Byte) (sc : Scope) : State :=
  match l.space with
  | .dev => s.writeDev pav l.addr data sc
  | .path => s.l2Write l.addr data
  | sp => ({ s with mem := s.mem.setCells sp (cellsSet (s.mem.cells sp) l.addr data) } : State).heal [(l, data.length)]

/-- A read by an engine or by the gatehouse: never from an L1 (09 R237). [DEDUCED: log entry 44] -/
def State.engineRead (s : State) (pav : Nat) (l : Loc) (n : Nat) : State × List Byte :=
  match l.space with
  | .dev | .path =>
    (s.drainWhere pav (fun e => e.within (l.addr / 128) ((l.addr + n - 1) / 128))).l2Read l.addr n
  | sp => (s, cellsGet (s.mem.cells sp) l.addr n)

/-- A write by an engine: at the home L2 slice, the matching L1 lines of the issuing pavilion dropped (09 R237). [DEDUCED: log entry 44] -/
def State.engineWrite (s : State) (pav : Nat) (l : Loc) (data : List Byte) : State :=
  match l.space with
  | .dev | .path =>
    let lo := l.addr / 128
    let hi := (l.addr + data.length - 1) / 128
    let s1 := s.drainWhere pav (fun e => e.within lo hi)
    (s1.l2Write l.addr data).modPav pav (fun v => { v with l1 := v.l1.filter (fun x => !(decide (lo ≤ x.addr) && decide (x.addr ≤ hi))) })
  | sp => ({ s with mem := s.mem.setCells sp (cellsSet (s.mem.cells sp) l.addr data) } : State).heal [(l, data.length)]

/-- The place among n bytes of the first that holds an uncorrectable error (16_recovery.md R392). -/
def State.firstBad (s : State) (l : Loc) (n : Nat) : Option Nat :=
  (List.range n).find? (fun i =>
    match s.storageOf ⟨l.space, l.addr + i⟩ with
    | some a => s.mem.bad.any (fun b => b == a)
    | none => false)

/-- A counter of Table 20-1: 32 bits, saturating (20_package_management.md R426). -/
def satInc (w : Word) : Word := if w = 0xFFFFFFFF#32 then w else w + 1#32

/-- The physical address that a report of an error carries (R393). [DESIGN CHOICE: log entry 15] -/
def State.errorAddress (s : State) (l : Loc) : Nat :=
  match l.space with
  | .dev | .path => (s.canonOf l.addr).getD l.addr
  | .spad => Config.localAddress 0 l.addr
  | .csp => Config.localAddress 1 l.addr
  | .host | .priv => l.addr

/-- Report an uncorrectable error at a physical address in the memory-error log, with the detail of Table 16-7, and over PCIe (R393, R426). [DESIGN CHOICE: log entry 15] -/
def State.logAt (s : State) (pa detail : Nat) : State :=
  let s1 := { s with mgmt := { s.mgmt with
    merrCount := satInc s.mgmt.merrCount
    merr := s.mgmt.merr ++ [(pa, (Config.stackOf pa).val + 16 * detail)] } }
  s1.emit (.aer pa)

def State.logError (s : State) (l : Loc) (detail : Nat) : State := s.logAt (s.errorAddress l) detail

/-! ### What LDI has read (07_ordering_model.md R179) -/

/-- The byte that an LDI of a launch read at a location. -/
def State.ldiByte (s : State) (launch : Nat) (l : Loc) : Option Byte :=
  s.mem.invs.findSome? (fun v =>
    if v.launch = launch ∧ v.loc.space = l.space ∧ v.loc.addr ≤ l.addr then v.data[l.addr - v.loc.addr]? else none)

/-- What a read of a launch finds where an LDI of the launch has read other bytes: those, or the bytes of now. [DESIGN CHOICE: log entry 126] -/
def State.stale (s : State) (launch : Nat) (l : Loc) (d : List Byte) : State × List Byte :=
  let old := d.zipIdx.map (fun x => (s.ldiByte launch ⟨l.space, l.addr + x.2⟩).getD x.1)
  if old = d then (s, d) else ({ s with free := s.free + 1 }, if Config.staleRead s.free then old else d)

/-- The same for bytes that lie in parts. -/
def State.staleParts (s : State) (launch : Nat) : List (Loc × Nat) → List Byte → State × List Byte
  | [], d => (s, d)
  | (l, n) :: rest, d =>
    let r := if s.mem.invs.isEmpty then (s, d.take n) else s.stale launch l (d.take n)
    let t := r.1.staleParts launch rest (d.drop n)
    (t.1, r.2 ++ t.2)

/-- Note what an LDI has read of memory that a cache may hold. -/
def State.noteLdi (s : State) (launch : Nat) : List (Loc × Nat) → List Byte → State
  | [], _ => s
  | (l, n) :: rest, d =>
    let s1 := if (l.space == .dev || l.space == .host) && (List.range n).any (fun i => (s.ldiByte launch ⟨l.space, l.addr + i⟩).isNone)
      then { s with mem := { s.mem with invs := s.mem.invs ++ [⟨launch, l, d.take n⟩] } } else s
    s1.noteLdi launch rest (d.drop n)

/-- The effect ends with the launch's completion. -/
def State.endLdi (s : State) (launch : Nat) : State :=
  { s with mem := { s.mem with invs := s.mem.invs.filter (fun v => v.launch != launch) } }

/-! ### Translation (R358–R361) -/

def AtcEntry.covers (e : AtcEntry) (pasid va : Nat) : Bool := e.pasid == pasid && e.va / 2 ^ e.log2 == va / 2 ^ e.log2

/-- A hit moves its entry to the front; the list keeps the n most recently used. -/
def touch {α : Type} [BEq α] (n : Nat) (e : α) (l : List α) : List α := (e :: l.filter (fun x => !(x == e))).take n

/-- The first n elements that p selects, and every other element. -/
def keepFirst {α : Type} (p : α → Bool) : Nat → List α → List α
  | _, [] => []
  | n, x :: l =>
    if p x then
      match n with
      | 0 => keepFirst p 0 l
      | m + 1 => x :: keepFirst p m l
    else x :: keepFirst p n l

/-- `touch` in a cache of 8 ways: `same` names the entries of the set of e, of which the 8 most recently used stay (Table 15-2). -/
def touchSet {α : Type} [BEq α] (same : α → Bool) (e : α) (l : List α) : List α :=
  let rest := l.filter (fun x => !(x == e))
  if rest.length < 8 then e :: rest else e :: keepFirst same 7 rest

/-- An entry used in its grove's ATC: 4,096 entries a grove. [DESIGN CHOICE: log entry 22] -/
def touchGrove (g : Nat × AtcEntry) (l : List (Nat × AtcEntry)) : List (Nat × AtcEntry) :=
  touchSet (fun x => x.1 == g.1 &&
    Config.groveSet x.2.pasid (x.2.va / 2 ^ x.2.log2) == Config.groveSet g.2.pasid (g.2.va / 2 ^ g.2.log2)) g l

/-- An entry used in the device ATC: 1,024 entries an L2 slice. [DESIGN CHOICE: log entry 22] -/
def touchDevice (e : AtcEntry) (l : List AtcEntry) : List AtcEntry :=
  touchSet (fun x => Config.deviceSet x.pasid (x.va / 2 ^ x.log2) == Config.deviceSet e.pasid (e.va / 2 ^ e.log2)) e l

/-- Look the page up in the three caches in order; a hit fills the levels above it. -/
def State.lookup (s : State) (pav pasid va : Nat) : Option (AtcEntry × State) :=
  match (s.pav pav).atc.find? (fun e => e.covers pasid va) with
  | some e => some (e, s.modPav pav (fun v => { v with atc := touch 256 e v.atc }))
  | none =>
    match (if pav < 320 then s.xl.grove.find? (fun g => g.1 == groveOf pav && g.2.covers pasid va) else none) with
    | some g => some (g.2, { (s.modPav pav (fun v => { v with atc := touch 256 g.2 v.atc })) with
        xl := { s.xl with grove := touchGrove g s.xl.grove } })
    | none =>
      match s.xl.device.find? (fun e => e.covers pasid va) with
      | some e => some (e, { (s.modPav pav (fun v => { v with atc := touch 256 e v.atc })) with
          xl := { s.xl with
            grove := if pav < 320 then touchGrove (groveOf pav, e) s.xl.grove else s.xl.grove
            device := touchDevice e s.xl.device } })
      | none => none

/-- What translation answers: a location; an unregistered aperture and the address of its first such byte (R195); a refused
page (R386); no entry; an entry or completion that does not permit the access (R361); memory that does not exist. -/
inductive Xlated where
  | at (l : Loc)
  | unregistered (pa : Nat)
  | refused
  | miss
  | denied
  | absent (pa : Nat)
  deriving DecidableEq, Repr

/-- Bytes of aperture 0 that the module has: 8 stacks of 64 × 10^9 bytes (Table 1-2, R7). -/
def deviceBytes : Nat := 512000000000

/-- The location a translated address selects (R359). [DEDUCED: log entry 13] -/
def State.place (s : State) (pa n : Nat) : Xlated :=
  if s.bar2 ≤ pa ∧ pa < s.bar2 + 2 ^ 52 then
    let off := pa - s.bar2
    match (List.range n).find? (fun i => (s.canonOf (off + i)).isNone) with
    | some i => .unregistered (off + i)
    | none => if apertureOf off = 0 ∧ deviceBytes < off + n then .absent off else .at ⟨.dev, off⟩
  else .at ⟨.host, pa⟩

def pageOf (va : Nat) : Nat := va / 4096

/-- Translate n bytes at a virtual address that lie in one 4 KiB page. -/
def State.translate (s : State) (pav pasid va n : Nat) (write : Bool) : Xlated × State :=
  match s.lookup pav pasid va with
  | some (e, s1) =>
    if (if write then e.w else e.r) then (s1.place (e.pa + va % 2 ^ e.log2) n, s1) else (.denied, s1)
  | none =>
    if s.xl.denied.any (fun d => d.pasid == pasid && d.page == pageOf va) then (.denied, s) else (.miss, s)

/-- An activity that has spent its budget waits for the next period, and the wait is counted, once in a period
(14_gatehouse_launch.md R354). [DESIGN CHOICE: log entry 48] -/
def Budget.wait (b : Budget) (k : Nat) : Budget :=
  if b.held.contains k then b else { b with throttle := satInc b.throttle, held := k :: b.held }

/-- The clock an activity counts on and the cycles of its period, nominally 1 µs: the active lodge's at 1,000 MHz for the firmware
(01_apnak_device.md R20), the leading gatehouse's at 940 MHz for the others (R16). [DESIGN CHOICE: log entry 48] -/
def State.budgetClock (s : State) (activity : Nat) : Nat × Nat :=
  if activity = 4 then (s.lodgeCycles s.mgmt.eastActive, 1000) else (s.dieCycles 0, 940)

/-- Whether an activity's period is over. -/
def State.periodOver (s : State) (activity : Nat) (b : Budget) : Bool :=
  let c := s.budgetClock activity
  decide (b.since + c.2 ≤ c.1)

/-- An activity's budget now: refilled where its period is over, at the limit set since (Table 14-9). [DESIGN CHOICE: log entry 48] -/
def State.budget (s : State) (i : Fin 6) : Budget :=
  let b := s.budgets[i]
  if s.periodOver i b then { b with limit := b.nextLimit, spent := [], held := [], since := (s.budgetClock i).1 } else b

def State.refill (s : State) (i : Fin 6) : State := { s with budgets := s.budgets.set i (s.budget i) }

/-- Spend n of an activity's budget in direction, port or stack k (14_gatehouse_launch.md R354). [DESIGN CHOICE: log entry 48] -/
def State.spend (s : State) (i : Fin 6) (k n : Nat) : Bool × State :=
  let b := s.budget i
  let used := b.spent.getD k 0
  if b.limit ≤ used then (false, { s with budgets := s.budgets.set i (b.wait k) })
  else
    let row := b.spent ++ List.replicate (k + 1 - b.spent.length) 0
    (true, { s with budgets := s.budgets.set i { b with spent := row.set k (used + n) } })

/-- Bytes of an access that cross PCIe, in one direction (Table 14-9): reads are direction 0, writes direction 1. [DESIGN CHOICE: log entry 48] -/
def State.dma (s : State) (write : Bool) (l : List (Loc × Nat)) : Bool × State :=
  let n := (l.filter (fun x => x.1.space == .host)).foldl (fun n x => n + x.2) 0
  if n = 0 then (true, s) else s.spend 0 (if write then 1 else 0) n

/-- Send an ATS Translation Request, unless one for the page is outstanding or the limits of R360 or the budget of
Table 14-9 hold it. -/
def State.askAts (s : State) (pav pasid va : Nat) (write : Bool) : State :=
  if s.xl.reqs.any (fun r => r.pasid == pasid && r.page == pageOf va) then s
  else if 2048 ≤ s.xl.reqs.length || 256 ≤ (s.xl.reqs.filter (fun r => r.pasid == pasid)).length then s
  else
    match s.spend 2 0 1 with
    | (false, s1) => s1
    | (true, s1) =>
      let id := s1.xl.nextReq
      { s1 with
        xl := { s1.xl with reqs := s1.xl.reqs ++ [⟨id, pasid, pageOf va, write, pav, false⟩], nextReq := id + 1 }
        out := s1.out ++ [.atsRequest id pasid (BitVec.ofNat 64 (pageOf va * 4096)) (!write)] }

/-- Whether an answered page request did not make the page permit the access, so that it counts as refused (R361). [DEDUCED: log entry 64] -/
def Plot.gaveUp (p : Plot) (va : Nat) (write : Bool) : Bool :=
  p.refused.contains (pageOf va) || p.answered.any (fun a => a.page == pageOf va && (a.write || !write))

/-- The translation of a strand or front-thread access (R361, R386). -/
def State.translateFor (s : State) (p : Plot) (va n : Nat) (write : Bool) : Xlated × State :=
  if p.refused.contains (pageOf va) then (.refused, s)
  else
    let r := s.translate p.pav (s.pasid p.ctx) va n write
    match r.1 with
    | .denied =>
      if p.gaveUp va write then
        (.refused, r.2.modPlot p.id (fun q => { q with refused := (q.refused ++ [pageOf va]).take 64 }))
      else r
    | _ => r

/-- A need for a translation: the virtual address and whether write access is asked. -/
structure Need where
  va : Nat
  write : Bool
  deriving DecidableEq, Repr

/-- Send the requests that waiting accesses of a pavilion need (R360). -/
def State.askAll (s : State) (pav pasid : Nat) (l : List Need) : State :=
  l.foldl (fun s n => s.askAts pav pasid n.va n.write) s

/-! ### Page requests (R361, R383) -/

/-- Page requests outstanding in the groups that p selects. -/
def Xlate.outstanding (x : Xlate) (p : PageGroup → Bool) : Nat :=
  (x.groups.filter (fun g => g.sent && p g)).foldl (fun n g => n + g.pages.length) 0

/-- Whether a group that waits passes neither limit of R361. -/
def State.groupFits (s : State) (g : PageGroup) : Bool :=
  decide (s.xl.outstanding (fun _ => true) + g.pages.length ≤ 16384) &&
    decide (s.xl.outstanding (fun h => h.ctx == g.ctx) + g.pages.length ≤ 1024)

/-- A group goes out whole. -/
def State.sendGroup (s : State) (g : PageGroup) : State :=
  { s with
    xl := { s.xl with groups := modifyWhere (fun h : PageGroup => h.id == g.id) (fun h => { h with sent := true }) s.xl.groups }
    out := s.out ++ [.pageRequest g.id g.pasid g.pages] }

/-- Send held groups, oldest first: one that does not fit holds those behind it (R361, R383). [DEDUCED: log entry 65] -/
def State.sendHeld (s : State) : List PageGroup → State
  | [] => s
  | g :: l => if s.groupFits g then (s.sendGroup g).sendHeld l else s

/-- Send the groups that wait, oldest first. -/
def State.sendGroups (s : State) : State := s.sendHeld (s.xl.groups.filter (fun g => !g.sent))

/-- A new group of pages. -/
def State.addGroup (s : State) (ctx : Nat) (pages : List PageNeed) (plot copy : Option Nat) : State :=
  let g : PageGroup := ⟨s.xl.nextGroup, s.pasid ctx, ctx, pages, false, plot, copy⟩
  ({ s with xl := { s.xl with groups := s.xl.groups ++ [g], nextGroup := s.xl.nextGroup + 1 } } : State).sendGroups

/-- Ask the host for a page on behalf of no plot, unless a request for it is out. -/
def State.askPage (s : State) (ctx : Nat) (n : PageNeed) : State :=
  if s.xl.groups.any (fun g => g.plot.isNone && g.ctx == ctx && g.pages.any (fun q => q.page == n.page)) then s
  else s.addGroup ctx [n] none none

/-- Forget a page's refusal once it is reported. [DEDUCED: log entry 66] -/
def Xlate.forget (x : Xlate) (pasid page : Nat) : Xlate :=
  { x with
    answered := x.answered.filter (fun a => !(a.1 == pasid && a.2.page == page))
    refused := x.refused.filter (fun a => !(a.1 == pasid && a.2 == page))
    denied := x.denied.filter (fun d => !(d.pasid == pasid && d.page == page)) }

/-- Whether the host has refused a page to an access that belongs to no plot, or answered for it and still does not permit the
access (R361). -/
def Xlate.refusedPage (x : Xlate) (pasid va : Nat) : Bool := x.refused.any (fun a => a.1 == pasid && a.2 == pageOf va)
def Xlate.answeredPage (x : Xlate) (pasid va : Nat) (write : Bool) : Bool :=
  x.answered.any (fun a => a.1 == pasid && a.2.page == pageOf va && (a.2.write || !write))

end Sys2Proof.Machine
end

