-- ==== Sys2Proof/Machine/Operands.lean ====
section
/-! DEFINITION. Operand forms: which registers and flags an instruction reads and writes (11_strands_bundles.md R297), the
effective address (02_clauses_encoding.md R47–R50), the local windows (R48, R49; 14_gatehouse_launch.md R341), name ranges
(08_views_versions.md R204) and the range-lock check (07_ordering_model.md R181). -/

namespace Sys2Proof.Machine

/-! ### Registers an instruction names -/

def regNum (r : Reg) : Nat := r.toNat

/-- Flag f stands as number 64 + f. -/
def flagNum (f : BitVec 2) : Nat := 64 + f.toNat

/-- A run of n registers, as far as register 63. [DEDUCED: log entry 103] -/
def runOf (r : Reg) (n : Nat) : List Nat := ((List.range n).map (fun i => r.toNat + i)).filter (fun i => decide (i < 64))

/-- A 64-bit operand: a pair in the lane stream, one register in the uniform stream. -/
def wideOf (st : Stream) (r : Reg) : List Nat :=
  match st with
  | .lane => runOf r 2
  | .uniform => [r.toNat]

/-- What an instruction reads and writes, flags included. -/
structure Use where
  rd : List Nat
  wr : List Nat
  deriving DecidableEq, Repr

def use3 (d a b : Reg) : Use := ⟨[regNum a, regNum b], [regNum d]⟩
def use2 (d a : Reg) : Use := ⟨[regNum a], [regNum d]⟩
def usePair3 (d a b : Reg) : Use := ⟨runOf a 2 ++ runOf b 2, runOf d 2⟩

def condFlags : Cond → List Nat
  | .always => []
  | .ifSet f => [flagNum f]
  | .ifClear f => [flagNum f]

def memAddr (st : Stream) (a : Reg) (w : Win) : List Nat := if w = .global then wideOf st a else [regNum a]
def memData (st : Stream) (d : Reg) (z : Size) : List Nat :=
  match st, z with
  | .lane, .wide => runOf d 2
  | _, _ => [regNum d]

def useAtom (st : Stream) (d a b : Reg) : Use := ⟨wideOf st a ++ [regNum b], [regNum d]⟩

def useCpy (st : Stream) (linr : Bool) (d a b : Reg) : Use :=
  ⟨runOf d 2 ++ wideOf st a ++ (match st with
    | .lane => if linr then runOf b 2 else runOf b 4
    | .uniform => if linr then [regNum b] else runOf b 2), []⟩

def useFab (d a : Reg) : Use := ⟨regNum d :: runOf a 4, []⟩

/-- The registers and flags an instruction reads and writes in a stream. An event names none. [DEDUCED: log entry 103] -/
def useOf (st : Stream) : Instr → Use
  | .add d a b | .sub d a b | .mul d a b | .mulhs d a b | .mulhz d a b | .andR d a b | .orR d a b | .xorR d a b
  | .andn d a b | .shl d a b | .shr d a b | .sra d a b | .rol d a b | .mins d a b | .maxs d a b | .minz d a b
  | .maxz d a b | .absd d a b | .addsat d a b | .subsat d a b | .bfx d a b => use3 d a b
  | .bfi d a b => ⟨[regNum a, regNum b, regNum d], [regNum d]⟩
  | .popc d a | .clz d a | .brev d a => use2 d a
  | .selF0 d a b => ⟨[regNum a, regNum b, 64], [regNum d]⟩
  | .selF1 d a b => ⟨[regNum a, regNum b, 65], [regNum d]⟩
  | .selF2 d a b => ⟨[regNum a, regNum b, 66], [regNum d]⟩
  | .selF3 d a b => ⟨[regNum a, regNum b, 67], [regNum d]⟩
  | .addi d a _ | .andi d a _ | .ori d a _ | .xori d a _ => use2 d a
  | .shfiShl d a _ | .shfiShr d a _ | .shfiSra d a _ | .shfiRol d a _ => use2 d a
  | .movh d _ => ⟨[], [regNum d]⟩
  | .movw d _ => ⟨[], [regNum d]⟩
  | .icmp f _ a b => ⟨[regNum a, regNum b], [flagNum f]⟩
  | .icmpi f _ a _ => ⟨[regNum a], [flagNum f]⟩
  | .fadd d a b _ | .fsub d a b _ | .fmul d a b _ => use3 d a b
  | .fmin d a b | .fmax d a b | .fminn d a b | .fmaxn d a b | .fcpys d a b => use3 d a b
  | .fabs d a | .fneg d a | .fclass d a => use2 d a
  | .fsqrt d a _ | .frcp d a _ | .frsq d a _ | .fexp2 d a _ | .flog2 d a _ => use2 d a
  | .faddX2 d a b _ | .fmulX2 d a b _ | .faddP2 d a b _ | .fmulP2 d a b _ => usePair3 d a b
  | .fma d a b c _ | .fms d a b c _ | .fnma d a b c _ => ⟨[regNum a, regNum b, regNum c], [regNum d]⟩
  | .fmaX2 d a b c _ | .fmaP2 d a b c _ => ⟨runOf a 2 ++ runOf b 2 ++ runOf c 2, runOf d 2⟩
  | .fcmp f _ a b => ⟨[regNum a, regNum b], [flagNum f]⟩
  | .cvt d a b t r _ =>
    ⟨runOf a 8 ++ (if r = .sr then [regNum b] else []), if t = .f32 then runOf d 8 else if t = .f32p then runOf d 2 else runOf d 4⟩
  | .tagset d a _ => use2 d a
  | .tagget d a => use2 d a
  | .tagchk a _ => ⟨[regNum a], []⟩
  | .shfl d a b | .shflx d a b | .shflu d a b | .shfld d a b => use3 d a b
  | .ballot d f => ⟨[flagNum f], [regNum d]⟩
  | .anyF g f | .allF g f => ⟨[flagNum f], [flagNum g]⟩
  | .redadd d a | .redmaxs d a | .redfadd d a | .scanadd d a => use2 d a
  | .mxqE2m1 d a b => ⟨runOf a 8 ++ [regNum b], runOf d 2⟩
  | .mxqE4m3 d a b | .mxqE5m2 d a b => ⟨runOf a 4 ++ [regNum b], runOf d 2⟩
  | .mxdq d a b => ⟨[regNum a, regNum b], runOf d 8⟩
  | .bcast d a _ => use2 d a
  | .ld d a z w _ _ | .lda d a z w _ _ | .ldi d a z w _ _ => ⟨memAddr st a w, memData st d z⟩
  | .st d a z w _ _ | .stl d a z w _ _ => ⟨memAddr st a w ++ memData st d z, []⟩
  | .ldv d a b z _ _ => ⟨wideOf st a ++ [regNum b], 64 :: memData st d z⟩
  | .atomAdd d a b _ _ | .atomAnd d a b _ _ | .atomOr d a b _ _ | .atomXor d a b _ _ | .atomMins d a b _ _
  | .atomMaxs d a b _ _ | .atomMinz d a b _ _ | .atomMaxz d a b _ _ | .atomXchg d a b _ _ | .atomFadd d a b _ _
  | .atomIncw d a b _ _ => useAtom st d a b
  | .atomCas d a b _ _ => ⟨wideOf st a ++ runOf b 2, [regNum d]⟩
  | .fenceFull _ | .fenceAcq _ | .fenceRel _ | .fenceView _ => ⟨[], []⟩
  | .stmx d a b _ => ⟨runOf d 2 ++ runOf a 2 ++ runOf b 2, []⟩
  | .pf a _ => ⟨runOf a 2, []⟩
  | .vopen d a b => ⟨wideOf st a ++ [regNum b], 64 :: wideOf st d⟩
  | .vcommit a b _ => ⟨wideOf st a ++ [regNum b], [64]⟩
  | .vquery d a => ⟨wideOf st a, 64 :: wideOf st d⟩
  | .vretire a b => ⟨wideOf st a ++ [regNum b], [64]⟩
  | .br c _ | .brx c _ => ⟨condFlags c, []⟩
  | .call c _ => ⟨condFlags c, [63]⟩
  | .jr a => ⟨[regNum a], []⟩
  | .ret => ⟨[63], []⟩
  | .callr a => ⟨[regNum a], [63]⟩
  | .wait _ _ _ _ | .yield | .exit | .leave | .rdv | .nop => ⟨[], []⟩
  | .join _ => ⟨[], [64]⟩
  | .spawn a => ⟨regNum a :: runOf 0#6 8, [64]⟩
  | .reorder a _ => ⟨List.range 68, regNum a :: List.range 64⟩
  | .popq d | .peekq d => ⟨[], [regNum d, 64]⟩
  | .pushq a => ⟨[regNum a], []⟩
  | .movsr d _ => ⟨[], [regNum d]⟩
  | .movrs a _ => ⟨[regNum a], []⟩
  | .barInit a _ => ⟨[regNum a], []⟩
  | .barArrive d _ => ⟨[], [regNum d, 64]⟩
  | .barWait d _ => ⟨[regNum d], [regNum d, 64]⟩
  | .barSync d _ => ⟨[], [regNum d, 64]⟩
  | .barInval _ => ⟨[], []⟩
  | .barQuery d _ => ⟨[], [regNum d]⟩
  | .ainit a b => ⟨[regNum a, regNum b], []⟩
  | .await d a b => use3 d a b
  | .aadd a b => ⟨[regNum a, regNum b], []⟩
  | .rinit d a | .rwaitf d a => ⟨[regNum a], [regNum d, 64]⟩
  | .rrel a => ⟨[regNum a], [64]⟩
  | .rstat d a => use2 d a
  | .trap _ | .brk _ | .eret | .ud => ⟨[], []⟩
  | .rkset a _ => ⟨wideOf st a, []⟩
  | .mma _ a b _ _ => ⟨[regNum a, regNum b], []⟩
  | .mmag _ a b _ _ => ⟨runOf a 2 ++ [regNum b], []⟩
  | .tzero _ _ | .tadd _ _ _ => ⟨[], []⟩
  | .tld _ a _ | .tst _ a | .tscal _ a => ⟨[regNum a], []⟩
  | .drain _ a b _ _ _ => ⟨runOf a 2 ++ runOf b 2, []⟩
  | .cpyTload d a b _ _ | .cpyTstore d a b _ _ | .cpyTaddf d a b _ _ | .cpyGather d a b _ _ | .cpyPubl d a b _ _
  | .cpyPull d a b _ _ => useCpy st false d a b
  | .cpyLinr d a b _ _ => useCpy st true d a b
  | .fabRwrite d a _ | .fabRread d a _ | .fabRadd d a _ | .fabRatom d a _ | .fabMcast d a _ | .fabSend d a _ _
  | .fabRecv d a _ _ => useFab d a
  | .fabRfence _ => ⟨[], []⟩
  | .copen d a b => ⟨[regNum d, regNum a, regNum b], [regNum d, 64]⟩
  | .contrib d a b => ⟨[regNum d, regNum a, regNum b], [64]⟩
  | .cwait d a | .cstat d a => ⟨[regNum a], [regNum d, 64]⟩
  | .cclose a | .crepost a => ⟨[regNum a], [64]⟩
  | .sadv d a | .swait d a | .smin d a | .slead d a => ⟨[regNum a], [regNum d, 64]⟩
  | .speer d a b | .sabs d a b => ⟨[regNum d, regNum a, regNum b], [regNum d, 64]⟩
  | .emit a b => ⟨regNum a :: runOf b 8, [64]⟩
  | .emitw d a b => ⟨regNum d :: regNum a :: runOf b 8, [regNum d, 64]⟩
  | .qstat d a | .depth d a => ⟨[regNum a], [regNum d, 64]⟩
  | _ => ⟨[], []⟩

/-- The registers a pending load writes. -/
def PLoad.writes (l : PLoad) : List Nat := if l.pair then runOf l.dst 2 else [l.dst.toNat]

/-- Whether a register of the agent is pending (R297): a load of its own, or, for a register of the handler bank, any load
into the bank. -/
def Regs.pendingOn (g : Regs) (w : Who) (n : Nat) : Bool :=
  match g.agent? w with
  | some ag =>
    if ag.handler && decide (56 ≤ n) then
      g.agents.any (fun (x, a) => streamOf x == streamOf w && a.loads.any (fun l => l.handler && l.writes.contains n))
    else ag.loads.any (fun l => (!l.handler || decide (n < 56)) && l.writes.contains n)
  | none => false

/-- The scoreboard (R297, R298): whether the word may issue for the agent. -/
def Regs.clear (g : Regs) (w : Who) (u : Use) : Bool := !((u.rd ++ u.wr).any (fun n => g.pendingOn w n))

/-! ### Effective addresses and windows -/

def sizeBytes : Size → Nat
  | .byte => 1
  | .half => 2
  | .word => 4
  | .wide => 8

/-- The base of the local windows (Table 2-9). -/
def windowBase : Win → DWord
  | .global => 0#64
  | .spad => 0xFFFF000000000000#64
  | .gsm => 0xFFFF000100000000#64
  | .csp => 0xFFFF000200000000#64
  | .priv => 0xFFFF000300000000#64

/-- The effective address of a format M word (R46, R47): modulo 2^64 for GLOBAL, modulo 2^32 within a window. -/
def Regs.ea (g : Regs) (w : Who) (a : Reg) (z : Size) (win : Win) (off : BitVec 6) : DWord :=
  match win with
  | .global => g.wide w a + off.signExtend 64 * BitVec.ofNat 64 (sizeBytes z)
  | _ => windowBase win + (((g.zx w a).setWidth 32) + off.signExtend 32 * BitVec.ofNat 32 (sizeBytes z)).setWidth 64

/-- Where an address lies: a window of the window's offset, beyond the windows, or global (R50). -/
inductive Region where
  | window (w : Win) (off : Nat)
  | beyond
  | global (va : Nat)
  deriving DecidableEq, Repr

def regionOf (ea : DWord) : Region :=
  if ea < 0xFFFF000000000000#64 then .global ea.toNat
  else if ea < 0xFFFF000100000000#64 then .window .spad (ea.toNat % 2 ^ 32)
  else if ea < 0xFFFF000200000000#64 then .window .gsm (ea.toNat % 2 ^ 32)
  else if ea < 0xFFFF000300000000#64 then .window .csp (ea.toNat % 2 ^ 32)
  else if ea < 0xFFFF000400000000#64 then .window .priv (ea.toNat % 2 ^ 32)
  else .beyond

def spadBytes : Nat := 524288

/-- The flat number of a byte of a context's part of a pavilion's SPAD. -/
def spadAt (pav ctx off : Nat) : Nat := (pav * 64 + ctx) * 2 ^ 19 + off

/-- The flat number of a byte of a context's part of the CSP (the window offset within it). -/
def cspAt (ctx off : Nat) : Nat := ctx * 2 ^ 26 + off

/-- The flat number of a byte of a strand's private area. [DESIGN CHOICE: log entry 47] -/
def privAt (plot key off : Nat) : Nat := (plot * 2 ^ 32 + key) * 2 ^ 32 + off

/-- n bytes of SPAD of a pavilion, in the context's part (R341). -/
def State.spadLoc (s : State) (pav ctx off n : Nat) : Option Loc :=
  match s.ctx? ctx with
  | some c => if (s.pav pav).parts.contains ctx ∧ off + n ≤ c.spad then some ⟨.spad, spadAt pav ctx off⟩ else none
  | none => none

/-- n bytes at a window offset, where they lie wholly in the part of the calling agent's context (R48, R49). -/
def State.windowLoc (s : State) (p : Plot) (key : Option Nat) (w : Win) (off n : Nat) : Option Loc :=
  match w with
  | .global => none
  | .spad => s.spadLoc p.pav p.ctx off n
  | .gsm =>
    if off < 8 * spadBytes then s.spadLoc (groveOf p.pav * 8 + off / spadBytes) p.ctx (off % spadBytes) n else none
  | .csp =>
    match s.ctx? p.ctx with
    | some c => if off < 2 ^ 26 ∧ c.present ∧ off % 2 ^ 25 + n ≤ c.csp then some ⟨.csp, cspAt p.ctx off⟩ else none
    | none => none
  | .priv =>
    match key with
    | some k => if off + n ≤ p.privBytes then some ⟨.priv, privAt p.id k off⟩ else none
    | none => none

/-- The pieces of an access that each lie in one page and one part: a pair at an address that is no multiple of 8 is two
words (R164). -/
def pieces (ea : DWord) (n : Nat) : List (DWord × Nat) :=
  if n = 8 ∧ ea.toNat % 8 ≠ 0 then [(ea, 4), (ea + 4#64, 4)] else [(ea, n)]

/-! ### Name ranges and range locks -/

def VRegion.holds (r : VRegion) (va : Nat) : Bool := decide (r.nameBase ≤ va) && decide (va < r.nameBase + r.pages * 65536)

/-- The versioned region of a context whose name range holds an address (R204): of two that overlap, the one registered first. [DESIGN CHOICE: log entry 132] -/
def State.nameRange (s : State) (ctx va : Nat) : Option VRegion := s.vregs.find? (fun r => r.ctx == ctx && r.holds va)

/-- Whether any of n bytes from va lies in a name range of the context. -/
def State.touchesName (s : State) (ctx va n : Nat) : Bool :=
  s.vregs.any (fun r => r.ctx == ctx && decide (va < r.nameBase + r.pages * 65536) && decide (r.nameBase < va + n))

/-- A byte as the range-lock table names it (R180). -/
inductive LockByte where
  | local (sp : Space) (a : Nat)
  | global (va : Nat)
  deriving DecidableEq, Repr

def Range.holds : Range → LockByte → Bool
  | .local sp lo hi, .local sq a => sp == sq && decide (lo ≤ a) && decide (a ≤ hi)
  | .global lo hi, .global va => decide (lo ≤ va) && decide (va ≤ hi)
  | _, _ => false

def Range.meets : Range → Range → Bool
  | .local sp lo hi, .local sq lo' hi' => sp == sq && decide (lo ≤ hi') && decide (lo' ≤ hi)
  | .global lo hi, .global lo' hi' => decide (lo ≤ hi') && decide (lo' ≤ hi)
  | _, _ => false

/-- Whether a byte is locked against an access (R181): a destination range, or any range for a store. -/
def State.lockedByte (s : State) (p : Plot) (b : LockByte) (store : Bool) : Bool :=
  (s.pav p.pav).locks.any (fun l => l.ctx == p.ctx && (l.dst || store) && l.range.holds b)

/-- The address of the first locked byte of a piece of an access (R181). [DEDUCED: log entry 49] -/
def State.lockHit (s : State) (p : Plot) (ea : DWord) (n : Nat) (loc : Option Loc) (store : Bool) : Option DWord :=
  ((List.range n).find? (fun i =>
    match loc with
    | some l => s.lockedByte p (.local l.space (l.addr + i)) store
    | none => s.lockedByte p (.global (ea.toNat + i)) store)).map (fun i => ea + BitVec.ofNat 64 i)

end Sys2Proof.Machine
end

