-- ==== Sys2Proof/Machine/Ops.lean ====
section
/-! DEFINITION. The operations every meaning shares: reading code (02_clauses_encoding.md R29–R33), the frontier
(11_strands_bundles.md R276, R280), retiring a word and leaving a clause (R36, R275), recording a trap, TAKING it and
returning from it (16_recovery.md R376–R380; 12_control_instructions.md R319), retiring a plot (R300), and issuing one word
for the members of a bundle or for the front thread (R278, R297, R382). -/

namespace Sys2Proof.Machine

/-! ### What a word waits for -/

/-- Why a word does not retire: translations on their way; page requests needed (R381); memory the module does not have;
anything else the word stalls on. -/
inductive Hold where
  | ats (l : List Need)
  | page (l : List Need)
  | absent (pa : Nat)
  | stall
  deriving DecidableEq, Repr

/-- A value read, the MCHKs the read reports (DETAIL and srTVAL), and the state after it. -/
structure Rd (α : Type) where
  val : α
  notes : List (Nat × DWord)
  s : State

abbrev Got (α : Type) := Except Hold (Rd α)

/-- n bytes of one page read for a plot, never from an L1; an error in them is reported with the given DETAIL. -/
def State.readPage (s : State) (p : Plot) (detail va n : Nat) : Got (List Byte) :=
  match s.translateFor p va n false with
  | (.at l, s1) =>
    let r := s1.engineRead p.pav l n
    match s.firstBad l n with
    | some i => .ok ⟨List.replicate n 0#8, [(detail, BitVec.ofNat 64 (va + i))], r.1.logError ⟨l.space, l.addr + i⟩ detail⟩
    | none => .ok ⟨r.2, [], r.1⟩
  | (.unregistered pa, s1) => .ok ⟨List.replicate n 0#8, [(5, BitVec.ofNat 64 pa)], s1⟩
  | (.refused, s1) => .ok ⟨List.replicate n 0#8, [(8, BitVec.ofNat 64 va)], s1⟩
  | (.miss, _) => .error (.ats [⟨va, false⟩])
  | (.denied, _) => .error (.page [⟨va, false⟩])
  | (.absent pa, _) => .error (.absent pa)

/-- At most 4,096 bytes, in one page or two. -/
def State.readSpan (s : State) (p : Plot) (detail va n : Nat) : Got (List Byte) :=
  let k := 4096 - va % 4096
  if n ≤ k then s.readPage p detail va n
  else
    match s.readPage p detail va k with
    | .error h => .error h
    | .ok a =>
      match a.s.readPage p detail (va + k) (n - k) with
      | .error h => .error h
      | .ok b => .ok ⟨a.val ++ b.val, a.notes ++ b.notes, b.s⟩

/-! ### Code (R29–R33) -/

/-- The word at an offset of the code object. -/
def State.codeWord (s : State) (p : Plot) (off : Word) : Got Word :=
  match s.codeOf p with
  | none => .error .stall
  | some l =>
    match s.readPage p 7 ((l.code + off.setWidth 64).toNat) 4 with
    | .error h => .error h
    | .ok r => .ok ⟨BitVec.ofNat 32 (leNat r.val), r.notes, r.s⟩

/-- The bit of the clause map for an offset (R30). -/
def State.mapBit (s : State) (p : Plot) (off : Word) : Got Bool :=
  match s.codeOf p with
  | none => .error .stall
  | some l =>
    match s.readPage p 7 ((l.map + BitVec.ofNat 64 (off.toNat / 32)).toNat) 1 with
    | .error h => .error h
    | .ok r => .ok ⟨Nat.testBit (leNat r.val) (off.toNat / 4 % 8), r.notes, r.s⟩

/-- Whether R29 admits an offset: a multiple of 4 within the code object. [DEDUCED: log entry 32] -/
def State.offsetOk (s : State) (p : Plot) (off : Word) : Bool :=
  match s.codeOf p with
  | none => false
  | some l => decide (off.toNat % 4 = 0) && decide (off.toNat < l.bytes)

/-- CheckEntry (R303): R29 and the clause map (R31). -/
def State.checkEntry (s : State) (p : Plot) (off : Word) : Got Bool :=
  if s.offsetOk p off then s.mapBit p off else .ok ⟨false, [], s⟩

/-! The fields of a clause header (Table 2-1). -/

def hdrCnt (h : Word) : Nat := (h >>> 28).toNat % 16
def hdrCls (h : Word) : Nat := (h >>> 25).toNat % 8
def hdrWld (h : Word) : Nat := (h >>> 21).toNat % 16
def hdrWst (h : Word) : Nat := (h >>> 17).toNat % 16
def hdrWcp (h : Word) : Nat := (h >>> 13).toNat % 16
def hdrWtl (h : Word) : Nat := (h >>> 9).toNat % 16
def hdrYld (h : Word) : Bool := h.getLsbD 8
def hdrPrio (h : Word) : Nat := h.toNat % 256

/-- The offset after the last word of a clause. -/
def Clause.stop (c : Clause) : Nat := c.hpc.toNat + 4 + 4 * hdrCnt c.hw

/-- Classes a stream admits (Table 2-3). -/
def classOk (st : Stream) (cls : Nat) : Bool :=
  match st with
  | .lane => cls == 0 || cls == 3 || cls == 4 || cls == 5
  | .uniform => cls == 1 || cls == 2 || cls == 3 || cls == 4 || cls == 5

/-- A count against a wait value (R34, R296): 15 imposes nothing. -/
def waitMet (count limit : Nat) : Bool := limit == 15 || decide (count ≤ limit)

def PLoad.isAtom (l : PLoad) : Bool := match l.kind with | .atom .. => true | _ => false

/-- The outstanding-store count: stores, and the writes of ATOMs (Table 11-6). -/
def Agent.storeCount (a : Agent) : Nat := a.stores.length + (a.loads.filter PLoad.isAtom).length

/-- The four conditions of R34 and R305. -/
def Plot.countsMet (p : Plot) (ag : Agent) (ld st cp tl : Nat) : Bool :=
  waitMet ag.loads.length ld && waitMet ag.storeCount st && waitMet p.copies.length cp && waitMet p.tops.length tl

def Plot.headerMet (p : Plot) (ag : Agent) (h : Word) : Bool := p.countsMet ag (hdrWld h) (hdrWst h) (hdrWcp h) (hdrWtl h)

/-! ### The frontier (R276, R280, R283) -/

/-- The strands that wait at an offset and are not in the overflow queue. -/
def Regs.at (g : Regs) (addr : Word) : List Strand :=
  g.strands.filter (fun st => st.ag.phase == .waiting && st.ag.pc == addr && !g.overflow.contains st.key)

/-- A strand that has come to wait joins the entry of its offset, opens one, or joins the overflow queue. -/
def Regs.join (g0 : Regs) (k : Nat) (yields : Bool) : Regs :=
  let g := { g0 with overflow := g0.overflow.filter (fun j => j != k) }
  let mark := fun (b : Bool) (st : Strand) => { st with ag := { st.ag with yieldNext := b } }
  match g.strand? k with
  | none => g
  | some st =>
    if g.frontier.any (fun e => e.addr == st.ag.pc) then
      { g with frontier := modifyWhere (fun e => e.addr == st.ag.pc) (fun e => { e with yielded := e.yielded || yields }) g.frontier }
    else if g.frontier.length < 32 then { g with frontier := g.frontier ++ [⟨st.ag.pc, 0, none, yields⟩] }
    else { (g.modStrand k (mark yields)) with overflow := g.overflow ++ [k] }

/-- Admit the oldest strand of the overflow queue, with every other at its address (R280); a yield that one of them has brought with
it lowers the entry (R283). -/
def Regs.admitFirst (g : Regs) : Regs :=
  match g.overflow with
  | [] => g
  | k :: _ =>
    match g.strand? k with
    | none => { g with overflow := g.overflow.drop 1 }
    | some st =>
      let here := fun j => match g.strand? j with | some x => x.ag.pc == st.ag.pc | none => true
      let mine := fun (x : Strand) => g.overflow.contains x.key && x.ag.pc == st.ag.pc
      { g with
        strands := modifyWhere mine (fun x => { x with ag := { x.ag with yieldNext := false } }) g.strands
        overflow := g.overflow.filter (fun j => !here j)
        frontier := g.frontier ++ [⟨st.ag.pc, 0, none, g.strands.any (fun x => mine x && x.ag.yieldNext)⟩] }

def Regs.admitAll (g : Regs) : Nat → Regs
  | 0 => g
  | n + 1 => if g.frontier.length < 32 ∧ g.overflow ≠ [] then g.admitFirst.admitAll n else g

/-- Entries that hold no strand cease to exist, and the overflow queue moves up (R276, R280). -/
def Regs.settle (g : Regs) : Regs :=
  let g1 := { g with frontier := g.frontier.filter (fun e => !(g.at e.addr).isEmpty) }
  g1.admitAll 32

/-! ### Leaving a word -/

/-- The agent comes to wait at an offset outside any clause it has entered: a clause boundary, where its stay in a clause ends.
`since` 0 stands for now, until the end of the word or event stamps it. -/
def Regs.boundary (g : Regs) (w : Who) (pc : Word) (yields : Bool) : Regs :=
  let g1 := g.modAgent w (fun a =>
    { a with
      pc := pc, clause := none, phase := .waiting, wait := .none, yieldNext := false, since := 0, visit := a.visit + 1 })
  match w with
  | .front => g1
  | .strand k => g1.join k yields

/-- The yield of a clause or of a YIELD word (R283). -/
def Agent.yields (a : Agent) : Bool :=
  a.yieldNext || (match a.clause with | some c => hdrYld c.hw | none => false)

/-- The agent comes to wait within its clause, to be re-entered at an offset (R37), with a yield where it has one (R283). -/
def Regs.reenterAs (g : Regs) (w : Who) (pc : Word) (yields : Bool) : Regs :=
  let g1 := g.modAgent w (fun a => { a with pc := pc, phase := .waiting, wait := .none, since := 0, yieldNext := false })
  match w with
  | .front => g1
  | .strand k => g1.join k yields

def Regs.reenter (g : Regs) (w : Who) (pc : Word) : Regs :=
  g.reenterAs w pc (match g.agent? w with | some a => a.yields | none => false)

/-- The word of len bytes at the agent's offset retires, and control goes to the next word: on in the clause, or to the
clause boundary after its last word. -/
def Regs.retire (g : Regs) (w : Who) (len : Nat) : Regs :=
  match g.agent? w with
  | none => g
  | some a =>
    let pc := a.pc + BitVec.ofNat 32 len
    match a.clause with
    | none => g.boundary w pc a.yields
    | some c =>
      if c.stop ≤ pc.toNat then g.boundary w pc a.yields
      else if a.phase = .issuing then g.modAgent w (fun a => { a with pc := pc })
      else g.reenter w pc

/-- The word retires and transfers control. -/
def Regs.jump (g : Regs) (w : Who) (target : Word) : Regs :=
  match g.agent? w with
  | none => g
  | some a => g.boundary w target a.yields

/-- The agent becomes BLOCKED at its word (R274): `words` numbers the word among all that were issued, and `now` is the die's clock.
[DEDUCED: log entry 41] [DEDUCED: log entry 41] -/
def Regs.blockAt (g : Regs) (w : Who) (wt : Wait) (words now : Nat) : Regs :=
  g.modAgent w (fun a => { a with phase := .blocked, wait := wt, since := words, blockedAt := now })

/-- The agent is HELD at its word with the trap pending (R275); one that waits there already keeps its place in the entry or the
overflow queue (R280). -/
def Regs.holdTrap (g : Regs) (w : Who) (t : Trap) : Regs :=
  let g1 := g.modAgent w (fun a => { a with trap := some t })
  match g.agent? w with
  | some a => if a.phase = .waiting ∧ a.pc = t.pc then g1 else g1.reenter w t.pc
  | none => g1

/-! ### Cohorts (R291) -/

def Strand.isLive (st : Strand) : Bool := st.ag.phase != .exited

def Regs.cohort (g : Regs) (c : BitVec 4) : List Strand := g.strands.filter (fun st => st.isLive && st.cohort == some c)

def distinct : List Nat → Bool
  | [] => true
  | x :: l => !l.contains x && distinct l

/-- A cohort is locked exactly when it has 32 members on distinct home lanes. -/
def Regs.locked (g : Regs) (c : BitVec 4) : Bool :=
  (g.cohort c).length == 32 && distinct ((g.cohort c).map (fun st => st.lane))

/-- The locked cohort of a strand. -/
def Regs.lockedOf (g : Regs) (k : Nat) : Option (BitVec 4) :=
  match g.strand? k with
  | some st => match st.cohort with | some c => if g.locked c then some c else none | none => none
  | none => none

/-- Members that wait at a rendezvous in a cohort no longer locked raise COHORT with srTVAL 2 (R107, R292). -/
def Regs.unlockCheck (g : Regs) : Regs :=
  g.strands.foldl (fun g st =>
    if st.ag.phase == .blocked && st.ag.wait == .rendezvous && (g.lockedOf st.key).isNone then
      g.holdTrap (.strand st.key) ⟨.cohort, 0, 2#64, st.ag.pc, true⟩
    else g) g

/-! ### Error records (R346, R347) -/

/-- Write the records that wait, oldest first, as far as the log's translations and the host budget allow; a page that does not
permit the write is asked for (R361), and a record that has no place because the host refuses the page, or because the address names
no memory, is lost with it. [DESIGN CHOICE: log entry 127] -/
def State.flushRecords (s : State) (slot : Nat) : Nat → State
  | 0 => s
  | n + 1 =>
    match s.ctx? slot with
    | none => s
    | some c =>
      match c.pending with
      | [] => s
      | r :: rest =>
        let va := c.elog.toNat + 32 * (c.records % 64)
        let lost := fun (s : State) =>
          (({ s with xl := s.xl.forget c.pasid (pageOf va) } : State).modCtx slot (fun c => { c with pending := rest })).flushRecords slot n
        if s.xl.refusedPage c.pasid va then lost s
        else
          match s.translate gatehousePav c.pasid va 32 true with
          | (.at l, s1) =>
            match s1.dma true [(l, 32)] with
            | (false, s2) => s2
            | (true, s2) =>
              let s3 := s2.engineWrite gatehousePav l r
              ((s3.modCtx slot (fun c => { c with pending := rest, records := c.records + 1 })).emit (.msix c.vec)).flushRecords slot n
          | (.miss, s1) => s1.askAts gatehousePav c.pasid va true
          | (.denied, s1) => if s1.xl.answeredPage c.pasid va true then lost s1 else s1.askPage slot ⟨pageOf va, true⟩
          | (_, s1) => lost s1

/-- Write an error record of Table 14-7. -/
def State.errorRecord (s : State) (slot queue op reason : Nat) (rd w0 : Word) (detail : DWord) : State :=
  let word0 := reason % 256 + 2 ^ 8 * (op % 256) + 2 ^ 16 * (queue % 16) + 2 ^ 20 * (slot % 64)
  let bytes := natBytes word0 4 ++ natBytes rd.toNat 4 ++ natBytes w0.toNat 4 ++ natBytes 0 4 ++ natBytes detail.toNat 8 ++
    natBytes 0 8
  (s.modCtx slot (fun c => { c with pending := c.pending ++ [bytes] })).flushRecords slot 65

/-! ### Traps -/

/-- The code of a class (Table 16-1). -/
def TrapClass.code : TrapClass → Nat
  | .mchk => 1
  | .illegal => 2
  | .format => 3
  | .cohort => 4
  | .range => 5
  | .busy => 6
  | .depth => 7
  | .stale => 8
  | .arith => 9
  | .trap => 10
  | .brk => 11

/-- The place of a class in the order of delivery (Table 16-1). -/
def TrapClass.order : TrapClass → Nat
  | .mchk => 1
  | .illegal => 3
  | .format => 4
  | .cohort => 5
  | .range => 6
  | .busy => 7
  | .depth => 8
  | .stale => 9
  | .arith => 10
  | .trap => 11
  | .brk => 11

/-- srTCAUSE (Table 16-2). -/
def causeWord (w : Who) (t : Trap) : Word :=
  BitVec.ofNat 32 (t.cls.code + (if w = .front then 256 else 0) + 2 ^ 16 * t.detail)

/-- An undeliverable trap halts the plot (R380): its agents go on to their stopping points, and the first such trap is the one that
the error record names. [DEDUCED: log entry 35] -/
def State.haltPlot (s : State) (id : Nat) (w : Who) (t : Trap) : State :=
  s.modPlot id (fun p => { p with halt := some (p.halt.getD (w, t)) })

/-- The detail of the error record of a plot that a trap halts: the srTCAUSE that the trap would have written, and its offset (R380). -/
def haltDetail (w : Who) (t : Trap) : DWord := (causeWord w t).setWidth 64 <<< 32 ||| t.pc.setWidth 64

/-- Record a trap of an agent at a word or a boundary: it is HELD there. A trap of an agent in handler mode is undeliverable (R380). -/
def State.recordTrap (s : State) (id : Nat) (w : Who) (t : Trap) : State :=
  match s.plot? id with
  | none => s
  | some p =>
    match p.agent? w with
    | none => s
    | some a =>
      let s1 := s.modPlot id (fun p => p.modRegs (fun g => g.holdTrap w t))
      if a.handler then s1.haltPlot id w t else s1

/-! ### MCHK (R220, R394) -/

/-- Report an MCHK to an agent of a plot or, where it has exited, to the agent R394 names. -/
def State.raiseMchk (s : State) (id : Nat) (w : Who) (detail : Nat) (tval : DWord) : State :=
  match s.plot? id with
  | none => s
  | some p =>
    let g := p.real
    let note := fun (w : Who) => s.modPlot id (fun p =>
      p.modReal (fun g => g.modAgent w (fun a => { a with mchk := a.mchk ++ [(detail, tval)] })))
    let alive := match g.agent? w with | some a => a.phase != Phase.exited | none => false
    if alive then note w
    else
      let live := g.strands.filter Strand.isLive
      match live.foldl (fun (m : Option Strand) st =>
          match m with
          | none => some st
          | some x => if st.sid.toNat < x.sid.toNat then some st else some x) none with
      | some st => note (.strand st.key)
      | none =>
        if g.front.ag.phase != Phase.exited then note .front
        else s.errorRecord p.ctx (s.queueOf p) 0 10 0#32 0#32 tval

/-- Report the MCHKs that a read has met. -/
def State.raiseNotes (s : State) (id : Nat) (w : Who) (l : List (Nat × DWord)) : State :=
  l.foldl (fun s n => s.raiseMchk id w n.1 n.2) s

/-- The handler entries of the code object's trap vector (R378): for the lane stream and the uniform stream. -/
def State.trapVector (s : State) (p : Plot) : Got (Option (Word × Word)) :=
  match s.codeOf p with
  | none => .ok ⟨none, [], s⟩
  | some l =>
    if l.bytes < 12 then .ok ⟨none, [], s⟩
    else
      let o := BitVec.ofNat 32 (l.bytes - 12)
      match s.mapBit p o with
      | .error h => .error h
      | .ok m0 =>
      match m0.s.mapBit p (o + 4#32) with
      | .error h => .error h
      | .ok m1 =>
      match m1.s.mapBit p (o + 8#32) with
      | .error h => .error h
      | .ok m2 =>
      match m2.s.codeWord p o with
      | .error h => .error h
      | .ok w0 =>
      match w0.s.codeWord p (o + 4#32) with
      | .error h => .error h
      | .ok w1 =>
      match w1.s.codeWord p (o + 8#32) with
      | .error h => .error h
      | .ok w2 =>
        let notes := m0.notes ++ m1.notes ++ m2.notes ++ w0.notes ++ w1.notes ++ w2.notes
        if m0.val || m1.val || m2.val || w0.val != 0x7EC70001#32 then .ok ⟨none, notes, w2.s⟩
        else .ok ⟨some (w1.val, w2.val), notes, w2.s⟩

/-- The handler entry for a stream, where the vector names one that passes the checks of R31 and R38; the notes are the errors that
the reads have met (R386, R392). -/
def State.handlerEntry (s : State) (p : Plot) (st : Stream) : Got (Option Word) :=
  match s.trapVector p with
  | .error h => .error h
  | .ok v =>
    match v.val with
    | none => .ok ⟨none, v.notes, v.s⟩
    | some (lane, uni) =>
      let e := match st with | .lane => lane | .uniform => uni
      if e = 0xFFFFFFFF#32 then .ok ⟨none, v.notes, v.s⟩
      else
        match v.s.checkEntry p e with
        | .error h => .error h
        | .ok ok =>
          if ok.val then
            match ok.s.codeWord p e with
            | .error h => .error h
            | .ok hw => .ok ⟨if classOk st (hdrCls hw.val) then some e else none, v.notes ++ ok.notes ++ hw.notes, hw.s⟩
          else .ok ⟨none, v.notes ++ ok.notes, ok.s⟩

/-- TAKING A TRAP (R379): the agent's trap registers are written, it enters handler mode, and its pc is the handler entry. The MCHKs
noted so far wait for the end of handler mode (R377). [DEDUCED: log entry 128] -/
def Regs.takeTrap (g : Regs) (w : Who) (t : Trap) (entry : Word) : Regs :=
  (g.modAgent w (fun a =>
    { a with
      trap := none, tcause := causeWord w t, tval := t.tval, tpc := t.pc, handler := true, yieldNext := false, mchk := [],
      later := a.later ++ a.mchk })).boundary w entry false

/-- Handler mode ends (R319). -/
def Agent.leaves (a : Agent) : Agent := { a with handler := false, mchk := a.later ++ a.mchk, later := [] }

/-- RETURNING FROM A TRAP to a clause header (R319): handler mode ends, and the agent enters the clause at srTPC. -/
def Regs.leaveHandler (g : Regs) (w : Who) (tpc : Word) : Regs :=
  (g.modAgent w Agent.leaves).boundary w tpc false

/-- Returning to a word within a clause (R319, R37): no header wait is applied again. -/
def Regs.leaveHandlerAt (g : Regs) (w : Who) (tpc : Word) (c : Clause) : Regs :=
  (g.modAgent w (fun a => { a.leaves with clause := some c })).reenterAs w tpc false

/-- Deliver a trap to its agent, or halt the plot where it is undeliverable (R378–R380). -/
def State.deliver (s : State) (id : Nat) (w : Who) (t : Trap) : Except Hold State :=
  match s.plot? id with
  | none => .ok s
  | some p =>
    match p.agent? w with
    | none => .ok s
    | some a =>
      if a.handler then .ok (s.haltPlot id w t)
      else
        match s.handlerEntry p (streamOf w) with
        | .error h => .error h
        | .ok e =>
          let s1 := e.s.raiseNotes id w e.notes
          match e.val with
          | none => .ok (s1.haltPlot id w t)
          | some entry => .ok (s1.modPlot id (fun p => p.modRegs (fun g => (g.takeTrap w t entry).settle)))

/-- Whether an agent stands at a clause boundary. -/
def Agent.atBoundary (a : Agent) : Bool :=
  a.phase == .waiting && (match a.clause with | none => true | some c => c.hpc == a.pc)

/-- An MCHK becomes a pending trap of an agent that stands at a clause boundary (R275, R297); those of an agent that has exited go to
the agent that R394 names. -/
def State.sweepOne (s : State) (id : Nat) (w : Who) : State :=
  match s.plot? id with
  | none => s
  | some p =>
    match p.agent? w with
    | none => s
    | some a =>
      match a.later ++ a.mchk with
      | [] => s
      | (d, v) :: rest =>
        if a.phase = .exited then
          if p.ck.isSome then s
          else (s.modPlot id (fun p => p.modAgent w (fun a => { a with mchk := [], later := [] }))).raiseNotes id w ((d, v) :: rest)
        else if a.later.isEmpty && a.atBoundary && a.trap.isNone && p.run == .running then
          (s.modPlot id (fun p => p.modAgent w (fun a => { a with mchk := rest, clause := none }))).recordTrap id w
            ⟨.mchk, d, v, a.pc, true⟩
        else s

def State.sweep (s : State) (id : Nat) : State :=
  match s.plot? id with
  | none => s
  | some p => p.regs.agents.foldl (fun s x => s.sweepOne id x.1) s

/-! ### Stopping points (R302) -/

/-- No agent of the plot has an access outstanding. [DEDUCED: log entry 71] -/
def Regs.quiet (g : Regs) : Bool := g.agents.all (fun x => x.2.loads.isEmpty && x.2.stores.isEmpty)

/-- The plot stands where R302 stops it: no bundle and no front-thread word is under way, run-ahead is over, and no access of its
agents is outstanding. -/
def Plot.stopped (p : Plot) : Bool :=
  p.bundle.isNone && p.regs.front.ag.phase != .issuing && p.run != .runahead && p.run != .rollback && p.regs.quiet

def State.isResident (s : State) (ctx : Nat) : Bool := match s.ctx? ctx with | some c => c.resident | none => false

/-- Whether the copies of a context go on: while it is resident, and while its pre-emption waits for a plot to stop
(16_recovery.md R387, steps 2 and 3; R305). [DEDUCED: log entry 71] -/
def State.enginesRun (s : State) (ctx : Nat) : Bool :=
  s.isResident ctx || s.plots.any (fun p => p.ctx == ctx && p.resident && !p.stopped)

/-! ### Retirement of a plot (R300) -/

def Regs.retirable (g : Regs) : Bool :=
  g.agents.all (fun x => x.2.phase == .exited && x.2.storeCount == 0)

def Plot.retirable (p : Plot) : Bool :=
  p.ck.isNone && p.run == .running && p.halt.isNone && p.regs.retirable && p.copies.isEmpty && p.tops.isEmpty

/-- Free the context's part of a pavilion's SPAD; its bytes stay until the part passes to another context (R341). [DESIGN CHOICE: log entry 47] -/
def State.freePart (s : State) (pav ctx : Nat) : State :=
  s.modPav pav (fun v => { v with parts := v.parts.filter (fun c => c != ctx) })

/-- The plot leaves the machine: its locks go, its retirement is counted, and the SPAD part goes with the context's last plot on the
pavilion (R300, R341, R348). -/
def State.removePlot (s : State) (p : Plot) : State :=
  let s1 := (s.modPav p.pav (fun v => { v with locks := v.locks.filter (fun l => l.plot != p.id) }))
  let s2 := { s1 with plots := s1.plots.filter (fun q => q.id != p.id) }
  let s3 := match p.origin with
    | .grid => s2.modLaunch p.launch (fun l => { l with retired := l.retired + 1 })
    | .stage _ _ => s2
  if s3.plots.any (fun q => q.pav == p.pav && q.ctx == p.ctx) then s3 else s3.freePart p.pav p.ctx

def State.tryRetire (s : State) (id : Nat) : State :=
  match s.plot? id with
  | none => s
  | some p => if p.retirable then s.removePlot p else s

/-! ### Run-ahead (R381, R382) -/

/-- The page an access needs, as its plot's batch keeps it. -/
def Need.page (n : Need) : PageNeed := ⟨pageOf n.va, n.write⟩

def addPages (l : List PageNeed) (ns : List Need) : List PageNeed :=
  ns.foldl (fun l n =>
    if l.any (fun q => q.page == pageOf n.va) then
      modifyWhere (fun q => q.page == pageOf n.va) (fun q => { q with write := q.write || n.write }) l
    else if l.length < 64 then l ++ [n.page] else l) l

/-- The checkpoint and the start of run-ahead (R381): nothing of the access that needed the pages is kept. [DEDUCED: log entry 64] -/
def State.startRunahead (s : State) (id : Nat) (ns : List Need) : State :=
  s.modPlot id (fun p =>
    if p.run = .running then
      { p with
        ck := some p.regs
        run := .runahead
        ra := some ⟨0, p.pcyc, (p.regs.agents.filter (fun x => x.2.phase == .blocked || x.2.phase == .gathered)).map (fun x => x.1), []⟩
        batch := addPages [] ns }
    else p)

/-- The majors and words that stop an agent in run-ahead (R382). -/
def stopsRunahead : Instr → Bool
  | .st .. | .stl .. | .stmx .. | .atomAdd .. | .atomAnd .. | .atomOr .. | .atomXor .. | .atomMins .. | .atomMaxs ..
  | .atomMinz .. | .atomMaxz .. | .atomXchg .. | .atomCas .. | .atomFadd .. | .atomIncw .. => true
  | .cpyTload .. | .cpyTstore .. | .cpyTaddf .. | .cpyLinr .. | .cpyGather .. | .cpyPubl .. | .cpyPull .. => true
  | .drain .. | .mma .. | .mmag .. | .tzero .. | .tld .. | .tst .. | .tscal .. | .tadd .. => true
  | .fabRwrite .. | .fabRread .. | .fabRadd .. | .fabRatom .. | .fabMcast .. | .fabSend .. | .fabRecv .. | .fabRfence .. => true
  | .copen .. | .contrib .. | .cwait .. | .cstat .. | .cclose .. | .crepost .. => true
  | .sadv .. | .swait .. | .speer .. | .smin .. | .sabs .. | .slead .. => true
  | .ldv .. | .vopen .. | .vcommit .. | .vquery .. | .vretire .. => true
  | .emit .. | .emitw .. | .qstat .. | .depth .. => true
  | .barInit .. | .barArrive .. | .barWait .. | .barSync .. | .barInval .. | .barQuery .. => true
  | .spawn .. | .reorder .. | .join .. | .leave | .rdv => true
  | .shfl .. | .shflx .. | .shflu .. | .shfld .. | .ballot .. | .anyF .. | .allF .. | .redadd .. | .redmaxs ..
  | .redfadd .. | .scanadd .. | .mxqE2m1 .. | .mxqE4m3 .. | .mxqE5m2 .. | .mxdq .. | .bcast .. => true
  | .pushq .. | .popq .. | .peekq .. | .movrs .. | .rkset .. | .exit | .eret => true
  | .ainit .. | .aadd .. | .await .. | .rinit .. | .rwaitf .. | .rrel .. => true
  | _ => false

/-- The words that transfer control on a flag or a register. -/
def isControl : Instr → Bool
  | .br .. | .brx .. | .call .. | .jr .. | .ret | .callr .. => true
  | _ => false

/-- Words that raise ILLEGAL in handler mode (R380). -/
def barredInHandler : Instr → Bool
  | .shfl .. | .shflx .. | .shflu .. | .shfld .. | .ballot .. | .anyF .. | .allF .. | .redadd .. | .redmaxs ..
  | .redfadd .. | .scanadd .. | .mxqE2m1 .. | .mxqE4m3 .. | .mxqE5m2 .. | .mxdq .. | .bcast .. => true
  | .stmx .. | .rdv | .reorder .. | .brx .. | .spawn .. | .join .. | .leave => true
  | _ => false

/-! ### Issuing a word -/

/-- What a word sees of its issue: the plot, the agent, the offset, the word and its length. -/
structure Cx where
  plot : Nat
  who : Who
  pc : Word
  word : Word
  len : Nat
  deriving DecidableEq, Repr

/-- What a word does for one agent: it retires; it retires and transfers control; the agent has left the word in a state of
its own (exited, exiled, gathered, released by a rendezvous); it blocks; it traps; it does not issue yet. -/
inductive Res where
  | done
  | jump (t : Word)
  | left
  | block (w : Wait)
  | trap (cls : TrapClass) (detail : Nat) (tval : DWord)
  | hold (h : Hold)
  deriving DecidableEq, Repr

/-- A meaning for one agent. -/
abbrev WordFn := Cx → State → State × Res

/-- ILLEGAL with a row of Table 2-11 (02_clauses_encoding.md R54). [DEDUCED: log entry 31] -/
def illegal (row : Nat) (tval : DWord) : Res := .trap .illegal row tval

/-- An ILLEGAL condition that an instruction's entry states (R54). [DEDUCED: log entries 29, 31] -/
def illegalEntry (tval : DWord) : Res := .trap .illegal 11 tval

def Cx.word64 (c : Cx) : DWord := c.word.setWidth 64

/-- The checks of row 8 and of handler mode before a word's own meaning (R51, R54, R380). -/
def guarded (i : Instr) (f : WordFn) : WordFn := fun c s =>
  if wf (streamOf c.who) i then
    match s.plot? c.plot with
    | none => (s, .left)
    | some p =>
      match p.agent? c.who with
      | none => (s, .left)
      | some a => if a.handler && barredInHandler i then (s, illegalEntry c.word64) else f c s
  else (s, illegal 8 c.word64)

/-- The state and the pending holds while the members of a word are served one after another. -/
structure Fold where
  s : State
  holds : List Hold

def State.cyclesOf (s : State) (id : Nat) : Nat := match s.plot? id with | some p => s.cycles p.pav | none => 0

/-- One member of the word: its meaning, then what its outcome does to the agent. -/
def serve (f : WordFn) (c : Cx) (again : Bool) (x : Fold) : Fold :=
  let r := f c x.s
  match r.2 with
  | .done => { x with s := r.1.modPlot c.plot (fun p => p.modRegs (fun g => g.retire c.who c.len)) }
  | .jump t => { x with s := r.1.modPlot c.plot (fun p => p.modRegs (fun g => g.jump c.who t)) }
  | .left => { x with s := r.1 }
  | .block w => { x with s := r.1.modPlot c.plot (fun p => p.modRegs (fun g => g.blockAt c.who w r.1.words (r.1.cyclesOf c.plot))) }
  | .trap cls d v =>
    let t : Trap := ⟨cls, d, v, c.pc, again⟩
    if again then
      match (x.s.recordTrap c.plot c.who t).deliver c.plot c.who t with
      | .ok s => { x with s := s }
      | .error h => { x with holds := x.holds ++ [h] }
    else { x with s := x.s.recordTrap c.plot c.who t }
  | .hold h => { x with holds := x.holds ++ [h] }

/-- Invalidate or make valid the registers a word writes (R382). -/
def RunAhead.mark (r : RunAhead) (w : Who) (wr : List Nat) (bad : Bool) : RunAhead :=
  let rest := r.invalid.filter (fun x => !(x.1 == w && wr.contains x.2))
  { r with invalid := if bad then rest ++ wr.map (fun n => (w, n)) else rest }

def Plot.modRa (p : Plot) (f : RunAhead → RunAhead) : Plot := { p with ra := p.ra.map f }

/-- The agent stops where it stands for the rest of run-ahead (R382). -/
def Plot.stopAhead (p : Plot) (w : Who) : Plot :=
  (p.modRa (fun r => { r with stopped := r.stopped ++ [w] })).modRegs (fun g =>
    match g.agent? w with
    | some a => g.reenter w a.pc
    | none => g)

def Plot.invalidRead (p : Plot) (w : Who) (u : Use) : Bool :=
  match p.ra with
  | some r => u.rd.any (fun n => r.invalid.contains (w, n))
  | none => false

/-- The registers of a CVT: the runs that the tag of A and the destination give (R100). -/
def cvtUse (d a b : Reg) (dst src : Tag) (r : CvtRnd) : Use :=
  let m := Tag.count src
  let n := Tag.count dst
  let total := max m n
  ⟨runOf a ((total + m - 1) / m) ++ (if r = .sr then [regNum b] else []),
    runOf d (if dst = .f32p then 2 else (total + n - 1) / n)⟩

/-- What a word reads and writes for an agent. -/
def Regs.useFor (g : Regs) (w : Who) (i : Instr) : Use :=
  match i with
  | .cvt d a b t r _ => cvtUse d a b t (g.tagOf w a) r
  | _ => useOf (streamOf w) i

/-- One member of a word issued in run-ahead (R382). -/
def serveAhead (i : Instr) (f : WordFn) (c : Cx) (x : Fold) : Fold :=
  let u := useOf (streamOf c.who) i
  let stop : Fold := { x with s := x.s.modPlot c.plot (fun p => p.stopAhead c.who) }
  let pass := fun (s : State) (bad : Bool) =>
    s.modPlot c.plot (fun p => (p.modRa (fun r => r.mark c.who u.wr bad)).modRegs (fun g => g.retire c.who c.len))
  match x.s.plot? c.plot with
  | none => x
  | some p =>
    if stopsRunahead i then stop
    else if p.invalidRead c.who (p.regs.useFor c.who i) then (if isControl i then stop else { x with s := pass x.s true })
    else
      let r := f c x.s
      match r.2 with
      | .done => { x with s := pass r.1 false }
      | .jump t =>
        let s1 := r.1.modPlot c.plot (fun p => (p.modRa (fun r => r.mark c.who u.wr false)).modRegs (fun g => g.jump c.who t))
        { x with s := s1 }
      | .left => { x with s := r.1 }
      | .block _ => stop
      | .trap _ _ _ => stop
      | .hold (.page l) =>
        { x with s := pass (x.s.modPlot c.plot (fun p => { p with batch := addPages p.batch l })) true }
      | .hold (.ats l) => { x with holds := x.holds ++ [.ats l] }
      | .hold _ => stop

/-- Needs of the holds, and whether one is an access to memory that does not exist. -/
def holdAts (l : List Hold) : List Need := l.flatMap (fun h => match h with | .ats n => n | _ => [])
def holdPages (l : List Hold) : List Need := l.flatMap (fun h => match h with | .page n => n | _ => [])
def holdAbsent (l : List Hold) : Option Nat := l.findSome? (fun h => match h with | .absent pa => some pa | _ => none)

/-- What becomes of a word that some member could not issue: nothing of it is kept but the requests it sends (R278, R360,
R381). [DEDUCED: log entry 27] -/
def State.held (s : State) (id : Nat) (l : List Hold) : Host.Outcome State Fault Refusal :=
  match holdAbsent l with
  | some pa => .fault (.absentMemory pa)
  | none =>
    match s.plot? id with
    | none => .next s
    | some p =>
      let s1 := s.askAll p.pav (s.pasid p.ctx) (holdAts l)
      if holdPages l = [] then .next s1 else .next (s1.startRunahead id (holdPages l))

/-- The bundle keeps the members that are still issuing. -/
def Plot.trimBundle (p : Plot) : Plot :=
  match p.bundle with
  | none => p
  | some b =>
    let l := b.members.filter (fun k => match p.regs.strand? k with | some st => st.ag.phase == Phase.issuing | none => false)
    { p with bundle := if l.isEmpty then none else some ⟨l⟩ }

/-- Number what has happened, and stamp the agents that have come to wait (R277); what the bundle stalled on may be free. -/
def Plot.stamp (p : Plot) : Plot :=
  let n := p.arrivals + 1
  let f := fun (a : Agent) => if a.phase = .waiting ∧ a.since = 0 then { a with since := n } else a
  let g := p.regs
  { p with
    arrivals := n
    stalled := false
    regs := { g with strands := g.strands.map (fun st => { st with ag := f st.ag }), front := { g.front with ag := f g.front.ag } } }

/-! ### REORDER (R289, R294) -/

/-- Insert by key, then by srSID. -/
def insertKey (st : Strand) : List Strand → List Strand
  | [] => [st]
  | x :: l =>
    if st.sortKey.toNat < x.sortKey.toNat ∨ (st.sortKey = x.sortKey ∧ st.sid.toNat ≤ x.sid.toNat) then st :: x :: l
    else x :: insertKey st l

/-- The strand keeps k registers, and its slot is the j-th of the plot's rows. -/
def Strand.sorted (st : Strand) (j : Nat) : Strand :=
  { st with row := j / 32, lane := j % 32, regs := st.regs.mapFinIdx (fun i v _ => if i < st.live then v else VReg.zero) }

/-- REORDER_RELEASE: once every strand that has not exited is GATHERED at one offset, they are sorted, placed and READY at the
next word together. -/
def Plot.gatherDone (p : Plot) : Plot :=
  let live := p.regs.strands.filter Strand.isLive
  match live with
  | [] => p
  | x :: _ =>
    if live.all (fun st => st.ag.phase == .gathered && st.ag.pc == x.ag.pc) then
      let order := live.foldr insertKey []
      let g := order.zipIdx.foldl (fun g y =>
        (g.modStrand y.1.key (fun st => st.sorted y.2)).retire (.strand y.1.key) 4) p.regs
      { p with regs := g.unlockCheck, gatherAt := none }
    else p

/-- Rows other than row 0 that hold no strand return to the bed; the plot's rows keep their order (R294). [DESIGN CHOICE: log entry 40] -/
def Plot.dropRows (p : Plot) : Plot :=
  let held := fun r => r == 0 || p.regs.strands.any (fun st => st.isLive && st.row == r) || p.moves.any (fun m => m.row == r)
  if (List.range p.rows.length).all held then p
  else
    let keep := (List.range p.rows.length).filter held
    { (p.modRegs (fun g => { g with strands := g.strands.map (fun st => { st with row := keep.idxOf st.row }) })) with
      rows := keep.map (fun r => p.rows.getD r 0)
      moves := p.moves.map (fun m => { m with row := keep.idxOf m.row }) }

/-- After a word or an event of a plot: a gather may complete, the bundle keeps the members still issuing, empty rows go, the
frontier settles, MCHKs come up at clause boundaries, and the plot retires when nothing of it remains. -/
def State.finish (s : State) (id : Nat) : State :=
  let s1 := s.modPlot id (fun p => (p.gatherDone.trimBundle.dropRows.modRegs Regs.settle).stamp)
  (s1.sweep id).tryRetire id

/-- Members in ascending home lane (R165, R308). -/
def insertLane (st : Strand) : List Strand → List Strand
  | [] => [st]
  | x :: l => if st.lane ≤ x.lane then st :: x :: l else x :: insertLane st l

def byLane (l : List Strand) : List Strand := l.foldr insertLane []

/-- The agents that issue the word. -/
def Plot.issuers (p : Plot) : Issuer → List Who
  | .front => [.front]
  | .again w => [w]
  | .bundle =>
    match p.bundle with
    | none => []
    | some b => (byLane (p.regs.strands.filter (fun st => b.members.contains st.key))).map (fun st => .strand st.key)

/-- A word that only the strand of the lowest home lane executes (R231): copies and fabric words of the lane stream. -/
def leaderOnly : Instr → Bool
  | .cpyTload .. | .cpyTstore .. | .cpyTaddf .. | .cpyLinr .. | .cpyGather .. | .cpyPubl .. | .cpyPull .. => true
  | .fabRwrite .. | .fabRread .. | .fabRadd .. | .fabRatom .. | .fabMcast .. | .fabSend .. | .fabRecv .. | .fabRfence .. => true
  | _ => false

/-- Whether an agent has stopped for the rest of run-ahead: one that issues no word, is stopped, or is HELD (R382). [DEDUCED: log entry 64] -/
def Plot.stopsThere (p : Plot) (r : RunAhead) (x : Who × Agent) : Bool :=
  x.2.phase == .exited || x.2.phase == .exiled || r.stopped.contains x.1 ||
    (x.2.phase == .waiting &&
      (x.2.trap.isSome || (match x.1 with | .strand k => p.regs.overflow.contains k | .front => false) ||
        (match x.2.clause with | some c => c.hpc == x.2.pc && !p.headerMet x.2 c.hw | none => false)))

/-- Run-ahead has met one of its ends (R382), or the plot is to halt. -/
def Plot.aheadDone (p : Plot) : Bool :=
  match p.ra with
  | none => false
  | some r =>
    decide (4096 ≤ r.words) || decide (64 ≤ p.batch.length) || decide (16384 ≤ p.pcyc - r.began) || p.halt.isSome ||
      p.regs.agents.all (p.stopsThere r)

/-- The word is taken up, and numbered among all words and for its plot. -/
def State.begun (s : State) (x : Issue) : State :=
  ({ s with issue := none, words := s.words + 1 } : State).modPlot x.plot (fun p => { p with arrivals := p.arrivals + 1 })

/-- The word as one agent meets it. -/
def Issue.cx (x : Issue) (w : Who) : Cx := ⟨x.plot, w, x.pc, x.word, x.len⟩

/-- Whether the word is issued again for a trap (R377). -/
def Issue.again (x : Issue) : Bool := match x.by_ with | .again _ => true | _ => false

/-- A word issued again leaves the trap it was issued for behind. -/
def State.retried (s : State) (x : Issue) : State :=
  match x.by_ with
  | .again w => s.modPlot x.plot (fun p => p.modAgent w (fun a => { a with trap := none }))
  | _ => s

/-- The agents that execute a word, and those that pass it. -/
def leads (i : Instr) (ws : List Who) : List Who × List Who :=
  match ws with
  | w :: rest => if leaderOnly i then ([w], rest) else (ws, [])
  | [] => ([], [])

/-- Agents that pass a word retire it. -/
def State.passed (s : State) (x : Issue) (l : List Who) : State :=
  l.foldl (fun s w => s.modPlot x.plot (fun p => p.modRegs (fun g => g.retire w x.len))) s

/-- The members of a word of a running plot, in ascending home lane, then `post` for the members together. -/
def runPlain (i : Instr) (f : WordFn) (post : Nat → List Who → State → State) (x : Issue) (ws : List Who) (s0 : State) :
    Host.Outcome State Fault Refusal :=
  let y := (leads i ws).1.foldl (fun y w => serve (guarded i f) (x.cx w) x.again y) ⟨s0.retried x, []⟩
  if y.holds = [] then .next ((post x.plot ws (y.s.passed x (leads i ws).2)).finish x.plot) else s0.held x.plot y.holds

/-- The members of a word in run-ahead (R382). [DEDUCED: log entry 64] -/
def runAhead (i : Instr) (f : WordFn) (post : Nat → List Who → State → State) (x : Issue) (ws : List Who) (s0 : State) :
    Host.Outcome State Fault Refusal :=
  let y := (leads i ws).1.foldl (fun y w => serveAhead i (guarded i f) (x.cx w) y) ⟨s0, []⟩
  if y.holds = [] then
    let s2 := post x.plot ws (y.s.passed x (leads i ws).2)
    .next ((s2.modPlot x.plot (fun p => p.modRa (fun r => { r with words := r.words + 1 }))).finish x.plot)
  else s0.held x.plot y.holds

/-- Issue one word (each word a plot issues is numbered): the scoreboard, the members, and what follows (R278, R297). -/
def runWordThen (i : Instr) (f : WordFn) (post : Nat → List Who → State → State) (s : State) : Host.Outcome State Fault Refusal :=
  match s.issue with
  | none => .next s
  | some x =>
    match s.plot? x.plot with
    | none => .next (s.begun x)
    | some p =>
      if !((p.issuers x.by_).all (fun w => p.regs.clear w (p.regs.useFor w i))) then .next (s.begun x)
      else if p.run = .running then runPlain i f post x (p.issuers x.by_) (s.begun x)
      else if p.run = .runahead && !p.aheadDone then runAhead i f post x (p.issuers x.by_) (s.begun x)
      else .next (s.begun x)

/-- Issue one word whose effect is the members' own. [DESIGN CHOICE: log entry 11; DEDUCED: log entry 27] -/
def runWord (i : Instr) (f : WordFn) (s : State) : Host.Outcome State Fault Refusal := runWordThen i f (fun _ _ s => s) s

/-! ### Readiness and plot cycles (R274, R279, R281) -/

/-- F, the fairness interval in plot cycles (Table 11-4). -/
def Plot.fair (p : Plot) : Nat := 256 * (p.flags0.toNat % 256 + 1)

def Plot.nofair (p : Plot) : Bool := p.flags0.getLsbD 8

/-- The ARITH enables (Table 14-2), in the bit order of Table 2-7. -/
def Plot.arithEnables (p : Plot) : Fl := (p.flags0 >>> 9).setWidth 5

/-- READY (Table 11-2): the header's waits are met, no trap is pending, and no move or run-ahead stop holds the strand. -/
def Plot.ready (p : Plot) (st : Strand) : Bool :=
  st.ag.phase == Phase.waiting && st.ag.trap.isNone && !p.regs.overflow.contains st.key &&
  !(p.moves.any (fun m => m.key == st.key)) &&
  !(match p.ra with | some r => r.stopped.contains (.strand st.key) | none => false) &&
  (match st.ag.clause with
   | none => false
   | some c => c.hpc != st.ag.pc || p.headerMet st.ag c.hw)

def Plot.entryReady (p : Plot) (e : Entry) : Bool := (p.regs.at e.addr).any p.ready

/-- A ready entry grows older by one plot cycle: at F it is promoted, and a yield ends (R281, R283). -/
def Plot.older (p : Plot) (e : Entry) : Entry :=
  if e.age + 1 = p.fair then
    { e with age := e.age + 1, promoted := if p.nofair then none else some (p.pcyc + 1), yielded := false }
  else { e with age := e.age + 1 }

/-- One plot cycle: every ready entry that forms no bundle grows older (R281). [DESIGN CHOICE: log entry 121] -/
def Plot.tick (p : Plot) : Plot :=
  let l := p.regs.frontier.map (fun e => if p.entryReady e then p.older e else e)
  { p with pcyc := p.pcyc + 1, regs := { p.regs with frontier := l } }

/-- A meaning that changes nothing but its plot. -/
def onPlot (f : Cx → Plot → Plot × Res) : WordFn := fun c s =>
  match s.plot? c.plot with
  | none => (s, .left)
  | some p => let r := f c p; (s.setPlot r.1, r.2)

/-- A meaning given the plot as well as the state. [DEDUCED: log entry 30] -/
def withPlot (f : Cx → Plot → State → State × Res) : WordFn := fun c s =>
  match s.plot? c.plot with
  | none => (s, .left)
  | some p => f c p s

/-- FORMAT (R79): the first source whose tag the word does not accept, with its tag. -/
def formatTval (r : Reg) (t : Tag) (code : Tag → Nat) : DWord := BitVec.ofNat 64 (r.toNat + 256 * code t)

end Sys2Proof.Machine
end

