-- ==== Sys2Proof/Machine/Fetch.lean ====
section
/-! DEFINITION. Entering a clause (02_clauses_encoding.md R29, R31, R33, R38, Table 2-11 rows 1–3), the place of a word in its
clause and stream (rows 4 and 5), and reading and decoding the next word (rows 6–10, R53). -/

namespace Sys2Proof.Machine

/-! ### Entering a clause -/

/-- What entering a clause finds: the clause, or a trap recorded at the entry (R31, R54, R377, R392). [DEDUCED: log entry 32] -/
def State.enterClause (s : State) (p : Plot) (st : Stream) (pc : Word) : Got (Except Trap Clause) :=
  match s.checkEntry p pc with
  | .error h => .error h
  | .ok m =>
    match m.notes with
    | (d, v) :: _ => .ok ⟨.error ⟨.mchk, d, v, pc, true⟩, [], m.s⟩
    | [] =>
    if !m.val then .ok ⟨.error ⟨.illegal, 1, pc.setWidth 64, pc, true⟩, [], m.s⟩
    else
      match m.s.codeWord p pc with
      | .error h => .error h
      | .ok w =>
        match w.notes with
        | (d, v) :: _ => .ok ⟨.error ⟨.mchk, d, v, pc, true⟩, [], w.s⟩
        | [] =>
          let h := w.val
          let bad := fun (row : Nat) => (.error ⟨.illegal, row, h.setWidth 64, pc, true⟩ : Except Trap Clause)
          if hdrCnt h = 0 ∨ 6 ≤ hdrCls h then .ok ⟨bad 2, [], w.s⟩
          else if !classOk st (hdrCls h) then .ok ⟨bad 3, [], w.s⟩
          else
            match s.codeOf p with
            | none => .error .stall
            | some l =>
              if l.bytes < pc.toNat + 4 + 4 * hdrCnt h then .ok ⟨bad 11, [], w.s⟩
              else
                match w.s.readSpan p 7 ((l.code + pc.setWidth 64).toNat) (4 + 4 * hdrCnt h) with
                | .error e => .error e
                | .ok r =>
                  match r.notes with
                  | (d, v) :: _ => .ok ⟨.error ⟨.mchk, d, v, pc, true⟩, [], r.s⟩
                  | [] => .ok ⟨.ok ⟨pc, h⟩, [], r.s⟩

/-- Clause entry of one agent that waits at a boundary: its clause becomes known, or a trap is recorded; a translation that
is missing is asked for, and a page that does not permit the fetch starts run-ahead or, in it, stops the agent (R381, R382). -/
def State.enterOne (s : State) (id : Nat) (w : Who) : State :=
  match s.plot? id with
  | none => s
  | some p =>
    match p.agent? w with
    | none => s
    | some a =>
      if a.phase = .waiting ∧ a.clause = none ∧ a.trap = none then
        match s.enterClause p (streamOf w) a.pc with
        | .error (.ats l) => s.askAll p.pav (s.pasid p.ctx) l
        | .error (.page l) =>
          if p.run = .runahead then s.modPlot id (fun p => { p with batch := addPages p.batch l }.stopAhead w)
          else s.startRunahead id l
        | .error _ => s
        | .ok r =>
          match r.val with
          | .ok c => r.s.modPlot id (fun p => p.modAgent w (fun a => { a with clause := some c }))
          | .error t => if p.run = .running then r.s.recordTrap id w t else r.s.modPlot id (fun p => p.stopAhead w)
      else s

/-- CLAUSE_ENTRY for every strand of a plot. -/
def State.enterAll (s : State) (id : Nat) : State :=
  match s.plot? id with
  | none => s
  | some p => p.regs.strands.foldl (fun s st => s.enterOne id (.strand st.key)) s

/-! ### The place of a word (rows 4 and 5) -/

/-- Row 4: majors never assigned. -/
def majorAssigned (m : Nat) : Bool := decide (m ≠ 0) && (decide (m ≤ 0x28) || (decide (0x30 ≤ m) && decide (m ≤ 0x38)))

/-- The control majors (R39). -/
def isControlMajor (m : Nat) : Bool := decide (0x20 ≤ m) && decide (m ≤ 0x23)

/-- Majors a class admits in a stream, besides control words (Table 2-3). -/
def classAdmits (st : Stream) (cls m : Nat) : Bool :=
  match cls, st with
  | 0, .lane => decide (1 ≤ m) && decide (m ≤ 0x1F)
  | 1, .uniform => (decide (1 ≤ m) && decide (m ≤ 0x0A)) || (decide (0x15 ≤ m) && decide (m ≤ 0x1C)) || m == 0x1F
  | 2, .uniform => decide (0x30 ≤ m) && decide (m ≤ 0x33)
  | 3, _ => m == 0x34
  | 4, .lane => m == 0x35
  | 4, .uniform => decide (0x35 ≤ m) && decide (m ≤ 0x37)
  | 5, _ => (decide (0x24 ≤ m) && decide (m ≤ 0x28)) || m == 0x38
  | _, _ => false

/-- CTL functions in the streams of Table 12-5; a function the table does not list is row 6's. -/
def ctlStream (st : Stream) (fn : Nat) : Bool :=
  match st with
  | .lane => fn != 9
  | .uniform => !(decide (2 ≤ fn) && decide (fn ≤ 8))

/-- Row 5: whether a word may stand where it stands. -/
def placeOk (st : Stream) (cls : Nat) (w : Word) (last : Bool) : Bool :=
  let m := (majOf w).toNat
  if isControlMajor m then last && (m != 0x21 || st == .lane)
  else
    classAdmits st cls m &&
    (if m == 0x34 || m == 0x35 then w.getLsbD 3 == (st == .lane) else true) &&
    (if m == 0x25 then ctlStream st (fnOf w).toNat else true)

/-! ### The next word -/

/-- The word that an agent issues next: what it decodes to, and how long it is. -/
structure NextWord where
  instr : Instr
  word : Word
  len : Nat
  deriving DecidableEq, Repr

/-- Rows 4 to 9 of Table 2-11 on a word at its place; row 8's register constraints follow where it executes. [DEDUCED: log entry 29] -/
def classify (st : Stream) (cls : Nat) (w : Word) (lit : Option Word) (last : Bool) : NextWord :=
  if !majorAssigned (majOf w).toNat then ⟨.illegalEncoding 4 w, w, 4⟩
  else if !placeOk st cls w last then ⟨.illegalEncoding 5 w, w, 4⟩
  else
    match decodeWord w lit with
    | .error e => ⟨.illegalEncoding e.row w, w, 4⟩
    | .ok i => ⟨i, w, if takesLiteral w then 8 else 4⟩

/-- Read and decode the word at an agent's offset; the notes are what the reads have to report (R386, R392). -/
def State.nextWord (s : State) (p : Plot) (st : Stream) (c : Clause) (pc : Word) : Got NextWord :=
  match s.codeWord p pc with
  | .error h => .error h
  | .ok w =>
    let room := decide (pc.toNat + 8 ≤ c.stop)
    if takesLiteral w.val && room then
      match w.s.codeWord p (pc + 4#32) with
      | .error h => .error h
      | .ok l => .ok ⟨classify st (hdrCls c.hw) w.val (some l.val) (!room), w.notes ++ l.notes, l.s⟩
    else .ok ⟨classify st (hdrCls c.hw) w.val none (!room), w.notes, w.s⟩

end Sys2Proof.Machine
end

