-- ==== Sys2Proof/Machine/IntOps.lean ====
section
/-! DEFINITION. The integer results of 04_lane_arithmetic.md: Table 4-2 (R87, R88) and Table 4-5 (R90), at the operation
width W: 32 in a LANE clause, 64 in a UNI clause (R86). -/

namespace Sys2Proof.Machine

/-- The high W bits of the signed product (MULHS). -/
def mulhs {w : Nat} (a b : BitVec w) : BitVec w := BitVec.ofInt w ((a.toInt * b.toInt) / (2 ^ w : Nat))

/-- The high W bits of the unsigned product (MULHZ). -/
def mulhz {w : Nat} (a b : BitVec w) : BitVec w := BitVec.ofNat w ((a.toNat * b.toNat) / 2 ^ w)

/-- zB mod W, the count of a shift or rotation. -/
def shiftCount {w : Nat} (b : BitVec w) : Nat := b.toNat % w

def shlW {w : Nat} (a b : BitVec w) : BitVec w := a <<< shiftCount b
def shrW {w : Nat} (a b : BitVec w) : BitVec w := a >>> shiftCount b
def sraW {w : Nat} (a b : BitVec w) : BitVec w := a.sshiftRight (shiftCount b)
def rolW {w : Nat} (a b : BitVec w) : BitVec w := a.rotateLeft (shiftCount b)

def minsW {w : Nat} (a b : BitVec w) : BitVec w := if a.slt b then a else b
def maxsW {w : Nat} (a b : BitVec w) : BitVec w := if a.slt b then b else a
def minzW {w : Nat} (a b : BitVec w) : BitVec w := if a.ult b then a else b
def maxzW {w : Nat} (a b : BitVec w) : BitVec w := if a.ult b then b else a

/-- |sA − sB| as an unsigned W-bit value (ABSD). -/
def absdW {w : Nat} (a b : BitVec w) : BitVec w := BitVec.ofNat w (a.toInt - b.toInt).natAbs

/-- The number of 1 bits among the low k bits. -/
def onesBelow (n : Nat) : Nat → Nat
  | 0 => 0
  | k + 1 => onesBelow n k + (n.testBit k).toNat

def popcW {w : Nat} (a : BitVec w) : BitVec w := BitVec.ofNat w (onesBelow a.toNat w)

/-- The number of leading 0 bits; W when A = 0 (CLZ). -/
def clzW {w : Nat} (a : BitVec w) : BitVec w :=
  BitVec.ofNat w (if a.toNat = 0 then w else w - 1 - a.toNat.log2)

/-- Bit i moved to bit W−1−i (BREV), from the low k bits of n: the reversal of those k bits. -/
def reverseBits (n : Nat) : Nat → Nat
  | 0 => 0
  | k + 1 => 2 * reverseBits n k + (n.testBit k).toNat

def brevW {w : Nat} (a : BitVec w) : BitVec w := BitVec.ofNat w (reverseBits a.toNat w)

/-- A sum or difference clamped to the signed range (ADDSAT, SUBSAT). -/
def clampSigned (w : Nat) (x : Int) : BitVec w :=
  BitVec.ofInt w (max (-(2 ^ (w - 1) : Nat)) (min ((2 ^ (w - 1) : Nat) - 1) x))

def addsatW {w : Nat} (a b : BitVec w) : BitVec w := clampSigned w (a.toInt + b.toInt)
def subsatW {w : Nat} (a b : BitVec w) : BitVec w := clampSigned w (a.toInt - b.toInt)

/-- The field position pos = zB[5:0] of BFX and BFI (R88). -/
def fieldPos {w : Nat} (b : BitVec w) : Nat := b.toNat % 64

/-- The field width w = zB[14:8] of BFX and BFI (R88). -/
def fieldWidth {w : Nat} (b : BitVec w) : Nat := (b.toNat >>> 8) % 128

/-- BFX (R88): bits at or above W read as zero. -/
def bfxW {w : Nat} (a b : BitVec w) : BitVec w :=
  BitVec.ofNat w ((a.toNat >>> fieldPos b) % 2 ^ fieldWidth b)

/-- BFI (R88): bits at or above W are not written. -/
def bfiW {w : Nat} (d a b : BitVec w) : BitVec w :=
  let mask := BitVec.ofNat w ((2 ^ fieldWidth b - 1) <<< fieldPos b)
  (d &&& ~~~mask) ||| (BitVec.ofNat w (a.toNat <<< fieldPos b) &&& mask)

/-- Which common source tags the result keeps (Table 4-2, "Tag kept"; R87). -/
inductive Kept where
  | none | s32 | z32 | s32z32 | any
  deriving DecidableEq, Repr

def Kept.holds : Kept → Tag → Bool
  | .none, _ => false
  | .s32, t => t == .s32
  | .z32, t => t == .z32
  | .s32z32, t => t == .s32 || t == .z32
  | .any, _ => true

/-- The tag of D (R87): the common tag of the sources when the column keeps it, otherwise RAW. -/
def keptTag (k : Kept) (l : List Tag) : Tag :=
  match l with
  | [] => .raw
  | t :: rest => if rest.all (· == t) && k.holds t then t else .raw

/-- Tags the integer operations accept (Table 3-9). -/
def intAccepts : Tag → Bool
  | .raw | .s32 | .z32 | .f32 | .f32p => true
  | _ => false

/-- Tags of a lane index, a count or a salt (R101, R109, R110). -/
def indexAccepts : Tag → Bool
  | .raw | .s32 | .z32 => true
  | _ => false

/-- Tags of a floating-point source (Table 3-9). -/
def fpAccepts : Tag → Bool
  | .raw | .f32 => true
  | _ => false

/-- Tags of a P2 source (R98). -/
def p2Accepts : Tag → Bool
  | .raw | .f32 | .f32p => true
  | _ => false

def anyTag (_ : Tag) : Bool := true

end Sys2Proof.Machine
end

