-- ==== Sys2Proof/Machine/Fp.lean ====
section
/-! DEFINITION. The floating-point results of 04_lane_arithmetic.md: FOP (R93–R95), the fused forms (R96), X2 (R97) and
P2 (R98). Each is computed exactly and rounded once. -/

namespace Sys2Proof.Machine

/-- NV for an invalid operation: a signalling operand, or a NaN made from operands that are none (R66). -/
def invalid (ops : List FVal) (y : FVal) : Bool :=
  ops.any FVal.isSNaN || (y.isNaN && !(ops.any FVal.isNaN))

/-- One rounding of an exact result y of the operands given, with the NV its operands cause (R93, R66). -/
def fpResult (rm : Rm) (ops : List FVal) (y : FVal) : Word × Fl :=
  let p := roundFp32 (Mode.ofRm rm) y
  (p.1, p.2 ||| Fl.when (invalid ops y) Fl.nv)

def fadd (rm : Rm) (a b : Word) : Word × Fl :=
  fpResult rm [fp32Value a, fp32Value b] ((fp32Value a).add (Mode.ofRm rm) (fp32Value b))

def fsub (rm : Rm) (a b : Word) : Word × Fl :=
  fpResult rm [fp32Value a, fp32Value b] ((fp32Value a).add (Mode.ofRm rm) (fp32Value b).negate)

def fmul (rm : Rm) (a b : Word) : Word × Fl :=
  fpResult rm [fp32Value a, fp32Value b] ((fp32Value a).mul (fp32Value b))

/-- The fused result of x × y + z (R96): 0 × ∞ is invalid whatever z is. -/
def fused (rm : Rm) (x y z : FVal) : Word × Fl :=
  let p := x.mul y
  let s := p.add (Mode.ofRm rm) z
  let r := roundFp32 (Mode.ofRm rm) s
  (r.1, r.2 ||| Fl.when (invalid [x, y] p || invalid [p, z] s) Fl.nv)

def ffma (rm : Rm) (a b c : Word) : Word × Fl := fused rm (fp32Value a) (fp32Value b) (fp32Value c)
def ffms (rm : Rm) (a b c : Word) : Word × Fl := fused rm (fp32Value a) (fp32Value b) (fp32Value c).negate
def ffnma (rm : Rm) (a b c : Word) : Word × Fl := fused rm (fp32Value a).negate (fp32Value b) (fp32Value c)

/-- Whether a is the lesser with −0 < +0 (FMIN), for operands that are no NaN. -/
def fpLess (a b : Word) : Bool :=
  let k := (fp32Value a).cmp (fp32Value b)
  decide (k < 0) || (k == 0 && (fp32Value a).neg && !(fp32Value b).neg)

/-- FMIN, FMAX, FMINN and FMAXN (Table 4-9): `isMax` picks the greater, `number` ignores one NaN operand. -/
def fminmax (isMax number : Bool) (a b : Word) : Word × Fl :=
  let x := fp32Value a
  let y := fp32Value b
  let nv := Fl.when (x.isSNaN || y.isSNaN) Fl.nv
  if x.isNaN && y.isNaN then (canonicalNaN32, nv)
  else if x.isNaN then (if number then b else canonicalNaN32, nv)
  else if y.isNaN then (if number then a else canonicalNaN32, nv)
  else if fpLess a b then (if isMax then b else a, nv)
  else (if isMax then a else b, nv)

/-- FABS, FNEG and FCPYS (R94): the sign bit given on |A|; a NaN operand gives 0x7FC0_0000 with no flag. -/
def fsign (a : Word) (neg : Bool) : Word :=
  if (fp32Value a).isNaN then canonicalNaN32
  else (a &&& 0x7FFFFFFF#32) ||| (if neg then 0x80000000#32 else 0#32)

def fabs32 (a : Word) : Word := fsign a false
def fneg32 (a : Word) : Word := fsign a (!a.msb)

/-- FCPYS: |A| with the sign of B; a NaN operand gives the canonical NaN (R94). [DEDUCED: log entry 108] -/
def fcpys (a b : Word) : Word :=
  if (fp32Value b).isNaN then canonicalNaN32 else fsign a b.msb

/-! ### Square root, reciprocals -/

/-- ⌊√n⌋ built bit by bit from bit k − 1 down: `acc` is the root found so far. -/
def isqrtBits (n : Nat) : Nat → Nat → Nat
  | 0, acc => acc
  | k + 1, acc =>
    let c := acc + 2 ^ k
    isqrtBits n k (if c * c ≤ n then c else acc)

def isqrt (n : Nat) : Nat := isqrtBits n (n.log2 / 2 + 1) 0

/-- A magnitude known to lie at m × 2^e, or strictly between that and (m + 1) × 2^e when `sticky`. -/
structure Mag where
  m : Nat
  e : Int
  sticky : Bool
  deriving DecidableEq, Repr

/-- The square root of m × 2^e with at least 64 bits before the binary point of its quantum. -/
def magSqrt (m : Nat) (e : Int) : Mag :=
  let k : Int := if e % 2 = 0 then 128 else 129
  let n := m * 2 ^ k.toNat
  let r := isqrt n
  ⟨r, (e - k) / 2, decide (r * r ≠ n)⟩

/-- The reciprocal of m × 2^e. -/
def magRecip (m : Nat) (e : Int) : Mag :=
  let n := 2 ^ (m.log2 + 65)
  ⟨n / m, -e - ((m.log2 + 65 : Nat) : Int), decide (n % m ≠ 0)⟩

/-- The reciprocal square root of m × 2^e: ⌊√⌊2^2k / m'⌋⌋ with m' × 2^(even). -/
def magRsqrt (m : Nat) (e : Int) : Mag :=
  let m' := if e % 2 = 0 then m else 2 * m
  let e' := if e % 2 = 0 then e else e - 1
  let k := m'.log2 + 65
  let r := isqrt (2 ^ (2 * k) / m')
  ⟨r, -(e' / 2) - (k : Int), decide (r * r * m' ≠ 2 ^ (2 * k))⟩

def roundFp32Mag (rm : Rm) (neg : Bool) (g : Mag) : Word × Fl :=
  let p := Fmt.fp32.roundFin (Mode.ofRm rm) false neg g.m g.e g.sticky 0#32
  (BitVec.ofNat 32 p.1, p.2)

def infWord (neg : Bool) : Word := if neg then 0xFF800000#32 else 0x7F800000#32
def zeroWord (neg : Bool) : Word := if neg then 0x80000000#32 else 0#32

/-- FSQRT (Table 4-10). -/
def fsqrt (rm : Rm) (a : Word) : Word × Fl :=
  match fp32Value a with
  | .nan s => (canonicalNaN32, Fl.when s Fl.nv)
  | .inf n => if n then (canonicalNaN32, Fl.nv) else (infWord false, 0#5)
  | .fin n m e =>
    if m = 0 then (zeroWord n, 0#5)
    else if n then (canonicalNaN32, Fl.nv)
    else roundFp32Mag rm false (magSqrt m e)

/-- FRCP (Table 4-10). -/
def frcp (rm : Rm) (a : Word) : Word × Fl :=
  match fp32Value a with
  | .nan s => (canonicalNaN32, Fl.when s Fl.nv)
  | .inf n => (zeroWord n, 0#5)
  | .fin n m e => if m = 0 then (infWord n, Fl.dz) else roundFp32Mag rm n (magRecip m e)

/-- FRSQ (Table 4-10). -/
def frsq (rm : Rm) (a : Word) : Word × Fl :=
  match fp32Value a with
  | .nan s => (canonicalNaN32, Fl.when s Fl.nv)
  | .inf n => if n then (canonicalNaN32, Fl.nv) else (zeroWord false, 0#5)
  | .fin n m e =>
    if m = 0 then (infWord n, Fl.dz)
    else if n then (canonicalNaN32, Fl.nv)
    else roundFp32Mag rm false (magRsqrt m e)

/-! ### FEXP2 and FLOG2

Both are transcendental except where the operand is an integer (FEXP2) or a power of two (FLOG2), so the exact value is
never a rounding boundary: an enclosure that both ends round alike fixes the correctly rounded result. -/

/-- Σ over odd k of z^k / k in fixed point with p fraction bits: the series of atanh; `t` is z^k, `z2` is z². -/
def atanhSum (p z2 : Nat) : Nat → Nat → Nat → Nat → Nat
  | 0, _, _, acc => acc
  | fuel + 1, t, k, acc =>
    if t = 0 then acc else atanhSum p z2 fuel (t * z2 / 2 ^ p) (k + 2) (acc + t / k)

/-- A lower bound of 2^p × ln(u / v) for v ≤ u ≤ 2v, at most 2p units short: ln(u / v) = 2 atanh((u − v) / (u + v)). -/
def lnLow (p u v : Nat) : Nat :=
  let z := (u - v) * 2 ^ p / (u + v)
  2 * atanhSum p (z * z / 2 ^ p) p z 1 0

/-- Σ x^k / k! in fixed point with p fraction bits, below by at most a few units per term. -/
def expSum (p x : Nat) : Nat → Nat → Nat → Nat → Nat
  | 0, _, _, acc => acc
  | fuel + 1, t, k, acc =>
    if t = 0 then acc else expSum p x fuel (t * x / 2 ^ p / (k + 1)) (k + 1) (acc + t)

/-- An enclosure of 2^p × 2^f for 0 < f = g / 2^h < 1. -/
def exp2Bounds (p g h : Nat) : Nat × Nat :=
  let x := lnLow p 2 1 * g / 2 ^ h
  let lo := expSum p x p (2 ^ p) 0 0
  (lo, lo + 64 * p)

/-- Round both ends of an enclosure [lo, hi] × 2^e; the result when they agree. -/
def roundBoth (rm : Rm) (neg : Bool) (lo hi : Nat) (e : Int) : Option (Word × Fl) :=
  let a := roundFp32Mag rm neg ⟨lo, e, true⟩
  let b := roundFp32Mag rm neg ⟨hi, e, true⟩
  if a = b then some a else none

/-- The correctly rounded 2^(n + g/2^h), with the precision doubled until the enclosure decides. [DEDUCED: log entry 107] -/
def exp2Search (rm : Rm) (n : Int) (g h : Nat) : Nat → Nat → Word × Fl
  | 0, p => roundFp32Mag rm false ⟨(exp2Bounds p g h).1, n - (p : Int), true⟩
  | fuel + 1, p =>
    let b := exp2Bounds p g h
    match roundBoth rm false b.1 b.2 (n - (p : Int)) with
    | some r => r
    | none => exp2Search rm n g h fuel (2 * p)

/-- FEXP2 (R94, Table 4-10). [DEDUCED: log entry 107] -/
def fexp2 (rm : Rm) (a : Word) : Word × Fl :=
  match fp32Value a with
  | .nan s => (canonicalNaN32, Fl.when s Fl.nv)
  | .inf n => (if n then zeroWord false else infWord false, 0#5)
  | .fin n m e =>
    if m = 0 then (0x3F800000#32, 0#5)
    else if 256 * 2 ^ (-e).toNat ≤ m * 2 ^ e.toNat then
      if n then roundFp32Mag rm false ⟨1, -256, true⟩
      else roundFp32Mag rm false ⟨1, 256, true⟩
    else
      let h := (-e).toNat
      let i : Int := signedAt n m e (-(h : Int))
      let fl : Int := i / ((2 ^ h : Nat) : Int)
      let g : Nat := (i - fl * ((2 ^ h : Nat) : Int)).toNat
      if g = 0 then roundFp32Mag rm false ⟨1, fl, false⟩
      else exp2Search rm fl g h 6 320

/-- An enclosure of 2^p × |log2(m × 2^e)| and its sign, for m × 2^e no power of two. -/
def log2Bounds (p m : Nat) (e : Int) : Bool × Nat × Nat :=
  let l := m.log2
  let ln2 := lnLow p 2 1
  let lm := lnLow p m (2 ^ l)
  let lo : Int := ((lm * 2 ^ p / (ln2 + 4 * p) : Nat) : Int) + ((l : Int) + e) * ((2 ^ p : Nat) : Int)
  let hi : Int := ((((lm + 4 * p) * 2 ^ p / ln2 + 1 : Nat)) : Int) + ((l : Int) + e) * ((2 ^ p : Nat) : Int)
  if 0 ≤ lo then (false, lo.toNat, hi.toNat) else (true, (-hi).toNat, (-lo).toNat)

/-- log2 m × 2^e rounded, by enclosures of growing precision. [DEDUCED: log entry 107] -/
def log2Search (rm : Rm) (m : Nat) (e : Int) : Nat → Nat → Word × Fl
  | 0, p => let b := log2Bounds p m e; roundFp32Mag rm b.1 ⟨b.2.1, -(p : Int), true⟩
  | fuel + 1, p =>
    let b := log2Bounds p m e
    match roundBoth rm b.1 b.2.1 b.2.2 (-(p : Int)) with
    | some r => r
    | none => log2Search rm m e fuel (2 * p)

/-- FLOG2 (R94, Table 4-10). [DEDUCED: log entry 107] -/
def flog2 (rm : Rm) (a : Word) : Word × Fl :=
  match fp32Value a with
  | .nan s => (canonicalNaN32, Fl.when s Fl.nv)
  | .inf n => if n then (canonicalNaN32, Fl.nv) else (infWord false, 0#5)
  | .fin n m e =>
    if m = 0 then (infWord true, Fl.dz)
    else if n then (canonicalNaN32, Fl.nv)
    else if m = 2 ^ m.log2 then
      roundFp32 (Mode.ofRm rm) (.ofInt ((m.log2 : Int) + e) 0 false)
    else log2Search rm m e 6 320

/-! ### The P2 forms (R98) -/

/-- A source pair: hi in the even register, lo in the odd one. -/
structure Pair32 where
  hi : Word
  lo : Word
  deriving DecidableEq, Repr

def Pair32.regs (p : Pair32) : List FVal := [fp32Value p.hi, fp32Value p.lo]

/-- The exact value hi + lo. -/
def Pair32.value (mode : Mode) (p : Pair32) : FVal := (fp32Value p.hi).add mode (fp32Value p.lo)

/-- Whether hi + lo is ∞ − ∞. -/
def Pair32.bad (mode : Mode) (p : Pair32) : Bool := invalid p.regs (p.value mode)

/-- P2Op (R98) once the exact result y is known: the pair written and the flags. `inv` says that the operation met 0 × ∞ or
∞ − ∞. [DEDUCED: log entry 104] -/
def p2Result (rm : Rm) (regs : List FVal) (inv : Bool) (y : FVal) : Word × Word × Fl :=
  if regs.any FVal.isNaN then (canonicalNaN32, canonicalNaN32, Fl.when (inv || regs.any FVal.isSNaN) Fl.nv)
  else
    match y with
    | .nan _ => (canonicalNaN32, canonicalNaN32, Fl.nv)
    | .inf n => (infWord n, 0#32, 0#5)
    | .fin n m e =>
      if m = 0 then (zeroWord n, 0#32, 0#5)
      else
        let q := roundMag .fp32 (Mode.ofRm rm) n m e false 0#32
        if Fmt.fp32.maxCode < q.code then
          (BitVec.ofNat 32 (Fmt.fp32.overflowed (Mode.ofRm rm) n false), 0#32, Fl.of ||| Fl.nx)
        else
          let hi := BitVec.ofNat 32 (Fmt.fp32.signed n q.code)
          match (FVal.fin n m e).add .rne (fp32Value hi).negate with
          | .fin dn dm de =>
            if dm = 0 then (hi, 0#32, 0#5)
            else
              let l := Fmt.fp32.roundFin .rne false dn dm de false 0#32
              let nx := l.2 &&& Fl.nx
              (hi, BitVec.ofNat 32 l.1, nx ||| Fl.when (q.tiny && nx != 0#5) Fl.uf)
          | _ => (hi, 0#32, 0#5)

def faddP2 (rm : Rm) (a b : Pair32) : Word × Word × Fl :=
  let md := Mode.ofRm rm
  let y := (a.value md).add md (b.value md)
  p2Result rm (a.regs ++ b.regs) (a.bad md || b.bad md || invalid [a.value md, b.value md] y) y

def fmulP2 (rm : Rm) (a b : Pair32) : Word × Word × Fl :=
  let md := Mode.ofRm rm
  let y := (a.value md).mul (b.value md)
  p2Result rm (a.regs ++ b.regs) (a.bad md || b.bad md || invalid [a.value md, b.value md] y) y

def ffmaP2 (rm : Rm) (a b c : Pair32) : Word × Word × Fl :=
  let md := Mode.ofRm rm
  let p := (a.value md).mul (b.value md)
  let y := p.add md (c.value md)
  p2Result rm (a.regs ++ b.regs ++ c.regs)
    (a.bad md || b.bad md || c.bad md || invalid [a.value md, b.value md] p || invalid [p, c.value md] y) y

/-! ### Exact sums of many values -/

/-- The exact IEEE sum of a list in RNE (REDFADD, R109): an all-zero sum is −0 only when every operand is −0. -/
def exactSum : List FVal → FVal
  | [] => .fin true 0 0
  | x :: l => x.add .rne (exactSum l)

/-- REDFADD over the members' values: the sum rounded once; a NaN sum sets NV, whichever operand caused it (R109). [DEDUCED: log entry 104] -/
def redfadd (l : List Word) : Word × Fl :=
  let y := exactSum (l.map fp32Value)
  let p := roundFp32 .rne y
  (p.1, p.2 ||| Fl.when y.isNaN Fl.nv)

end Sys2Proof.Machine
end

