-- ==== Sys2Proof/Machine/Cvt.lean ====
section
/-! DEFINITION. Format conversion (04_lane_arithmetic.md R100–R102) and the MX quantise and dequantise results of a locked
cohort (R110, R111, 03_number_formats.md R77), as functions of register contents. -/

namespace Sys2Proof.Machine

/-- The tag a code of Table 2-5 names; none for 13–15. -/
def tagOfCode (c : Nat) : Option Tag :=
  match c with
  | 0 => some .raw
  | 1 => some .s32
  | 2 => some .z32
  | 3 => some .f32
  | 4 => some .bf16x2
  | 5 => some .f16x2
  | 6 => some .e4m3x4
  | 7 => some .e5m2x4
  | 8 => some .e2m1x8
  | 9 => some .e8m0x4
  | 10 => some .s8x4
  | 11 => some .f32p
  | 12 => some .mxq
  | _ => none

/-- The R81 check on a tag-12 register: its format field is 6, 7 or 8 and its reserved bits are zero (Table 3-10). [DEDUCED: log entry 105] -/
def mxqOk (w : Word) : Bool :=
  let f := (w.toNat >>> 20) % 16
  (w.toNat >>> 8) % 4096 == 0 && (f == 6 || f == 7 || (f == 8 && (w.toNat >>> 4) % 16 == 0))

/-- The value of a tag-12 register (R102): 2^(SCALE−127) × the element's value. -/
def mxqValue (w : Word) : FVal :=
  let sc := w.toNat >>> 24
  let el := w.toNat % 256
  match (w.toNat >>> 20) % 16 with
  | 6 => scaledValue sc (Fmt.e4m3.value el)
  | 7 => scaledValue sc (Fmt.e5m2.value el)
  | _ => scaledValue sc (Fmt.e2m1.value el)

/-- ValueOf (R102): element j of a register of tag t. RAW is read as F32 (R100). -/
def sourceValue (t : Tag) (w : Word) (j : Nat) : FVal :=
  match t with
  | .raw | .f32 | .f32p => fp32Value w
  | .s32 => .ofInt w.toInt 0 false
  | .z32 => .ofInt w.toNat 0 false
  | .bf16x2 => Fmt.bf16.value (elemOf t w j)
  | .f16x2 => Fmt.f16.value (elemOf t w j)
  | .e4m3x4 => Fmt.e4m3.value (elemOf t w j)
  | .e5m2x4 => Fmt.e5m2.value (elemOf t w j)
  | .e2m1x8 => Fmt.e2m1.value (elemOf t w j)
  | .e8m0x4 => e8m0Value (elemOf t w j)
  | .s8x4 => .ofInt (BitVec.ofNat 8 (elemOf t w j)).toInt 0 false
  | .mxq => mxqValue w

/-- Scalar tags (R100). -/
def isScalarTag : Tag → Bool
  | .raw | .s32 | .z32 | .f32 | .mxq => true
  | _ => false

/-- Table 4-15: whether CVT to `dst` accepts a source tag. -/
def cvtAccepts (dst src : Tag) : Bool :=
  match dst with
  | .s32 | .z32 | .e8m0x4 => isScalarTag src
  | .f32 => src != .f32p
  | .bf16x2 => isScalarTag src || src == .f16x2 || src == .e4m3x4 || src == .e5m2x4 || src == .e2m1x8 ||
      src == .s8x4 || src == .e8m0x4
  | .f16x2 => isScalarTag src || src == .bf16x2 || src == .e4m3x4 || src == .e5m2x4 || src == .e2m1x8 || src == .s8x4
  | .e4m3x4 => isScalarTag src || src == .bf16x2 || src == .f16x2 || src == .s8x4 || src == .e2m1x8 || src == .e5m2x4
  | .e5m2x4 => isScalarTag src || src == .bf16x2 || src == .f16x2 || src == .s8x4 || src == .e2m1x8 || src == .e4m3x4
  | .e2m1x8 => isScalarTag src || src == .bf16x2 || src == .f16x2 || src == .e4m3x4 || src == .e5m2x4
  | .s8x4 => isScalarTag src || src == .bf16x2 || src == .f16x2 || src == .e4m3x4 || src == .e5m2x4
  | .f32p => src == .raw || src == .f32 || src == .s32 || src == .z32
  | .mxq => src == .mxq
  | .raw => false

/-- A conversion into a floating-point element format (R102), with the NV of a NaN input (R66): a signalling FP32 NaN, or
any NaN into a format that has none. -/
def cvtFloat (f : Fmt) (mode : Mode) (satf : Bool) (r : Word) (v : FVal) : Nat × Fl :=
  let p := f.round mode satf r v
  (p.1, p.2 ||| Fl.when (v.isSNaN || (v.isNaN && f.nanCode == 0)) Fl.nv)

def cvtInt (f : IntFmt) (w : Nat) (mode : Mode) (r : Word) (v : FVal) : Nat × Fl :=
  let p := integerConvert f mode r v
  ((BitVec.ofInt w p.1).toNat, p.2)

/-- CvtElement (R102) for the destinations that write one code per element. -/
def cvtElement (dst : Tag) (mode : Mode) (satf : Bool) (r : Word) (v : FVal) : Nat × Fl :=
  match dst with
  | .s32 => cvtInt .s32 32 mode r v
  | .z32 => cvtInt .z32 32 mode r v
  | .s8x4 => cvtInt .s8 8 mode r v
  | .e8m0x4 => scaleConvert mode satf r v
  | .bf16x2 => cvtFloat .bf16 mode satf r v
  | .f16x2 => cvtFloat .f16 mode satf r v
  | .e4m3x4 => cvtFloat .e4m3 mode satf r v
  | .e5m2x4 => cvtFloat .e5m2 mode satf r v
  | .e2m1x8 => cvtFloat .e2m1 mode satf r v
  | .f32 | .f32p | .raw | .mxq => cvtFloat .fp32 mode satf r v

/-- The random word of an element (R73): Lemfy of the key, salt + j and the index. -/
def saltWord (key : DWord) (salt : Word) (index : DWord) (j : Nat) : Word :=
  lemfyWord key (salt + BitVec.ofNat 32 j) index

/-- Cut a list into registers of n codes each. -/
def packRun (t : Tag) (n : Nat) : Nat → List Nat → List Word
  | 0, _ => []
  | k + 1, l => packElems t (l.take n) :: packRun t n k (l.drop n)

/-- The words a CVT writes from D up, and its flags (R100–R102). `srcs` is the source run; `rnd j` the random word of
element j of a destination register. -/
def cvtWords (dst src : Tag) (mode : Mode) (satf : Bool) (rnd : Nat → Word) (srcs : List (Tag × Word)) :
    List Word × Fl :=
  let m := Tag.count src
  let n := Tag.count dst
  let total := max m n
  let value := fun i =>
    match srcs[i / m]? with
    | some p => sourceValue p.1 p.2 (i % m)
    | none => .fin false 0 0
  match dst with
  | .mxq => (srcs.map (·.2), 0#5)
  | .f32p =>
    let v := value 0
    let hi := BitVec.ofNat 32 (Fmt.fp32.round mode false (rnd 0) v).1
    let lo := match v with
      | .fin _ _ _ => (roundFp32 .rne (v.add .rne (fp32Value hi).negate)).1
      | _ => 0#32
    ([hi, if (fp32Value lo).isZero then 0#32 else lo], Fl.when v.isSNaN Fl.nv)
  | _ =>
    let q := (List.range total).map (fun i => cvtElement dst mode satf (rnd (i % n)) (value i))
    (packRun dst n ((total + n - 1) / n) (q.map (·.1)), q.foldl (fun acc p => acc ||| p.2) 0#5)

/-! ### MXQ and MXDQ over a cohort of 32 (R77, R110, R111) -/

/-- What one member brings to MXQ: its n source words, its salt and its index srPLOT × 512 + srSID. -/
structure MxqMember where
  words : List Word
  salt : Word
  index : DWord
  deriving DecidableEq, Repr

/-- What one member receives from MXQ: its packed elements and its scale register. -/
structure MxqOut where
  elems : Word
  scale : Word
  deriving DecidableEq, Repr

/-- MXQ over the members in lane order: block b takes the 32 values of number 32b to 32b + 31 in the order n × L + j. -/
def mxqCohort (f : MxFmt) (mode : Mode) (key : DWord) (ms : List MxqMember) : List MxqOut × Fl :=
  let n := Tag.count f.tag
  let vals : List (FVal × Word) := ms.flatMap (fun m =>
    (List.range n).map (fun j => (fp32Value (m.words.getD j 0#32), saltWord key m.salt m.index j)))
  let blocks := (List.range n).map (fun b => mxqBlock f mode ((vals.drop (32 * b)).take 32))
  let codes := blocks.flatMap (fun b => b.2.1)
  let scales := blocks.map (fun b => b.1)
  (((List.range ms.length).map (fun l =>
      ⟨packElems f.tag ((codes.drop (n * l)).take n), packElems .e8m0x4 ((scales.drop (4 * l)).take 4)⟩)),
    blocks.foldl (fun acc b => acc ||| b.2.2) 0#5)

/-- One element of MXDQ (R111): 2^(X−127) × the element, rounded in RNE; a NaN gives 0x7FC0_0000 with no flag. -/
def mxdqElement (t : Tag) (scale : Nat) (w : Word) (j : Nat) : Word × Fl :=
  roundFp32 .rne (scaledValue scale (sourceValue t w j))

end Sys2Proof.Machine
end

