-- ==== Sys2Proof/Machine/Integer.lean ====
section
/-! DEFINITION. The integer words: IOP (04_lane_arithmetic.md R87–R89), the immediate forms (R90), and the compares (R91),
32 bits wide with tags in the lane stream and 64 bits wide without them in the uniform stream (R86, R92). -/

namespace Sys2Proof.Machine

/-- The first source whose tag is not accepted (R79). [DEDUCED: log entry 30] -/
def tagFault (acc : Tag → Bool) : List (Reg × Tag) → Option Res
  | [] => none
  | (r, t) :: l => if acc t then tagFault acc l else some (.trap .format 0 (formatTval r t Tag.code))

/-- A binary integer operation, at the width of the stream. -/
abbrev BinOp := {w : Nat} → BitVec w → BitVec w → BitVec w

abbrev UnOp := {w : Nat} → BitVec w → BitVec w

/-- IOP with two sources: the result to D, with the tag the column keeps (R87). -/
def int3 (k : Kept) (op : BinOp) (d a b : Reg) (c : Cx) (p : Plot) : Plot × Res :=
  let g := p.regs
  match c.who with
  | .front => ({ p with regs := g.setS d (op (g.s a) (g.s b)) }, .done)
  | .strand n =>
    let x := g.v n a
    let y := g.v n b
    match tagFault intAccepts [(a, x.tag), (b, y.tag)] with
    | some t => (p, t)
    | none => ({ p with regs := g.setV n d ⟨op x.val y.val, keptTag k [x.tag, y.tag]⟩ }, .done)

/-- IOP with one source, or an immediate form: the tag of D is `t` of the tag of A. -/
def int2 (t : Tag → Tag) (op : UnOp) (d a : Reg) (c : Cx) (p : Plot) : Plot × Res :=
  let g := p.regs
  match c.who with
  | .front => ({ p with regs := g.setS d (op (g.s a)) }, .done)
  | .strand n =>
    let x := g.v n a
    match tagFault intAccepts [(a, x.tag)] with
    | some r => (p, r)
    | none => ({ p with regs := g.setV n d ⟨op x.val, t x.tag⟩ }, .done)

def toRaw (_ : Tag) : Tag := .raw
def toZ32 (_ : Tag) : Tag := .z32

/-- BFI, whose D is a source as well (R87, R88). -/
def intBfi (d a b : Reg) (c : Cx) (p : Plot) : Plot × Res :=
  let g := p.regs
  match c.who with
  | .front => ({ p with regs := g.setS d (bfiW (g.s d) (g.s a) (g.s b)) }, .done)
  | .strand n =>
    let x := g.v n a
    let y := g.v n b
    let z := g.v n d
    match tagFault intAccepts [(a, x.tag), (b, y.tag), (d, z.tag)] with
    | some t => (p, t)
    | none => ({ p with regs := g.setV n d ⟨bfiW z.val x.val y.val, .raw⟩ }, .done)

/-- SEL: A where the flag is 1, else B (Table 4-2). -/
def intSel (f : BitVec 2) (d a b : Reg) (c : Cx) (p : Plot) : Plot × Res :=
  int3 .any (fun x y => if p.regs.flag c.who f then x else y) d a b c p

/-- A constant to D: tagged RAW, zero-extended (R90). -/
def intConst (d : Reg) (x : Word) (c : Cx) (p : Plot) : Plot × Res := (p.modRegs (fun g => g.setR c.who d .raw x), .done)

/-- ICMP and ICMPI: the flag alone is written (R91). -/
def intCmp (f : BitVec 2) (k : ICond) (a b : Reg) (c : Cx) (p : Plot) : Plot × Res :=
  let g := p.regs
  match c.who with
  | .front => ({ p with regs := g.setFlag .front f (icond k (g.s a) (g.s b)) }, .done)
  | .strand n =>
    let x := g.v n a
    let y := g.v n b
    match tagFault intAccepts [(a, x.tag), (b, y.tag)] with
    | some t => (p, t)
    | none => ({ p with regs := g.setFlag c.who f (icond k x.val y.val) }, .done)

def intCmpi (f : BitVec 2) (k : ICond) (a : Reg) (i : BitVec 11) (c : Cx) (p : Plot) : Plot × Res :=
  let g := p.regs
  match c.who with
  | .front => ({ p with regs := g.setFlag .front f (icond k (g.s a) (i.signExtend 64)) }, .done)
  | .strand n =>
    let x := g.v n a
    match tagFault intAccepts [(a, x.tag)] with
    | some t => (p, t)
    | none => ({ p with regs := g.setFlag c.who f (icond k x.val (i.signExtend 32)) }, .done)

/-- ADD (Table 4-2). -/
def execAdd (d a b : Reg) (s : State) : Host.Outcome State Fault Refusal := runWord (.add d a b) (onPlot (int3 .s32z32 (fun x y => x + y) d a b)) s

/-- SUB (Table 4-2). -/
def execSub (d a b : Reg) (s : State) : Host.Outcome State Fault Refusal := runWord (.sub d a b) (onPlot (int3 .s32z32 (fun x y => x - y) d a b)) s

/-- MUL (Table 4-2). -/
def execMul (d a b : Reg) (s : State) : Host.Outcome State Fault Refusal := runWord (.mul d a b) (onPlot (int3 .s32z32 (fun x y => x * y) d a b)) s

/-- MULHS (Table 4-2). -/
def execMulhs (d a b : Reg) (s : State) : Host.Outcome State Fault Refusal := runWord (.mulhs d a b) (onPlot (int3 .none (mulhs) d a b)) s

/-- MULHZ (Table 4-2). -/
def execMulhz (d a b : Reg) (s : State) : Host.Outcome State Fault Refusal := runWord (.mulhz d a b) (onPlot (int3 .none (mulhz) d a b)) s

/-- AND (Table 4-2). -/
def execAndR (d a b : Reg) (s : State) : Host.Outcome State Fault Refusal := runWord (.andR d a b) (onPlot (int3 .none (fun x y => x &&& y) d a b)) s

/-- OR (Table 4-2). -/
def execOrR (d a b : Reg) (s : State) : Host.Outcome State Fault Refusal := runWord (.orR d a b) (onPlot (int3 .none (fun x y => x ||| y) d a b)) s

/-- XOR (Table 4-2). -/
def execXorR (d a b : Reg) (s : State) : Host.Outcome State Fault Refusal := runWord (.xorR d a b) (onPlot (int3 .none (fun x y => x ^^^ y) d a b)) s

/-- ANDN (Table 4-2). -/
def execAndn (d a b : Reg) (s : State) : Host.Outcome State Fault Refusal := runWord (.andn d a b) (onPlot (int3 .none (fun x y => x &&& ~~~y) d a b)) s

/-- SHL (Table 4-2). -/
def execShl (d a b : Reg) (s : State) : Host.Outcome State Fault Refusal := runWord (.shl d a b) (onPlot (int3 .none (shlW) d a b)) s

/-- SHR (Table 4-2). -/
def execShr (d a b : Reg) (s : State) : Host.Outcome State Fault Refusal := runWord (.shr d a b) (onPlot (int3 .none (shrW) d a b)) s

/-- SRA (Table 4-2). -/
def execSra (d a b : Reg) (s : State) : Host.Outcome State Fault Refusal := runWord (.sra d a b) (onPlot (int3 .none (sraW) d a b)) s

/-- ROL (Table 4-2). -/
def execRol (d a b : Reg) (s : State) : Host.Outcome State Fault Refusal := runWord (.rol d a b) (onPlot (int3 .none (rolW) d a b)) s

/-- MINS (Table 4-2). -/
def execMins (d a b : Reg) (s : State) : Host.Outcome State Fault Refusal := runWord (.mins d a b) (onPlot (int3 .s32 (minsW) d a b)) s

/-- MAXS (Table 4-2). -/
def execMaxs (d a b : Reg) (s : State) : Host.Outcome State Fault Refusal := runWord (.maxs d a b) (onPlot (int3 .s32 (maxsW) d a b)) s

/-- MINZ (Table 4-2). -/
def execMinz (d a b : Reg) (s : State) : Host.Outcome State Fault Refusal := runWord (.minz d a b) (onPlot (int3 .z32 (minzW) d a b)) s

/-- MAXZ (Table 4-2). -/
def execMaxz (d a b : Reg) (s : State) : Host.Outcome State Fault Refusal := runWord (.maxz d a b) (onPlot (int3 .z32 (maxzW) d a b)) s

/-- ABSD (Table 4-2). -/
def execAbsd (d a b : Reg) (s : State) : Host.Outcome State Fault Refusal := runWord (.absd d a b) (onPlot (int3 .none (absdW) d a b)) s

/-- ADDSAT (Table 4-2). -/
def execAddsat (d a b : Reg) (s : State) : Host.Outcome State Fault Refusal := runWord (.addsat d a b) (onPlot (int3 .s32 (addsatW) d a b)) s

/-- SUBSAT (Table 4-2). -/
def execSubsat (d a b : Reg) (s : State) : Host.Outcome State Fault Refusal := runWord (.subsat d a b) (onPlot (int3 .s32 (subsatW) d a b)) s

/-- BFX (Table 4-2). -/
def execBfx (d a b : Reg) (s : State) : Host.Outcome State Fault Refusal := runWord (.bfx d a b) (onPlot (int3 .none (bfxW) d a b)) s

/-- BFI (Table 4-2, R88). -/
def execBfi (d a b : Reg) (s : State) : Host.Outcome State Fault Refusal := runWord (.bfi d a b) (onPlot (intBfi d a b)) s

/-- POPC (Table 4-2). -/
def execPopc (d a : Reg) (s : State) : Host.Outcome State Fault Refusal := runWord (.popc d a) (onPlot (int2 toZ32 (popcW) d a)) s

/-- CLZ (Table 4-2). -/
def execClz (d a : Reg) (s : State) : Host.Outcome State Fault Refusal := runWord (.clz d a) (onPlot (int2 toZ32 (clzW) d a)) s

/-- BREV (Table 4-2). -/
def execBrev (d a : Reg) (s : State) : Host.Outcome State Fault Refusal := runWord (.brev d a) (onPlot (int2 toRaw (brevW) d a)) s

/-- SEL on f0 (Table 4-2). -/
def execSelF0 (d a b : Reg) (s : State) : Host.Outcome State Fault Refusal := runWord (.selF0 d a b) (onPlot (intSel 0#2 d a b)) s

/-- SEL on f1 (Table 4-2). -/
def execSelF1 (d a b : Reg) (s : State) : Host.Outcome State Fault Refusal := runWord (.selF1 d a b) (onPlot (intSel 1#2 d a b)) s

/-- SEL on f2 (Table 4-2). -/
def execSelF2 (d a b : Reg) (s : State) : Host.Outcome State Fault Refusal := runWord (.selF2 d a b) (onPlot (intSel 2#2 d a b)) s

/-- SEL on f3 (Table 4-2). -/
def execSelF3 (d a b : Reg) (s : State) : Host.Outcome State Fault Refusal := runWord (.selF3 d a b) (onPlot (intSel 3#2 d a b)) s

/-- ADDI keeps an S32 or Z32 tag (R90). -/
def execAddi (d a : Reg) (i : BitVec 14) (s : State) : Host.Outcome State Fault Refusal := runWord (.addi d a i) (onPlot (int2 (fun t => keptTag .s32z32 [t]) (fun x => x + i.signExtend _) d a)) s

/-- ANDI (Table 4-5). -/
def execAndi (d a : Reg) (i : BitVec 14) (s : State) : Host.Outcome State Fault Refusal := runWord (.andi d a i) (onPlot (int2 toRaw (fun x => x &&& i.setWidth _) d a)) s

/-- ORI (Table 4-5). -/
def execOri (d a : Reg) (i : BitVec 14) (s : State) : Host.Outcome State Fault Refusal := runWord (.ori d a i) (onPlot (int2 toRaw (fun x => x ||| i.setWidth _) d a)) s

/-- XORI (Table 4-5). -/
def execXori (d a : Reg) (i : BitVec 14) (s : State) : Host.Outcome State Fault Refusal := runWord (.xori d a i) (onPlot (int2 toRaw (fun x => x ^^^ i.setWidth _) d a)) s

/-- SHFI.SHL: the count modulo W (Table 4-5). -/
def execShfiShl (d a : Reg) (n : BitVec 6) (s : State) : Host.Outcome State Fault Refusal := runWord (.shfiShl d a n) (onPlot (int2 toRaw (fun x => shlW x (BitVec.ofNat _ n.toNat)) d a)) s

/-- SHFI.SHR: the count modulo W (Table 4-5). -/
def execShfiShr (d a : Reg) (n : BitVec 6) (s : State) : Host.Outcome State Fault Refusal := runWord (.shfiShr d a n) (onPlot (int2 toRaw (fun x => shrW x (BitVec.ofNat _ n.toNat)) d a)) s

/-- SHFI.SRA: the count modulo W (Table 4-5). -/
def execShfiSra (d a : Reg) (n : BitVec 6) (s : State) : Host.Outcome State Fault Refusal := runWord (.shfiSra d a n) (onPlot (int2 toRaw (fun x => sraW x (BitVec.ofNat _ n.toNat)) d a)) s

/-- SHFI.ROL: the count modulo W (Table 4-5). -/
def execShfiRol (d a : Reg) (n : BitVec 6) (s : State) : Host.Outcome State Fault Refusal := runWord (.shfiRol d a n) (onPlot (int2 toRaw (fun x => rolW x (BitVec.ofNat _ n.toNat)) d a)) s

/-- MOVH (Table 4-5). -/
def execMovh (d : Reg) (i : BitVec 20) (s : State) : Host.Outcome State Fault Refusal := runWord (.movh d i) (onPlot (intConst d (i.setWidth 32 <<< 12))) s

/-- MOVW (Table 4-5, 02_clauses_encoding.md R53). -/
def execMovw (d : Reg) (lit : Word) (s : State) : Host.Outcome State Fault Refusal := runWord (.movw d lit) (onPlot (intConst d lit)) s

/-- ICMP (R91). -/
def execIcmp (f : BitVec 2) (k : ICond) (a b : Reg) (s : State) : Host.Outcome State Fault Refusal := runWord (.icmp f k a b) (onPlot (intCmp f k a b)) s

/-- ICMPI (R91). -/
def execIcmpi (f : BitVec 2) (k : ICond) (a : Reg) (i : BitVec 11) (s : State) : Host.Outcome State Fault Refusal := runWord (.icmpi f k a i) (onPlot (intCmpi f k a i)) s

end Sys2Proof.Machine
end

