-- ==== Sys2Proof/Machine/Float.lean ====
section
/-! DEFINITION. The floating-point words (04_lane_arithmetic.md R93–R99), CVT (R100–R102) and the TAG words (R103, R104),
with the ARITH trap (R85). They stand in the lane stream alone (R40). -/

namespace Sys2Proof.Machine

/-- A floating-point result: ARITH where an enabled flag would be set, else the registers and the flags are written (R85). -/
def fpWrite (n : Nat) (ws : List (Reg × VReg)) (fl : Fl) (p : Plot) : Plot × Res :=
  if arithRaised p.arithEnables fl then (p, .trap .arith 0 (fl.setWidth 64))
  else ({ p with regs := (ws.foldl (fun g w => g.setV n w.1 w.2) p.regs).orFpf fl }, .done)

/-- The same for a flag (R99). -/
def fpFlag (n : Nat) (f : BitVec 2) (b : Bool) (fl : Fl) (p : Plot) : Plot × Res :=
  if arithRaised p.arithEnables fl then (p, .trap .arith 0 (fl.setWidth 64))
  else ({ p with regs := (p.regs.setFlag (.strand n) f b).orFpf fl }, .done)

/-- A lane word; a front thread has no such form (R40). -/
def laneOnly (f : Nat → Plot → Plot × Res) (c : Cx) (p : Plot) : Plot × Res :=
  match c.who with
  | .strand n => f n p
  | .front => (p, illegal 5 c.word64)

/-- The sources with their tags, in order. -/
def tagsOf (g : Regs) (n : Nat) (l : List Reg) : List (Reg × Tag) := l.map (fun r => (r, (g.v n r).tag))

/-- An operation on FP32 registers with one result, tagged `t`. -/
def fpOp (acc : Tag → Bool) (t : Tag) (srcs : List Reg) (d : Reg) (op : (Reg → Word) → Word × Fl) : Cx → Plot → Plot × Res :=
  laneOnly (fun n p =>
    match tagFault acc (tagsOf p.regs n srcs) with
    | some r => (p, r)
    | none =>
      let y := op (fun r => (p.regs.v n r).val)
      fpWrite n [(d, ⟨y.1, t⟩)] y.2 p)

/-- An operation on register pairs: both halves of D are written, tagged `t` (R97, R98). -/
def fpPair (acc : Tag → Bool) (t : Tag) (srcs : List Reg) (d : Reg) (op : (Reg → Word) → Word × Word × Fl) :
    Cx → Plot → Plot × Res :=
  laneOnly (fun n p =>
    match tagFault acc (tagsOf p.regs n (srcs.flatMap (fun r => [r, regPlus r 1]))) with
    | some r => (p, r)
    | none =>
      let y := op (fun r => (p.regs.v n r).val)
      fpWrite n [(d, ⟨y.1, t⟩), (regPlus d 1, ⟨y.2.1, t⟩)] y.2.2 p)

/-- The two halves of an X2 form, each computed by itself, their flags ORed (R97). -/
def halves (f : (Nat → Word × Fl)) : Word × Word × Fl := ((f 0).1, (f 1).1, (f 0).2 ||| (f 1).2)

/-- The pair hi, lo at a register (R80). -/
def pairAt (v : Reg → Word) (r : Reg) : Pair32 := ⟨v r, v (regPlus r 1)⟩

/-! ### CVT -/

/-- The source run of a CVT: its registers and tags (R100, R101). -/
def cvtRun (g : Regs) (n : Nat) (a : Reg) (k : Nat) : List (Reg × VReg) :=
  (List.range k).map (fun i => (regPlus a i, g.v n (regPlus a i)))

/-- The first register of a scalar run that the destination does not accept, or whose MXQ layout is bad (R81, R101). -/
def scalarFault (dst : Tag) : List (Reg × VReg) → Option Res
  | [] => none
  | (r, x) :: l =>
    if isScalarTag x.tag && cvtAccepts dst x.tag && (x.tag != .mxq || mxqOk x.val) then scalarFault dst l
    else some (.trap .format 0 (formatTval r x.tag Tag.code))

/-- The checks of R101, and the source run where they pass. [DEDUCED: log entry 106] -/
def cvtCheck (g : Regs) (n : Nat) (d a b : Reg) (dst : Tag) (sr : Bool) : Except Res (List (Tag × Word)) :=
  let t := (g.v n a).tag
  let m := Tag.count t
  let k := Tag.count dst
  let total := max m k
  let fmt := fun (r : Reg) (t : Tag) => Res.trap .format 0 (formatTval r t Tag.code)
  let salt := fun (l : List (Reg × VReg)) =>
    if sr && !indexAccepts (g.v n b).tag then .error (fmt b (g.v n b).tag) else .ok (l.map (fun x => (x.2.tag, x.2.val)))
  if isScalarTag t then
    let run := total
    if 64 < a.toNat + run then .error (illegal 8 0#64)
    else
      match scalarFault dst (cvtRun g n a run) with
      | some r => .error r
      | none => salt (cvtRun g n a run)
  else if !cvtAccepts dst t then .error (fmt a t)
  else if 64 < a.toNat + (total + m - 1) / m then .error (fmt a t)
  else if 64 < d.toNat + (total + k - 1) / k then .error (fmt d t)
  else
    let run := cvtRun g n a ((total + m - 1) / m)
    match run.find? (fun x => x.2.tag != t) with
    | some x => .error (fmt x.1 x.2.tag)
    | none => salt run

/-- The index of R73: srPLOT × 512 + srSID. -/
def elemIndex (p : Plot) (st : Strand) : DWord := p.srPlot.setWidth 64 * 512#64 + st.sid.setWidth 64

/-- CVT (R100–R102). -/
def cvtWord (d a b : Reg) (dst : Tag) (r : CvtRnd) (satf : Bool) : WordFn :=
  withPlot (fun c p s =>
    match c.who with
    | .front => (s, illegal 5 c.word64)
    | .strand n =>
      match cvtCheck p.regs n d a b dst (r == .sr) with
      | .error (.trap .illegal row _) => (s, illegal row c.word64)
      | .error e => (s, e)
      | .ok srcs =>
        let idx := match p.regs.strand? n with | some st => elemIndex p st | none => 0#64
        let key := (s.keysOf p)[0]
        let t := (p.regs.v n a).tag
        let y := cvtWords dst t (Mode.ofCvt r) satf (saltWord key (p.regs.v n b).val idx) srcs
        let q := fpWrite n (y.1.zipIdx.map (fun x => (regPlus d x.2, ⟨x.1, dst⟩))) y.2 p
        (s.setPlot q.1, q.2))

/-- TAGSET: the bits of A with a new tag (R103). -/
def tagSet (d a : Reg) (t : Tag) : Cx → Plot → Plot × Res :=
  laneOnly (fun n p => ({ p with regs := p.regs.setV n d ⟨(p.regs.v n a).val, t⟩ }, .done))

/-- TAGGET: the tag code of A as a Z32 value (R103). -/
def tagGet (d a : Reg) : Cx → Plot → Plot × Res :=
  laneOnly (fun n p => ({ p with regs := p.regs.setV n d ⟨BitVec.ofNat 32 (Tag.code (p.regs.v n a).tag), .z32⟩ }, .done))

/-- TAGCHK: FORMAT where the tag of A differs (R103). -/
def tagChk (a : Reg) (t : Tag) : Cx → Plot → Plot × Res :=
  laneOnly (fun n p =>
    let x := (p.regs.v n a).tag
    if x = t then (p, .done) else (p, .trap .format 0 (formatTval a x Tag.code)))

/-- FADD (Table 4-9). -/
def execFadd (d a b : Reg) (r : Rm) (s : State) : Host.Outcome State Fault Refusal := runWord (.fadd d a b r) (onPlot (fpOp fpAccepts .f32 [a, b] d (fun v => fadd r (v a) (v b)))) s

/-- FSUB (Table 4-9). -/
def execFsub (d a b : Reg) (r : Rm) (s : State) : Host.Outcome State Fault Refusal := runWord (.fsub d a b r) (onPlot (fpOp fpAccepts .f32 [a, b] d (fun v => fsub r (v a) (v b)))) s

/-- FMUL (Table 4-9). -/
def execFmul (d a b : Reg) (r : Rm) (s : State) : Host.Outcome State Fault Refusal := runWord (.fmul d a b r) (onPlot (fpOp fpAccepts .f32 [a, b] d (fun v => fmul r (v a) (v b)))) s

/-- FMIN (Table 4-9). -/
def execFmin (d a b : Reg) (s : State) : Host.Outcome State Fault Refusal := runWord (.fmin d a b) (onPlot (fpOp fpAccepts .f32 [a, b] d (fun v => fminmax false false (v a) (v b)))) s

/-- FMAX (Table 4-9). -/
def execFmax (d a b : Reg) (s : State) : Host.Outcome State Fault Refusal := runWord (.fmax d a b) (onPlot (fpOp fpAccepts .f32 [a, b] d (fun v => fminmax true false (v a) (v b)))) s

/-- FMINN (Table 4-9). -/
def execFminn (d a b : Reg) (s : State) : Host.Outcome State Fault Refusal := runWord (.fminn d a b) (onPlot (fpOp fpAccepts .f32 [a, b] d (fun v => fminmax false true (v a) (v b)))) s

/-- FMAXN (Table 4-9). -/
def execFmaxn (d a b : Reg) (s : State) : Host.Outcome State Fault Refusal := runWord (.fmaxn d a b) (onPlot (fpOp fpAccepts .f32 [a, b] d (fun v => fminmax true true (v a) (v b)))) s

/-- FABS sets no flag (R94). -/
def execFabs (d a : Reg) (s : State) : Host.Outcome State Fault Refusal := runWord (.fabs d a) (onPlot (fpOp fpAccepts .f32 [a] d (fun v => (fabs32 (v a), 0#5)))) s

/-- FNEG sets no flag (R94). -/
def execFneg (d a : Reg) (s : State) : Host.Outcome State Fault Refusal := runWord (.fneg d a) (onPlot (fpOp fpAccepts .f32 [a] d (fun v => (fneg32 (v a), 0#5)))) s

/-- FCPYS sets no flag (R94). -/
def execFcpys (d a b : Reg) (s : State) : Host.Outcome State Fault Refusal := runWord (.fcpys d a b) (onPlot (fpOp fpAccepts .f32 [a, b] d (fun v => (fcpys (v a) (v b), 0#5)))) s

/-- FSQRT (Tables 4-9, 4-10). -/
def execFsqrt (d a : Reg) (r : Rm) (s : State) : Host.Outcome State Fault Refusal := runWord (.fsqrt d a r) (onPlot (fpOp fpAccepts .f32 [a] d (fun v => fsqrt r (v a)))) s

/-- FRCP (Tables 4-9, 4-10). -/
def execFrcp (d a : Reg) (r : Rm) (s : State) : Host.Outcome State Fault Refusal := runWord (.frcp d a r) (onPlot (fpOp fpAccepts .f32 [a] d (fun v => frcp r (v a)))) s

/-- FRSQ (Tables 4-9, 4-10). -/
def execFrsq (d a : Reg) (r : Rm) (s : State) : Host.Outcome State Fault Refusal := runWord (.frsq d a r) (onPlot (fpOp fpAccepts .f32 [a] d (fun v => frsq r (v a)))) s

/-- FEXP2 (Tables 4-9, 4-10). -/
def execFexp2 (d a : Reg) (r : Rm) (s : State) : Host.Outcome State Fault Refusal := runWord (.fexp2 d a r) (onPlot (fpOp fpAccepts .f32 [a] d (fun v => fexp2 r (v a)))) s

/-- FLOG2 (Tables 4-9, 4-10). -/
def execFlog2 (d a : Reg) (r : Rm) (s : State) : Host.Outcome State Fault Refusal := runWord (.flog2 d a r) (onPlot (fpOp fpAccepts .f32 [a] d (fun v => flog2 r (v a)))) s

/-- FADD.X2 (R97). -/
def execFaddX2 (d a b : Reg) (r : Rm) (s : State) : Host.Outcome State Fault Refusal := runWord (.faddX2 d a b r) (onPlot (fpPair fpAccepts .f32 [a, b] d (fun v => halves (fun i => fadd r (v (regPlus a i)) (v (regPlus b i)))))) s

/-- FMUL.X2 (R97). -/
def execFmulX2 (d a b : Reg) (r : Rm) (s : State) : Host.Outcome State Fault Refusal := runWord (.fmulX2 d a b r) (onPlot (fpPair fpAccepts .f32 [a, b] d (fun v => halves (fun i => fmul r (v (regPlus a i)) (v (regPlus b i)))))) s

/-- FADD.P2 (R98). -/
def execFaddP2 (d a b : Reg) (r : Rm) (s : State) : Host.Outcome State Fault Refusal := runWord (.faddP2 d a b r) (onPlot (fpPair p2Accepts .f32p [a, b] d (fun v => faddP2 r (pairAt v a) (pairAt v b)))) s

/-- FMUL.P2 (R98). -/
def execFmulP2 (d a b : Reg) (r : Rm) (s : State) : Host.Outcome State Fault Refusal := runWord (.fmulP2 d a b r) (onPlot (fpPair p2Accepts .f32p [a, b] d (fun v => fmulP2 r (pairAt v a) (pairAt v b)))) s

/-- FCLASS sets no flag (R95). -/
def execFclass (d a : Reg) (s : State) : Host.Outcome State Fault Refusal := runWord (.fclass d a) (onPlot (fpOp fpAccepts .z32 [a] d (fun v => (fclassMask (v a), 0#5)))) s

/-- FMA (R96). -/
def execFma (d a b c : Reg) (r : Rm) (s : State) : Host.Outcome State Fault Refusal := runWord (.fma d a b c r) (onPlot (fpOp fpAccepts .f32 [a, b, c] d (fun v => ffma r (v a) (v b) (v c)))) s

/-- FMS (R96). -/
def execFms (d a b c : Reg) (r : Rm) (s : State) : Host.Outcome State Fault Refusal := runWord (.fms d a b c r) (onPlot (fpOp fpAccepts .f32 [a, b, c] d (fun v => ffms r (v a) (v b) (v c)))) s

/-- FNMA (R96). -/
def execFnma (d a b c : Reg) (r : Rm) (s : State) : Host.Outcome State Fault Refusal := runWord (.fnma d a b c r) (onPlot (fpOp fpAccepts .f32 [a, b, c] d (fun v => ffnma r (v a) (v b) (v c)))) s

/-- FMA.X2 (R97). -/
def execFmaX2 (d a b c : Reg) (r : Rm) (s : State) : Host.Outcome State Fault Refusal := runWord (.fmaX2 d a b c r) (onPlot (fpPair fpAccepts .f32 [a, b, c] d (fun v => halves (fun i => ffma r (v (regPlus a i)) (v (regPlus b i)) (v (regPlus c i)))))) s

/-- FMA.P2 (R98). -/
def execFmaP2 (d a b c : Reg) (r : Rm) (s : State) : Host.Outcome State Fault Refusal := runWord (.fmaP2 d a b c r) (onPlot (fpPair p2Accepts .f32p [a, b, c] d (fun v => ffmaP2 r (pairAt v a) (pairAt v b) (pairAt v c)))) s

/-- FCMP (R99). -/
def execFcmp (f : BitVec 2) (k : FCond) (a b : Reg) (s : State) : Host.Outcome State Fault Refusal := runWord (.fcmp f k a b) (onPlot (laneOnly (fun n p =>
    match tagFault fpAccepts (tagsOf p.regs n [a, b]) with
    | some r => (p, r)
    | none => let y := fcond k (p.regs.v n a).val (p.regs.v n b).val; fpFlag n f y.1 y.2 p))) s

/-- CVT. -/
def execCvt (d a b : Reg) (t : Tag) (r : CvtRnd) (satf : Bool) (s : State) : Host.Outcome State Fault Refusal := runWord (.cvt d a b t r satf) (cvtWord d a b t r satf) s

/-- TAGSET. -/
def execTagset (d a : Reg) (t : Tag) (s : State) : Host.Outcome State Fault Refusal := runWord (.tagset d a t) (onPlot (tagSet d a t)) s

/-- TAGGET. -/
def execTagget (d a : Reg) (s : State) : Host.Outcome State Fault Refusal := runWord (.tagget d a) (onPlot (tagGet d a)) s

/-- TAGCHK. -/
def execTagchk (a : Reg) (t : Tag) (s : State) : Host.Outcome State Fault Refusal := runWord (.tagchk a t) (onPlot (tagChk a t)) s

end Sys2Proof.Machine
end

