-- ==== Sys2Proof/Machine/Cross.lean ====
section
/-! DEFINITION. The rendezvous of a locked cohort (04_lane_arithmetic.md R105–R108) and the XLN words (R109–R111). -/

namespace Sys2Proof.Machine

/-- The members of a cohort in ascending home lane (R105). -/
def Regs.membersOf (g : Regs) (c : BitVec 4) : List Strand := byLane (g.cohort c)

/-- Whether every member but `me` waits at a rendezvous at this offset (R106). -/
def allArrived (ms : List Strand) (me : Nat) (pc : Word) : Bool :=
  ms.all (fun st => st.key == me || (st.ag.phase == Phase.blocked && st.ag.wait == Wait.rendezvous && st.ag.pc == pc))

/-- What the cohort finds when it computes: the new state, a trap for every member, or a wait. -/
inductive Meet where
  | ok (s : State)
  | trap (cls : TrapClass) (detail : Nat) (tval : DWord)
  | hold (h : Hold)

/-- A member that waited goes on with the bundle it arrived in, or is re-entered at the next word. -/
def State.releaseMember (s : State) (id k len : Nat) : State :=
  s.modPlot id (fun p =>
    let here := match p.bundle with | some b => b.members.contains k | none => false
    p.modRegs (fun g =>
      (g.modAgent (.strand k) (fun a => { a with wait := .none, phase := if here then .issuing else a.phase })).retire (.strand k) len))

/-- A rendezvous (R106): the member's own checks; then it arrives and waits, or, as the last, the cohort computes and every
member retires the word, or every member raises the trap that the computation found. -/
def rendezvous (check : Plot → Nat → Option Res) (compute : Plot → List Strand → State → Meet) : WordFn :=
  withPlot (fun c p s =>
    match c.who with
    | .front => (s, illegal 5 c.word64)
    | .strand k =>
      match check p k with
      | some r => (s, r)
      | none =>
        match p.regs.lockedOf k with
        | none => (s, .trap .cohort 0 0#64)
        | some co =>
          let ms := p.regs.membersOf co
          if !allArrived ms k c.pc then (s, .block .rendezvous)
          else
            match compute p ms s with
            | .hold h => (s, .hold h)
            | .trap cls d v =>
              (ms.foldl (fun s st => s.recordTrap c.plot (.strand st.key) ⟨cls, d, v, c.pc, true⟩) s, .left)
            | .ok s1 => ((ms.filter (fun st => st.key != k)).foldl (fun s st => s.releaseMember c.plot st.key c.len) s1, .done))

/-- What one member receives. -/
structure XOut where
  regs : List (Reg × VReg)
  flags : List (BitVec 2 × Bool)

/-- The results of a cross-lane word, with ARITH for every member where an enabled flag is set (R106). [DEDUCED: log entry 30] -/
def crossLane (check : Plot → Nat → Option Res) (out : State → Plot → List Strand → List XOut × Fl) : WordFn :=
  rendezvous check (fun p ms s =>
    let y := out s p ms
    if arithRaised p.arithEnables y.2 then .trap .arith 0 (y.2.setWidth 64)
    else
      let g := (ms.zip y.1).foldl (fun g x =>
        let g1 := x.2.regs.foldl (fun g w => g.setV x.1.key w.1 w.2) g
        x.2.flags.foldl (fun g f => g.setFlag (.strand x.1.key) f.1 f.2) g1) p.regs
      .ok (s.setPlot { p with regs := g.orFpf y.2 }))

/-- The tag checks of one member. -/
def crossTags (l : List (Reg × (Tag → Bool))) (p : Plot) (k : Nat) : Option Res :=
  l.findSome? (fun x => tagFault x.2 [(x.1, (p.regs.v k x.1).tag)])

def noCheck (_ : Plot) (_ : Nat) : Option Res := none

/-- x[L]: register A of the member at lane L. -/
def laneValue (p : Plot) (ms : List Strand) (a : Reg) (l : Nat) : VReg :=
  match ms.find? (fun st => st.lane == l) with
  | some st => p.regs.v st.key a
  | none => VReg.zero

/-- A word that moves one member's register to another, tag and bits (R109). -/
def moveLane (d a b : Reg) (from_ : Nat → Word → Nat) : WordFn :=
  crossLane (crossTags [(b, indexAccepts)]) (fun _ p ms =>
    (ms.map (fun st => ⟨[(d, laneValue p ms a (from_ st.lane (p.regs.v st.key b).val))], []⟩), 0#5))

/-- A word that gives every member one value (Table 4-18). -/
def foldLane (acc : Tag → Bool) (t : Tag) (d a : Reg) (f : List Word → Word × Fl) : WordFn :=
  crossLane (crossTags [(a, acc)]) (fun _ p ms =>
    let y := f (ms.map (fun st => (p.regs.v st.key a).val))
    (ms.map (fun _ => ⟨[(d, ⟨y.1, t⟩)], []⟩), y.2))

def sumWords (l : List Word) : Word := l.foldl (fun x y => x + y) 0#32

def maxWords : List Word → Word
  | [] => 0#32
  | x :: l => l.foldl maxsW x

/-- Bit L' set when the member at lane L' has the flag (BALLOT). -/
def ballotWord (p : Plot) (ms : List Strand) (f : BitVec 2) : Word :=
  ms.foldl (fun w st => if p.regs.flag (.strand st.key) f then w ||| (1#32 <<< st.lane) else w) 0#32

/-- The tag checks of MXQ: the n sources, then the salt (R110). -/
def mxqTags (n : Nat) (a b : Reg) (p : Plot) (k : Nat) : Option Res :=
  match tagFault fpAccepts (tagsOf p.regs k ((List.range n).map (regPlus a))) with
  | some r => some r
  | none => if b = 0#6 then none else tagFault indexAccepts (tagsOf p.regs k [b])

/-- MXQ (R110). -/
def mxqWord (f : MxFmt) (d a b : Reg) : WordFn :=
  let n := Tag.count f.tag
  crossLane (mxqTags n a b) (fun s p ms =>
    let members := ms.map (fun st => (⟨(List.range n).map (fun i => (p.regs.v st.key (regPlus a i)).val),
      (p.regs.v st.key b).val, elemIndex p st⟩ : MxqMember))
    let y := mxqCohort f (if b = 0#6 then .rne else .sr) (s.keysOf p)[0] members
    (y.1.map (fun o => ⟨[(d, ⟨o.elems, f.tag⟩), (regPlus d 1, ⟨o.scale, .e8m0x4⟩)], []⟩), y.2))

def mxTag : Tag → Bool
  | .e4m3x4 | .e5m2x4 | .e2m1x8 => true
  | _ => false

def scaleTag : Tag → Bool
  | .e8m0x4 => true
  | _ => false

/-- MXDQ (R111): the run length follows the member's own tag of vA. -/
def mxdqWord (d a b : Reg) : WordFn :=
  crossLane (crossTags [(a, mxTag), (b, scaleTag)]) (fun _ p ms =>
    let outs := ms.map (fun st =>
      let x := p.regs.v st.key a
      let n := Tag.count x.tag
      (List.range n).map (fun j =>
        let blk := (n * st.lane + j) / 32
        let scale := elemOf .e8m0x4 (laneValue p ms b (blk / 4)).val (blk % 4)
        (j, mxdqElement x.tag scale x.val j)))
    (outs.map (fun l => ⟨l.map (fun y => (regPlus d y.1, ⟨y.2.1, .f32⟩)), []⟩),
      outs.foldl (fun fl l => l.foldl (fun fl y => fl ||| y.2.2) fl) 0#5))

/-- SHFL: x[vB[4:0]]. -/
def execShfl (d a b : Reg) (s : State) : Host.Outcome State Fault Refusal :=
  runWord (.shfl d a b) (moveLane d a b (fun _ z => z.toNat % 32)) s

/-- SHFLX: x[L xor vB[4:0]]. -/
def execShflx (d a b : Reg) (s : State) : Host.Outcome State Fault Refusal :=
  runWord (.shflx d a b) (moveLane d a b (fun l z => l ^^^ (z.toNat % 32))) s

/-- SHFLU: x[L − zB] if zB ≤ L, else x[L]. -/
def execShflu (d a b : Reg) (s : State) : Host.Outcome State Fault Refusal :=
  runWord (.shflu d a b) (moveLane d a b (fun l z => if z.toNat ≤ l then l - z.toNat else l)) s

/-- SHFLD: x[L + zB] if L + zB ≤ 31, else x[L]. -/
def execShfld (d a b : Reg) (s : State) : Host.Outcome State Fault Refusal :=
  runWord (.shfld d a b) (moveLane d a b (fun l z => if l + z.toNat ≤ 31 then l + z.toNat else l)) s

/-- BALLOT (Table 4-18). -/
def execBallot (d : Reg) (f : BitVec 2) (s : State) : Host.Outcome State Fault Refusal :=
  runWord (.ballot d f) (crossLane noCheck (fun _ p ms => (ms.map (fun _ => ⟨[(d, ⟨ballotWord p ms f, .z32⟩)], []⟩), 0#5))) s

/-- ANY (Table 4-18). -/
def execAnyF (g f : BitVec 2) (s : State) : Host.Outcome State Fault Refusal :=
  runWord (.anyF g f) (crossLane noCheck (fun _ p ms =>
    (ms.map (fun _ => ⟨[], [(g, ms.any (fun st => p.regs.flag (.strand st.key) f))]⟩), 0#5))) s

/-- ALL (Table 4-18). -/
def execAllF (g f : BitVec 2) (s : State) : Host.Outcome State Fault Refusal :=
  runWord (.allF g f) (crossLane noCheck (fun _ p ms =>
    (ms.map (fun _ => ⟨[], [(g, ms.all (fun st => p.regs.flag (.strand st.key) f))]⟩), 0#5))) s

/-- REDADD (Table 4-18). -/
def execRedadd (d a : Reg) (s : State) : Host.Outcome State Fault Refusal :=
  runWord (.redadd d a) (foldLane intAccepts .raw d a (fun l => (sumWords l, 0#5))) s

/-- REDMAXS (Table 4-18). -/
def execRedmaxs (d a : Reg) (s : State) : Host.Outcome State Fault Refusal :=
  runWord (.redmaxs d a) (foldLane intAccepts .raw d a (fun l => (maxWords l, 0#5))) s

/-- REDFADD: the exact sum rounded once (R109). -/
def execRedfadd (d a : Reg) (s : State) : Host.Outcome State Fault Refusal :=
  runWord (.redfadd d a) (foldLane fpAccepts .f32 d a redfadd) s

/-- SCANADD: the sum over the lanes up to L (Table 4-18). -/
def execScanadd (d a : Reg) (s : State) : Host.Outcome State Fault Refusal :=
  runWord (.scanadd d a) (crossLane (crossTags [(a, intAccepts)]) (fun _ p ms =>
    (ms.map (fun st => ⟨[(d, ⟨sumWords ((ms.filter (fun x => decide (x.lane ≤ st.lane))).map (fun x => (p.regs.v x.key a).val)), .raw⟩)], []⟩),
      0#5))) s

/-- MXQ.E2M1. -/
def execMxqE2m1 (d a b : Reg) (s : State) : Host.Outcome State Fault Refusal :=
  runWord (.mxqE2m1 d a b) (mxqWord .e2m1 d a b) s

/-- MXQ.E4M3. -/
def execMxqE4m3 (d a b : Reg) (s : State) : Host.Outcome State Fault Refusal :=
  runWord (.mxqE4m3 d a b) (mxqWord .e4m3 d a b) s

/-- MXQ.E5M2. -/
def execMxqE5m2 (d a b : Reg) (s : State) : Host.Outcome State Fault Refusal :=
  runWord (.mxqE5m2 d a b) (mxqWord .e5m2 d a b) s

/-- MXDQ. -/
def execMxdq (d a b : Reg) (s : State) : Host.Outcome State Fault Refusal := runWord (.mxdq d a b) (mxdqWord d a b) s

/-- BCAST: x[lane], any tag moved with its bits (R109). -/
def execBcast (d a : Reg) (l : BitVec 5) (s : State) : Host.Outcome State Fault Refusal :=
  runWord (.bcast d a l) (crossLane noCheck (fun _ p ms => (ms.map (fun _ => ⟨[(d, laneValue p ms a l.toNat)], []⟩), 0#5))) s

end Sys2Proof.Machine
end

