-- ==== Sys2Proof/Machine/Memory.lean ====
section
/-! DEFINITION. The direct memory words (09_memory_copy_instructions.md R217–R227): the checks of R218, loads, stores, ATOM,
FENCE, STMX and PF, and the events that land a load and perform a store (11_strands_bundles.md R296, R297; 07_ordering_model.md
R164, R165, R170–R178). -/

namespace Sys2Proof.Machine

/-! ### The checks of R218 -/

/-- What an access reaches: its pieces by location, or none with the MCHK that says why (R195, R386). -/
structure Reach where
  parts : Option (List (Loc × Nat))
  mchk : Option (Nat × DWord)
  s : State

def keyOf : Who → Option Nat
  | .front => none
  | .strand k => some k

/-- The pieces of an access with the location of each that lies in a window; none where one lies outside the context's part or past the
windows (R49, R50). -/
def State.pieceLocs (s : State) (p : Plot) (w : Who) : List (DWord × Nat) → Option (List ((DWord × Nat) × Option Loc))
  | [] => some []
  | x :: l =>
    match regionOf x.1, s.pieceLocs p w l with
    | .window win off, some r => (s.windowLoc p (keyOf w) win off x.2).map (fun y => (x, some y) :: r)
    | .global _, some r => some ((x, none) :: r)
    | _, _ => none

/-- Checks 2 to 4 of R218, each over the whole access before the next: window, name range, range locks. srTVAL is the effective
address. [DEDUCED: log entry 129] -/
def State.checkPieces (s : State) (p : Plot) (w : Who) (ea : DWord) (store : Bool) (l : List (DWord × Nat)) :
    Except Res (List ((DWord × Nat) × Option Loc)) :=
  match s.pieceLocs p w l with
  | none => .error (illegalEntry ea)
  | some r =>
    if r.any (fun x => x.2.isNone && s.touchesName p.ctx x.1.1.toNat x.1.2) then .error (illegalEntry ea)
    else
      match r.findSome? (fun x => s.lockHit p x.1.1 x.1.2 x.2 store) with
      | some a => .error (.trap .range 0 a)
      | none => .ok r

/-- Where a strand's private byte lies: in the PRIV backing of its context (14_gatehouse_launch.md Table 14-1). [DESIGN CHOICE: log entry 47] -/
def State.privVa (s : State) (p : Plot) (l : Loc) : Nat :=
  let area := match p.regs.strand? (l.addr / 2 ^ 32 % 2 ^ 32) with | some st => st.area | none => 0
  (match s.ctx? p.ctx with | some c => c.priv.toNat | none => 0) + p.privBase + p.privBytes * area + l.addr % 2 ^ 32

/-- Device memory as a strand reaches its private bytes there, past the L1 (Table 7-1). -/
def Loc.onPath (l : Loc) : Loc := match l.space with | .dev => ⟨.path, l.addr⟩ | _ => l

/-- Translate the pieces that lie in no window (R218, check 5), and those of PRIV to their backing. -/
def State.reachPieces (s : State) (p : Plot) (write : Bool) : List ((DWord × Nat) × Option Loc) → Except Res Reach
  | [] => .ok ⟨some [], none, s⟩
  | ((a, n), o) :: l =>
    let find := fun (va : Nat) (f : Loc → Loc) =>
      match s.translateFor p va n write with
      | (.at x, s1) => (.ok ⟨some [(f x, n)], none, s1⟩ : Except Res Reach)
      | (.unregistered pa, s1) => .ok ⟨none, some (5, BitVec.ofNat 64 pa), s1⟩
      | (.refused, s1) => .ok ⟨none, some (8, a), s1⟩
      | (.miss, _) => .error (.hold (.ats [⟨va, write⟩]))
      | (.denied, _) => .error (.hold (.page [⟨va, write⟩]))
      | (.absent pa, _) => .error (.hold (.absent pa))
    let found : Except Res Reach := match o with
      | some x => if x.space = .priv then find (s.privVa p x) Loc.onPath else .ok ⟨some [(x, n)], none, s⟩
      | none => find a.toNat id
    match found with
    | .error r => .error r
    | .ok x =>
      match x.s.reachPieces p write l with
      | .error r => .error r
      | .ok y =>
        .ok ⟨(match x.parts, y.parts with | some u, some v => some (u ++ v) | _, _ => none), x.mchk.or y.mchk, y.s⟩

/-- R218: alignment, then window, name range and range locks, then translation. -/
def State.reach (s : State) (p : Plot) (w : Who) (ea : DWord) (n align : Nat) (write : Bool) : Except Res Reach :=
  if ea.toNat % align ≠ 0 then .error (illegalEntry ea)
  else
    match s.checkPieces p w ea write (pieces ea n) with
    | .error r => .error r
    | .ok l => s.reachPieces p write l

/-- A scope wider than every agent that reaches a window acts as the widest that means something there (R168). -/
def narrowScope (ea : DWord) (sc : Scope) : Scope :=
  match regionOf ea, sc with
  | .window .priv _, _ => .plot
  | .window .spad _, .dev | .window .spad _, .pod | .window .spad _, .sys => .grove
  | .window .gsm _, .dev | .window .gsm _, .pod | .window .gsm _, .sys => .grove
  | .window .csp _, .pod | .window .csp _, .sys => .dev
  | _, _ => sc

/-! ### Issue -/

def noteMchk (a : Agent) (m : Option (Nat × DWord)) : Agent :=
  match m with
  | some x => { a with mchk := a.mchk ++ [x] }
  | none => a

def Plot.laneOf (p : Plot) : Who → Nat
  | .front => 0
  | .strand k => match p.regs.strand? k with | some st => st.lane | none => 0

/-- The bytes of a load written to its destination: tagged RAW, zero-extended; a lane pair to two registers (R219). -/
def Regs.writeLoaded (g : Regs) (w : Who) (handler : Bool) (dst : Reg) (pair : Bool) (v : Nat) : Regs :=
  match w with
  | .front => g.setSAt (banked handler dst) dst (BitVec.ofNat 64 v)
  | .strand k =>
    if pair then
      (g.setVAt k (banked handler dst) dst ⟨BitVec.ofNat 32 v, .raw⟩).setVAt k (banked handler (regPlus dst 1)) (regPlus dst 1)
        ⟨BitVec.ofNat 32 (v / 2 ^ 32), .raw⟩
    else g.setVAt k (banked handler dst) dst ⟨BitVec.ofNat 32 v, .raw⟩

/-- Read the parts of an access in order (R164). -/
def State.readParts (s : State) (pav : Nat) (sc : Scope) : List (Loc × Nat) → State × List Byte
  | [] => (s, [])
  | (l, n) :: rest =>
    let r := s.readAt pav l n sc
    let t := r.1.readParts pav sc rest
    (t.1, r.2 ++ t.2)

def State.writeParts (s : State) (pav : Nat) (sc : Scope) : List (Loc × List Byte) → State
  | [] => s
  | (l, d) :: rest => (s.writeAt pav l d sc).writeParts pav sc rest

/-- The first byte in error of an access: its place among the bytes, and its location. -/
def State.badPart (s : State) (base : Nat) : List (Loc × Nat) → Option (Nat × Loc)
  | [] => none
  | (l, n) :: rest =>
    match s.firstBad l n with
    | some i => some (base + i, ⟨l.space, l.addr + i⟩)
    | none => s.badPart (base + n) rest

/-- A pending load as it issues. -/
def mkLoad (a : Agent) (p : Plot) (w : Who) (kind : LoadKind) (d : Reg) (n : Nat) (r : Option (List (Loc × Nat))) (ea : DWord)
    (sc : Scope) (acq rel : Bool) (m : Option (Nat × DWord)) : PLoad :=
  { kind := kind, dst := d, bytes := n, pair := (streamOf w == .lane) && n == 8, handler := a.handler, parts := r, ea := ea,
    scope := sc, acquire := acq, release := rel, mchk := m, seq := a.seq, stamp := p.arrivals, lane := p.laneOf w,
    visit := a.visit, itag := [] }

/-- A load joins the agent's outstanding loads; in run-ahead it reads at once into shadow state (R382). -/
def State.issueLoad (s : State) (p : Plot) (w : Who) (l : PLoad) : State × Res :=
  if p.run = .runahead then
    match l.parts with
    | none => (s.modPlot p.id (fun p => p.modRegs (fun g => g.writeLoaded w l.handler l.dst l.pair 0)), .done)
    | some ps =>
      let r := s.readParts p.pav l.scope ps
      let v := if (s.badPart 0 ps).isSome then 0 else leNat r.2
      (r.1.modPlot p.id (fun p => p.modRegs (fun g => g.writeLoaded w l.handler l.dst l.pair v)), .done)
  else (s.modPlot p.id (fun p => p.modAgent w (fun a => { a with loads := a.loads ++ [l], seq := a.seq + 1 })), .done)

/-- LD, LDA, LDI (R219). -/
def loadWord (kind : LoadKind) (acq : Bool) (d a : Reg) (z : Size) (win : Win) (sc : Scope) (off : BitVec 6) : WordFn :=
  withPlot (fun c p s =>
    match p.agent? c.who with
    | none => (s, .left)
    | some ag =>
      let n := sizeBytes z
      let ea := p.regs.ea c.who a z win off
      match s.reach p c.who ea n (if streamOf c.who = .lane then min n 4 else n) false with
      | .error r => (s, r)
      | .ok r =>
        if 32 ≤ ag.loads.length then (s, .hold .stall)
        else r.s.issueLoad p c.who (mkLoad ag p c.who kind d n r.parts ea (narrowScope ea sc) acq false r.mchk))

/-- The bytes a store takes from D: vD then v(D+1) for a lane pair, the low bytes otherwise (R219). -/
def Regs.storeBytes (g : Regs) (w : Who) (d : Reg) (n : Nat) : List Byte :=
  match w with
  | .front => natBytes (g.s d).toNat n
  | .strand _ => if n = 8 then natBytes (g.wide w d).toNat 8 else natBytes (g.zx w d).toNat n

/-- Hand the bytes of a store out over its parts. -/
def dealBytes : List (Loc × Nat) → List Byte → List (Loc × List Byte)
  | [], _ => []
  | (l, n) :: rest, d => (l, d.take n) :: dealBytes rest (d.drop n)

def State.issueStore (s : State) (p : Plot) (w : Who) (parts : Option (List (Loc × List Byte))) (sc : Scope) (rel : Bool)
    (m : Option (Nat × DWord)) : State :=
  s.modPlot p.id (fun p => p.modAgent w (fun a =>
    let b := noteMchk a m
    match parts with
    | none => b
    | some l => { b with stores := b.stores ++ [⟨l, sc, rel, a.seq, p.arrivals, p.laneOf w, []⟩], seq := a.seq + 1 }))

/-- ST, STL (R219). -/
def storeWord (rel : Bool) (d a : Reg) (z : Size) (win : Win) (sc : Scope) (off : BitVec 6) : WordFn :=
  withPlot (fun c p s =>
    match p.agent? c.who with
    | none => (s, .left)
    | some ag =>
      let n := sizeBytes z
      let ea := p.regs.ea c.who a z win off
      match s.reach p c.who ea n (if streamOf c.who = .lane then min n 4 else n) true with
      | .error r => (s, r)
      | .ok r =>
        if 32 ≤ ag.storeCount then (s, .hold .stall)
        else (r.s.issueStore p c.who (r.parts.map (fun l => dealBytes l (p.regs.storeBytes c.who d n))) (narrowScope ea sc)
          rel r.mchk, .done))

/-! ### ATOM (R222–R224) -/

/-- Table 9-4, on n-byte values. -/
def atomNew (op : AtomOp) (n old b c : Nat) : Nat :=
  let w := 8 * n
  let x := BitVec.ofNat w old
  let y := BitVec.ofNat w b
  match op with
  | .add => (x + y).toNat
  | .and => (x &&& y).toNat
  | .or => (x ||| y).toNat
  | .xor => (x ^^^ y).toNat
  | .mins => (minsW x y).toNat
  | .maxs => (maxsW x y).toNat
  | .minz => (minzW x y).toNat
  | .maxz => (maxzW x y).toNat
  | .xchg => b % 2 ^ w
  | .cas => if old = b % 2 ^ w then c % 2 ^ w else old
  | .fadd => (fadd .rne (BitVec.ofNat 32 old) (BitVec.ofNat 32 b)).1.toNat
  | .incw => if b % 2 ^ w ≤ old then 0 else old + 1

/-- Operations PCIe performs on host memory (R224). -/
def hostAtom : AtomOp → Bool
  | .add | .incw | .xchg | .cas => true
  | _ => false

/-- ATOM. Host memory takes FetchAdd, Swap and CAS alone, and INCW there is ADD of 1. -/
def atomWord (op : AtomOp) (d a b : Reg) (ar : Bool) (sc : Scope) : WordFn :=
  withPlot (fun c p s =>
    match p.agent? c.who with
    | none => (s, .left)
    | some ag =>
      let n := if streamOf c.who = .uniform ∧ op ≠ .fadd then 8 else 4
      let ea := p.regs.wide c.who a
      match s.reach p c.who ea n n true with
      | .error r => (s, r)
      | .ok r =>
        let onHost := match r.parts with | some [(l, _)] => l.space == .host | _ => false
        if onHost && !hostAtom op then (s, illegalEntry ea)
        else if 32 ≤ ag.loads.length ∨ 32 ≤ ag.storeCount then (s, .hold .stall)
        else
          let x := p.regs.zx c.who b
          let y := p.regs.zx c.who (regPlus b 1)
          let kind := if onHost && op == .incw then LoadKind.atom .add 1#64 0#64 else LoadKind.atom op x y
          let scope := if onHost then .sys else narrowScope ea sc
          let l := mkLoad ag p c.who kind d n r.parts ea scope ar ar r.mchk
          r.s.issueLoad p c.who { l with pair := false })

/-! ### LOAD_DATA_LANDS and STORE_PERFORMED -/

def Loc.meets (a : Loc) (n : Nat) (b : Loc) (m : Nat) : Bool :=
  a.space == b.space && decide (a.addr < b.addr + m) && decide (b.addr < a.addr + n)

def partsMeet (x y : List (Loc × Nat)) : Bool := x.any (fun a => y.any (fun b => a.1.meets a.2 b.1 b.2))

def PStore.span (x : PStore) : List (Loc × Nat) := x.parts.map (fun p => (p.1, p.2.length))
def PLoad.span (x : PLoad) : List (Loc × Nat) := x.parts.getD []

/-- Writes of other strands that the same word made at a lower home lane come first where they meet (R165). -/
def Plot.laneFirst (g : Regs) (w : Who) (stamp lane : Nat) (span : List (Loc × Nat)) : Bool :=
  g.agents.all (fun x => x.1 == w ||
    (x.2.stores.all (fun y => !(y.stamp == stamp && decide (y.lane < lane) && partsMeet y.span span)) &&
     x.2.loads.all (fun y => !(y.isAtom && y.stamp == stamp && decide (y.lane < lane) && partsMeet y.span span))))

/-- A load may be performed: no earlier acquire waits, no earlier access of the agent to its bytes waits, and a release
waits for nothing earlier (R172, R173, R176). -/
def Regs.mayLand (g : Regs) (w : Who) (a : Agent) (l : PLoad) : Bool :=
  a.loads.all (fun y => decide (l.seq ≤ y.seq) || !(y.acquire || l.release || partsMeet y.span l.span)) &&
  a.stores.all (fun y => decide (l.seq ≤ y.seq) || !(l.release || partsMeet y.span l.span)) &&
  (!l.isAtom || Plot.laneFirst g w l.stamp l.lane l.span)

/-- A store may be performed. -/
def Regs.mayPerform (g : Regs) (w : Who) (a : Agent) (x : PStore) : Bool :=
  a.loads.all (fun y => decide (x.seq ≤ y.seq) || !(y.acquire || x.release || partsMeet y.span x.span)) &&
  a.stores.all (fun y => decide (x.seq ≤ y.seq) || !(x.release || partsMeet y.span x.span)) &&
  Plot.laneFirst g w x.stamp x.lane x.span

/-- Land the registers of an access in the checkpoint and in the shadow state alike (R381). -/
def Plot.modBoth (p : Plot) (f : Regs → Regs) : Plot := { p with regs := f p.regs, ck := p.ck.map f }

/-- The data of a load is written and the load count falls (R297). -/
def Regs.landed (g : Regs) (w : Who) (l : PLoad) (v : Nat) (tag32 : Bool) : Regs :=
  let g1 := g.modAgent w (fun a => { a with loads := a.loads.filter (fun y => y.seq != l.seq) })
  let live := match g.agent? w with | some a => a.phase != Phase.exited && a.loads.any (fun y => y.seq == l.seq) | none => false
  if !live then g1
  else if tag32 then
    match w with
    | .front => g1.setSAt (banked l.handler l.dst) l.dst (BitVec.ofNat 64 v)
    | .strand k => g1.setVAt k (banked l.handler l.dst) l.dst ⟨BitVec.ofNat 32 v, .z32⟩
  else g1.writeLoaded w l.handler l.dst l.pair v

/-- A release at grove scope or wider puts the pavilion's queued writes to the L2 first (R176). -/
def State.releaseAt (s : State) (pav : Nat) (sc : Scope) : State := if nearScope sc then s else s.drainAll pav

/-- An acquire at grove scope or wider invalidates the pavilion's L1 (R176). -/
def State.acquireAt (s : State) (pav : Nat) (sc : Scope) : State := if nearScope sc then s else s.invalidateL1 pav

/-- The read, or the read and write, of a pending load, and the value its destination receives. LDV reads at the home L2 slice
(08_views_versions.md R210). What an LDI of the launch has read may be found again, but not by an ATOM (R179). -/
def State.performLoad (s : State) (p : Plot) (l : PLoad) (ps : List (Loc × Nat)) : State × Nat :=
  let sc := match l.kind with | .versioned .. => Scope.dev | _ => l.scope
  let r := (if l.release then s.releaseAt p.pav l.scope else s).readParts p.pav sc ps
  let y : State × List Byte := match l.kind with
    | .atom op b c =>
      let old := leNat r.2
      let new := atomNew op l.bytes old b.toNat c.toNat
      if op = AtomOp.cas ∧ old ≠ b.toNat % 2 ^ (8 * l.bytes) then r
      else (r.1.writeParts p.pav l.scope (dealBytes ps (natBytes new l.bytes)), r.2)
    | k =>
      let t := r.1.staleParts p.launch ps r.2
      (if k = LoadKind.invariant then t.1.noteLdi p.launch ps t.2 else t.1, t.2)
  (if l.acquire then y.1.acquireAt p.pav l.scope else y.1, leNat y.2)

/-- The detail of an MCHK of a landing load: 1 while the agent is in the clause that issued it, 2 after it has left (R220). -/
def landDetail (a : Agent) (l : PLoad) : Nat :=
  if a.clause.isSome ∧ a.visit = l.visit ∧ a.phase ≠ .exited then 1 else 2

/-- A pending load lands (R297): its destination is written, an error or a refusal reported, and its count falls. -/
def State.land (s : State) (p : Plot) (w : Who) (a : Agent) (l : PLoad) : State :=
  match l.kind, l.parts with
  | .cycles, _ => s.modPlot p.id (fun q => q.modBoth (fun g => g.landed w l (s.cycles p.pav % (if w = .front then 2 ^ 64 else 2 ^ 32)) true))
  | _, none =>
    let s1 := s.modPlot p.id (fun q => q.modBoth (fun g => g.landed w l 0 false))
    match l.mchk with
    | some m => s1.raiseMchk p.id w m.1 m.2
    | none => s1
  | _, some ps =>
    match s.badPart 0 ps with
    | some (i, loc) =>
      let d := landDetail a l
      let s1 := s.modPlot p.id (fun q => q.modBoth (fun g => g.landed w l 0 false))
      ((if l.acquire then s1.acquireAt p.pav l.scope else s1).logError loc d).raiseMchk p.id w d (l.ea + BitVec.ofNat 64 i)
    | none =>
      let r := s.performLoad p l ps
      r.1.modPlot p.id (fun q => q.modBoth (fun g => g.landed w l r.2 false))

/-- The home slot of an exiled strand is vacated once its register writes have landed (R284): nothing more is stored for it. [DESIGN CHOICE: log entry 10] -/
def execLoadDataLands (plot : Nat) (who : Who) (i : Nat) (s : State) : Host.Outcome State Fault Refusal :=
  match s.plot? plot with
  | none => .next s
  | some p =>
    match p.real.agent? who with
    | none => .next s
    | some a =>
      match a.loads[i]? with
      | none => .next s
      | some l =>
        if p.real.mayLand who a l then
          match s.dma false (l.parts.getD []) with
          | (true, s1) => .next ((s1.land p who a l).finish plot)
          | (false, s1) => .next s1
        else .next s

/-- A store is performed at its point of coherence and the store count falls (R296). -/
def execStorePerformed (plot : Nat) (who : Who) (i : Nat) (s : State) : Host.Outcome State Fault Refusal :=
  match s.plot? plot with
  | none => .next s
  | some p =>
    match p.real.agent? who with
    | none => .next s
    | some a =>
      match a.stores[i]? with
      | none => .next s
      | some x =>
        let r := s.dma true x.span
        if !p.real.mayPerform who a x then .next s
        else if !r.1 then .next r.2
        else
          let s1 := (if x.release then r.2.releaseAt p.pav x.scope else r.2).writeParts p.pav x.scope x.parts
          let s2 := s1.modPlot plot (fun q => q.modBoth (fun g => g.modAgent who (fun a =>
            { a with stores := a.stores.filter (fun y => y.seq != x.seq) })))
          .next (s2.finish plot)

/-! ### FENCE (R225) -/

inductive FenceKind where
  | full | acq | rel | view
  deriving DecidableEq, Repr

/-- FENCE: it holds until the earlier accesses it orders are performed; then it acts on the caches (R174, R176, R186, R201). [DEDUCED: log entries 42, 43] -/
def fenceWord (k : FenceKind) (sc : Scope) : WordFn :=
  withPlot (fun c p s =>
    match p.agent? c.who with
    | none => (s, .left)
    | some a =>
      if !a.loads.isEmpty || (k != .acq && !a.stores.isEmpty) then (s, .hold .stall)
      else
        match k with
        | .rel => (s.releaseAt p.pav sc, .done)
        | .acq => (s.acquireAt p.pav sc, .done)
        | .full => ((s.releaseAt p.pav sc).acquireAt p.pav sc, .done)
        | .view => (((s.releaseAt p.pav sc).acquireAt p.pav sc).syncViews, .done))

/-! ### STMX (R226) -/

/-- Table 3-9 of a member: vD is packed MX data, vD+1 its scale. -/
def stmxTags (d : Reg) (p : Plot) (k : Nat) : Option Res :=
  crossTags [(d, mxTag), (regPlus d 1, scaleTag)] p k

/-- The stores of the members once both ranges are reached. -/
def stmxStores (d : Reg) (sc sg : Scope) (nb : Nat) (p : Plot) (ms : List Strand) (e g : Reach) (s : State) : State :=
  ms.foldl (fun s st =>
    let w := Who.strand st.key
    let own := natBytes (p.regs.v st.key d).val.toNat 4
    let scales := natBytes (p.regs.v st.key (regPlus d 1)).val.toNat 4
    let at_ := fun (ps : Option (List (Loc × Nat))) (off : Nat) (data : List Byte) =>
      ps.map (fun l => l.map (fun x => ((⟨x.1.space, x.1.addr + off⟩ : Loc), data)))
    let s1 := s.issueStore p w (at_ e.parts (4 * st.lane) own) sc false e.mchk
    let n := min 4 (nb - 4 * st.lane)
    if 4 * st.lane < nb then s1.issueStore p w (at_ g.parts (4 * st.lane) (scales.take n)) sg false g.mchk else s1) s

/-- The stores of a member: its elements, and its part of the scales where it has one. -/
def stmxCount (nb : Nat) (st : Strand) : Nat := if 4 * st.lane < nb then 2 else 1

/-- STMX: after the rendezvous, the checks of R218 on the element range and the scale range, then each member's stores. -/
def stmxWord (d a b : Reg) (sc : Scope) : WordFn :=
  rendezvous (stmxTags d) (fun p ms s =>
    match ms.find? (fun st => st.lane == 0) with
    | none => .hold .stall
    | some lead =>
      let w := Who.strand lead.key
      let nb := if (p.regs.v lead.key d).tag = .e2m1x8 then 8 else 4
      let ea := p.regs.wide w a
      let ga := p.regs.wide w b
      let bad := fun (r : Res) => match r with
        | .trap cls dt v => Meet.trap cls dt v
        | .hold h => .hold h
        | _ => .hold .stall
      let check := fun (x : DWord) (n : Nat) =>
        if x.toNat % n ≠ 0 then .error (illegalEntry x) else s.checkPieces p w x true [(x, n)]
      match check ea 128 with
      | .error r => bad r
      | .ok le =>
        match check ga nb with
        | .error r => bad r
        | .ok lg =>
          if ms.any (fun st => decide (32 < st.ag.storeCount + stmxCount nb st)) then .hold .stall
          else
            match s.reachPieces p true le with
            | .error r => bad r
            | .ok re =>
              match re.s.reachPieces p true lg with
              | .error r => bad r
              | .ok rg => .ok (stmxStores d (narrowScope ea sc) (narrowScope ga sc) nb p ms re rg rg.s))

/-! ### PF (R227) -/

/-- PF: a name range is ILLEGAL; otherwise a sector is brought nearer, or a request is sent, or nothing happens. -/
def pfWord (a : Reg) (l2only : Bool) : WordFn :=
  withPlot (fun c p s =>
    let ea := p.regs.wide c.who a
    match regionOf ea with
    | .global va =>
      if s.touchesName p.ctx va 1 then (s, illegalEntry ea)
      else if (s.lockHit p ea 1 none true).isSome then (s, .done)
      else
        match s.translateFor p va 1 false with
        | (.at l, s1) =>
          if l.space = .dev then
            let s2 := s1.l2Fill l.addr
            (if l2only then s2 else s2.l1Need p.pav (l.addr / 128), .done)
          else (s1, .done)
        | (.miss, _) => (s.askAts p.pav (s.pasid p.ctx) va false, .done)
        | _ => (s, .done)
    | _ => (s, .done))

/-- LD: plain. -/
def execLd (d a : Reg) (z : Size) (w : Win) (sc : Scope) (o : BitVec 6) (s : State) : Host.Outcome State Fault Refusal := runWord (.ld d a z w sc o) (loadWord .plain false d a z w sc o) s

/-- LDA: an acquire (Table 7-4). -/
def execLda (d a : Reg) (z : Size) (w : Win) (sc : Scope) (o : BitVec 6) (s : State) : Host.Outcome State Fault Refusal := runWord (.lda d a z w sc o) (loadWord .plain true d a z w sc o) s

/-- LDI: invariant (07_ordering_model.md R179). -/
def execLdi (d a : Reg) (z : Size) (w : Win) (sc : Scope) (o : BitVec 6) (s : State) : Host.Outcome State Fault Refusal := runWord (.ldi d a z w sc o) (loadWord .invariant false d a z w sc o) s

/-- ST: plain. -/
def execSt (d a : Reg) (z : Size) (w : Win) (sc : Scope) (o : BitVec 6) (s : State) : Host.Outcome State Fault Refusal := runWord (.st d a z w sc o) (storeWord false d a z w sc o) s

/-- STL: a release (Table 7-4). -/
def execStl (d a : Reg) (z : Size) (w : Win) (sc : Scope) (o : BitVec 6) (s : State) : Host.Outcome State Fault Refusal := runWord (.stl d a z w sc o) (storeWord true d a z w sc o) s

/-- ATOM.ADD (Table 9-4). -/
def execAtomAdd (d a b : Reg) (ar : Bool) (sc : Scope) (s : State) : Host.Outcome State Fault Refusal := runWord (.atomAdd d a b ar sc) (atomWord .add d a b ar sc) s

/-- ATOM.AND (Table 9-4). -/
def execAtomAnd (d a b : Reg) (ar : Bool) (sc : Scope) (s : State) : Host.Outcome State Fault Refusal := runWord (.atomAnd d a b ar sc) (atomWord .and d a b ar sc) s

/-- ATOM.OR (Table 9-4). -/
def execAtomOr (d a b : Reg) (ar : Bool) (sc : Scope) (s : State) : Host.Outcome State Fault Refusal := runWord (.atomOr d a b ar sc) (atomWord .or d a b ar sc) s

/-- ATOM.XOR (Table 9-4). -/
def execAtomXor (d a b : Reg) (ar : Bool) (sc : Scope) (s : State) : Host.Outcome State Fault Refusal := runWord (.atomXor d a b ar sc) (atomWord .xor d a b ar sc) s

/-- ATOM.MINS (Table 9-4). -/
def execAtomMins (d a b : Reg) (ar : Bool) (sc : Scope) (s : State) : Host.Outcome State Fault Refusal := runWord (.atomMins d a b ar sc) (atomWord .mins d a b ar sc) s

/-- ATOM.MAXS (Table 9-4). -/
def execAtomMaxs (d a b : Reg) (ar : Bool) (sc : Scope) (s : State) : Host.Outcome State Fault Refusal := runWord (.atomMaxs d a b ar sc) (atomWord .maxs d a b ar sc) s

/-- ATOM.MINZ (Table 9-4). -/
def execAtomMinz (d a b : Reg) (ar : Bool) (sc : Scope) (s : State) : Host.Outcome State Fault Refusal := runWord (.atomMinz d a b ar sc) (atomWord .minz d a b ar sc) s

/-- ATOM.MAXZ (Table 9-4). -/
def execAtomMaxz (d a b : Reg) (ar : Bool) (sc : Scope) (s : State) : Host.Outcome State Fault Refusal := runWord (.atomMaxz d a b ar sc) (atomWord .maxz d a b ar sc) s

/-- ATOM.XCHG (Table 9-4). -/
def execAtomXchg (d a b : Reg) (ar : Bool) (sc : Scope) (s : State) : Host.Outcome State Fault Refusal := runWord (.atomXchg d a b ar sc) (atomWord .xchg d a b ar sc) s

/-- ATOM.CAS (Table 9-4). -/
def execAtomCas (d a b : Reg) (ar : Bool) (sc : Scope) (s : State) : Host.Outcome State Fault Refusal := runWord (.atomCas d a b ar sc) (atomWord .cas d a b ar sc) s

/-- ATOM.FADD (Table 9-4). -/
def execAtomFadd (d a b : Reg) (ar : Bool) (sc : Scope) (s : State) : Host.Outcome State Fault Refusal := runWord (.atomFadd d a b ar sc) (atomWord .fadd d a b ar sc) s

/-- ATOM.INCW (Table 9-4). -/
def execAtomIncw (d a b : Reg) (ar : Bool) (sc : Scope) (s : State) : Host.Outcome State Fault Refusal := runWord (.atomIncw d a b ar sc) (atomWord .incw d a b ar sc) s

/-- FENCE.FULL. -/
def execFenceFull (sc : Scope) (s : State) : Host.Outcome State Fault Refusal := runWord (.fenceFull sc) (fenceWord .full sc) s

/-- FENCE.ACQ. -/
def execFenceAcq (sc : Scope) (s : State) : Host.Outcome State Fault Refusal := runWord (.fenceAcq sc) (fenceWord .acq sc) s

/-- FENCE.REL. -/
def execFenceRel (sc : Scope) (s : State) : Host.Outcome State Fault Refusal := runWord (.fenceRel sc) (fenceWord .rel sc) s

/-- FENCE.VIEW. -/
def execFenceView (sc : Scope) (s : State) : Host.Outcome State Fault Refusal := runWord (.fenceView sc) (fenceWord .view sc) s

/-- STMX. -/
def execStmx (d a b : Reg) (sc : Scope) (s : State) : Host.Outcome State Fault Refusal := runWord (.stmx d a b sc) (stmxWord d a b sc) s

/-- PF. -/
def execPf (a : Reg) (l2only : Bool) (s : State) : Host.Outcome State Fault Refusal := runWord (.pf a l2only) (pfWord a l2only) s

end Sys2Proof.Machine
end

