-- ==== Sys2Proof/Machine/Control.lean ====
section
/-! DEFINITION. Control transfer (12_control_instructions.md R303, R304; 11_strands_bundles.md R284), WAIT (R305) and CTL
(R306–R312): exits, cohorts, SPAWN, REORDER, the decision queue and the special registers. -/

namespace Sys2Proof.Machine

/-! ### Operands -/

/-- Bits [31:0] of an operand. -/
def low32 (p : Plot) (w : Who) (r : Reg) : Word := (p.regs.zx w r).setWidth 32

/-- In the uniform stream bits [63:32] of a 32-bit operand must be zero (R243, R304, R314, R332). -/
def high32 (p : Plot) (w : Who) (r : Reg) : Option Res :=
  if p.regs.zx w r >>> 32 = 0#64 then none else some (illegalEntry (p.regs.zx w r))

/-- In the lane stream a 32-bit operand is accepted with the tags RAW, S32 and Z32. -/
def tag32 (p : Plot) (w : Who) (r : Reg) : Option Res := tagFault indexAccepts [(r, p.regs.tagOf w r)]

/-- A 32-bit operand with both checks, ILLEGAL before FORMAT (03_number_formats.md R79). -/
def word32 (p : Plot) (w : Who) (r : Reg) : Except Res Word :=
  match (high32 p w r).or (tag32 p w r) with
  | some e => .error e
  | none => .ok (low32 p w r)

/-- CheckEntry at a word (R303): the transferring word traps. Where the clause map cannot be read, the entry reports it (R392). [DESIGN CHOICE: log entry 130] -/
def State.entryAt (s : State) (p : Plot) (target : Word) : Except Res State :=
  match s.checkEntry p target with
  | .error h => .error (.hold h)
  | .ok r => if r.val || !r.notes.isEmpty then .ok r.s else .error (illegal 1 (target.setWidth 64))

/-- A release waits for the agent's own earlier loads and stores (07_ordering_model.md R173). -/
def Agent.drained (a : Agent) : Bool := a.loads.isEmpty && a.stores.isEmpty

/-- Whether an agent's earlier loads and stores are all done (07_ordering_model.md R176). [DEDUCED: log entry 42] -/
def Plot.drained (p : Plot) (w : Who) : Bool := match p.agent? w with | some a => a.drained | none => true

/-! ### Branches and jumps -/

def condTrue (g : Regs) (w : Who) : Cond → Bool
  | .always => true
  | .ifSet f => g.flag w f
  | .ifClear f => !g.flag w f

/-- RelativeBranch's next offset (R303). -/
def branchNext (p : Plot) (c : Cx) (cond : Cond) (o : BitVec 22) : Word :=
  if condTrue p.regs c.who cond then c.pc + (o.signExtend 32 <<< 2) else c.pc + 4#32

/-- The link register (R303, R304). -/
def Regs.link (g : Regs) (w : Who) (pc : Word) : Regs := g.setR w 63#6 .z32 (pc + 4#32)

/-- BR (R303). -/
def branchWord (cond : Cond) (o : BitVec 22) : WordFn :=
  withPlot (fun c p s =>
    let next := branchNext p c cond o
    match s.entryAt p next with
    | .error r => (s, r)
    | .ok s1 => (s1, .jump next))

/-- CALL (R303): a CALL that is not taken writes no link. -/
def callWord (cond : Cond) (o : BitVec 22) : WordFn :=
  withPlot (fun c p s =>
    let next := branchNext p c cond o
    match s.entryAt p next with
    | .error r => (s, r)
    | .ok s1 =>
      (if condTrue p.regs c.who cond then s1.modPlot c.plot (fun p => p.modRegs (fun g => g.link c.who c.pc)) else s1, .jump next))

/-- BRX for one member: it has left its word for the side it takes, and waits to be divided. -/
def brxWord (cond : Cond) (o : BitVec 22) : WordFn :=
  withPlot (fun c p s =>
    let next := branchNext p c cond o
    match s.entryAt p next with
    | .error r => (s, r)
    | .ok s1 => (s1.modPlot c.plot (fun p => p.modAgent c.who (fun a => { a with phase := .exiled, pc := next })), .left))

/-- Records in use in the spawn memory of a bed (R285). -/
def State.exiledOn (s : State) (pav bed : Nat) : Nat :=
  (s.plots.filter (fun p => p.pav == pav && p.bed == bed && p.resident)).foldl
    (fun n p => n + (p.regs.strands.filter (fun st => st.ag.phase == .exiled && st.ag.clause.isNone)).length) 0

def spawnRecords : Nat := 204

/-- An exiled strand waits in spawn memory at the side it took, with its yield (R283); `since` is the plot cycle its wait began. -/
def Agent.exile (a : Agent) (now : Nat) : Agent :=
  { a with phase := .exiled, clause := none, wait := .none, yieldNext := a.yields, since := now, visit := a.visit + 1 }

/-- Divide (R284): the side with fewer members is exiled, the taking side where they are equal, none where the members agree
or spawn memory has no room. -/
def divide (cond : Cond) (id : Nat) (ws : List Who) (s : State) : State :=
  match s.plot? id with
  | none => s
  | some p =>
    let here := p.regs.strands.filter (fun st =>
      ws.contains (.strand st.key) && st.ag.phase == .exiled && st.ag.clause.isSome)
    let take := here.filter (fun st => condTrue p.regs (.strand st.key) cond)
    let fall := here.filter (fun st => !condTrue p.regs (.strand st.key) cond)
    let side := if fall.length < take.length then fall else take
    let out := if take.isEmpty || fall.isEmpty || decide (spawnRecords < s.exiledOn p.pav p.bed + side.length) then [] else side
    s.modPlot id (fun p => p.modRegs (fun g => here.foldl (fun g st =>
      if out.any (fun x => x.key == st.key) then g.modAgent (.strand st.key) (fun a => a.exile p.pcyc)
      else g.jump (.strand st.key) st.ag.pc) g))

/-- JR, RET and CALLR (R304): the target is read before the link is written. -/
def jumpWord (a : Reg) (links : Bool) : WordFn :=
  withPlot (fun c p s =>
    let t := low32 p c.who a
    match high32 p c.who a with
    | some r => (s, r)
    | none =>
      match s.entryAt p t with
      | .error r => (s, r)
      | .ok s1 =>
        match tag32 p c.who a with
        | some r => (s, r)
        | none => (if links then s1.modPlot c.plot (fun p => p.modRegs (fun g => g.link c.who c.pc)) else s1, .jump t))

/-- WAIT (R305). -/
def waitWord (ld st cp tl : BitVec 4) : WordFn :=
  withPlot (fun c p s =>
    match p.agent? c.who with
    | none => (s, .left)
    | some a => if p.countsMet a ld.toNat st.toNat cp.toNat tl.toNat then (s, .done) else (s, .hold .stall))

/-! ### YIELD, EXIT and cohorts -/

/-- YIELD (R283, R307). -/
def yieldWord : WordFn := onPlot (fun c p =>
  match c.who with
  | .front => (p, .done)
  | .strand _ => (p.modAgent c.who (fun a => { a with yieldNext := true }), .done))

/-- The strand ends: it leaves its cohort, and its registers are lost (R299). -/
def Strand.exit (st : Strand) : Strand :=
  { st with
    cohort := none
    regs := Vector.replicate 64 VReg.zero
    flags := Vector.replicate 4 false
    ag := { st.ag with phase := .exited, clause := none, wait := .none } }

/-- A waiting POPQ completes with an entry, or without one after the front thread has exited (R311). -/
def Regs.popped (g : Regs) (k : Nat) (d : Reg) (e : Option Word) : Regs :=
  let g1 := match e with
    | some x => (g.setV k d ⟨x, .raw⟩).setFlag (.strand k) 0#2 true
    | none => g.setFlag (.strand k) 0#2 false
  g1.retire (.strand k) 4

def popReg (a : Agent) : Option Reg := match a.phase, a.wait with | .blocked, .popq d => some d | _, _ => none

/-- EXIT (R299–R301). -/
def exitWord : WordFn := onPlot (fun c p =>
  match c.who with
  | .strand k => (p.modRegs (fun g => (g.modStrand k Strand.exit).unlockCheck), .left)
  | .front =>
    let g := p.regs.modAgent .front (fun a => { a with phase := .exited, clause := none, wait := .none })
    ({ p with regs := g.strands.foldl (fun g st =>
        match popReg st.ag with
        | some d => g.popped st.key d none
        | none => g) g }, .left))

/-- JOIN (R291, R308). -/
def joinWord (co : BitVec 4) : WordFn := onPlot (fun c p =>
  match c.who with
  | .front => (p, illegal 5 c.word64)
  | .strand k =>
    let inIt := match p.regs.strand? k with | some st => st.cohort == some co | none => false
    let room := inIt || decide ((p.regs.cohort co).length < 32)
    (p.modRegs (fun g =>
      let g1 := g.setFlag c.who 0#2 room
      if room then (g1.modStrand k (fun st => { st with cohort := some co })).unlockCheck else g1), .done))

/-- LEAVE (R291, R308). -/
def leaveWord : WordFn := onPlot (fun c p =>
  match c.who with
  | .front => (p, illegal 5 c.word64)
  | .strand k => (p.modRegs (fun g => (g.modStrand k (fun st => { st with cohort := none })).unlockCheck), .done))

/-- RDV (R308): a rendezvous with no data, a release before it and an acquire after it at plot scope. -/
def rdvWord : WordFn :=
  rendezvous (fun p k => if p.drained (.strand k) || (p.regs.lockedOf k).isNone then none else some (.hold .stall))
    (fun _ _ s => .ok s)

/-! ### SPAWN and REORDER -/

/-- The slot rows of a bed that resident plots hold. -/
def State.rowsUsed (s : State) (pav bed : Nat) : List Nat :=
  (s.plots.filter (fun p => p.pav == pav && p.bed == bed && p.resident)).flatMap (fun p => p.rows)

/-- The slot rows of a bed that no plot holds, in ascending order (11_strands_bundles.md R271). [DESIGN CHOICE: log entry 40] -/
def State.freeRows (s : State) (pav bed : Nat) : List Nat :=
  (List.range 16).filter (fun r => !(s.rowsUsed pav bed).contains r)

/-- A strand at a clause boundary with every register zero (R41, R271). -/
def Strand.start (key : Nat) (sid : Word) (row lane : Nat) (pc : Word) (now : Nat) : Strand :=
  { key := key, sid := sid, row := row, lane := lane, cohort := none, regs := Vector.replicate 64 VReg.zero,
    flags := Vector.replicate 4 false, spawned := false, spawns := 0, depth := 0, sortKey := 0#32, live := 0, area := key,
    ag := Agent.start pc .waiting now }

/-- A strand of a SPAWN group (R273, R293). [DEDUCED: log entry 39] -/
def Strand.spawn (parent : Strand) (vals : Nat → Word) (key row i : Nat) (pc : Word) (now : Nat) : Strand :=
  let sid := BitVec.ofNat 32 (0x80000000 + 32 * (512 * (parent.spawns % 4096) + parent.sid.toNat) + i)
  { Strand.start key sid row i pc now with
    spawned := true
    depth := parent.depth
    regs := (Vector.replicate 64 VReg.zero).mapFinIdx (fun j v _ => if j < 8 then ⟨vals j, .raw⟩ else v) }

/-- The private areas of the plot that no strand of it has. [DESIGN CHOICE: log entry 47] -/
def Regs.freeAreas (g : Regs) : List Nat :=
  (List.range 1024).filter (fun n => !g.strands.any (fun st => st.isLive && st.area == n))

/-- SPAWN (R293, R309): 32 strands on a free row of the plot's bed, where the plot has fewer than 16 rows. -/
def spawnWord (a : Reg) : WordFn :=
  withPlot (fun c p s =>
    match c.who with
    | .front => (s, illegal 5 c.word64)
    | .strand k =>
      match p.regs.strand? k with
      | none => (s, .left)
      | some st =>
        if st.spawned then (s, illegalEntry c.word64)
        else
          let t := low32 p c.who a
          match s.entryAt p t with
          | .error r => (s, r)
          | .ok s1 =>
            match tag32 p c.who a with
            | some r => (s, r)
            | none =>
              if !st.ag.drained then (s, .hold .stall)
              else
                let counted := fun (g : Regs) (ok : Bool) =>
                  (g.modStrand k (fun st => { st with spawns := st.spawns + 1 })).setFlag c.who 0#2 ok
                match s1.freeRows p.pav p.bed with
                | r :: _ =>
                  if p.rows.length < 16 then
                    let vals := fun j => (p.regs.v k (BitVec.ofNat 6 j)).val
                    let new := (List.range 32).map (fun i =>
                      { st.spawn vals (p.nextKey + i) p.rows.length i t 0 with area := p.regs.freeAreas.getD i 0 })
                    (s1.modPlot c.plot (fun p =>
                      let g := counted { p.regs with strands := p.regs.strands ++ new } true
                      { p with
                        rows := p.rows ++ [r]
                        nextKey := p.nextKey + 32
                        regs := new.foldl (fun g x => g.join x.key false) g }), .done)
                  else (s1.modPlot c.plot (fun p => p.modRegs (fun g => counted g false)), .done)
                | [] => (s1.modPlot c.plot (fun p => p.modRegs (fun g => counted g false)), .done))

/-- REORDER (R289, R310): the strand is GATHERED with its key and its live count. -/
def reorderWord (a : Reg) (k : BitVec 6) : WordFn := onPlot (fun c p =>
  match c.who with
  | .front => (p, illegal 5 c.word64)
  | .strand n =>
    match word32 p c.who a with
    | .error r => (p, r)
    | .ok key =>
      ({ (p.modStrand n (fun st =>
          { st with sortKey := key, live := k.toNat + 1, ag := { st.ag with phase := .gathered, since := p.pcyc } })) with
        gatherAt := some (p.gatherAt.getD p.pcyc) }, .left))

/-! ### The decision queue (R311) -/

/-- The BLOCKED POPQ that has waited longest, the lowest home lane first among those that blocked together. -/
def Regs.longestPop (g : Regs) : Option (Nat × Reg) :=
  ((byLane g.strands).foldl (fun (m : Option (Strand × Reg)) st =>
    match popReg st.ag, m with
    | some d, none => some (st, d)
    | some d, some (x, e) => if st.ag.since < x.ag.since then some (st, d) else some (x, e)
    | none, m => m) none).map (fun x => (x.1.key, x.2))

/-- POPQ, a front thread blocked at a PUSHQ goes on when an entry leaves the queue. -/
def popqWord (d : Reg) : WordFn := onPlot (fun c p =>
  match c.who with
  | .front => (p, illegal 5 c.word64)
  | .strand k =>
    match p.dq with
    | x :: rest =>
      ({ (p.modRegs (fun g =>
          let g1 := (g.setV k d ⟨x, .raw⟩).setFlag c.who 0#2 true
          if g1.front.ag.phase = .blocked ∧ g1.front.ag.wait = .pushq then g1.reenter .front g1.front.ag.pc else g1)) with dq := rest },
        .done)
    | [] =>
      if p.regs.front.ag.phase = .exited then (p.modRegs (fun g => g.setFlag c.who 0#2 false), .done)
      else (p, .block (.popq d)))

/-- PEEKQ. -/
def peekqWord (d : Reg) : WordFn := onPlot (fun c p =>
  match c.who with
  | .front => (p, illegal 5 c.word64)
  | .strand k =>
    match p.dq with
    | x :: _ => (p.modRegs (fun g => (g.setV k d ⟨x, .raw⟩).setFlag c.who 0#2 true), .done)
    | [] => (p.modRegs (fun g => g.setFlag c.who 0#2 false), .done))

/-- PUSHQ: a release; the longest-waiting POPQ is served at once. -/
def pushqWord (a : Reg) : WordFn := onPlot (fun c p =>
  match word32 p c.who a with
  | .error r => (p, r)
  | .ok x =>
    if !p.drained c.who then (p, .hold .stall)
    else
      match p.regs.longestPop with
      | some (k, d) => (p.modRegs (fun g => g.popped k d (some x)), .done)
      | none => if 64 ≤ p.dq.length then (p, .block .pushq) else ({ p with dq := p.dq ++ [x] }, .done))

/-! ### Special registers (R43, R312) -/

/-- The step of the group that a plot's launch binds; 0 if none. -/
def State.boundStep (s : State) (p : Plot) : DWord :=
  match s.codeOf p with
  | some l =>
    match l.bind with
    | some n =>
      match s.group? p.ctx n with
      | some g => match g.members[g.own]? with | some m => m.step | none => 0#64
      | none => 0#64
    | none => 0#64
  | none => 0#64

/-- Table 2-6, srCYC and the trap registers apart. [DESIGN CHOICE: log entry 20] -/
def State.plotSpecial (s : State) (p : Plot) (w : Who) (n : Nat) : DWord :=
  let st : Option Strand := match w with | .front => none | .strand k => p.regs.strand? k
  let word := fun (x : Nat) => BitVec.ofNat 64 x
  let grid := fun (x : Nat) => match p.origin with | .grid => word x | .stage _ _ => (Config.stageGrid n).setWidth 64
  let ext := fun (f : Launch → Nat) => grid (match s.codeOf p with | some l => f l | none => 0)
  match n with
  | 0 => match st with | some x => x.sid.setWidth 64 | none => 0xFFFFFFFF#64
  | 1 => p.srPlot.setWidth 64
  | 2 => grid p.coord.1
  | 3 => grid p.coord.2.1
  | 4 => grid p.coord.2.2
  | 5 => ext Launch.nx
  | 6 => ext Launch.ny
  | 7 => ext Launch.nz
  | 8 => word p.pav
  | 9 => word (groveOf p.pav)
  | 10 => word (dieOf p.pav)
  | 11 => word Config.self.val
  | 12 => match st with | some x => word x.lane | none => 0xFFFFFFFF#64
  | 13 => word p.bed
  | 14 => s.boundStep p
  | 15 => match st with | some x => word x.depth | none => word p.regs.front.depth
  | 16 => match p.origin with | .grid => 0#64 | .stage _ k => word k
  | 21 => p.regs.fpf.setWidth 64
  | _ => word p.ctx

/-- Table 2-6. -/
def State.special (s : State) (p : Plot) (w : Who) (n : Nat) : DWord :=
  match p.agent? w with
  | none => 0#64
  | some a =>
    match n with
    | 17 => BitVec.ofNat 64 (s.cycles p.pav)
    | 18 => a.tcause.setWidth 64
    | 19 => a.tpc.setWidth 64
    | 20 => a.tval
    | _ => s.plotSpecial p w n

/-- A special register's value to D: bits [31:0] tagged Z32, or all 64 bits. -/
def Regs.setSpecial (g : Regs) (w : Who) (d : Reg) (x : DWord) : Regs :=
  match w with
  | .front => g.setS d x
  | .strand k => g.setV k d ⟨x.setWidth 32, .z32⟩

/-- MOVSR (R312): srCYC counts as a load, and its value is the count as it lands. -/
def movsrWord (d : Reg) (n : BitVec 6) : WordFn :=
  withPlot (fun c p s =>
    match p.agent? c.who with
    | none => (s, .left)
    | some a =>
      if n = 17#6 ∧ p.run = .running then
        if 32 ≤ a.loads.length then (s, .hold .stall)
        else
          let l := mkLoad a p c.who .cycles d 4 none 0#64 .plot false false none
          s.issueLoad p c.who l
      else (s.modPlot c.plot (fun q => q.modRegs (fun g => g.setSpecial c.who d (s.special p c.who n.toNat))), .done))

/-- MOVRS (R312). [DEDUCED: log entry 34] -/
def movrsWord (a : Reg) (n : BitVec 6) : WordFn := onPlot (fun c p =>
  match p.agent? c.who with
  | none => (p, .left)
  | some ag =>
    let x := p.regs.zx c.who a
    if n = 21#6 then
      if x >>> 5 = 0#64 then (p.modRegs (fun g => { g with fpf := x.setWidth 32 }), .done) else (p, illegalEntry x)
    else if !ag.handler then (p, illegal 8 c.word64)
    else if x >>> 32 = 0#64 then (p.modAgent c.who (fun a => { a with tpc := x.setWidth 32 }), .done)
    else (p, illegalEntry x))

/-! ### The words -/

/-- BR. -/
def execBr (c : Cond) (o : BitVec 22) (s : State) : Host.Outcome State Fault Refusal := runWord (.br c o) (branchWord c o) s

/-- BRX: the members divide after every one of them has its target. -/
def execBrx (c : Cond) (o : BitVec 22) (s : State) : Host.Outcome State Fault Refusal :=
  runWordThen (.brx c o) (brxWord c o) (divide c) s

/-- CALL. -/
def execCall (c : Cond) (o : BitVec 22) (s : State) : Host.Outcome State Fault Refusal := runWord (.call c o) (callWord c o) s

/-- JR. -/
def execJr (a : Reg) (s : State) : Host.Outcome State Fault Refusal := runWord (.jr a) (jumpWord a false) s

/-- RET: the target is v63 or s63. -/
def execRet (s : State) : Host.Outcome State Fault Refusal := runWord .ret (jumpWord 63#6 false) s

/-- CALLR. -/
def execCallr (a : Reg) (s : State) : Host.Outcome State Fault Refusal := runWord (.callr a) (jumpWord a true) s

/-- WAIT. -/
def execWait (ld st cp tl : BitVec 4) (s : State) : Host.Outcome State Fault Refusal :=
  runWord (.wait ld st cp tl) (waitWord ld st cp tl) s

/-- YIELD. -/
def execYield (s : State) : Host.Outcome State Fault Refusal := runWord .yield yieldWord s

/-- EXIT. -/
def execExit (s : State) : Host.Outcome State Fault Refusal := runWord .exit exitWord s

/-- JOIN. -/
def execJoin (c : BitVec 4) (s : State) : Host.Outcome State Fault Refusal := runWord (.join c) (joinWord c) s

/-- LEAVE. -/
def execLeave (s : State) : Host.Outcome State Fault Refusal := runWord .leave leaveWord s

/-- RDV. -/
def execRdv (s : State) : Host.Outcome State Fault Refusal := runWord .rdv rdvWord s

/-- SPAWN. -/
def execSpawn (a : Reg) (s : State) : Host.Outcome State Fault Refusal := runWord (.spawn a) (spawnWord a) s

/-- REORDER. -/
def execReorder (a : Reg) (k : BitVec 6) (s : State) : Host.Outcome State Fault Refusal := runWord (.reorder a k) (reorderWord a k) s

/-- POPQ. -/
def execPopq (d : Reg) (s : State) : Host.Outcome State Fault Refusal := runWord (.popq d) (popqWord d) s

/-- PEEKQ. -/
def execPeekq (d : Reg) (s : State) : Host.Outcome State Fault Refusal := runWord (.peekq d) (peekqWord d) s

/-- PUSHQ. -/
def execPushq (a : Reg) (s : State) : Host.Outcome State Fault Refusal := runWord (.pushq a) (pushqWord a) s

/-- MOVSR. -/
def execMovsr (d : Reg) (n : BitVec 6) (s : State) : Host.Outcome State Fault Refusal := runWord (.movsr d n) (movsrWord d n) s

/-- MOVRS. -/
def execMovrs (a : Reg) (n : BitVec 6) (s : State) : Host.Outcome State Fault Refusal := runWord (.movrs a n) (movrsWord a n) s

/-- NOP (R307). -/
def execNop (s : State) : Host.Outcome State Fault Refusal := runWord .nop (onPlot (fun _ p => (p, .done))) s

end Sys2Proof.Machine
end

