-- ==== Sys2Proof/Machine/Sync.lean ====
section
/-! DEFINITION. Plot barriers (12_control_instructions.md R313–R316), arrival words and slot rings
(09_memory_copy_instructions.md R241–R243), and SYSI (R317–R321). -/

namespace Sys2Proof.Machine

/-! ### Barriers -/

def barPeriod : Nat := 2 ^ 31

/-- Passed (R314). -/
def Barrier.passed (b : Barrier) (token : Word) : Bool :=
  let d := (b.phase.toNat + barPeriod - token.toNat % barPeriod) % barPeriod
  decide (1 ≤ d) && decide (d ≤ 2 ^ 30 - 1)

def Plot.bar (p : Plot) (n : Nat) : Barrier := if h : n < 16 then p.bars[n] else Barrier.reset

def Plot.setBar (p : Plot) (n : Nat) (b : Barrier) : Plot := if h : n < 16 then { p with bars := p.bars.set n b } else p

/-- The result of a barrier word: D, tagged Z32, and f0 or uf0. -/
def Regs.barResult (g : Regs) (w : Who) (d : Reg) (x : Word) (ok : Bool) : Regs := (g.setR w d .z32 x).setFlag w 0#2 ok

def barInvalid : Word := 0x80000000#32

/-- What an agent BLOCKED on a barrier waits with. -/
def waitsOn (n : Nat) (a : Agent) : Option (Reg × Word) :=
  match a.phase, a.wait with
  | .blocked, .barrier m d t _ => if m = n then some (d, t) else none
  | _, _ => none

/-- Any agent is blocked in WAIT or SYNC on the barrier (Table 12-6). -/
def Plot.wtr (p : Plot) (n : Nat) : Bool := p.regs.agents.any (fun x => (waitsOn n x.2).isSome)

/-- A SYNC that has arrived keeps its token while its word waits to be issued again (R316). -/
def Agent.keptWait (a : Agent) : Wait :=
  match a.wait with
  | .barrier _ _ _ true => a.wait
  | _ => .none

/-- The awaited condition holds: the agent comes to wait at its word, which is issued again (R37, R275). -/
def Regs.wake (g : Regs) (w : Who) : Regs :=
  match g.agent? w with
  | none => g
  | some a => (g.reenter w a.pc).modAgent w (fun b => { b with wait := a.keptWait })

/-- Whether the plot runs in its pavilion: only then is a waiter of it woken (R316; 16_recovery.md R382). -/
def Plot.awake (p : Plot) : Bool := p.run == .running && p.resident

/-- Waiters whose wait now passes are woken (R314). [DEDUCED: log entry 28] -/
def Plot.wakeBar (p : Plot) (n : Nat) : Plot :=
  if p.awake then
    p.modRegs (fun g => g.agents.foldl (fun g x =>
      match waitsOn n x.2 with
      | none => g
      | some (_, t) => if (p.bar n).passed t then g.wake x.1 else g) g)
  else p

/-- Waiters of a barrier that INVAL ends retire their word without a phase (R314). -/
def Plot.dismissBar (p : Plot) (n : Nat) : Plot :=
  if p.awake then
    p.modRegs (fun g => g.agents.foldl (fun g x =>
      match waitsOn n x.2 with
      | none => g
      | some (d, _) => (g.barResult x.1 d barInvalid false).retire x.1 4) g)
  else p

/-- Arrival (R314): the token, or none for INVALID. -/
def Plot.arrive (p : Plot) (n : Nat) : Plot × Option Word :=
  let b := p.bar n
  if b.state ≠ .active then (p.setBar n { b with stray := min (b.stray + 1) 63 }, none)
  else
    let k := b.arrived + 1
    if k = b.expected then
      let b1 := { b with arrived := 0, phase := BitVec.ofNat 32 ((b.phase.toNat + 1) % barPeriod) }
      ((p.setBar n b1).wakeBar n, some b.phase)
    else (p.setBar n { b with arrived := k }, some b.phase)

/-- BAR INIT. -/
def barInitWord (a : Reg) (n : BitVec 4) : WordFn := onPlot (fun c p =>
  let x := p.regs.zx c.who a
  if x = 0#64 ∨ 1023 < x.toNat then (p, illegalEntry x)
  else
    match tag32 p c.who a with
    | some r => (p, r)
    | none =>
      if p.wtr n.toNat then (p, .trap .busy 0 (n.setWidth 64))
      else
        let b := p.bar n.toNat
        (p.setBar n.toNat { b with expected := x.toNat, arrived := 0, stray := 0, state := .active }, .done))

/-- BAR ARRIVE: a release at plot scope. -/
def barArriveWord (d : Reg) (n : BitVec 4) : WordFn := onPlot (fun c p =>
  if !p.drained c.who then (p, .hold .stall)
  else
    match p.arrive n.toNat with
    | (q, some t) => (q.modRegs (fun g => g.barResult c.who d t true), .done)
    | (q, none) => (q.modRegs (fun g => g.barResult c.who d barInvalid false), .done))

/-- The wait of WAIT and SYNC on a token. -/
def barAwait (c : Cx) (p : Plot) (d : Reg) (n : Nat) (t : Word) (sync : Bool) : Plot × Res :=
  let b := p.bar n
  if t.getLsbD 31 ∨ b.state ≠ .active then (p.modRegs (fun g => g.barResult c.who d barInvalid false), .done)
  else if b.passed t then (p.modRegs (fun g => g.barResult c.who d b.phase true), .done)
  else (p, .block (.barrier n d t sync))

/-- BAR WAIT. -/
def barWaitWord (d : Reg) (n : BitVec 4) : WordFn := onPlot (fun c p =>
  match word32 p c.who d with
  | .error r => (p, r)
  | .ok t => barAwait c p d n.toNat t false)

/-- The token of a SYNC that has arrived on a barrier and is issued again (R316). -/
def Plot.keptToken (p : Plot) (w : Who) (n : Nat) : Option Word :=
  match p.agent? w with
  | some a => match a.wait with | .barrier m _ t true => if m = n then some t else none | _ => none
  | none => none

/-- BAR SYNC: an arrival, and a wait on its token; a SYNC that has arrived waits on the token it keeps (R316). -/
def barSyncWord (d : Reg) (n : BitVec 4) : WordFn := onPlot (fun c p =>
  match p.keptToken c.who n.toNat with
  | some t => barAwait c (p.modAgent c.who (fun a => { a with wait := .none })) d n.toNat t true
  | none =>
    if !p.drained c.who then (p, .hold .stall)
    else
      match p.arrive n.toNat with
      | (q, none) => (q.modRegs (fun g => g.barResult c.who d barInvalid false), .done)
      | (q, some t) => barAwait c q d n.toNat t true)

/-- BAR INVAL. -/
def barInvalWord (n : BitVec 4) : WordFn := onPlot (fun _ p =>
  let b := p.bar n.toNat
  ((p.setBar n.toNat { b with state := .invalid, arrived := 0 }).dismissBar n.toNat, .done))

def BarState.code : BarState → Nat
  | .uninit => 0
  | .active => 1
  | .invalid => 2

/-- Table 12-6. -/
def Plot.barWord (p : Plot) (n : Nat) : DWord :=
  let b := p.bar n
  BitVec.ofNat 64 (b.expected % 1024 + 2 ^ 10 * (b.arrived % 1024) + 2 ^ 20 * (b.stray % 64) + 2 ^ 29 * (if p.wtr n then 1 else 0) +
    2 ^ 30 * b.state.code + 2 ^ 32 * b.phase.toNat)

/-- BAR QUERY. -/
def barQueryWord (d : Reg) (n : BitVec 4) : WordFn := onPlot (fun c p =>
  (p.modRegs (fun g => g.setSpecial c.who d (p.barWord n.toNat)), .done))

/-! ### Arrival words and slot rings (R241–R243) -/

/-- The word of 4 bytes at an offset of the context's SPAD part on a plot's pavilion. [DESIGN CHOICE: log entry 130] -/
def State.spadWord (s : State) (p : Plot) (off : Nat) : Word :=
  let a := spadAt p.pav p.ctx off
  if (s.firstBad ⟨.spad, a⟩ 4).isSome then Config.badSpad a else BitVec.ofNat 32 (leNat (cellsGet s.mem.spad a 4))

def State.setSpadWord (s : State) (p : Plot) (off : Nat) (x : Word) : State :=
  { s with mem := { s.mem with spad := cellsSet s.mem.spad (spadAt p.pav p.ctx off) (natBytes x.toNat 4) } }

/-- The generations a count passes: the count left over and the new generation. -/
def arriveCount (target count gen : Nat) : Nat × Nat :=
  if target = 0 then (count % 2 ^ 32, gen) else (count % target, gen + count / target)

/-- Arrive (R241). -/
def State.arriveWord (s : State) (p : Plot) (off n : Nat) : State :=
  let t := (s.spadWord p off).toNat
  let r := arriveCount t ((s.spadWord p (off + 4)).toNat + n) (s.spadWord p (off + 8)).toNat
  (s.setSpadWord p (off + 4) (BitVec.ofNat 32 r.1)).setSpadWord p (off + 8) (BitVec.ofNat 32 r.2)

/-- The offset of an arrival word or ring of n bytes (R243). [DEDUCED: log entry 37] -/
def State.awtOff (s : State) (p : Plot) (w : Who) (a : Reg) (n : Nat) : Except Res Nat :=
  let x := p.regs.zx w a
  if x >>> 32 = 0#64 ∧ x.toNat % n = 0 ∧ (s.spadLoc p.pav p.ctx x.toNat n).isSome then .ok x.toNat
  else .error (illegalEntry x)

/-- An uncorrectable error among n bytes of SPAD that a word or a completion has read is logged, and reported to its agent (16_recovery.md
R392). [DESIGN CHOICE: log entry 130] -/
def State.reportSpad (s : State) (p : Plot) (w : Who) (detail off n : Nat) : State :=
  let l : Loc := ⟨.spad, spadAt p.pav p.ctx off⟩
  match s.firstBad l n with
  | none => s
  | some i => (s.logError ⟨.spad, l.addr + i⟩ detail).raiseMchk p.id w detail (windowBase .spad + BitVec.ofNat 64 (off + i))

/-- An AWT word on an arrival word or ring of n bytes of which it reads `len` bytes from `lo`: its own effect, and the report of an
error among them. -/
def awtWord (a : Reg) (n lo len : Nat) (f : Cx → Plot → Nat → State → State × Res) : WordFn := withPlot (fun c p s =>
  match s.awtOff p c.who a n with
  | .error r => (s, r)
  | .ok off =>
    let r := f c p off s
    match r.2 with
    | .hold _ => r
    | _ => (r.1.reportSpad p c.who 1 (off + lo) len, r.2))

/-- AWAIT's condition. -/
def State.awaited (s : State) (p : Plot) (off : Nat) (target : Word) : Bool :=
  decide ((s.spadWord p (off + 8) - target).toNat < 2 ^ 31)

/-- AINIT. [DEDUCED: log entry 37] -/
def ainitWord (a b : Reg) : WordFn := withPlot (fun c p s =>
  match s.awtOff p c.who a 16 with
  | .error r => (s, r)
  | .ok off =>
    (((s.setSpadWord p off (low32 p c.who b)).setSpadWord p (off + 4) 0#32).setSpadWord p (off + 12) 0#32, .done))

/-- AWAIT. -/
def awaitWord (d a b : Reg) : WordFn := awtWord a 16 8 4 (fun c p off s =>
  let t := low32 p c.who b
  if s.awaited p off t then
    (s.modPlot c.plot (fun q => q.modRegs (fun g => g.setR c.who d .z32 (s.spadWord p (off + 8)))), .done)
  else (s, .block (.await off t)))

/-- AADD: a release at plot scope. -/
def aaddWord (a b : Reg) : WordFn := awtWord a 16 0 12 (fun c p off s =>
  if !p.drained c.who then (s, .hold .stall)
  else (s.arriveWord p off (low32 p c.who b).toNat, .done))

/-- The checks of RINIT on +0 to +8 (Table 9-19): the fields' limits, and every slot within the context's part. [DEDUCED: log entry 38] -/
def State.ringOk (s : State) (p : Plot) (off : Nat) : Bool :=
  let base := (s.spadWord p off).toNat
  let size := (s.spadWord p (off + 4)).toNat
  let n := (s.spadWord p (off + 8)).toNat
  decide (base % 16 = 0) && decide (size % 16 = 0) && decide (16 ≤ size) && decide (size ≤ 65536) && decide (1 ≤ n) &&
    decide (n ≤ 4096) && (s.spadLoc p.pav p.ctx base (size * n)).isSome

/-- RINIT. [DEDUCED: log entry 38] -/
def rinitWord (d a : Reg) : WordFn := awtWord a 32 0 12 (fun c p off s =>
  let ok := s.ringOk p off
  let s1 := if ok then
      ((s.setSpadWord p (off + 12) 0#32).setSpadWord p (off + 16) 0#32).setSpadWord p (off + 20) 0#32
    else s
  (s1.modPlot c.plot (fun p => p.modRegs (fun g => g.barResult c.who d (if ok then 0#32 else 1#32) ok)), .done))

/-- Whether RWAITF's wait is over: a filled slot remains, or the status is non-zero. -/
def State.ringReady (s : State) (p : Plot) (off : Nat) : Bool :=
  s.spadWord p (off + 12) != s.spadWord p (off + 16) || (s.spadWord p (off + 20)) &&& 0xFF#32 != 0#32

/-- RWAITF. -/
def rwaitfWord (d a : Reg) : WordFn := awtWord a 32 0 24 (fun c p off s =>
  let wi := s.spadWord p (off + 12)
  let ri := s.spadWord p (off + 16)
  let n := (s.spadWord p (off + 8)).toNat
  if wi ≠ ri then
    let slot := s.spadWord p off + BitVec.ofNat 32 ((s.spadWord p (off + 4)).toNat * (ri.toNat % n))
    (s.modPlot c.plot (fun p => p.modRegs (fun g => g.barResult c.who d slot true)), .done)
  else if s.ringReady p off then (s.modPlot c.plot (fun p => p.modRegs (fun g => g.setFlag c.who 0#2 false)), .done)
  else (s, .block (.ring off)))

/-- RREL. -/
def rrelWord (a : Reg) : WordFn := awtWord a 32 12 8 (fun c p off s =>
  let ri := s.spadWord p (off + 16)
  let ok := ri != s.spadWord p (off + 12)
  let s1 := if ok then s.setSpadWord p (off + 16) (ri + 1#32) else s
  (s1.modPlot c.plot (fun p => p.modRegs (fun g => g.setFlag c.who 0#2 ok)), .done))

/-- RSTAT. -/
def rstatWord (d a : Reg) : WordFn := awtWord a 32 12 12 (fun c p off s =>
  let x := ((s.spadWord p (off + 12) - s.spadWord p (off + 16)) &&& 0xFFFF#32) |||
    ((s.spadWord p (off + 20) &&& 0xFF#32) <<< 16)
  (s.modPlot c.plot (fun p => p.modRegs (fun g => g.setR c.who d .z32 x)), .done))

/-! ### SYSI (R317–R321) -/

/-- TRAP and BRK: the class, with srTVAL the number (R318). -/
def trapWord (cls : TrapClass) (n : BitVec 6) : WordFn := fun _ s => (s, .trap cls 0 (n.setWidth 64))

/-- The nearest clause header below an offset, as far as a clause reaches (R319). [DEDUCED: log entry 33] -/
def State.headerBelow (s : State) (p : Plot) (off : Word) : Nat → Got (Option Word)
  | 0 => .ok ⟨none, [], s⟩
  | n + 1 =>
    if off = 0#32 then .ok ⟨none, [], s⟩
    else
      match s.mapBit p (off - 4#32) with
      | .error h => .error h
      | .ok m =>
        if !m.notes.isEmpty then .ok ⟨none, m.notes, m.s⟩
        else if m.val then .ok ⟨some (off - 4#32), [], m.s⟩
        else m.s.headerBelow p (off - 4#32) n

/-- ERET (R319): to a clause header as at any entry, or to a word within the clause below which it stands. An error in what it reads
of the code is reported at srTPC, out of handler mode (16_recovery.md R392). [DEDUCED: log entry 33; DESIGN CHOICE: log entry 130] -/
def eretWord : WordFn := withPlot (fun c p s =>
  match p.agent? c.who with
  | none => (s, .left)
  | some a =>
    let bad := illegal 1 (a.tpc.setWidth 64)
    let leave := fun (s : State) (l : List (Nat × DWord)) =>
      ((s.modPlot c.plot (fun p => p.modRegs (fun g => g.leaveHandler c.who a.tpc))).raiseNotes c.plot c.who l, Res.left)
    if !a.handler then (s, illegalEntry c.word64)
    else if !s.offsetOk p a.tpc then (s, bad)
    else
      match s.mapBit p a.tpc with
      | .error h => (s, .hold h)
      | .ok m =>
        if m.val || !m.notes.isEmpty then leave m.s m.notes
        else
          match m.s.headerBelow p a.tpc 15 with
          | .error h => (s, .hold h)
          | .ok b =>
            match b.val with
            | none => if b.notes.isEmpty then (s, bad) else leave b.s b.notes
            | some hpc =>
              match b.s.codeWord p hpc with
              | .error h => (s, .hold h)
              | .ok hw =>
                let cl : Clause := ⟨hpc, hw.val⟩
                if !hw.notes.isEmpty then leave hw.s hw.notes
                else if cl.stop ≤ a.tpc.toNat then (s, bad)
                else (hw.s.modPlot c.plot (fun p => p.modRegs (fun g => g.leaveHandlerAt c.who a.tpc cl)), .left))

/-- RKSET (R320): the key copy of the launch or trellis the plot belongs to. -/
def rksetWord (a : Reg) (i : BitVec 2) : WordFn := withPlot (fun c p s =>
  let x := p.regs.wide c.who a
  match p.origin with
  | .grid => (s.modLaunch p.launch (fun l => { l with rk := l.rk.set i.toNat x i.isLt }), .done)
  | .stage _ _ => (s.modTrellis p.launch (fun t => { t with rk := t.rk.set i.toNat x i.isLt }), .done))

/-! ### The words -/

/-- BAR.INIT. -/
def execBarInit (a : Reg) (n : BitVec 4) (s : State) : Host.Outcome State Fault Refusal := runWord (.barInit a n) (barInitWord a n) s

/-- BAR.ARRIVE. -/
def execBarArrive (d : Reg) (n : BitVec 4) (s : State) : Host.Outcome State Fault Refusal := runWord (.barArrive d n) (barArriveWord d n) s

/-- BAR.WAIT. -/
def execBarWait (d : Reg) (n : BitVec 4) (s : State) : Host.Outcome State Fault Refusal := runWord (.barWait d n) (barWaitWord d n) s

/-- BAR.SYNC. -/
def execBarSync (d : Reg) (n : BitVec 4) (s : State) : Host.Outcome State Fault Refusal := runWord (.barSync d n) (barSyncWord d n) s

/-- BAR.INVAL. -/
def execBarInval (n : BitVec 4) (s : State) : Host.Outcome State Fault Refusal := runWord (.barInval n) (barInvalWord n) s

/-- BAR.QUERY. -/
def execBarQuery (d : Reg) (n : BitVec 4) (s : State) : Host.Outcome State Fault Refusal := runWord (.barQuery d n) (barQueryWord d n) s

/-- AINIT. -/
def execAinit (a b : Reg) (s : State) : Host.Outcome State Fault Refusal := runWord (.ainit a b) (ainitWord a b) s

/-- AWAIT. -/
def execAwait (d a b : Reg) (s : State) : Host.Outcome State Fault Refusal := runWord (.await d a b) (awaitWord d a b) s

/-- AADD. -/
def execAadd (a b : Reg) (s : State) : Host.Outcome State Fault Refusal := runWord (.aadd a b) (aaddWord a b) s

/-- RINIT. -/
def execRinit (d a : Reg) (s : State) : Host.Outcome State Fault Refusal := runWord (.rinit d a) (rinitWord d a) s

/-- RWAITF. -/
def execRwaitf (d a : Reg) (s : State) : Host.Outcome State Fault Refusal := runWord (.rwaitf d a) (rwaitfWord d a) s

/-- RREL. -/
def execRrel (a : Reg) (s : State) : Host.Outcome State Fault Refusal := runWord (.rrel a) (rrelWord a) s

/-- RSTAT. -/
def execRstat (d a : Reg) (s : State) : Host.Outcome State Fault Refusal := runWord (.rstat d a) (rstatWord d a) s

/-- TRAP. -/
def execTrap (n : BitVec 6) (s : State) : Host.Outcome State Fault Refusal := runWord (.trap n) (trapWord .trap n) s

/-- BRK. -/
def execBrk (n : BitVec 6) (s : State) : Host.Outcome State Fault Refusal := runWord (.brk n) (trapWord .brk n) s

/-- ERET. -/
def execEret (s : State) : Host.Outcome State Fault Refusal := runWord .eret eretWord s

/-- RKSET. -/
def execRkset (a : Reg) (i : BitVec 2) (s : State) : Host.Outcome State Fault Refusal := runWord (.rkset a i) (rksetWord a i) s

/-- UD: ILLEGAL, row 10 of Table 2-11 (R321). -/
def execUd (s : State) : Host.Outcome State Fault Refusal := runWord .ud (fun c s => (s, illegal 10 c.word64)) s

end Sys2Proof.Machine
end

