-- ==== Sys2Proof/Machine/Versions.lean ====
section
/-! DEFINITION. Versioned pages: the version unit (08_views_versions.md R204–R213), LDV (09_memory_copy_instructions.md R221,
R210, R211) and VER (R228). -/

namespace Sys2Proof.Machine

/-! ### The progress group's view -/

/-- m, where some member is LIVE (13_trellis_progress.md R336). -/
def Group.min? (g : Group) : Option Nat := if g.members.any (fun m => m.state == .live) then some g.m.toNat else none

/-- The registered group a region names, if there is one. [DESIGN CHOICE: log entry 131] -/
def State.regionGroup (s : State) (r : VRegion) : Option Group := s.group? r.ctx r.group

/-- Whether a step is below m − L (R207). -/
def State.belowBound (s : State) (r : VRegion) (step : DWord) : Bool :=
  match s.regionGroup r with
  | none => false
  | some g =>
    match g.min? with
    | some m => decide (step.toNat + g.lead < m)
    | none => false

/-! ### The version table -/

def VRegion.pageOf (r : VRegion) (va : Nat) : Nat := (va - r.nameBase) / 65536

def VRegion.entry (r : VRegion) (p : Nat) : VPage :=
  (r.entries.find? (fun e => e.page == p)).getD ⟨p, none, List.replicate r.z ⟨.free, 0#64⟩⟩

def VRegion.setEntry (r : VRegion) (e : VPage) : VRegion :=
  { r with entries := e :: r.entries.filter (fun x => x.page != e.page) }

def State.setVEntry (s : State) (num : Nat) (e : VPage) : State :=
  { s with vregs := modifyWhere (fun r => r.num == num) (fun r => r.setEntry e) s.vregs }

/-- The virtual address of slot k of page p (R203). -/
def VRegion.slotAddr (r : VRegion) (p k : Nat) : Nat := r.slotVa + (p * r.z + k) * 65536

/-- The newest committed version of a page: its slot and step. -/
def VPage.newest (e : VPage) : Option (Nat × DWord) :=
  (e.slots.zipIdx).foldl (fun (m : Option (Nat × DWord)) x =>
    if x.1.state = .committed then
      match m with
      | some y => if y.2.toNat ≤ x.1.step.toNat then some (x.2, x.1.step) else some y
      | none => some (x.2, x.1.step)
    else m) none

/-- Whether an LDV that resolved to the slot is still reading it (R211). -/
def State.pinned (s : State) (num page slot : Nat) : Bool :=
  s.plots.any (fun p => p.real.agents.any (fun x => x.2.loads.any (fun l =>
    match l.kind with
    | .versioned r q k => r == num && q == page && k == slot
    | _ => false)))

/-- Reclaimable (R207). -/
def State.reclaimable (s : State) (r : VRegion) (e : VPage) (k : Nat) (x : VSlot) : Bool :=
  x.state == .committed && s.belowBound r x.step && !(match e.newest with | some n => n.1 == k | none => false) &&
    !s.pinned r.num e.page k

/-- The slot a VOPEN would take: the lowest-numbered that is FREE or reclaimable (Table 8-5). -/
def State.slotFor (s : State) (r : VRegion) (e : VPage) : Option Nat :=
  ((e.slots.zipIdx).find? (fun x => x.1.state == .free || s.reclaimable r e x.2 x.1)).map (fun x => x.2)

/-- Whether a step is at or below H. -/
def VPage.opened (e : VPage) (step : DWord) : Bool := match e.h with | some h => decide (step.toNat ≤ h.toNat) | none => false

/-- The region of the plot's context that a name address lies in; ILLEGAL otherwise (R204). -/
def State.nameAt (s : State) (p : Plot) (name : DWord) : Except Res VRegion :=
  match s.nameRange p.ctx name.toNat with
  | some r => .ok r
  | none => .error (illegalEntry name)

/-- An uncorrectable error in the page's table entry (R206). -/
def State.entryBad (s : State) (r : VRegion) (page : Nat) : Option Loc :=
  (s.firstBad ⟨.dev, r.table + 128 * page⟩ 128).map (fun i => ⟨.dev, r.table + 128 * page + i⟩)

/-! ### Resolution (Table 8-6) -/

/-- What a version resolves to: a slot, a wait, or STALE. -/
inductive Resolved where
  | slot (k : Nat)
  | wait
  | stale
  deriving DecidableEq, Repr

/-- NEWEST and NOWAIT: the newest committed version, where its step is at least M. -/
def VPage.atLeast (e : VPage) (m : DWord) : Option Nat :=
  match e.newest with
  | some (k, t) => if m.toNat ≤ t.toNat then some k else none
  | none => none

/-- EXACT. -/
def State.exactly (s : State) (r : VRegion) (e : VPage) (m : DWord) : Resolved :=
  match (e.slots.zipIdx).find? (fun x => x.1.state == .committed && x.1.step == m) with
  | some x => .slot x.2
  | none =>
    if s.belowBound r m then .stale
    else if e.opened m ∧ !(e.slots.any (fun x => x.state != .free && x.step == m)) then .stale
    else .wait

def State.resolve (s : State) (r : VRegion) (e : VPage) (m : DWord) (exact : Bool) : Resolved :=
  if exact then s.exactly r e m else match e.atLeast m with | some k => .slot k | none => .wait

/-- Whether a waiting VOPEN or LDV would go on if it were issued again. -/
def State.versionReady (s : State) (p : Plot) (name step : DWord) (opens exact : Bool) : Bool :=
  match s.nameRange p.ctx name.toNat with
  | none => true
  | some r =>
    let e := r.entry (r.pageOf name.toNat)
    if opens then e.opened step || (s.slotFor r e).isSome else s.resolve r e step exact != .wait

/-! ### LDV -/

/-- The read of a resolved slot: range locks, translation, and the load itself. -/
def State.issueVersioned (s : State) (p : Plot) (w : Who) (a : Agent) (d : Reg) (n : Nat) (sc : Scope) (r : VRegion) (page k off : Nat) :
    State × Res :=
  let va := BitVec.ofNat 64 (r.slotAddr page k + off)
  match s.lockHit p va n none false with
  | some x => (s, .trap .range 0 x)
  | none =>
    match s.reachPieces p false [((va, n), none)] with
    | .error e => (s, e)
    | .ok y =>
      if 32 ≤ a.loads.length then (s, .hold .stall)
      else
        let l := mkLoad a p w (.versioned r.num page k) d n y.parts va sc true false y.mchk
        let s1 := y.s.modPlot p.id (fun p => p.modRegs (fun g => g.setFlag w 0#2 true))
        s1.issueLoad p w l

/-- A version operation that reads an entry with an uncorrectable error: MCHK (R206). What it returns is not stated. [DESIGN CHOICE: log entry 25] -/
def State.entryError (s : State) (p : Plot) (w : Who) (l : Loc) (name : DWord) (put : Regs → DWord → Regs) : State × Res :=
  let x := Config.freeWord s.free
  let f := (Config.freeWord (s.free + 1)).getLsbD 0
  let s1 := { s with free := s.free + 2 }.modPlot p.id (fun p => p.modRegs (fun g => put (g.setFlag w 0#2 f) x))
  (((s1.logError l 6).raiseMchk p.id w 6 name), .done)

/-- LDV (R221). -/
def ldvWord (d a b : Reg) (z : Size) (sc : Scope) (m : LdvMode) : WordFn :=
  withPlot (fun c p s =>
    match p.agent? c.who with
    | none => (s, .left)
    | some ag =>
      let n := sizeBytes z
      let name := p.regs.wide c.who a
      let step := p.regs.zx c.who b
      match s.nameAt p name with
      | .error r => (s, r)
      | .ok r =>
        if name.toNat % n ≠ 0 then (s, illegalEntry name)
        else
          let page := r.pageOf name.toNat
          match s.entryBad r page with
          | some l => s.entryError p c.who l name (fun g x => g.writeLoaded c.who ag.handler d ((streamOf c.who == .lane) && n == 8) x.toNat)
          | none =>
            let e := r.entry page
            match s.resolve r e step (m == .exact) with
            | .slot k => s.issueVersioned p c.who ag d n sc r page k ((name.toNat - r.nameBase) % 65536)
            | .stale => (s, .trap .stale 0 name)
            | .wait =>
              if m = .nowait then (s.modPlot c.plot (fun p => p.modRegs (fun g => g.setFlag c.who 0#2 false)), .done)
              else (s, .block (.version name step false (m == .exact))))

/-! ### VER -/

/-- The operation on a page's entry, after the checks of R204 and R206. -/
def verWord (a : Reg) (put : Cx → Regs → DWord → Regs) (f : Cx → Plot → VRegion → VPage → DWord → State → State × Res) : WordFn :=
  withPlot (fun c p s =>
    let name := p.regs.wide c.who a
    match s.nameAt p name with
    | .error r => (s, r)
    | .ok r =>
      let page := r.pageOf name.toNat
      match s.entryBad r page with
      | some l => s.entryError p c.who l name (put c)
      | none => f c p r (r.entry page) name s)


/-- VOPEN. -/
def vopenWord (d a b : Reg) : WordFn :=
  verWord a (fun c g x => g.setWide c.who d x) (fun c p r e name s =>
    let step := p.regs.zx c.who b
    let put := fun (s : State) (x : DWord) (ok : Bool) =>
      s.modPlot c.plot (fun p => p.modRegs (fun g => (g.setWide c.who d x).setFlag c.who 0#2 ok))
    if e.opened step then (put s 0#64 false, .done)
    else
      match s.slotFor r e with
      | none => (s, .block (.version name step true false))
      | some k =>
        let s1 := s.setVEntry r.num { e with h := some step, slots := e.slots.set k ⟨.opened, step⟩ }
        (put s1 (BitVec.ofNat 64 (r.slotAddr e.page k)) true, .done))

/-- The OPEN slot of a page that holds a step. -/
def VPage.openSlot (e : VPage) (step : DWord) : Option Nat :=
  ((e.slots.zipIdx).find? (fun x => x.1.state == .opened && x.1.step == step)).map (fun x => x.2)

/-- VCOMMIT and VRETIRE: the OPEN slot of the step goes to a new state. -/
def closeSlot (b : Reg) (goal : SlotState) (c : Cx) (p : Plot) (r : VRegion) (e : VPage) (s : State) : State × Res :=
  let step := p.regs.zx c.who b
  let flag := fun (s : State) (ok : Bool) => s.modPlot c.plot (fun p => p.modRegs (fun g => g.setFlag c.who 0#2 ok))
  match e.openSlot step with
  | none => (flag s false, .done)
  | some k => (flag (s.setVEntry r.num { e with slots := e.slots.set k ⟨goal, step⟩ }) true, .done)

/-- VCOMMIT: a release at its scope. -/
def vcommitWord (a b : Reg) (sc : Scope) : WordFn :=
  verWord a (fun _ g _ => g) (fun c p r e _ s =>
    if !p.drained c.who then (s, .hold .stall) else closeSlot b .committed c p r e (s.releaseAt p.pav sc))

/-- VQUERY (R212). -/
def vqueryWord (d a : Reg) : WordFn :=
  verWord a (fun c g x => g.setWide c.who d x) (fun c _ _ e _ s =>
    let x := match e.newest with | some n => n.2 | none => 0xFFFFFFFFFFFFFFFF#64
    (s.modPlot c.plot (fun p => p.modRegs (fun g => (g.setWide c.who d x).setFlag c.who 0#2 e.newest.isSome)), .done))

/-- VRETIRE. -/
def vretireWord (a b : Reg) : WordFn := verWord a (fun _ g _ => g) (fun c p r e _ s => closeSlot b .free c p r e s)

/-! ### The words and the event -/

/-- LDV. -/
def execLdv (d a b : Reg) (z : Size) (sc : Scope) (m : LdvMode) (s : State) : Host.Outcome State Fault Refusal :=
  runWord (.ldv d a b z sc m) (ldvWord d a b z sc m) s

/-- VOPEN. -/
def execVopen (d a b : Reg) (s : State) : Host.Outcome State Fault Refusal := runWord (.vopen d a b) (vopenWord d a b) s

/-- VCOMMIT. -/
def execVcommit (a b : Reg) (sc : Scope) (s : State) : Host.Outcome State Fault Refusal := runWord (.vcommit a b sc) (vcommitWord a b sc) s

/-- VQUERY. -/
def execVquery (d a : Reg) (s : State) : Host.Outcome State Fault Refusal := runWord (.vquery d a) (vqueryWord d a) s

/-- VRETIRE. -/
def execVretire (a b : Reg) (s : State) : Host.Outcome State Fault Refusal := runWord (.vretire a b) (vretireWord a b) s

/-- The silence timer of the group of the region a waiting version word names; a region whose group is not registered has none, and its
waits do not end in STALE. [DESIGN CHOICE: log entry 131] -/
def State.silenceOf (s : State) (p : Plot) (name : DWord) : Option Nat :=
  match s.nameRange p.ctx name.toNat with
  | some r => (s.regionGroup r).map Group.silence
  | none => none

/-- VERSION_WAIT_TIMEOUT (R208, Table 8-6): a wait that still lasts reaches the silence timer, in resident cycles of the pavilion. [DEDUCED: log entry 41] -/
def execVersionWaitTimeout (plot : Nat) (who : Who) (s : State) : Host.Outcome State Fault Refusal :=
  match s.plot? plot with
  | none => .next s
  | some p =>
    match p.agent? who with
    | none => .next s
    | some a =>
      match a.phase, a.wait with
      | .blocked, .version name step opens exact =>
        match s.silenceOf p name with
        | none => .next s
        | some t =>
          if p.awake ∧ a.blockedAt + t ≤ s.cycles p.pav ∧ s.versionReady p name step opens exact = false then
            .next ((s.recordTrap plot who ⟨.stale, 0, name, a.pc, true⟩).finish plot)
          else .next s
      | _, _ => .next s

end Sys2Proof.Machine
end

