-- ==== Sys2Proof/Machine/Matrix.lean ====
section
/-! DEFINITION. The matrix engine (05_matrix_engine.md R112–R134, R139, R141): tiles, operand words and their checks, range
locks of engine operations (07_ordering_model.md R180, R182), MMA, MMAG and MTL at issue, and a tile operation as the engine
performs it. DRAIN stands with the copies. -/

namespace Sys2Proof.Machine

/-! ### Range locks (R180, R182) -/

def lockEntries : Nat := 64

def State.lockRoom (s : State) (pav n : Nat) : Bool := decide ((s.pav pav).locks.length + n ≤ lockEntries)

/-- Register the ranges of an operation: sources and destinations. -/
def State.addLocks (s : State) (p : Plot) (op : Nat) (l : List (Bool × Range)) : State :=
  s.modPav p.pav (fun v => { v with locks := v.locks ++ l.map (fun x => ⟨p.ctx, p.id, op, x.1, x.2⟩) })

def Lock.of (p : Plot) (op : Nat) (l : Lock) : Bool := l.plot == p.id && l.op == op

def State.dropLocks (s : State) (p : Plot) (op : Nat) : State :=
  s.modPav p.pav (fun v => { v with locks := v.locks.filter (fun l => !l.of p op) })

/-- Whether a source of the operation overlaps a destination that an earlier operation of the context still holds (R182). -/
def State.lockWait (s : State) (p : Plot) (op : Nat) : Bool :=
  let all := (s.pav p.pav).locks
  let earlier := (all.takeWhile (fun l => !l.of p op)).filter (fun l => l.ctx == p.ctx && l.dst)
  (all.filter (fun l => l.of p op && !l.dst)).any (fun l => earlier.any (fun e => e.range.meets l.range))

/-! ### Spans of a local window -/

/-- n bytes at a window offset, in parts that each lie in one pavilion; at most nine. -/
def State.windowParts (s : State) (p : Plot) (key : Option Nat) (w : Win) : Nat → Nat → Nat → Option (List (Loc × Nat))
  | 0, _, _ => none
  | fuel + 1, off, n =>
    let k := if w = .gsm then spadBytes - off % spadBytes else n
    if n ≤ k then (s.windowLoc p key w off n).map (fun l => [(l, n)])
    else
      match s.windowLoc p key w off k, s.windowParts p key w fuel (off + k) (n - k) with
      | some a, some l => some ((a, k) :: l)
      | _, _ => none

def State.windowSpan (s : State) (p : Plot) (w : Win) (off n : Nat) : Option (List (Loc × Nat)) := s.windowParts p none w 9 off n

/-- The bytes of a span as memory holds them. -/
def State.spanBytes (s : State) (l : List (Loc × Nat)) : List Byte :=
  l.flatMap (fun x => cellsGet (s.mem.cells x.1.space) x.1.addr x.2)

/-- The lock on the window bytes from lo to hi. -/
def State.windowRange (s : State) (p : Plot) (w : Win) (lo hi : Nat) : List Range :=
  match s.windowLoc p none w lo 1, s.windowLoc p none w hi 1 with
  | some a, some b => [.local a.space a.addr b.addr]
  | _, _ => []

/-! ### Operand words (R116, R117) -/

def opSel (x : DWord) : Nat := (x >>> 62).toNat % 4
def opMsk (x : DWord) : Bool := x.getLsbD 61
def opWin (x : DWord) : Win := if x.getLsbD 60 then .gsm else .spad
def opPitch (x : DWord) : Nat := 16 * ((x >>> 48).toNat % 2 ^ 12)
def opScales (x : DWord) : Nat := 16 * ((x >>> 30).toNat % 2 ^ 18)
def opData (x : DWord) : Nat := 16 * ((x >>> 12).toNat % 2 ^ 18)
def opRsv (x : DWord) : Nat := x.toNat % 2 ^ 12
def opMask (x : DWord) : Nat := opScales x + 4096

/-- Where stored row j of the data and its scale slots start. -/
def opRow (x : DWord) (j : Nat) : Nat := opData x + opPitch x * j
def opSlot (x : DWord) (j : Nat) : Nat := opScales x + 64 * j

/-- The element formats of a pair (Table 5-2): pair 8 is S8 × S8. -/
def pairFmts (p : Pair) : Option (Fmt × Fmt) :=
  match p.val with
  | 0 => some (.e2m1, .e2m1)
  | 1 => some (.e4m3, .e4m3)
  | 2 => some (.e5m2, .e5m2)
  | 3 => some (.e4m3, .e5m2)
  | 4 => some (.e5m2, .e4m3)
  | 5 => some (.e4m3, .e2m1)
  | 6 => some (.bf16, .bf16)
  | 7 => some (.f16, .f16)
  | _ => none

def pairMx (p : Pair) : Bool := decide (p.val ≤ 5)
def pairS32 (p : Pair) : Bool := p.val == 8

/-- Nibbles of an element of the A side, or of the B side. -/
def pairNibbles (p : Pair) (b : Bool) : Nat :=
  match p.val with
  | 0 => 1
  | 5 => if b then 1 else 2
  | 6 | 7 => 4
  | _ => 2

/-- Bytes of a block of 32 elements, and of a row. -/
def blockBytes (p : Pair) (b : Bool) : Nat := 16 * pairNibbles p b
def rowBytes (p : Pair) (b : Bool) (kb : Nat) : Nat := blockBytes p b * kb

/-- The fields of an operand word (R116, R117). -/
def operandFields (pair : Pair) (b : Bool) (kb : Nat) (x : DWord) (gathered : Bool) : Bool :=
  opRsv x == 0 && (pairMx pair || opSel x == 0) && (!gathered || !opMsk x) && opPitch x != 0 && decide (rowBytes pair b kb ≤ opPitch x)

/-- A stored row, with its scale slots, lies in the context's part (R118). -/
def State.rowOk (s : State) (p : Plot) (pair : Pair) (b : Bool) (kb : Nat) (x : DWord) (j : Nat) : Bool :=
  (s.windowSpan p (opWin x) (opRow x j) (rowBytes pair b kb)).isSome &&
  (!pairMx pair || (s.windowSpan p (opWin x) (opSlot x j) (4 * kb)).isSome)

def State.maskOk (s : State) (p : Plot) (x : DWord) : Bool := !opMsk x || (s.windowSpan p (opWin x) (opMask x) 8).isSome

def State.operandOk (s : State) (p : Plot) (pair : Pair) (b : Bool) (kb : Nat) (x : DWord) : Bool :=
  operandFields pair b kb x false && (List.range 64).all (s.rowOk p pair b kb x) && s.maskOk p x

/-- A tile memory word with its 64 rows (R132). -/
def State.tileWordOk (s : State) (p : Plot) (x : DWord) : Bool :=
  opRsv x == 0 && opSel x == 0 && !opMsk x && opScales x == 0 && decide (256 ≤ opPitch x) &&
  (List.range 64).all (fun r => (s.windowSpan p (opWin x) (opRow x r) 256).isSome)

/-- The source locks of one operand (R127): its data rows, and its scale slots and mask where it reads any. -/
def State.operandLocks (s : State) (p : Plot) (pair : Pair) (b : Bool) (kb : Nat) (x : DWord) (rows : List Nat) : List (Bool × Range) :=
  match rows with
  | [] => []
  | j :: _ =>
    let lo := rows.foldl min j
    let hi := rows.foldl max j
    let data := s.windowRange p (opWin x) (opRow x lo) (opRow x hi + rowBytes pair b kb - 1)
    let slots := if pairMx pair then [opSlot x lo, opSlot x hi + 4 * kb - 1] else []
    let mask := if opMsk x then [opMask x, opMask x + 7] else []
    let side := match slots ++ mask with
      | [] => []
      | y :: l => s.windowRange p (opWin x) (l.foldl min y) (l.foldl max y)
    (data ++ side).map (fun r => (false, r))

/-! ### Tiles (R112, R114) -/

def Tile.zero : Tile := ⟨none, [], []⟩

/-- A physical tile of a pavilion. [DEDUCED: log entry 60] -/
def State.physTile (s : State) (pav k : Nat) : Tile := (((s.pav pav).tiles.find? (fun x => x.1 == k)).map (fun x => x.2)).getD Tile.zero

def State.setPhysTile (s : State) (pav k : Nat) (t : Tile) : State :=
  s.modPav pav (fun v => { v with tiles := (k, t) :: v.tiles.filter (fun x => x.1 != k) })

def State.tile (s : State) (p : Plot) (n : Nat) : Tile := s.physTile p.pav (p.tiles.getD n 0)

def State.setTile (s : State) (p : Plot) (n : Nat) (t : Tile) : State := s.setPhysTile p.pav (p.tiles.getD n 0) t

/-- The elements of a tile, in order 64 × row + column. -/
def Tile.dense (t : Tile) : Array Word := t.bits.foldl (fun a x => a.setIfInBounds x.1 x.2) (Array.replicate 4096 0#32)

/-- The tile with the elements f gives. -/
def Tile.withBits (t : Tile) (f : Nat → Word) : Tile :=
  { t with bits := (List.range 4096).filterMap (fun k => if f k = 0#32 then none else some (k, f k)) }

/-- What an element whose computation read bad bytes holds (R141). -/
def badElem (s32 : Bool) : Word := if s32 then 0x80000000#32 else canonicalNaN32

/-- The tile with the elements f gives, and the bad pattern where `bad` says so. -/
def Tile.write (t : Tile) (s32 : Bool) (f : Nat → Word) (bad : Nat → Bool) : Tile :=
  t.withBits (fun k => if bad k then badElem s32 else f k)

def Plot.tileS32At (p : Plot) (n : Nat) : Bool := p.tileS32.getD n false

def tileTag (s32 : Bool) : Tag := if s32 then .s32 else .f32

/-- Tile numbers within the plot's allocation (R51, R112). -/
def tilesIn (p : Plot) (l : List Reg) : Bool := l.all (fun r => decide (r.toNat < p.tiles.length))

/-- FORMAT for a tile: its number and its tag (R131, R133). -/
def tileFormat (p : Plot) (r : Reg) : Res := .trap .format 0 (formatTval r (tileTag (p.tileS32At r.toNat)) Tag.code)

/-! ### Issue -/

/-- Issue a tile operation once there is room (R127, R128, R183): a stall otherwise. -/
def State.issueTile (s : State) (p : Plot) (w : Who) (kind : TileKind) (locks : List (Bool × Range)) (d : Nat) (s32 : Bool) : State × Res :=
  if !p.drained w || decide (8 ≤ p.tops.length) || !s.lockRoom p.pav locks.length then (s, .hold .stall)
  else
    let s1 := s.addLocks p p.nextOp locks
    (s1.modPlot p.id (fun p =>
      { p with tops := p.tops ++ [⟨p.nextOp, kind, 0, 0#5⟩], nextOp := p.nextOp + 1, tileS32 := p.tileS32.set d s32 }), .done)

/-- MMA (R131): where both operand words offend, the A word is reported. [DESIGN CHOICE: log entry 135] -/
def mmaWord (d a b : Reg) (pair : Pair) (k : BitVec 4) : WordFn :=
  withPlot (fun c p s =>
    let kb := k.toNat + 1
    let x := p.regs.zx c.who a
    let y := p.regs.zx c.who b
    if !tilesIn p [d] then (s, illegal 8 c.word64)
    else if !s.operandOk p pair false kb x then (s, illegalEntry x)
    else if !s.operandOk p pair true kb y then (s, illegalEntry y)
    else if p.tileS32At d.toNat != pairS32 pair then (s, tileFormat p d)
    else
      let rows := List.range 64
      s.issueTile p c.who (.mma d.toNat x y none pair kb)
        (s.operandLocks p pair false kb x rows ++ s.operandLocks p pair true kb y rows) d.toNat (pairS32 pair))

/-- The place of the first bad byte of a window span, with its location. -/
def State.badSpan (s : State) (p : Plot) (w : Win) (off n : Nat) : Option (Nat × Loc) :=
  match s.windowSpan p w off n with
  | some l => (s.badPart 0 l).map (fun x => (off + x.1, x.2))
  | none => none

/-- The index list of an MMAG (R122): none where its word is malformed or it does not lie in the context's part. An entry with an
uncorrectable error has no stated value. [DEDUCED: log entry 63; DESIGN CHOICE: log entry 134] -/
def State.indexList (s : State) (p : Plot) (x : DWord) : Option (List Nat) :=
  if x >>> 19 ≠ 0#64 ∨ x.toNat % 2 ≠ 0 then none
  else (s.windowSpan p .spad x.toNat 128).map (fun l =>
    let bytes := s.spanBytes l
    (List.range 64).map (fun i =>
      match s.badSpan p .spad (x.toNat + 2 * i) 2 with
      | some b => (Config.badSpad b.2.addr).toNat % 65536
      | none => leNat ((bytes.drop (2 * i)).take 2)))

/-- Report a bad byte to the front thread (R141). -/
def State.reportBad (s : State) (p : Plot) (x : Option (Nat × Loc)) : State :=
  match x with
  | some (off, l) => (s.logError l 3).raiseMchk p.id .front 3 (BitVec.ofNat 64 off)
  | none => s

/-- MMAG (R122, R131): the list is read once the front thread's earlier accesses are performed (07_ordering_model.md R183). [DEDUCED: log entry 63] -/
def mmagWord (d a b : Reg) (pair : Pair) (k : BitVec 4) : WordFn :=
  withPlot (fun c p s =>
    let kb := k.toNat + 1
    let x := p.regs.zx c.who a
    let li := p.regs.zx c.who (regPlus a 1)
    let y := p.regs.zx c.who b
    if !tilesIn p [d] then (s, illegal 8 c.word64)
    else if !operandFields pair false kb x true then (s, illegalEntry x)
    else if !p.drained c.who then (s, .hold .stall)
    else
      match s.indexList p li with
      | none => (s, illegalEntry li)
      | some idx =>
        match (List.range 64).find? (fun i => idx.getD i 0 != 0xFFFF && !s.rowOk p pair false kb x (idx.getD i 0)) with
        | some i => (s, illegalEntry (BitVec.ofNat 64 (li.toNat + 2 * i)))
        | none =>
          if !s.operandOk p pair true kb y then (s, illegalEntry y)
          else if p.tileS32At d.toNat != pairS32 pair then (s, tileFormat p d)
          else
            (s.reportBad p (s.badSpan p .spad li.toNat 128)).issueTile p c.who (.mma d.toNat x y (some idx) pair kb)
              (s.operandLocks p pair false kb x (idx.filter (fun j => j != 0xFFFF)) ++
                s.operandLocks p pair true kb y (List.range 64)) d.toNat (pairS32 pair))

/-- TZERO (Table 5-6). -/
def tzeroWord (d : Reg) (f32 : Bool) : WordFn :=
  withPlot (fun c p s =>
    if !tilesIn p [d] then (s, illegal 8 c.word64)
    else s.issueTile p c.who (.tzero d.toNat) [] d.toNat (!f32))

/-- The hull of the 64 rows of a tile memory word. -/
def State.tileRange (s : State) (p : Plot) (x : DWord) : List Range := s.windowRange p (opWin x) (opRow x 0) (opRow x 63 + 255)

/-- TLD (Table 5-6). -/
def tldWord (d a : Reg) (f32 : Bool) : WordFn :=
  withPlot (fun c p s =>
    let x := p.regs.zx c.who a
    if !tilesIn p [d] then (s, illegal 8 c.word64)
    else if !s.tileWordOk p x then (s, illegalEntry x)
    else s.issueTile p c.who (.tld d.toNat x (!f32)) ((s.tileRange p x).map (fun r => (false, r))) d.toNat (!f32))

/-- TST (Table 5-6): any tag. -/
def tstWord (d a : Reg) : WordFn :=
  withPlot (fun c p s =>
    let x := p.regs.zx c.who a
    let t := p.tileS32At d.toNat
    if !tilesIn p [d] then (s, illegal 8 c.word64)
    else if !s.tileWordOk p x then (s, illegalEntry x)
    else s.issueTile p c.who (.tst d.toNat x t) ((s.tileRange p x).map (fun r => (true, r))) d.toNat t)

/-- TSCAL (Table 5-6). -/
def tscalWord (d a : Reg) : WordFn :=
  withPlot (fun c p s =>
    if !tilesIn p [d] then (s, illegal 8 c.word64)
    else if p.tileS32At d.toNat then (s, tileFormat p d)
    else s.issueTile p c.who (.tscal d.toNat (low32 p c.who a)) [] d.toNat false)

/-- TADD (Table 5-6, R133, R134). -/
def taddWord (d a b : Reg) : WordFn :=
  withPlot (fun c p s =>
    let t := p.tileS32At a.toNat
    if !tilesIn p [d, a, b] then (s, illegal 8 c.word64)
    else if p.tileS32At b.toNat != t then (s, tileFormat p b)
    else s.issueTile p c.who (.tadd d.toNat a.toNat b.toNat t) [] d.toNat t)

/-! ### Accumulation (R123, R124) -/

/-- Element codes of `nib` nibbles each (R63). -/
def codesOf (nib : Nat) (l : List Byte) : List Nat :=
  (List.range (2 * l.length / nib)).map (fun i => (leNat ((l.drop (i * nib / 2)).take ((nib + 1) / 2)) >>> (4 * (i * nib % 2))) % 2 ^ (4 * nib))

/-- The value a group adds, and whether it is invalid (R124): `nanScale` for a scale of 0xFF, which makes every element NaN
(R75), `sh` = XA + XB. [DEDUCED: log entries 58, 105] -/
def groupValue (nanScale : Bool) (sh : Int) (l : List (FVal × FVal)) : FVal × Bool :=
  let prods := l.map (fun x => FVal.mul x.1 x.2)
  let zeroInf := l.any (fun x => !x.1.isNaN && !x.2.isNaN && (FVal.mul x.1 x.2).isNaN)
  if nanScale || prods.any FVal.isNaN then (.nan false, !nanScale && zeroInf)
  else
    let infs := prods.filter FVal.isInf
    match infs with
    | [] =>
      match exactSum prods with
      | .fin n m e => if m = 0 then (.fin false 0 0, false) else (.fin n m (e + sh), false)
      | v => (v, false)
    | v :: _ => if infs.all (fun u => u.neg == v.neg) then (v, false) else (.nan false, true)

/-- One addition into a tile element (R124): a NaN in the tile, signalling or not, sets no flag. [DEDUCED: log entry 136] -/
def tileAdd (t : Word) (v : FVal) : Word × Fl :=
  let x := fp32Value t
  if x.isNaN || v.isNaN then (canonicalNaN32, 0#5)
  else if x.isInf && v.isInf && x.neg != v.neg then (canonicalNaN32, Fl.nv)
  else roundFp32 .rne (FVal.add .rne x v)

/-- A list cut into groups of n. -/
def cutGroups {α : Type} (n : Nat) : Nat → List α → List (List α)
  | 0, _ => []
  | k + 1, l => l.take n :: cutGroups n k (l.drop n)

/-- One k-block of MmaElement (R124): the codes and scale of the A row and of the B row. [DEDUCED: log entry 58] -/
def mmaStep (pair : Pair) (a b : List Nat × Nat) (t : Word) : Word × Fl :=
  match pairFmts pair with
  | none =>
    let sum := (a.1.zip b.1).foldl (fun n x => n + (BitVec.ofNat 8 x.1).toInt * (BitVec.ofNat 8 x.2).toInt) 0
    (t + BitVec.ofInt 32 sum, 0#5)
  | some (f, g) =>
    let vals := (a.1.zip b.1).map (fun x => (f.value x.1, g.value x.2))
    let mx := pairMx pair
    let groups := if mx then [vals] else cutGroups 4 8 vals
    groups.foldl (fun r l =>
      let v := groupValue (mx && (a.2 == 255 || b.2 == 255)) (if mx then (a.2 : Int) - 127 + ((b.2 : Int) - 127) else 0) l
      let q := tileAdd r.1 v.1
      (q.1, r.2 ||| q.2 ||| Fl.when v.2 Fl.nv)) (t, 0#5)

/-- The stored row that supplies a row of the product; none where it is masked (R121, R122). -/
def State.suppliedRow (s : State) (p : Plot) (x : DWord) (list : Option (List Nat)) (i : Nat) : Option Nat :=
  match list with
  | some idx => if idx.getD i 0 = 0xFFFF then none else some (idx.getD i 0)
  | none =>
    if opMsk x then
      match s.windowSpan p (opWin x) (opMask x) 8 with
      | some l => if Nat.testBit (leNat (s.spanBytes l)) i then some i else none
      | none => none
    else some i

/-- The codes and the scale code of block kb of a stored row. -/
def State.blockOf (s : State) (p : Plot) (pair : Pair) (b : Bool) (x : DWord) (kb j : Nat) : List Nat × Nat :=
  let data := match s.windowSpan p (opWin x) (opRow x j + blockBytes pair b * kb) (blockBytes pair b) with
    | some l => codesOf (pairNibbles pair b) (s.spanBytes l)
    | none => []
  let scale := match s.windowSpan p (opWin x) (opSlot x j + 4 * kb + opSel x) 1 with
    | some l => leNat (s.spanBytes l)
    | none => 0
  (data, scale)

/-- One k-block of an MMA or MMAG. -/
def State.mmaBlock (s : State) (p : Plot) (d : Nat) (x y : DWord) (list : Option (List Nat)) (pair : Pair) (kb : Nat) : State × Fl :=
  let side := fun (b : Bool) (z : DWord) (l : Option (List Nat)) =>
    ((List.range 64).map (fun i => (s.suppliedRow p z l i).map (s.blockOf p pair b z kb))).toArray
  let rows := side false x list
  let cols := side true y none
  let t := s.tile p d
  let old := t.dense
  let out := ((List.range 4096).map (fun k =>
    let v := old.getD k 0#32
    match rows.getD (k / 64) none, cols.getD (k % 64) none with
    | some a, some b => mmaStep pair a b v
    | _, _ => (v, 0#5))).toArray
  (s.setTile p d (t.withBits (fun k => (out.getD k (0#32, 0#5)).1)), out.foldl (fun f r => f ||| r.2) 0#5)

/-! ### Errors in what an operation reads (R141) -/

/-- The first bad byte among the data and scales of a stored row. [DEDUCED: log entry 59] -/
def State.badRow (s : State) (p : Plot) (pair : Pair) (b : Bool) (x : DWord) (kb j : Nat) : Option (Nat × Loc) :=
  (s.badSpan p (opWin x) (opRow x j) (rowBytes pair b kb)).or
    (if pairMx pair then (List.range kb).findSome? (fun k => s.badSpan p (opWin x) (opSlot x j + 4 * k + opSel x) 1) else none)

/-- What is bad of one operand, by row of the product. [DEDUCED: log entry 59] -/
def State.badSide (s : State) (p : Plot) (pair : Pair) (b : Bool) (x : DWord) (list : Option (List Nat)) (kb : Nat) :
    List (Option (Nat × Loc)) :=
  (List.range 64).map (fun i =>
    (match s.suppliedRow p x list i with | some j => s.badRow p pair b x kb j | none => none).or
      (if opMsk x && list.isNone then s.badSpan p (opWin x) (opMask x + i / 8) 1 else none))

/-- The address that a report of an error in element k of tile n carries (R393). [DESIGN CHOICE: log entry 15] -/
def Plot.tileAddress (p : Plot) (n k : Nat) : Nat := Config.localAddress 2 ((p.pav * 16 + p.tiles.getD n 0) * 4096 + k)

/-- Report the first of the bad elements of tile n that an operation has read, in the log and to the front thread: what srTVAL holds is
not stated. [DESIGN CHOICE: log entry 24] -/
def State.reportTile (s : State) (p : Plot) (n : Nat) (bad : List Nat) : State :=
  match bad with
  | [] => s
  | k :: _ => (({ s with free := s.free + 1 } : State).logAt (p.tileAddress n k) 9).raiseMchk p.id .front 9 (Config.freeWord s.free)

/-! ### A tile operation as the engine performs it (R129) -/

/-- The bits at element (r, c) in memory, of a tile memory word. -/
def State.tileMem (s : State) (p : Plot) (x : DWord) (r : Nat) : List Word :=
  match s.windowSpan p (opWin x) (opRow x r) 256 with
  | some l =>
    let bytes := s.spanBytes l
    (List.range 64).map (fun c => BitVec.ofNat 32 (leNat ((bytes.drop (4 * c)).take 4)))
  | none => []

def State.writeSpan (s : State) (p : Plot) : List (Loc × Nat) → List Byte → State
  | [], _ => s
  | (l, n) :: rest, d => (s.engineWrite p.pav l (d.take n)).writeSpan p rest (d.drop n)

/-- An element-by-element result over a tile and its flags. -/
def tileMap (a : Array Word) (f : Nat → Word → Word × Fl) : Array Word × Fl :=
  let l := (List.range 4096).map (fun k => f k (a.getD k 0#32))
  ((l.map (fun x => x.1)).toArray, l.foldl (fun fl x => fl ||| x.2) 0#5)

/-- What a tile operation does when it runs to its end from k-block `done` on; its flags, of which those of elements that read bad bytes
come from the bytes as they are stored. An element that a masked row feeds keeps its bits (R121). [DESIGN CHOICE: log entry 133] -/
def State.runTile (s : State) (p : Plot) (o : TileOp) : State × Fl :=
  match o.kind with
  | .mma d x y list pair kb =>
    let r := ((List.range kb).drop o.done).foldl (fun (r : State × Fl) k =>
      let q := r.1.mmaBlock p d x y list pair k
      (q.1, r.2 ||| q.2)) (s, o.fl)
    let ra := s.badSide p pair false x list kb
    let rb := s.badSide p pair true y none kb
    let maskBad := fun (z : DWord) (i : Nat) => opMsk z && (s.badSpan p (opWin z) (opMask z + i / 8) 1).isSome
    let inA := fun (i : Nat) => (s.suppliedRow p x list i).isSome || (list.isNone && maskBad x i)
    let inB := fun (i : Nat) => (s.suppliedRow p y none i).isSome || maskBad y i
    let live := fun (k : Nat) => inA (k / 64) && inB (k % 64)
    let t := r.1.tile p d
    let hit := fun k => live k && (t.bad.contains k || (ra.getD (k / 64) none).isSome || (rb.getD (k % 64) none).isSome)
    let first := (ra ++ rb).findSome? id
    if first.isNone && t.bad.isEmpty then r
    else
      let bits := t.dense
      let s1 := r.1.setTile p d (t.write (pairS32 pair) (fun k => bits.getD k 0#32) hit)
      ((s1.reportBad p first).reportTile p d (t.bad.filter live), r.2)
  | .tzero d =>
    let t := s.tile p d
    (s.setTile p d { t with bits := [], bad := [] }, 0#5)
  | .tld d x s32 =>
    let t := s.tile p d
    let a := ((List.range 64).flatMap (s.tileMem p x)).toArray
    let bad := (List.range 4096).filterMap (fun k =>
      (s.badSpan p (opWin x) (opRow x (k / 64) + 4 * (k % 64)) 4).map (fun y => (k, y)))
    let s1 := s.setTile p d (({ t with bad := [] } : Tile).write s32 (fun k => a.getD k 0#32) (fun k => bad.any (fun y => y.1 == k)))
    (s1.reportBad p (bad.head?.map (fun y => y.2)), 0#5)
  | .tst d x s32 =>
    let t := s.tile p d
    let a := t.dense
    let s1 := (List.range 64).foldl (fun s r =>
      match s.windowSpan p (opWin x) (opRow x r) 256 with
      | some l => s.writeSpan p l ((List.range 64).flatMap (fun c =>
          let k := 64 * r + c
          natBytes (if t.bad.contains k then badElem s32 else a.getD k 0#32).toNat 4))
      | none => s) s
    (s1.reportTile p d t.bad, 0#5)
  | .tscal d w =>
    let t := s.tile p d
    let r := tileMap t.dense (fun _ v => fmul .rne v w)
    let s1 := s.setTile p d (t.write false (fun k => r.1.getD k 0#32) (fun k => t.bad.contains k))
    (s1.reportTile p d t.bad, r.2)
  | .tadd d a b s32 =>
    let x := s.tile p a
    let y := s.tile p b
    let t := s.tile p d
    let other := y.dense
    let r := tileMap x.dense (fun k v => if s32 then (v + other.getD k 0#32, 0#5) else fadd .rne v (other.getD k 0#32))
    let s1 := s.setTile p d (t.write s32 (fun k => r.1.getD k 0#32) (fun k => x.bad.contains k || y.bad.contains k))
    (if x.bad.isEmpty then s1.reportTile p b y.bad else s1.reportTile p a x.bad, r.2)
  | .drainRead d copy s32 zero =>
    let t := s.tile p d
    let data := t.bits.filter (fun x => !t.bad.contains x.1) ++ t.bad.map (fun k => (k, badElem s32))
    let take := fun (c : CopyRec) => match c.job with
      | .box b => { c with job := .box { b with data := data, ready := true } }
      | .fab _ => c
    let s1 := s.modPlot p.id (fun q => { q with copies := modifyWhere (fun c => c.id == copy) take q.copies })
    ((if zero then s1.setTile p d { t with bits := [] } else s1).reportTile p d t.bad, 0#5)

/-- The plot's tile operations may go on (R139, R380, R383): not in rollback, unless the plot is to halt, nor parked. -/
def Plot.tilesRun (p : Plot) : Bool :=
  p.resident && (p.run == .running || p.run == .runahead || p.halt.isSome)

/-- The first tile operation of a plot where it may run: its turn has come, its context is resident or the plot has not stopped yet
(16_recovery.md R387; R305), and no earlier destination covers its sources (R129, R130). -/
def State.tileReady (s : State) (p : Plot) : Option TileOp :=
  match p.tops with
  | [] => none
  | o :: _ => if p.tilesRun && (s.isResident p.ctx || !p.stopped || p.halt.isSome) && !s.lockWait p o.id then some o else none

/-- One k-block of the first tile operation, where that is an MMA or MMAG with more than one to go (R139). -/
def State.runBlock (s : State) (plot : Nat) : State :=
  match s.plot? plot with
  | none => s
  | some p =>
    match s.tileReady p with
    | some ⟨id, .mma d x y list pair kb, done, fl⟩ =>
      if done + 1 < kb then
        let r := s.mmaBlock p d x y list pair done
        r.1.modPlot plot (fun q => { q with tops := modifyWhere (fun o => o.id == id) (fun o => { o with done := done + 1, fl := fl ||| r.2 }) q.tops })
      else s
    | _ => s

/-- MMA. -/
def execMma (d a b : Reg) (p : Pair) (k : BitVec 4) (s : State) : Host.Outcome State Fault Refusal := runWord (.mma d a b p k) (mmaWord d a b p k) s

/-- MMAG. -/
def execMmag (d a b : Reg) (p : Pair) (k : BitVec 4) (s : State) : Host.Outcome State Fault Refusal := runWord (.mmag d a b p k) (mmagWord d a b p k) s

/-- TZERO. -/
def execTzero (d : Reg) (f32 : Bool) (s : State) : Host.Outcome State Fault Refusal := runWord (.tzero d f32) (tzeroWord d f32) s

/-- TLD. -/
def execTld (d a : Reg) (f32 : Bool) (s : State) : Host.Outcome State Fault Refusal := runWord (.tld d a f32) (tldWord d a f32) s

/-- TST. -/
def execTst (d a : Reg) (s : State) : Host.Outcome State Fault Refusal := runWord (.tst d a) (tstWord d a) s

/-- TSCAL. -/
def execTscal (d a : Reg) (s : State) : Host.Outcome State Fault Refusal := runWord (.tscal d a) (tscalWord d a) s

/-- TADD. -/
def execTadd (d a b : Reg) (s : State) : Host.Outcome State Fault Refusal := runWord (.tadd d a b) (taddWord d a b) s

end Sys2Proof.Machine
end

