-- ==== Sys2Proof/Machine/Copy.lean ====
section
/-! DEFINITION. The copy engine (09_memory_copy_instructions.md R229–R242; 05_matrix_engine.md R135–R138; 16_recovery.md R390):
the tensor layout record and its checks, the elements a copy moves, completion by arrival word, slot ring and barrier, the CPY
words and DRAIN at issue, and the delivery of one chunk. -/

namespace Sys2Proof.Machine

/-! ### The tensor layout record (Table 9-14) -/

def leField (l : List Byte) (off n : Nat) : Nat := leNat ((l.drop off).take n)

def Layout.ofBytes (l : List Byte) : Layout :=
  let w := leField l 40 8
  { base := BitVec.ofNat 64 (leField l 0 8), d0 := leField l 8 4, d1 := leField l 12 4, d2 := leField l 16 4, d3 := leField l 20 4,
    stride1 := leField l 24 4, stride2 := leField l 28 4, stride3 := leField l 32 4, box0 := leField l 36 2, box1 := leField l 38 2,
    box2 := leField l 40 2, box3 := leField l 42 2, fmt := w / 2 ^ 32 % 16, edge := w / 2 ^ 36 % 4, rk := w / 2 ^ 38 % 4,
    reserved := decide (w / 2 ^ 40 ≠ 0) || decide (leField l 56 8 ≠ 0), pitch := leField l 48 2, mofs := leField l 50 2,
    salt := BitVec.ofNat 32 (leField l 52 4) }

/-- Nibbles of one element of a format code (Table 9-15). -/
def fmtNibbles (f : Nat) : Nat :=
  match f with
  | 0 | 1 | 2 | 3 => 8
  | 4 | 5 => 4
  | 8 => 1
  | _ => 2

def fmtFloat (f : Nat) : Option Fmt :=
  match f with
  | 3 => some .fp32
  | 4 => some .bf16
  | 5 => some .f16
  | 6 => some .e4m3
  | 7 => some .e5m2
  | 8 => some .e2m1
  | _ => none

/-- A value is a multiple of the element size: every value is one of half a byte. -/
def multEsz (f v : Nat) : Bool := f == 8 || v % (fmtNibbles f / 2) == 0

/-- Table 9-15: the pairs of fmt and LFMT with a conversion. -/
def convertible (fmt lfmt : Nat) : Bool :=
  match fmt with
  | 3 => decide (4 ≤ lfmt) && decide (lfmt ≤ 8)
  | 4 | 5 | 6 | 7 => decide (3 ≤ lfmt) && decide (lfmt ≤ 8)
  | 8 => decide (3 ≤ lfmt) && decide (lfmt ≤ 7)
  | _ => false

/-- The pairs an operation allows (R232). -/
def fmtsOk (op : CopyOp) (fmt lfmt : Nat) : Bool :=
  match op with
  | .taddf => (fmt == 1 || fmt == 3 || fmt == 4 || fmt == 5) && (lfmt == fmt || (lfmt == 3 && (fmt == 4 || fmt == 5)))
  | .pull => lfmt == fmt
  | .drain .. => true
  | _ => lfmt == fmt || convertible fmt lfmt

/-! ### Elements (R233, R235, R137) -/

/-- Where a unit of a copy comes from. -/
inductive Src where
  | zero
  | mem (ea : DWord)
  | tile (k : Nat)
  deriving DecidableEq, Repr

/-- A unit of a copy: one element, or two where a format packs two to a byte: its source and how many bytes, its destination
and how many bytes, how many elements, and the linear index of the first. -/
structure Piece where
  src : Src
  n : Nat
  dst : DWord
  m : Nat
  k : Nat
  e : Nat
  deriving DecidableEq, Repr

/-- Elements to a unit. [DEDUCED: log entry 57] -/
def BoxJob.pack (b : BoxJob) : Nat := if b.layout.fmt = 8 ∨ b.lfmt = 8 then 2 else 1

def BoxJob.gBytes (b : BoxJob) : Nat := b.pack * fmtNibbles b.layout.fmt / 2
def BoxJob.lBytes (b : BoxJob) : Nat := b.pack * fmtNibbles b.lfmt / 2

/-- Tensor coordinates of box position (c, rw, p, q). -/
def BoxJob.coord (b : BoxJob) (c rw p q : Nat) : Nat × Nat × Nat × Nat :=
  let g1 := if b.op = .gather then b.idx.getD rw 0xFFFFFFFF else b.coords.getD 1 0 + rw
  (b.coords.getD 0 0 + c, g1, b.coords.getD 2 0 + p, b.coords.getD 3 0 + q)

def Layout.inside (l : Layout) (g : Nat × Nat × Nat × Nat) : Bool :=
  decide (g.1 < l.d0) && decide (g.2.1 < l.d1) && decide (g.2.2.1 < l.d2) && decide (g.2.2.2 < l.d3)

def Layout.gaddr (l : Layout) (g : Nat × Nat × Nat × Nat) : DWord :=
  l.base + BitVec.ofNat 64 (g.1 * fmtNibbles l.fmt / 2 + g.2.1 * l.stride1 + g.2.2.1 * l.stride2 + g.2.2.2 * l.stride3)

def Layout.linear (l : Layout) (g : Nat × Nat × Nat × Nat) : Nat := g.1 + l.d0 * (g.2.1 + l.d1 * (g.2.2.1 + l.d2 * g.2.2.2))

/-- The place of a box position in the local image. -/
def BoxJob.lofs (b : BoxJob) (c rw p q : Nat) : Nat :=
  16 * b.layout.pitch * (rw + b.layout.box1 * (p + b.layout.box2 * q)) + c * fmtNibbles b.lfmt / 2

/-- The positions of the box, by unit. -/
def BoxJob.positions (b : BoxJob) : List (Nat × Nat × Nat × Nat) :=
  let l := b.layout
  let w := l.box0 / b.pack
  (List.range (w * l.box1 * l.box2 * l.box3)).map (fun i =>
    (i % w * b.pack, i / w % l.box1, i / w / l.box1 % l.box2, i / w / l.box1 / l.box2))

/-- The unit of a box position; none where the operation writes nothing for it. [DEDUCED: log entries 54, 57] -/
def BoxJob.pieceAt (b : BoxJob) (x : Nat × Nat × Nat × Nat) : Option Piece :=
  let l := b.layout
  let g := b.coord x.1 x.2.1 x.2.2.1 x.2.2.2
  let ins := l.inside g
  let loc := b.lea + BitVec.ofNat 64 (b.lofs x.1 x.2.1 x.2.2.1 x.2.2.2)
  let e := l.linear g
  match b.op with
  | .tstore | .taddf => if ins then some ⟨.mem loc, b.lBytes, l.gaddr g, b.gBytes, b.pack, e⟩ else none
  | .drain .. => if ins then some ⟨.tile (64 * x.2.1 + x.1), 4, l.gaddr g, b.gBytes, 1, e⟩ else none
  | _ =>
    if ins then some ⟨.mem (l.gaddr g), b.gBytes, loc, b.lBytes, b.pack, e⟩
    else if l.edge = 0 then none
    else some ⟨.zero, 0, loc, b.lBytes, b.pack, e⟩

/-- Every unit of a copy. -/
def BoxJob.pieces (b : BoxJob) : List Piece :=
  match b.op with
  | .linr => (List.range (b.layout.d0 / b.pack)).map (fun j =>
      ⟨.mem (b.layout.base + BitVec.ofNat 64 (j * b.gBytes)), b.gBytes, b.dest + BitVec.ofNat 64 (j * b.lBytes), b.lBytes, b.pack, j * b.pack⟩)
  | _ => b.positions.filterMap b.pieceAt

/-- The copy writes a mask (Table 9-16). [DEDUCED: log entry 54] -/
def BoxJob.masks (b : BoxJob) : Bool :=
  match b.op with
  | .tload | .gather | .publ => b.layout.edge == 2
  | _ => false

/-- Where the mask of a copy lies: MOFS × 16 from the local box (09_memory_copy_instructions.md R235). [DEDUCED: log entry 53] -/
def BoxJob.maskEa (b : BoxJob) : DWord := b.lea + BitVec.ofNat 64 (16 * b.layout.mofs)

/-- The 8-byte mask. -/
def BoxJob.maskWord (b : BoxJob) : Nat :=
  let l := b.layout
  (List.range (min 64 l.box1)).foldl (fun n rw =>
    let g := b.coord 0 rw 0 0
    n + (if g.2.1 < l.d1 ∧ g.2.2.1 < l.d2 ∧ g.2.2.2 < l.d3 then 2 ^ rw else 0)) 0

/-- A reducing store (R390). -/
def BoxJob.reduces (b : BoxJob) : Bool :=
  match b.op with
  | .taddf => true
  | .drain .add _ => true
  | _ => false

/-- The operation writes its local box, in the slots of a ring where its completion is one (R242). -/
def CopyOp.fills : CopyOp → Bool
  | .tload | .gather | .publ | .pull => true
  | _ => false

/-- Bytes of the local image: up to its last byte. [DEDUCED: log entry 53] -/
def BoxJob.imageBytes (b : BoxJob) : Nat :=
  match b.op with
  | .tload | .gather | .publ | .pull =>
    b.lofs 0 (b.layout.box1 - 1) (b.layout.box2 - 1) (b.layout.box3 - 1) + b.layout.box0 * fmtNibbles b.lfmt / 2
  | _ => 0

/-! ### The checks of R232 and R136 -/

/-- n bytes of a local window from an address. [DEDUCED: log entry 52] -/
def State.localOk (s : State) (p : Plot) (key : Option Nat) (ea : DWord) (n : Nat) : Bool :=
  match regionOf ea with
  | .window w off => (s.windowParts p key w 9 off n).isSome
  | _ => false

/-- A LINR range: global, or in a window's part. -/
def State.linrOk (s : State) (p : Plot) (key : Option Nat) (ea : DWord) (n : Nat) : Bool :=
  match regionOf ea with
  | .global _ => true
  | _ => s.localOk p key ea n

def isLocal (ea : DWord) : Bool := match regionOf ea with | .global _ => false | _ => true

def isGsm (ea : DWord) : Bool := match regionOf ea with | .window .gsm _ => true | _ => false

/-- The least and greatest of a list. -/
def spanOf : List Nat → Option (Nat × Nat)
  | [] => none
  | x :: l => some (l.foldl min x, l.foldl max x)

/-- The bytes of the source or destination units, from the lowest to the highest. -/
def srcHull (l : List Piece) : Option (Nat × Nat) :=
  (spanOf (l.flatMap (fun u => match u.src with | .mem ea => [ea.toNat, ea.toNat + u.n - 1] | _ => [])))

def dstHull (l : List Piece) : Option (Nat × Nat) :=
  spanOf (l.flatMap (fun u => [u.dst.toNat, u.dst.toNat + u.m - 1]))

/-- The fields every operation but LINR reads. -/
def BoxJob.fieldsOk (b : BoxJob) : Bool :=
  let l := b.layout
  let even := fun (x : Nat) => decide (x % 2 = 0)
  decide (0 < l.d0) && decide (0 < l.d1) && decide (0 < l.d2) && decide (0 < l.d3) &&
  multEsz l.fmt l.stride1 && multEsz l.fmt l.stride2 && multEsz l.fmt l.stride3 &&
  decide (0 < l.box0) && decide (0 < l.box1) && decide (0 < l.box2) && decide (0 < l.box3) &&
  ((l.fmt != 8 && b.lfmt != 8) || (even l.d0 && even (b.coords.getD 0 0) && even l.box0))

/-- The local box and its mask (R232); `ring` where the box lies in the slots of a ring. -/
def State.boxOk (s : State) (p : Plot) (key : Option Nat) (b : BoxJob) (ring : Bool) : Bool :=
  let l := b.layout
  let rows := l.box1 * l.box2 * l.box3
  let last := 16 * l.pitch * (rows - 1) + l.box0 * fmtNibbles b.lfmt / 2
  let mask := 16 * l.mofs
  decide (l.edge ≤ 2) && decide (0 < l.pitch) && decide (l.box0 * fmtNibbles b.lfmt / 2 ≤ 16 * l.pitch) &&
  (l.edge != 2 || (l.mofs != 0 && decide (l.box1 ≤ 64) && l.box2 == 1 && l.box3 == 1 && s.localOk p key b.maskEa 8)) &&
  (ring || (s.localOk p key b.lea last && (l.edge != 2 || decide (last ≤ mask))))

/-- Whether the record passes R232, and R136 for DRAIN; `dst` is DRAIN's format code. [DEDUCED: log entry 52] -/
def State.recordOk (s : State) (p : Plot) (key : Option Nat) (b : BoxJob) (ring : Bool) (dst : Nat) : Bool :=
  let l := b.layout
  let gather := decide (b.op = .gather)
  decide (l.fmt ≤ 10) && !l.reserved && multEsz l.fmt l.base.toNat && fmtsOk b.op l.fmt b.lfmt &&
  (match b.op with
   | .linr => decide (0 < l.d0) && ((l.fmt != 8 && b.lfmt != 8) || l.d0 % 2 == 0) &&
       s.linrOk p key l.base (l.d0 / b.pack * b.gBytes) && s.linrOk p key b.dest (l.d0 / b.pack * b.lBytes)
   | .drain .. => b.fieldsOk && !isLocal l.base && l.fmt == dst && decide (l.box0 ≤ 64) && decide (l.box1 ≤ 64) && l.box2 == 1 && l.box3 == 1
   | .pull => b.fieldsOk && isGsm l.base && l.box2 == 1 && l.box3 == 1 && s.boxOk p key b ring &&
       (match srcHull b.pieces with
        | some (lo, hi) => s.localOk p key (BitVec.ofNat 64 lo) (hi + 1 - lo)
        | none => true)
   | _ => b.fieldsOk && !isLocal l.base && (!gather || (decide (l.box1 ≤ 64) && l.box2 == 1 && l.box3 == 1)) && s.boxOk p key b ring)

/-! ### Arithmetic of a unit (R234, R235, R137) -/

def drainMode : DrainRnd → Mode
  | .rne => .rne
  | .rz => .rz
  | .sr => .sr

/-- The code of element i of a unit's bytes. -/
def codeAt (f : Nat) (l : List Byte) (i : Nat) : Nat :=
  (leNat l >>> (4 * fmtNibbles f * i)) % 2 ^ (4 * fmtNibbles f)

/-- The random word of element e (R233). -/
def BoxJob.random (b : BoxJob) (e : Nat) : Word := lemfyWord b.key b.layout.salt (BitVec.ofNat 64 e)

/-- x added to the memory value, rounded once (R137): opposite infinities and a signalling NaN set NV (R66). -/
def addRounded (f : Fmt) (mode : Mode) (r : Word) (old x : FVal) : Nat × Fl :=
  let sum := FVal.add mode old x
  let q := f.round mode true r sum
  (q.1, q.2 ||| Fl.when (invalid [old, x] sum) Fl.nv)

/-- One element: its code in the destination from the source's code, and from the memory's for a reducing store. -/
def BoxJob.convert (b : BoxJob) (e src old : Nat) : Nat × Fl :=
  let mode := drainMode b.rnd
  let r := b.random e
  let l := b.layout
  match b.op with
  | .drain m s32 =>
    if s32 then (if m = .add then (old + src) % 2 ^ 32 else src, 0#5)
    else
      match fmtFloat l.fmt with
      | none => (src, 0#5)
      | some f =>
        let x := Fmt.fp32.value src
        if m = .add then addRounded f mode r (f.value old) x else cvtFloat f mode true r x
  | .taddf =>
    match fmtFloat l.fmt, fmtFloat b.lfmt with
    | some f, some g => addRounded f mode r (f.value old) (g.value src)
    | _, _ => ((old + src) % 2 ^ 32, 0#5)
  | .tstore =>
    if b.lfmt = l.fmt then (src, 0#5)
    else
      match fmtFloat b.lfmt, fmtFloat l.fmt with
      | some f, some g => cvtFloat g mode true r (f.value src)
      | _, _ => (src, 0#5)
  | _ =>
    if b.lfmt = l.fmt then (src, 0#5)
    else
      match fmtFloat l.fmt, fmtFloat b.lfmt with
      | some f, some g => cvtFloat g mode true r (f.value src)
      | _, _ => (src, 0#5)

/-- The formats of a unit's source and destination. -/
def BoxJob.fmts (b : BoxJob) : Nat × Nat :=
  match b.op with
  | .drain .. => (3, b.layout.fmt)
  | .tstore | .taddf => (b.lfmt, b.layout.fmt)
  | _ => (b.layout.fmt, b.lfmt)

/-- The bytes a unit writes and its flags. -/
def BoxJob.value (b : BoxJob) (u : Piece) (src old : List Byte) : List Byte × Fl :=
  match u.src with
  | .zero => (List.replicate u.m 0#8, 0#5)
  | _ =>
    let f := b.fmts
    let l := (List.range u.k).map (fun i => b.convert (u.e + i) (codeAt f.1 src i) (codeAt f.2 old i))
    (natBytes (l.foldr (fun x n => x.1 + n * 2 ^ (4 * fmtNibbles f.2)) 0) u.m, l.foldl (fun fl x => fl ||| x.2) 0#5)

/-! ### Where an engine's bytes lie -/

/-- What finding the bytes of an engine access has met so far: locations, a byte it can have nowhere (R204, R195), pages
refused, pages to ask the host for, translations to ask for, and memory that does not exist. -/
structure Hunt where
  s : State
  parts : List (Loc × Nat)
  err : Bool
  refused : List Nat
  faults : List PageNeed
  waits : List Need
  absent : Option Nat

def Hunt.start (s : State) : Hunt := ⟨s, [], false, [], [], [], none⟩

/-- A run of bytes, page by page. -/
def splitPages : Nat → DWord → Nat → List (DWord × Nat)
  | 0, _, _ => []
  | fuel + 1, ea, n =>
    let k := 4096 - ea.toNat % 4096
    if n = 0 then [] else if n ≤ k then [(ea, n)] else (ea, k) :: splitPages fuel (ea + BitVec.ofNat 64 k) (n - k)

def splitPage (ea : DWord) (n : Nat) : List (DWord × Nat) := splitPages (n / 4096 + 2) ea n

def keyOfWho : Who → Option Nat
  | .front => none
  | .strand k => some k

/-- Translate n bytes of a page for an engine (R237, R239, R361). -/
def Hunt.translate (p : Plot) (c : CopyRec) (write : Bool) (h : Hunt) (va n : Nat) (f : Loc → Loc) : Hunt :=
  if c.refused.contains (pageOf va) then { h with refused := h.refused ++ [pageOf va] }
  else
    match h.s.translate p.pav (h.s.pasid p.ctx) va n write with
    | (.at l, s1) => { h with s := s1, parts := h.parts ++ [(f l, n)] }
    | (.unregistered _, s1) => { h with s := s1, err := true }
    | (.refused, s1) => { h with s := s1, refused := h.refused ++ [pageOf va] }
    | (.absent pa, _) => { h with absent := some pa }
    | (.miss, _) => { h with waits := h.waits ++ [⟨va, write⟩] }
    | (.denied, _) =>
      if c.answered.any (fun a => a.page == pageOf va && (a.write || !write)) then { h with refused := h.refused ++ [pageOf va] }
      else if h.faults.any (fun n => n.page == pageOf va && (n.write || !write)) then h
      else { h with faults := h.faults ++ [⟨pageOf va, write⟩] }

/-- Find one run of bytes within a page: in a window, in a strand's PRIV backing, or in global memory. [DEDUCED: log entry 52] -/
def Hunt.piece (p : Plot) (c : CopyRec) (write : Bool) (h : Hunt) (x : DWord × Nat) : Hunt :=
  match regionOf x.1 with
  | .beyond => { h with err := true }
  | .window w off =>
    match h.s.windowLoc p (keyOfWho c.who) w off x.2 with
    | some l => if l.space = .priv then h.translate p c write (h.s.privVa p l) x.2 Loc.onPath else { h with parts := h.parts ++ [(l, x.2)] }
    | none => { h with err := true }
  | .global va => if h.s.touchesName p.ctx va x.2 then { h with err := true } else h.translate p c write va x.2 id

/-- Find n bytes, leaving the locations found for them in `parts`. -/
def Hunt.find (p : Plot) (c : CopyRec) (h : Hunt) (ea : DWord) (n : Nat) (write : Bool) : Hunt :=
  (splitPage ea n).foldl (Hunt.piece p c write) { h with parts := [] }

def Hunt.clear (h : Hunt) : Bool := !h.err && h.refused.isEmpty && h.faults.isEmpty && h.waits.isEmpty && h.absent.isNone

/-- Read the parts of an engine access (R237). -/
def State.engineParts (s : State) (pav : Nat) : List (Loc × Nat) → State × List Byte
  | [] => (s, [])
  | (l, n) :: rest =>
    let r := s.engineRead pav l n
    let t := r.1.engineParts pav rest
    (t.1, r.2 ++ t.2)

/-! ### Slot rings (R242) -/

def State.ringSlots (s : State) (p : Plot) (off : Nat) : Nat := (s.spadWord p (off + 8)).toNat % 2 ^ 16
def State.ringBytes (s : State) (p : Plot) (off : Nat) : Nat := (s.spadWord p (off + 4)).toNat

/-- Slots an outstanding copy has claimed in a ring and not filled. -/
def CopyRec.unfilled (c : CopyRec) (off : Nat) : Nat :=
  match c.completion with
  | .ring o slots => if o = off then slots - c.filled else 0
  | _ => 0

/-- Insert by the order of issue. -/
def insertOrder (x : Nat × CopyRec) : List (Nat × CopyRec) → List (Nat × CopyRec)
  | [] => [x]
  | y :: l => if x.2.order ≤ y.2.order then x :: y :: l else y :: insertOrder x l

/-- The copies of a plot's context on its pavilion that have slots of a ring to fill, each with its plot, in the order in which they
claimed them (R242). -/
def State.ringCopies (s : State) (pav ctx off : Nat) : List (Nat × CopyRec) :=
  ((s.plots.filter (fun q => q.pav == pav && q.ctx == ctx)).flatMap (fun q =>
    (q.copies.filter (fun c => decide (0 < c.unfilled off))).map (fun c => (q.id, c)))).foldr insertOrder []

def claimed (l : List (Nat × CopyRec)) (off : Nat) : Nat := l.foldl (fun n c => n + c.2.unfilled off) 0

/-- The SPAD address of a byte of the image of a copy into a ring: its slots follow those claimed before it. [DEDUCED: log entry 53] -/
def State.ringEa (s : State) (p : Plot) (c : CopyRec) (off x : Nat) : DWord :=
  let size := s.ringBytes p off
  let before := (s.ringCopies p.pav p.ctx off).filter (fun d => decide (d.2.order < c.order))
  let k := (s.spadWord p (off + 12)).toNat + claimed before off + x / size - c.filled
  windowBase .spad + BitVec.ofNat 64 ((s.spadWord p off).toNat + size * (k % s.ringSlots p off) + x % size)

/-- Where a destination byte of a copy lies: for a ring, its address stands for a place in the image. -/
def State.destEa (s : State) (p : Plot) (c : CopyRec) (ea : DWord) : DWord :=
  match c.completion with
  | .ring off slots => if slots = 0 then ea else s.ringEa p c off (ea.toNat % 2 ^ 32)
  | _ => ea

/-- The units of a copy, each with the address at which its destination lies. No unit crosses a slot, whose bytes are a multiple of 16. -/
def State.piecesOf (s : State) (p : Plot) (c : CopyRec) (b : BoxJob) : List Piece :=
  b.pieces.map (fun u => { u with dst := s.destEa p c u.dst })

/-- The range an operation locks for bytes lo to hi by effective address. [DEDUCED: log entry 49] -/
def State.eaRange (s : State) (p : Plot) (key : Option Nat) (h : Option (Nat × Nat)) : List Range :=
  match h with
  | none => []
  | some (lo, hi) =>
    match regionOf (BitVec.ofNat 64 lo), regionOf (BitVec.ofNat 64 hi) with
    | .window w a, .window _ b =>
      match s.windowLoc p key w a 1, s.windowLoc p key w b 1 with
      | some x, some y => [.local x.space x.addr y.addr]
      | _, _ => []
    | _, _ => [.global lo hi]

/-- The range of slot j of the image of a copy into a ring. -/
def State.slotRange (s : State) (p : Plot) (c : CopyRec) (off j : Nat) : List Range :=
  let a := (s.ringEa p c off (j * s.ringBytes p off)).toNat
  s.eaRange p none (some (a, a + s.ringBytes p off - 1))

/-! ### How a copy ends (R238, Table 9-17) -/

def stDone : Nat := 1
def stBadrec : Nat := 2
def stErrored : Nat := 3
def stPartial : Nat := 4
def stFaulted : Nat := 5

/-- The status word: a new code, and more pages (Table 9-18). -/
def State.setStatus (s : State) (p : Plot) (off code pages : Nat) : State :=
  let n := (s.spadWord p (off + 12)).toNat / 2 ^ 16
  s.setSpadWord p (off + 12) (BitVec.ofNat 32 (min 0xFFFF (n + pages) * 2 ^ 16 + code))

/-- Count pages without a new code. -/
def State.addPages (s : State) (p : Plot) (c : Completion) (pages : Nat) : State :=
  match c with
  | .arrival off => s.setStatus p off ((s.spadWord p (off + 12)).toNat % 256) pages
  | _ => s

/-- A failure advance (R241). -/
def State.failArrival (s : State) (p : Plot) (off code : Nat) : State :=
  let g := s.spadWord p (off + 8)
  ((s.setStatus p off code 0).setSpadWord p (off + 4) 0#32).setSpadWord p (off + 8) (g + 1#32)

/-- What the completion of a copy receives at its end, arrival counts apart. [DEDUCED: log entry 61] -/
def State.complete (s : State) (p : Plot) (c : Completion) (code : Nat) : State :=
  match c with
  | .arrival off => if code = stDone then s.setStatus p off stDone 0 else s.failArrival p off code
  | .ring off _ => if code = stDone then s else s.setSpadWord p (off + 20) (BitVec.ofNat 32 code)
  | .barrier n => s.modPlot p.id (fun p => (p.arrive n).1)
  | .none => s

/-- Slot j of the image of a copy has all its bytes: no chunk that meets it is still to be delivered, or the copy has ended (R242). -/
def State.slotWhole (s : State) (p : Plot) (c : CopyRec) (off j : Nat) : Bool :=
  let a := (s.ringEa p c off (j * s.ringBytes p off)).toNat
  c.ended || c.chunks.all (fun k => k.done || decide (a + s.ringBytes p off ≤ k.idx * 4096) || decide (k.idx * 4096 + 4096 ≤ a))

/-- RING_SLOT_FILL: the slots of the copies into a ring fill in the order they were claimed; each leaves its lock and advances the write
index (R184, R242). -/
def State.fillRing (s : State) (pav ctx off : Nat) : Nat → State
  | 0 => s
  | n + 1 =>
    match s.ringCopies pav ctx off with
    | [] => s
    | (id, c) :: _ =>
      match s.plot? id with
      | none => s
      | some p =>
        if !s.slotWhole p c off c.filled then s
        else
          let gone := s.slotRange p c off c.filled
          let s1 := s.modPav pav (fun v => { v with locks := v.locks.filter (fun l => !(l.of p c.id && l.dst && gone.contains l.range)) })
          let s2 := s1.setSpadWord p (off + 12) (s.spadWord p (off + 12) + 1#32)
          let one := modifyWhere (fun d : CopyRec => d.id == c.id) (fun d => { d with filled := d.filled + 1 })
          (s2.modPlot id (fun p => { p with copies := one p.copies })).fillRing pav ctx off n

/-- Copies that have ended and have no slot left to fill are outstanding no more. [DEDUCED: log entry 50] -/
def CopyRec.over (c : CopyRec) : Bool :=
  c.ended && (match c.completion with | .ring _ slots => decide (slots ≤ c.filled) | _ => true)

def Plot.dropOver (p : Plot) : Plot := { p with copies := p.copies.filter (fun c => !c.over) }

/-- Fill a ring as far as it is due, and drop the copies that are over, on the ring those of every plot it serves. [DEDUCED: log entry 50] -/
def State.sweepCopies (s : State) (p : Plot) (c : Completion) : State :=
  match c with
  | .ring off _ =>
    let s1 := s.fillRing p.pav p.ctx off 8192
    let s2 := { s1 with plots := modifyWhere (fun q : Plot => q.pav == p.pav && q.ctx == p.ctx) Plot.dropOver s1.plots }
    (s2.plots.filter (fun q => q.pav == p.pav && q.ctx == p.ctx && q.id != p.id)).foldl (fun s q => s.tryRetire q.id) s2
  | _ => s.modPlot p.id Plot.dropOver

/-- COPY_END: flags are ORed, locks go, the L1 lines have gone with each write, and the completion is told. [DEDUCED: log entries 50, 62] -/
def State.endCopy (s : State) (p : Plot) (c : CopyRec) (code : Nat) : State :=
  let mark := modifyWhere (fun d : CopyRec => d.id == c.id) (fun d => { d with ended := true })
  let s1 := (s.modPlot p.id (fun q => { (q.modBoth (fun g => g.orFpf c.fl)) with copies := mark q.copies })).dropLocks p c.id
  let s2 := match c.job with | .box b => if b.op = CopyOp.publ then s1.releaseAt p.pav .grove else s1 | .fab _ => s1
  (s2.complete p c.completion code).sweepCopies p c.completion

/-! ### Delivering a chunk (R237, R239, R240) -/

/-- A unit with its bytes found. -/
structure Placed where
  u : Piece
  src : List (Loc × Nat)
  dst : List (Loc × Nat)
  skip : Nat
  len : Nat

/-- The destination bytes of a unit that lie in a chunk: how many to skip, and how many. -/
def Piece.within (u : Piece) (chunk : Nat) : Nat × Nat :=
  let a := u.dst.toNat
  let lo := max a (chunk * 4096)
  let hi := min (a + u.m) (chunk * 4096 + 4096)
  (lo - a, hi - lo)

/-- Find the bytes of every unit of a chunk. -/
def State.hunt (s : State) (p : Plot) (c : CopyRec) (b : BoxJob) (chunk : Nat) : Hunt × List Placed :=
  (s.piecesOf p c b).foldl (fun (x : Hunt × List Placed) u =>
    let w := u.within chunk
    if w.2 = 0 then x
    else
      let h1 := match u.src with
        | .mem ea => x.1.find p c ea u.n false
        | _ => { x.1 with parts := [] }
      let h2 := h1.find p c (u.dst + BitVec.ofNat 64 w.1) w.2 true
      ({ h2 with parts := [] }, x.2 ++ [⟨u, h1.parts, h2.parts, w.1, w.2⟩])) (Hunt.start s, [])

/-- What moving a chunk has done: the state, flags, the first bad byte met. -/
structure Moved where
  s : State
  fl : Fl
  bad : Option (DWord × Loc)

/-- The address of the byte of a unit's source. -/
def Piece.srcEa (u : Piece) (i : Nat) : DWord :=
  match u.src with
  | .mem ea => ea + BitVec.ofNat 64 i
  | _ => 0#64

def wordAt (l : List (Nat × Word)) (k : Nat) : Word := match l.find? (fun y => y.1 == k) with | some y => y.2 | none => 0#32

/-- Move one unit. Bytes written from bad data hold 0; bytes that an LDI of the launch has read may be found again (07_ordering_model.md
R179). [DEDUCED: log entry 56] -/
def BoxJob.move (b : BoxJob) (p : Plot) (m : Moved) (x : Placed) : Moved :=
  let bad : Option (DWord × Loc) := match m.s.badPart 0 x.src with
    | some (i, l) => some (x.u.srcEa i, l)
    | none =>
      match m.s.badPart x.skip x.dst with
      | some (i, l) => if b.reduces then some (x.u.dst + BitVec.ofNat 64 i, l) else none
      | none => none
  let r := match x.u.src with
    | .tile k => (m.s, natBytes (wordAt b.data k).toNat 4)
    | _ =>
      let y := m.s.engineParts p.pav x.src
      y.1.staleParts p.launch x.src y.2
  let o := if b.reduces then r.1.engineParts p.pav x.dst else (r.1, [])
  let v := if bad.isSome then (List.replicate x.u.m 0#8, 0#5) else b.value x.u r.2 o.2
  let s1 := (dealBytes x.dst ((v.1.drop x.skip).take x.len)).foldl (fun s y => s.engineWrite p.pav y.1 y.2) o.1
  ⟨s1, m.fl ||| v.2, m.bad.or bad⟩

def State.modCopy (s : State) (id copy : Nat) (f : CopyRec → CopyRec) : State :=
  s.modPlot id (fun p => { p with copies := modifyWhere (fun c => c.id == copy) f p.copies })

def State.copy? (s : State) (id copy : Nat) : Option (Plot × CopyRec) :=
  match s.plot? id with
  | none => none
  | some p => (p.copies.find? (fun c => c.id == copy)).map (fun c => (p, c))

/-- Write the mask of a copy as it ends (R235). [DEDUCED: log entry 62] -/
def State.writeMask (s : State) (p : Plot) (c : CopyRec) (b : BoxJob) : State :=
  if b.masks then
    let h := (Hunt.start s).find p c b.maskEa 8 true
    (dealBytes h.parts (natBytes b.maskWord 8)).foldl (fun s y => s.engineWrite p.pav y.1 y.2) h.s
  else s

/-- How a copy with every chunk done ends: PARTIAL where some page was refused (R390). [DEDUCED: log entry 55] -/
def CopyRec.code (c : CopyRec) : Nat := if c.chunks.any (fun k => k.refused) then stPartial else stDone

/-- Mark a chunk, raise the arrival count, and end the copy with its last chunk. A copy that ends well tells its status
before its generation advances. -/
def State.chunkDone (s : State) (id copy chunk : Nat) (refused : Bool) : State :=
  let mark := modifyWhere (fun k : Chunk => k.idx == chunk) (fun k => { k with done := true, refused := refused, sent := false })
  let s1 := s.modCopy id copy (fun c => { c with chunks := mark c.chunks })
  match s1.copy? id copy with
  | none => s1
  | some (p, c) =>
    let last := c.chunks.all (fun k => k.done)
    let n := if refused then 0 else ((c.chunks.find? (fun k => k.idx == chunk)).map (fun k => k.bytes)).getD 0
    let s2 := if refused then s1.addPages p c.completion 1 else s1
    let s3 := if last then (match c.job with | .box b => s2.writeMask p c b | .fab _ => s2) else s2
    let s4 := if last then s3.endCopy p c c.code else s3
    let s5 := match c.completion with
      | .arrival off => if last && c.code != stDone then s4 else (s4.reportSpad p c.who 4 off 12).arriveWord p off n
      | .ring off _ => s4.reportSpad p c.who 4 off 24
      | _ => s4
    if last then s5 else s5.sweepCopies p c.completion

/-- Lists of at most 64, in order. -/
def groupsOf64 {α : Type} : Nat → List α → List (List α)
  | 0, _ => []
  | n + 1, l => if l.isEmpty then [] else l.take 64 :: groupsOf64 n (l.drop 64)

/-- COPY_CHUNK_FAULT (R239, R390): the status reads FAULTED, and the pages go to the host in groups of at most 64 (R361). [DEDUCED: log entry 55] -/
def State.faultChunk (s : State) (p : Plot) (c : CopyRec) (reduces : Bool) (pages : List PageNeed) : State :=
  let fresh := pages.filter (fun n => !c.asked.contains n.page)
  if fresh.isEmpty then s
  else
    let s1 := match c.completion with
      | .arrival off => s.setStatus p off stFaulted (if reduces then 0 else fresh.length)
      | _ => s
    let s2 := s1.modCopy p.id c.id (fun c => { c with asked := c.asked ++ fresh.map (fun n => n.page) })
    (groupsOf64 fresh.length fresh).foldl (fun s g => s.addGroup p.ctx g (some p.id) (some c.id)) s2

/-- Deliver a chunk, or learn why it cannot be delivered. -/
def State.deliverChunk (s : State) (p : Plot) (c : CopyRec) (b : BoxJob) (chunk : Nat) : Host.Outcome State Fault Refusal :=
  let r := s.hunt p c b chunk
  let h := r.1
  match h.absent with
  | some pa => .fault (.absentMemory pa)
  | none =>
    if h.err then .next (s.endCopy p c stErrored)
    else if !h.refused.isEmpty then
      if b.reduces then .next (h.s.chunkDone p.id c.id chunk true) else .next (s.endCopy p c stErrored)
    else if !h.faults.isEmpty then .next (h.s.faultChunk p c b.reduces h.faults)
    else if !h.waits.isEmpty then .next (h.s.askAll p.pav (h.s.pasid p.ctx) h.waits)
    else
      match h.s.dma false (r.2.flatMap (fun x => x.src)) with
      | (false, s0) => .next s0
      | (true, s0) =>
      match s0.dma true (r.2.flatMap (fun x => x.dst)) with
      | (false, s1) => .next s1
      | (true, s1) =>
      let m := r.2.foldl (b.move p) ⟨s1, 0#5, none⟩
      let s1 := (m.s.heal (r.2.flatMap (fun x => x.dst))).modCopy p.id c.id (fun c => { c with fl := c.fl ||| m.fl })
      match m.bad with
      | none => .next (s1.chunkDone p.id c.id chunk false)
      | some (ea, l) =>
        match s1.copy? p.id c.id with
        | none => .next s1
        | some (q, d) => .next ((((s1.logError l 4).raiseMchk p.id c.who 4 ea)).endCopy q d stErrored)

/-- The distinct aligned 4 KiB ranges of the destination, each with the bytes to write there (R237). -/
def chunksOf (l : List Piece) : List Chunk :=
  let add := fun (cs : List Chunk) (page n : Nat) =>
    if n = 0 then cs
    else if cs.any (fun k => k.idx == page) then modifyWhere (fun k => k.idx == page) (fun k => { k with bytes := k.bytes + n }) cs
    else cs ++ [⟨page, n, false, false, false⟩]
  l.foldl (fun cs u =>
    let a := u.dst.toNat / 4096
    add (add cs a (u.within a).2) (a + 1) (u.within (a + 1)).2) []

/-! ### The registers of CPY (R229, R230) -/

/-- A completion register (Table 9-12): none where it breaks a limit. -/
def State.completionOf (s : State) (p : Plot) (x : Word) : Option Completion :=
  let off := x.toNat % 2 ^ 19
  if (x >>> 19).toNat % 2 ^ 11 ≠ 0 then none
  else
    match x.toNat / 2 ^ 30 with
    | 0 => if off % 16 = 0 ∧ (s.spadLoc p.pav p.ctx off 16).isSome then some (.arrival off) else none
    | 1 => if off % 32 = 0 ∧ (s.spadLoc p.pav p.ctx off 32).isSome then some (.ring off 0) else none
    | 2 => if off < 16 then some (.barrier off) else none
    | _ => if off = 0 then some .none else none

/-- The fields of a local register (Table 9-13). -/
def locWin (x : Word) : Win := if x.getLsbD 31 then .gsm else .spad
def locRnd (x : Word) : Option DrainRnd :=
  match x.toNat / 2 ^ 28 % 4 with
  | 0 => some .rne
  | 1 => some .rz
  | 2 => some .sr
  | _ => none
def locFmt (x : Word) : Nat := x.toNat / 2 ^ 24 % 16
def locOff (x : Word) : Nat := x.toNat % 2 ^ 22

/-- Whether a local register passes R230: `none` for an operation whose LOFF must be zero. -/
def State.localRegOk (s : State) (p : Plot) (x : Word) (zero : Bool) : Bool :=
  !x.getLsbD 30 && x.toNat / 2 ^ 22 % 4 == 0 && (locRnd x).isSome && decide (locFmt x ≤ 12) &&
  (if zero then locOff x == 0
   else locOff x % 16 == 0 && (s.windowLoc p none (locWin x) (locOff x) 1).isSome)

/-- A register of CPY: 32 bits, with bits [63:32] of a uniform register zero. -/
def reg32 (p : Plot) (w : Who) (r : Reg) : Except Res Word :=
  let x := p.regs.zx w r
  if x >>> 32 = 0#64 then .ok (x.setWidth 32) else .error (illegalEntry x)

/-- The coordinates and the list offset of a GATHER, with the value of its list register (Table 9-11). -/
def cpyCoords (p : Plot) (w : Who) (b : Reg) (op : CopyOp) : Except Res (List Nat × Nat × DWord) :=
  let lo := fun (x : DWord) => x.toNat % 2 ^ 32
  let hi := fun (x : DWord) => x.toNat / 2 ^ 32
  match op, w with
  | .linr, _ => .ok ([], 0, 0#64)
  | .gather, .front =>
    let x := p.regs.s b
    let y := p.regs.s (regPlus b 1)
    if hi x ≠ 0 then .error (illegalEntry x)
    else if y >>> 19 ≠ 0#64 then .error (illegalEntry y)
    else .ok ([lo x, 0, 0, 0], y.toNat, y)
  | .gather, .strand _ =>
    let v := fun i => p.regs.zx w (regPlus b i)
    if v 2 ≠ 0#64 then .error (illegalEntry (v 2))
    else if v 3 ≠ 0#64 then .error (illegalEntry (v 3))
    else .ok ([(v 0).toNat, 0, 0, 0], (v 1).toNat, v 1)
  | _, .front =>
    let x := p.regs.s b
    let y := p.regs.s (regPlus b 1)
    .ok ([lo x, hi x, lo y, hi y], 0, 0#64)
  | _, .strand _ => .ok ((List.range 4).map (fun i => (p.regs.zx w (regPlus b i)).toNat), 0, 0#64)

/-- n bytes at an 8-byte-aligned address read as plain loads of the agent (R230, R257): the bytes, and the MCHK a bad byte, an
unregistered aperture or a refused page brings, which read as zero. [DEDUCED: log entry 51] -/
def State.loadRecord (s : State) (p : Plot) (w : Who) (ea : DWord) (n : Nat) (sc : Scope) : Except Res (State × List Byte) :=
  if ea.toNat % 8 ≠ 0 then .error (illegalEntry ea)
  else
    let words := (List.range (n / 8)).map (fun i => (ea + BitVec.ofNat 64 (8 * i), 8))
    match s.checkPieces p w ea false words with
    | .error r => .error r
    | .ok l =>
      match s.reachPieces p false l with
      | .error r => .error r
      | .ok y =>
        match y.parts with
        | none =>
          let s1 := match y.mchk with
            | some m => y.s.modPlot p.id (fun p => p.modAgent w (fun a => noteMchk a (some m)))
            | none => y.s
          .ok (s1, List.replicate n 0#8)
        | some ps =>
          match y.s.badPart 0 ps with
          | some (i, loc) =>
            let a := ea + BitVec.ofNat 64 i
            let s1 := (y.s.logError loc 1).modPlot p.id (fun p => p.modAgent w (fun ag => noteMchk ag (some (1, a))))
            .ok (s1, List.replicate n 0#8)
          | none =>
            let r := y.s.readParts p.pav (narrowScope ea sc) ps
            .ok (r.1.staleParts p.launch ps r.2)

/-- A copy that fails R232 or R136: it ends at once (R230). -/
def State.badRecord (s : State) (p : Plot) (c : Completion) : State := s.complete p c stBadrec

def joinHull (a b : Option (Nat × Nat)) : Option (Nat × Nat) :=
  match a, b with
  | some x, some y => some (min x.1 y.1, max x.2 y.2)
  | some x, none => some x
  | none, y => y

/-- The locks of a copy (R180): one source, one destination with its mask, or one destination for each slot of a ring. -/
def State.copyLocks (s : State) (p : Plot) (c : CopyRec) (b : BoxJob) : List (Bool × Range) :=
  let key := keyOfWho c.who
  let l := b.pieces
  let mask := if b.masks then some (b.maskEa.toNat, b.maskEa.toNat + 7) else none
  let src := (s.eaRange p key (srcHull l)).map (fun r => (false, r))
  let dst := match c.completion with
    | .ring off slots =>
      if slots = 0 then s.eaRange p key (joinHull (dstHull l) mask)
      else (List.range slots).flatMap (s.slotRange p c off) ++ s.eaRange p key mask
    | _ => s.eaRange p key (joinHull (dstHull l) mask)
  src ++ dst.map (fun r => (true, r))

/-- Slots a copy claims in its ring (R242): none where more are needed than the ring holds. [DEDUCED: log entry 53] -/
def State.ringNeed (s : State) (p : Plot) (off : Nat) (b : BoxJob) : Option Nat :=
  let size := s.ringBytes p off
  if b.imageBytes = 0 then some 0
  else if size = 0 then none
  else
    let n := (b.imageBytes + size - 1) / size
    if n ≤ s.ringSlots p off then some n else none

/-- Whether the ring has the slots now: write index + claimed − read index stays within it. -/
def State.ringFree (s : State) (p : Plot) (off n : Nat) : Bool :=
  decide ((s.spadWord p (off + 12) - s.spadWord p (off + 16)).toNat + claimed (s.ringCopies p.pav p.ctx off) off + n ≤ s.ringSlots p off)

/-- Issue a copy whose record passes: it waits for fewer than 32 copies, for lock entries and for slots (R230). -/
def State.startCopy (s : State) (p : Plot) (w : Who) (comp : Completion) (b : BoxJob) (creg : DWord) (tile : Option TileKind) : State × Res :=
  let need := match comp with | .ring off _ => s.ringNeed p off b | _ => some 0
  match need with
  | none => (s, illegalEntry creg)
  | some slots =>
    let comp := match comp with | .ring off _ => Completion.ring off slots | c => c
    let c0 : CopyRec := ⟨p.nextOp, w, comp, .box b, [], 0#5, 0, false, [], [], [], s.words⟩
    let c := { c0 with chunks := chunksOf (s.piecesOf p c0 b) }
    let room := match comp with | .ring off n => s.ringFree p off n | _ => true
    let locks := s.copyLocks p c b
    let tops := match tile with | some _ => p.tops.length | none => 0
    if decide (32 ≤ p.copies.length) || decide (8 ≤ tops) || !s.lockRoom p.pav locks.length || !room then (s, .hold .stall)
    else
      let s1 := (s.addLocks p c.id locks).modPlot p.id (fun p =>
        { p with
          copies := p.copies ++ [c]
          nextOp := p.nextOp + 2
          tops := p.tops ++ (match tile with | some k => [⟨c.id + 1, k, 0, 0#5⟩] | none => []) })
      match s1.plot? p.id with
      | some q => (if c.chunks.isEmpty ∧ tile = none then (s1.writeMask q c b).endCopy q c stDone else s1, .done)
      | none => (s1, .done)

/-- The index list of a GATHER, as it is stored. -/
def State.gatherList (s : State) (p : Plot) (off n : Nat) : Option (List Nat) :=
  if off % 4 ≠ 0 then none
  else (s.windowLoc p none .spad off (4 * n)).map (fun l =>
    (List.range n).map (fun i => leNat (cellsGet (s.mem.cells l.space) (l.addr + 4 * i) 4)))

/-- Key rk of the plot (R74). -/
def State.keyAt (s : State) (p : Plot) (rk : Nat) : DWord := (s.keysOf p).toList.getD rk 0#64

/-- CPY (R229–R232). A GATHER that reads an uncorrectable byte of its list ends ERRORED (R240). [DEDUCED: log entry 42] -/
def cpyWord (op : CopyOp) (d a b : Reg) (sc : Scope) : WordFn :=
  withPlot (fun c p s =>
    if !p.drained c.who then (s, .hold .stall)
    else
      match reg32 p c.who d with
      | .error r => (s, r)
      | .ok x =>
        match s.completionOf p x with
        | none => (s, illegalEntry (x.setWidth 64))
        | some comp =>
          let ring := match comp with | .ring .. => true | _ => false
          match reg32 p c.who (regPlus d 1) with
          | .error r => (s, r)
          | .ok y =>
            if !s.localRegOk p y (ring || op = .linr) then (s, illegalEntry (y.setWidth 64))
            else
              match cpyCoords p c.who b op with
              | .error r => (s, r)
              | .ok (coords, off, reg) =>
                if (op = .publ ∨ op = .pull) ∧ sc ≠ .grove then (s, illegalEntry c.word64)
                else
                  match s.loadRecord p c.who (p.regs.wide c.who a) 64 sc with
                  | .error r => (s, r)
                  | .ok (s1, bytes) =>
                    let l := Layout.ofBytes bytes
                    let slots := ring && op.fills
                    let lea := windowBase (if slots then .spad else locWin y) + BitVec.ofNat 64 (locOff y)
                    let job : BoxJob := ⟨op, l, coords, [], lea, if locFmt y = 0 then l.fmt else locFmt y, (locRnd y).getD .rne,
                      s.keyAt p l.rk, p.regs.wide c.who b, [], true⟩
                    if !s1.recordOk p (keyOfWho c.who) job slots 0 then (s1.badRecord p comp, .done)
                    else if op = .gather then
                      match s1.gatherList p off l.box1 with
                      | none => (s, illegalEntry reg)
                      | some idx =>
                        match s1.badSpan p .spad off (4 * l.box1) with
                        | some (o, bad) =>
                          (((s1.logError bad 4).raiseMchk p.id c.who 4 (windowBase .spad + BitVec.ofNat 64 o)).complete p comp stErrored, .done)
                        | none => s1.startCopy p c.who comp { job with idx := idx } (x.setWidth 64) none
                    else s1.startCopy p c.who comp job (x.setWidth 64) none)

/-! ### DRAIN (R135–R138) -/

def drainCode : DrainDst → Nat
  | .s32 => 1
  | .f32 => 3
  | .bf16x2 => 4
  | .f16x2 => 5

/-- The completion of a DRAIN (R135). -/
def State.drainCompletion (s : State) (p : Plot) (x : DWord) : Option Completion :=
  let off := x.toNat % 2 ^ 19
  if (x >>> 19).toNat % 2 ^ 44 ≠ 0 then none
  else if x.getLsbD 63 then (if off = 0 then some .none else none)
  else if off % 16 = 0 ∧ (s.spadLoc p.pav p.ctx off 16).isSome then some (.arrival off)
  else none

/-- DRAIN: a tile operation until its tile is read, and a copy until its end (R128). [DEDUCED: log entry 51] -/
def drainWord (d a b : Reg) (m : DrainMode) (r : DrainRnd) (t : DrainDst) : WordFn :=
  withPlot (fun c p s =>
    let x := p.regs.s (regPlus a 1)
    let y := p.regs.s b
    let z := p.regs.s (regPlus b 1)
    let s32 := decide (t = .s32)
    if !tilesIn p [d] then (s, illegal 8 c.word64)
    else if s32 ∧ r ≠ .rne then (s, illegalEntry c.word64)
    else
      match s.drainCompletion p x with
      | none => (s, illegalEntry x)
      | some comp =>
        if p.tileS32At d.toNat != s32 then (s, tileFormat p d)
        else if !p.drained c.who then (s, .hold .stall)
        else
          match s.loadRecord p c.who (p.regs.s a) 64 .dev with
          | .error e => (s, e)
          | .ok (s1, bytes) =>
            let l := Layout.ofBytes bytes
            let half : DWord → List Nat := fun v => [v.toNat % 2 ^ 32, v.toNat / 2 ^ 32]
            let job : BoxJob := ⟨.drain m s32, l, half y ++ half z, [], 0#64, if s32 then 1 else 3, r, s.keyAt p l.rk, 0#64, [], false⟩
            if !s1.recordOk p none job false (drainCode t) then (s1.badRecord p comp, .done)
            else s1.startCopy p c.who comp job x (some (.drainRead d.toNat p.nextOp s32 (decide (m = .storez)))))

/-- The end of a DRAIN whose box lies outside the tensor, once its tile is read. -/
def State.endDrained (s : State) (id : Nat) (k : TileKind) : State :=
  match k with
  | .drainRead _ copy _ _ =>
    match s.copy? id copy with
    | some (p, c) => if c.chunks.isEmpty then s.endCopy p c stDone else s
    | none => s
  | _ => s

/-- MATRIX_OP_COMPLETE: the first tile operation of the plot completes, its flags are ORed into srFPF and its locks go. -/
def execMatrixOpComplete (plot : Nat) (s : State) : Host.Outcome State Fault Refusal :=
  match s.plot? plot with
  | none => .next s
  | some p =>
    match s.tileReady p with
    | none => .next s
    | some o =>
      let r := s.runTile p o
      let s1 := r.1.modPlot plot (fun q => { (q.modBoth (fun g => g.orFpf r.2)) with tops := q.tops.filter (fun x => x.id != o.id) })
      .next (((s1.dropLocks p o.id).endDrained plot o.kind).finish plot)

/-! ### The words -/

/-- CPY.TLOAD. -/
def execCpyTload (d a b : Reg) (l : Bool) (sc : Scope) (s : State) : Host.Outcome State Fault Refusal := runWord (.cpyTload d a b l sc) (cpyWord .tload d a b sc) s

/-- CPY.TSTORE. -/
def execCpyTstore (d a b : Reg) (l : Bool) (sc : Scope) (s : State) : Host.Outcome State Fault Refusal := runWord (.cpyTstore d a b l sc) (cpyWord .tstore d a b sc) s

/-- CPY.TADDF. -/
def execCpyTaddf (d a b : Reg) (l : Bool) (sc : Scope) (s : State) : Host.Outcome State Fault Refusal := runWord (.cpyTaddf d a b l sc) (cpyWord .taddf d a b sc) s

/-- CPY.LINR. -/
def execCpyLinr (d a b : Reg) (l : Bool) (sc : Scope) (s : State) : Host.Outcome State Fault Refusal := runWord (.cpyLinr d a b l sc) (cpyWord .linr d a b sc) s

/-- CPY.GATHER. -/
def execCpyGather (d a b : Reg) (l : Bool) (sc : Scope) (s : State) : Host.Outcome State Fault Refusal := runWord (.cpyGather d a b l sc) (cpyWord .gather d a b sc) s

/-- CPY.PUBL. -/
def execCpyPubl (d a b : Reg) (l : Bool) (sc : Scope) (s : State) : Host.Outcome State Fault Refusal := runWord (.cpyPubl d a b l sc) (cpyWord .publ d a b sc) s

/-- CPY.PULL. -/
def execCpyPull (d a b : Reg) (l : Bool) (sc : Scope) (s : State) : Host.Outcome State Fault Refusal := runWord (.cpyPull d a b l sc) (cpyWord .pull d a b sc) s

/-- DRAIN. -/
def execDrain (d a b : Reg) (m : DrainMode) (r : DrainRnd) (t : DrainDst) (s : State) : Host.Outcome State Fault Refusal :=
  runWord (.drain d a b m r t) (drainWord d a b m r t) s

end Sys2Proof.Machine
end

