-- ==== Sys2Proof/Machine/Gate.lean ====
section
/-! DEFINITION. Accesses that belong to no plot: the gatehouse's, a fabric target's and a reduction unit's, each at virtual
addresses of a context (14_gatehouse_launch.md R343–R347; 15_isolation.md R358, R361; 10_fabric_collectives.md R254). -/

namespace Sys2Proof.Machine

/-- What such an access comes to: done; waiting for a translation, a page request or the host budget; refused by the host; an
address that names no memory (a name range, a window, an unregistered aperture); bytes with an uncorrectable error; memory the
module does not have. -/
inductive Gated where
  | ok
  | wait
  | refused (va : Nat)
  | nowhere (va : Nat)
  | bad (va : Nat)
  | absent (pa : Nat)
  deriving DecidableEq, Repr

structure GateHunt where
  s : State
  parts : List (Loc × Nat)
  res : Gated

/-- Find one run of bytes within a page. [DEDUCED: log entry 66] -/
def GateHunt.piece (ctx : Nat) (write : Bool) (h : GateHunt) (x : DWord × Nat) : GateHunt :=
  if h.res ≠ .ok then h
  else
    let va := x.1.toNat
    let pasid := h.s.pasid ctx
    match regionOf x.1 with
    | .global _ =>
      if h.s.touchesName ctx va x.2 then { h with res := .nowhere va }
      else if h.s.xl.refusedPage pasid va then
        { h with s := { h.s with xl := h.s.xl.forget pasid (pageOf va) }, res := .refused va }
      else
        match h.s.translate gatehousePav pasid va x.2 write with
        | (.at l, s1) => { h with s := s1, parts := h.parts ++ [(l, x.2)] }
        | (.unregistered _, s1) => { h with s := s1, res := .nowhere va }
        | (.refused, s1) => { h with s := s1, res := .refused va }
        | (.absent pa, s1) => { h with s := s1, res := .absent pa }
        | (.miss, _) => { h with s := h.s.askAts gatehousePav pasid va write, res := .wait }
        | (.denied, _) =>
          if h.s.xl.answeredPage pasid va write then
            { h with s := { h.s with xl := h.s.xl.forget pasid (pageOf va) }, res := .refused va }
          else { h with s := h.s.askPage ctx ⟨pageOf va, write⟩, res := .wait }
    | _ => { h with res := .nowhere va }

/-- Find n bytes. [DEDUCED: log entry 45] -/
def State.gateFind (s : State) (ctx : Nat) (va : DWord) (n : Nat) (write : Bool) : GateHunt :=
  (splitPage va n).foldl (GateHunt.piece ctx write) ⟨s, [], .ok⟩

/-- Read n bytes for a context. -/
def State.gateRead (s : State) (ctx : Nat) (va : DWord) (n : Nat) : Gated × State × List Byte :=
  let h := s.gateFind ctx va n false
  match h.res with
  | .ok =>
    match h.s.badPart 0 h.parts with
    | some (i, l) => (.bad (va.toNat + i), h.s.logError l 0, List.replicate n 0#8)
    | none =>
      match h.s.dma false h.parts with
      | (false, s1) => (.wait, s1, [])
      | (true, s1) =>
        let r := s1.engineParts gatehousePav h.parts
        (.ok, r.1, r.2)
  | r => (r, h.s, [])

/-- Write bytes for a context. -/
def State.gateWrite (s : State) (ctx : Nat) (va : DWord) (data : List Byte) : Gated × State :=
  let h := s.gateFind ctx va data.length true
  match h.res with
  | .ok =>
    match h.s.dma true h.parts with
    | (false, s1) => (.wait, s1)
    | (true, s1) => (.ok, (dealBytes h.parts data).foldl (fun s y => s.engineWrite gatehousePav y.1 y.2) s1)
  | r => (r, h.s)

/-- What a write that must wait leaves: the requests it sends, or, where its translation is there, its wait for the host-DMA budget
(14_gatehouse_launch.md R354). -/
def State.gateAsk (s : State) (ctx : Nat) (va : DWord) (n : Nat) : State :=
  let h := s.gateFind ctx va n true
  match h.res with
  | .ok => { h.s with budgets := h.s.budgets.set 0 ((h.s.budget 0).wait 1) }
  | _ => h.s

/-- Put the queued writes of every pavilion to the L2, and make every write visible in every view (R188). -/
def State.drainEverything (s : State) : State :=
  ((s.pavs.map Pavilion.num).foldl State.drainAll s).syncViews

/-- Invalidate every L1 of the module (R188, R353). -/
def State.invalidateAll (s : State) : State := { s with pavs := s.pavs.map (fun v => { v with l1 := [] }) }

/-- Add to or store into a 64-bit signal word (Table 14-5), after everything written before it. -/
def State.signal (s : State) (ctx : Nat) (va : DWord) (add : Bool) (v : DWord) : Gated × State :=
  let h := s.gateFind ctx va 8 true
  match h.res with
  | .ok =>
    let r := h.s.engineParts gatehousePav h.parts
    let old := BitVec.ofNat 64 (leNat r.2)
    let s1 := match r.1.badPart 0 h.parts with | some (_, l) => if add then r.1.logError l 0 else r.1 | none => r.1
    s1.gateWrite ctx va (natBytes (if add then old + v else v).toNat 8)
  | r => (r, h.s)

/-- Make a launch's writes visible and add 1 to its signal word (R188, R351): waiting leaves all else for later; a refused write
leaves an error record with reason 7. `none` where the word must still wait. [DEDUCED: log entry 67] -/
def State.completeSignal (s : State) (ctx queue : Nat) (va : DWord) : Except Nat (Option State) :=
  let s1 := s.drainEverything
  match s1.signal ctx va true 1#64 with
  | (.ok, s2) => .ok (some s2)
  | (.wait, _) => .ok none
  | (.absent pa, _) => .error pa
  | (.refused x, s2) | (.nowhere x, s2) | (.bad x, s2) =>
    .ok (some (s2.errorRecord ctx queue 0 7 0#32 0#32 (BitVec.ofNat 64 x)))

end Sys2Proof.Machine
end

