-- ==== Sys2Proof/Machine/Place.lean ====
section
/-! DEFINITION. Placing plots (14_gatehouse_launch.md R348, R349; 11_strands_bundles.md R271–R273, R292; 05_matrix_engine.md
R112–R114): what a plot needs, the power tokens (01_apnak_device.md R22), the order of placement, and a plot as it starts. -/

namespace Sys2Proof.Machine

/-! ### A plot as it starts -/

def Front.fresh (pc : Word) (now : Nat) : Front :=
  { regs := Vector.replicate 64 0#64, flags := Vector.replicate 4 false, depth := 0, ag := Agent.start pc .waiting now }

/-- A front thread at its entry, or EXITED from the start where there is none. -/
def Front.at (entry : Word) (regs : Vector DWord 64) (depth : Nat) : Front :=
  { Front.fresh entry 0 with
    regs := regs
    depth := depth
    ag := Agent.start entry (if entry = 0xFFFFFFFF#32 then .exited else .waiting) 0 }

/-- A plot with no strand (R41, R313, R379). -/
def Plot.fresh (id ctx pav : Nat) (front : Front) : Plot :=
  { id := id, launch := id, origin := .grid, ctx := ctx, coord := (0, 0, 0), srPlot := 0#32, pav := pav, bed := 0, rows := [],
    flags0 := 7#32, spadKib := 0, privBytes := 0, privBase := 0, tiles := [], tileS32 := [],
    regs := { strands := [], front := front, banks := Banks.reset, fpf := 0#32, frontier := [], overflow := [] },
    ck := none, bundle := none, bars := Vector.replicate 16 Barrier.reset, dq := [], pcyc := 0, arrivals := 0, nextKey := 0,
    nextOp := 0, tops := [], copies := [], gatherAt := none, moves := [], run := .running, ra := none, batch := [], prg := none,
    refused := [], answered := [], token := false, resident := true, saved := none, heldResponse := none,
    halt := none, stalled := false, issuedAt := 0 }

def Launch.fresh (id ctx : Nat) (code map : DWord) (bytes : Nat) : Launch :=
  { id := id, ctx := ctx, queue := 0, nx := 1, ny := 1, nz := 1, n := 1, tiles := 0, gang := false, spadKib := 0, priv := 0,
    bind := none, code := code, map := map, bytes := bytes, lane := 0#32, uni := 0#32, preload := [], handles := [], fed := none,
    signal := 0#64, rk := Vector.replicate 4 0#64, next := 1, retired := 0 }

def Context.fresh (slot pasid : Nat) : Context :=
  { slot := slot, pasid := pasid, flags := 7#32, spad := 0, csp := 0, priv := 0#64, elog := 0#64, vec := 0, resident := true,
    present := true, locks := [], queues := [], rk := Vector.replicate 4 0#64, handles := [], records := 0, pending := [] }

/-- Give the plot strands, each at its place in the frontier. -/
def Plot.withStrands (p : Plot) (l : List Strand) : Plot :=
  { p with nextKey := l.length, regs := l.foldl (fun g st => g.join st.key false) { p.regs with strands := l } }

/-! ### Power tokens (R22, R354) -/

/-- P. -/
def State.tokenPool (s : State) : Nat := 320 * min s.mgmt.cap s.mgmt.thermal / 3000

def State.tokensHeld (s : State) : Nat := (s.plots.filter (fun p => p.token)).length

/-- Draw n tokens: none while the pool has fewer, or the draws would pass their budget. -/
def State.drawTokens (s : State) (n : Nat) : Bool × State :=
  let b := s.budget 5
  if n = 0 then (true, s)
  else if s.tokenPool < s.tokensHeld + n then (false, s)
  else if b.limit < b.spent.getD 0 0 + n then (false, { s with budgets := s.budgets.set 5 (b.wait 0) })
  else s.spend 5 0 n

/-- Whether a placement that draws n tokens would find them. -/
def State.tokenFree (s : State) (n : Nat) : Bool :=
  decide (s.tokensHeld + n ≤ s.tokenPool) && decide ((s.budget 5).spent.getD 0 0 + n ≤ (s.budget 5).limit)

/-! ### What a pavilion has (R349) -/

/-- What a plot needs of a pavilion, and its place in the order of launches: those of a launch go before the stage groups that it
serves, by srPLOT. -/
structure Want where
  order : Nat
  ctx : Nat
  rows : Nat
  tiles : Nat
  spadKib : Nat
  priv : Nat
  gang : Bool
  deriving DecidableEq, Repr

/-- The tokens its placement draws. -/
def Want.draw (w : Want) : Nat := if w.tiles = 0 then 0 else if w.gang then 8 else 1

def State.residentOn (s : State) (pav : Nat) : List Plot := s.plots.filter (fun p => p.pav == pav && p.resident)

/-- Tiles in no plot's hands. -/
def State.freeTiles (s : State) (pav : Nat) : List Nat :=
  let used := (s.residentOn pav).flatMap (fun p => p.tiles)
  (List.range 16).filter (fun k => !used.contains k)

/-- The bytes of a pavilion's SPAD that the parts on it take. -/
def State.spadUsed (s : State) (pav : Nat) : Nat :=
  (s.pav pav).parts.foldl (fun n c => n + (match s.ctx? c with | some x => x.spad | none => 0)) 0

/-- The context has a part there or one fits, and it is large enough. -/
def State.partFits (s : State) (pav ctx kib : Nat) : Bool :=
  match s.ctx? ctx with
  | none => false
  | some c => decide (kib * 1024 ≤ c.spad) && ((s.pav pav).parts.contains ctx || decide (s.spadUsed pav + c.spad ≤ spadBytes))

/-- The bytes of its context's PRIV backing that a plot takes: its strands and those in spawn memory are fewer than 1,024. [DESIGN CHOICE: log entry 47] -/
def privSpan (bytes : Nat) : Nat := 1024 * bytes

/-- The first bytes of a context's PRIV backing that no plot of it has. [DESIGN CHOICE: log entry 47] -/
def State.privPlace (s : State) (ctx bytes : Nat) : Nat :=
  let mine := s.plots.filter (fun q => q.ctx == ctx && q.privBytes != 0)
  let free := fun (a : Nat) =>
    mine.all (fun q => decide (a + privSpan bytes ≤ q.privBase) || decide (q.privBase + privSpan q.privBytes ≤ a))
  ((mine.map (fun q => q.privBase + privSpan q.privBytes)).filter free).foldl
    (fun m a => if a < m || !free m then a else m) 0

/-- The PRIV backing a plot needs (R349): none, or bytes that its context's backing has below the windows. [DESIGN CHOICE: log entry 47] -/
def State.privFits (s : State) (ctx bytes : Nat) : Bool :=
  bytes == 0 ||
  (match s.ctx? ctx with
   | some c => c.priv != 0#64 && decide (c.priv.toNat + s.privPlace ctx bytes + privSpan bytes ≤ 0xFFFF000000000000)
   | none => false)

/-- The gatehouse places no plot of a non-resident context, nor during a handover with RESET. -/
def State.placing (s : State) (ctx : Nat) : Bool := s.isResident ctx && s.mgmt.moving.isNone && s.mgmt.powered

/-- A bed of a pavilion has what a plot needs but for its token. -/
def State.fits (s : State) (w : Want) (pav bed : Nat) : Bool :=
  decide (pav < 320) && decide (bed < 16) && s.placing w.ctx && decide (w.rows ≤ (s.freeRows pav bed).length) &&
  decide ((s.residentOn pav).length < 64) && decide (w.tiles ≤ (s.freeTiles pav).length) && s.partFits pav w.ctx w.spadKib &&
  s.privFits w.ctx w.priv

/-- Some pavilion has what a plot needs, or some grove what a GANG of eight needs, but for the tokens. -/
def State.fitsSomewhere (s : State) (w : Want) : Bool :=
  let on := fun (pav : Nat) => (List.range 16).any (fun bed => s.fits w pav bed)
  if w.gang then (List.range 40).any (fun g => (List.range 8).all (fun j => on (8 * g + j))) else (List.range 320).any on

/-! ### The order of placement (R348, R385) -/

/-- A plot that waits to run again: RETURNABLE, or saved with a context that is resident again. -/
def State.awaitsReturn (s : State) (p : Plot) : Bool :=
  !p.resident && (p.run == .returnable || p.run == .running) && s.placing p.ctx

/-- New plots leave a pavilion to those that wait to run on it again, but for matrix plots that wait for a token. [DEDUCED: log entry 72] -/
def State.pavFree (s : State) (pav tiles : Nat) : Bool :=
  s.plots.all (fun p => !(p.pav == pav && s.awaitsReturn p) || (tiles == 0 && !p.tiles.isEmpty && !p.token && !s.tokenFree 1))

/-- The place of a plot in the order of launches. -/
def State.orderOf (s : State) (p : Plot) : Nat :=
  match s.codeOf p, p.origin with
  | some l, .grid => 2 * l.id
  | some l, .stage _ _ => 2 * l.id + 1
  | none, _ => 0

/-- A matrix plot that waits to run again draws its token before a new one of a later place, and a RETURNABLE one before any (R22, R385). -/
def State.tokenFirst (s : State) (order : Nat) : Bool :=
  s.plots.any (fun p => s.awaitsReturn p && !p.tiles.isEmpty && !p.token && (p.run == .returnable || decide (s.orderOf p ≤ order)))

def Launch.total (l : Launch) : Nat := l.nx * l.ny * l.nz

def Launch.want (l : Launch) : Want := ⟨2 * l.id, l.ctx, (l.n + 31) / 32, l.tiles, l.spadKib, 16 * l.priv, l.gang⟩

def State.liveGroups (s : State) (t : Trellis) : Nat :=
  (s.plots.filter (fun p => p.launch == t.id && (match p.origin with | .stage _ _ => true | .grid => false))).length

/-- The stage groups that are due: LAUNCHABLE queues of a trellis with a code object and a group to spare (R325, R330). [DEDUCED: log entry 93] -/
def State.dueGroups (s : State) (t : Trellis) : List Want :=
  match t.code with
  | none => []
  | some l =>
    if t.groups ≤ s.liveGroups t then []
    else (t.stages.filter (fun k => k.state == .launchable)).map (fun k => ⟨2 * l.id + 1, t.ctx, 1, k.tiles, k.spadKib, k.priv, false⟩)

/-- Everything that waits for a place. -/
def State.wanting (s : State) : List Want :=
  (s.launches.filter (fun l => decide (l.next < l.total))).map Launch.want ++ s.trellises.flatMap s.dueGroups

/-- A matrix plot waits only for a power token (R22). -/
def State.lacksToken (s : State) (x : Want) : Bool := x.tiles != 0 && !s.tokenFree x.draw && s.fitsSomewhere x

/-- Whether a plot may be placed now: nothing of an earlier launch waits, but for matrix plots that lack only a token, past
which plots without tiles go; and no plot that waits to run again draws its token first. [DEDUCED: log entries 93, 99] -/
def State.inTurn (s : State) (w : Want) : Bool :=
  s.wanting.all (fun x => decide (w.order ≤ x.order) || !s.placing x.ctx || (w.tiles == 0 && s.lacksToken x)) &&
  (w.tiles == 0 || !s.tokenFirst w.order)

/-! ### Placing -/

/-- Take the physical tiles, zeroed where another context used them last (R114). [DEDUCED: log entry 60] -/
def State.claimTiles (s : State) (pav ctx : Nat) (l : List Nat) : State :=
  l.foldl (fun s k =>
    let t := s.physTile pav k
    s.setPhysTile pav k (if t.ctx = some ctx then t else ⟨some ctx, [], []⟩)) s

/-- What another context has left in a pavilion's SPAD: its part there has been freed, and no plot of it is saved from there. -/
def State.leftOver (s : State) (pav ctx : Nat) : Bool :=
  !(s.pav pav).parts.contains ctx && !s.plots.any (fun p => p.pav == pav && p.ctx == ctx)

/-- Take the context's part of the pavilion's SPAD: what other contexts have left there is zeroed (R341). [DESIGN CHOICE: log entry 47] -/
def State.claimPart (s : State) (pav ctx : Nat) : State :=
  if (s.pav pav).parts.contains ctx then s
  else
    let gone := (List.range 64).filter (fun c => c != ctx && s.leftOver pav c)
    let s1 := { s with mem := { s.mem with
      spad := gone.foldl (fun m c => cellsClear m (spadAt pav c 0) (spadAt pav c spadBytes)) s.mem.spad
      bad := s.mem.bad.filter (fun b => !(b.space == Space.spad && gone.any (fun c => b.addr / 2 ^ 19 == pav * 64 + c))) } }
    s1.modPav pav (fun v => { v with parts := v.parts ++ [ctx] })

/-- Put a plot on a bed of a pavilion. Its start is an acquire, which invalidates the L1 (R190, R329). [DEDUCED: log entry 122] -/
def State.install (s : State) (p : Plot) (pav bed rows tiles : Nat) : State :=
  let id := s.ids
  let mine := (s.freeTiles pav).take tiles
  let q := { p with
    id := id, pav := pav, bed := bed, rows := (s.freeRows pav bed).take rows, tiles := mine, tileS32 := List.replicate tiles false,
    privBase := s.privPlace p.ctx p.privBytes, token := decide (tiles ≠ 0), flags0 := (match s.ctx? p.ctx with | some c => c.flags | none => 0#32) }
  let s1 := ((s.claimTiles pav p.ctx mine).claimPart pav p.ctx).invalidateL1 pav
  { s1 with plots := s1.plots ++ [q], ids := id + 1 }.finish id

/-- The strands of a grid plot (R271, R292). -/
def Launch.strands (l : Launch) : List Strand :=
  (List.range l.n).map (fun i =>
    { Strand.start i (BitVec.ofNat 32 i) (i / 32) (i % 32) l.lane 0 with cohort := some (BitVec.ofNat 4 (i / 32)) })

/-- s1 to sP (R348). -/
def Launch.uniRegs (l : Launch) : Vector DWord 64 :=
  (Vector.replicate 64 0#64).mapFinIdx (fun i v _ => if i = 0 then v else l.preload.getD (i - 1) v)

/-- Plot i of a launch. -/
def Launch.plot (l : Launch) (i : Nat) : Plot :=
  { (Plot.fresh 0 l.ctx 0 (Front.at l.uni l.uniRegs 0)).withStrands l.strands with
    launch := l.id, coord := (i % l.nx, i / l.nx % l.ny, i / (l.nx * l.ny)), srPlot := BitVec.ofNat 32 i, spadKib := l.spadKib,
    privBytes := 16 * l.priv }

/-- The next plot of a launch onto a bed. -/
def State.placeNext (s : State) (id pav bed : Nat) : State :=
  match s.launch? id with
  | none => s
  | some l => (s.modLaunch id (fun l => { l with next := l.next + 1 })).install (l.plot l.next) pav bed l.want.rows l.tiles

/-- The oldest launch that may place a plot at a place. [DEDUCED: log entry 99] -/
def State.placeable (s : State) (gang : Bool) (ok : Want → Bool) : Option Launch :=
  s.launches.find? (fun l => decide (l.next < l.total) && l.gang == gang && s.inTurn l.want && ok l.want)

/-- PLOT_PLACEMENT: the next plot goes to a bed, or eight go to the pavilions of a grove (R349). [DEDUCED: log entries 99, 122] -/
def execPlotPlacement (pav : Nat) (beds : List Nat) (s : State) : Host.Outcome State Fault Refusal :=
  match beds with
  | [bed] =>
    match s.placeable false (fun w => s.fits w pav bed && s.pavFree pav w.tiles) with
    | none => .next s
    | some l =>
      match s.drawTokens l.want.draw with
      | (false, s1) => .next s1
      | (true, s1) => .next (s1.placeNext l.id pav bed)
  | _ =>
    if beds.length ≠ 8 ∨ pav % 8 ≠ 0 then .next s
    else
      let at_ := beds.zipIdx.map (fun x => (pav + x.2, x.1))
      match s.placeable true (fun w => at_.all (fun x => s.fits w x.1 x.2 && s.pavFree x.1 w.tiles)) with
      | none => .next s
      | some l =>
        match s.drawTokens l.want.draw with
        | (false, s1) => .next s1
        | (true, s1) => .next (at_.foldl (fun s x => s.placeNext l.id x.1 x.2) s1)

end Sys2Proof.Machine
end

