-- ==== Sys2Proof/Machine/Trellis.lean ====
section
/-! DEFINITION. The trellis (13_trellis_progress.md R322–R333): stage queues in memory, emission, the coalescing launcher's
state machine, stage groups, and completion. -/

namespace Sys2Proof.Machine

/-! ### Queues -/

/-- The launcher's own clock: the leading gatehouse is die 0's (R18). -/
def State.leadCycles (s : State) : Nat := s.dieCycles 0

def Trellis.stage? (t : Trellis) (k : Nat) : Option Stage := t.stages[k]?

def Trellis.modStage (t : Trellis) (k : Nat) (f : Stage → Stage) : Trellis := { t with stages := t.stages.modify k f }

/-- Credits held (R326). -/
def Trellis.held (t : Trellis) : Nat := t.stages.foldl (fun n k => n + k.recs.length) 0

def Trellis.room (t : Trellis) (k : Nat) : Bool :=
  match t.stage? k with
  | some q => decide (q.recs.length < q.cap) && decide (t.held < t.pool)
  | none => false

/-- The header word of a slot (Table 13-4). -/
def slotHeader (k : Nat) (r : Record) (valid : Bool) : Nat :=
  r.depth % 16 + 16 * (k % 64) + (if valid then 2 ^ 16 else 0) + (if r.coll then 2 ^ 17 else 0) + (if r.seed then 2 ^ 18 else 0)

/-- A slot's 64 bytes (Table 13-3). -/
def slotImage (k : Nat) (r : Record) (valid : Bool) : List Byte :=
  r.words.flatMap (fun w => natBytes w.toNat 4) ++ natBytes (slotHeader k r valid) 4 ++ natBytes r.emitter.toNat 4 ++
    natBytes r.seq 8 ++ List.replicate 16 0#8

/-- The state of a queue after an acceptance (Table 13-5), with w records in it. -/
def Stage.afterAccept (q : Stage) (w : Nat) : QueueState :=
  match q.state with
  | .launchable => .launchable
  | _ => if q.thr ≤ w then .launchable else .collecting

/-- The launcher accepts a record (R326, R328): it fills the slot at the tail and holds a credit. -/
def State.accept (s : State) (tid k : Nat) (words : List Word) (depth : Nat) (seed coll : Bool) (emitter : Word) : State :=
  match s.trellisById? tid with
  | none => s
  | some t =>
    match t.stage? k with
    | none => s
    | some q =>
      let r : Record := ⟨words, depth, seed, coll, emitter, t.seq, s.leadCycles⟩
      let s1 := s.l2Write (q.base + 64 * (q.tail % q.cap)) (slotImage k r true)
      s1.modTrellis tid (fun t =>
        { t.modStage k (fun q => { q with recs := q.recs ++ [r], tail := q.tail + 1, state := q.afterAccept (q.recs.length + 1) })
          with seq := t.seq + 1 })

/-! ### Emitters (R327) -/

/-- A plot is a stage group of the trellis, and of which stage. -/
def Plot.stageOf (p : Plot) (t : Trellis) : Option Nat :=
  match p.origin with
  | .stage _ k => if p.launch = t.id then some k else none
  | .grid => none

def Plot.depthOf (p : Plot) (w : Who) : Nat :=
  match w with
  | .front => p.regs.front.depth
  | .strand k => match p.regs.strand? k with | some st => st.depth | none => 0

/-- The depth a record of an agent has. -/
def Plot.emitDepth (p : Plot) (t : Trellis) (w : Who) : Nat := if (p.stageOf t).isSome then p.depthOf w + 1 else 0

/-- The record words an agent names. -/
def Regs.recordWords (g : Regs) (w : Who) (b : Reg) : List Word :=
  (List.range 8).map (fun i => (g.zx w (regPlus b i)).setWidth 32)

/-- The trellis and the stage a target word names for a context. -/
def State.targetOf (s : State) (ctx : Nat) (x : Word) : Option (Trellis × Nat) :=
  let stage := x.toNat % 64
  match s.trellis? ctx (x.toNat / 2 ^ 16) with
  | some t => if x.toNat / 64 % 1024 = 0 ∧ stage < t.stages.length then some (t, stage) else none
  | none => none

/-- The checks of R332 after R54 and the tags: the trellis, the stage and the depth of the record. [DEDUCED: log entry 92] -/
def State.trlTarget (s : State) (p : Plot) (w : Who) (a : Reg) (emits : Bool) : Except Res (Trellis × Nat × Nat) :=
  match tag32 p w a with
  | some r => .error r
  | none =>
    match high32 p w a with
    | some r => .error r
    | none =>
      let x := low32 p w a
      match s.targetOf p.ctx x with
      | none => .error (illegalEntry (x.setWidth 64))
      | some (t, k) =>
        let barred := emits && (match p.stageOf t with
          | some j => match t.stage? j with | some q => !q.succ.getLsbD k | none => true
          | none => false)
        if barred then .error (illegalEntry (x.setWidth 64))
        else
          let d := p.emitDepth t w
          let most := match t.stage? k with | some q => q.maxDepth | none => 0
          if emits && decide (most < d) then .error (.trap .depth 0 (BitVec.ofNat 64 (x.toNat + 2 ^ 32 * (d % 32))))
          else .ok (t, k, d)

/-! ### EMITW waiting -/

/-- An EMITW that waits: its plot, agent, and how long ago it began. -/
structure Waiter where
  plot : Nat
  who : Who
  stage : Nat
  depth : Nat
  words : List Word
  since : Nat

/-- What a BLOCKED EMITW on the trellis waits to emit. -/
def Plot.emitWaits (p : Plot) (t : Trellis) : List Waiter :=
  p.real.agents.filterMap (fun x =>
    match x.2.phase, x.2.wait with
    | .blocked, .emitw a b _ =>
      let target := (p.real.zx x.1 a).setWidth 32
      if p.ctx = t.ctx ∧ target.toNat / 2 ^ 16 = t.handle then
        some ⟨p.id, x.1, target.toNat % 64, p.emitDepth t x.1, p.real.recordWords x.1 b, x.2.since⟩
      else none
    | _, _ => none)

/-- The oldest waiter of a running plot that room has come to. -/
def State.nextWaiter (s : State) (t : Trellis) : Option Waiter :=
  let l := ((s.plots.filter (fun p => p.run == .running && p.resident)).flatMap (fun p => p.emitWaits t)).filter (fun w => t.room w.stage)
  l.foldl (fun m w => match m with | none => some w | some x => if w.since < x.since then some w else some x) none

/-- An accepted EMIT is a release of the emitter at dev scope (R329). -/
def State.emitFrom (s : State) (p : Plot) (tid k depth : Nat) (words : List Word) : State :=
  (s.releaseAt p.pav .dev).accept tid k words depth false false p.srPlot

/-- EMITW_ACCEPT: room that has come to a trellis goes to the EMITWs that wait on it, oldest first (R328). [DEDUCED: log entry 28] -/
def State.serveWaiters (s : State) (tid : Nat) : Nat → State
  | 0 => s
  | n + 1 =>
    match s.trellisById? tid with
    | none => s
    | some t =>
      match s.nextWaiter t with
      | none => s
      | some w =>
        match s.plot? w.plot with
        | none => s
        | some p =>
          let s1 := s.emitFrom p tid w.stage w.depth w.words
          let s2 := s1.modPlot w.plot (fun p => p.modRegs (fun g => (g.setFlag w.who 0#2 true).retire w.who 4))
          (s2.finish w.plot).serveWaiters tid n

/-! ### TRL -/

/-- EMIT, and EMITW with its limit. -/
def emitWord (a b : Reg) (limit : Plot → Who → Except Res Nat) : WordFn := withPlot (fun c p s =>
  match (match tag32 p c.who a with | some r => (.error r : Except Res Nat) | none => limit p c.who) with
  | .error r => (s, r)
  | .ok n =>
    match s.trlTarget p c.who a true with
    | .error r => (s, r)
    | .ok (t, k, d) =>
      let flag := fun (s : State) (ok : Bool) => s.modPlot c.plot (fun p => p.modRegs (fun g => g.setFlag c.who 0#2 ok))
      if !p.drained c.who then (s, .hold .stall)
      else if t.room k then (flag (s.emitFrom p t.id k d (p.regs.recordWords c.who b)) true, .done)
      else if n = 0 then (flag s false, .done)
      else (s, .block (.emitw a b n)))

/-- EMITW's limit: accepted with the tags RAW, S32 and Z32. -/
def emitLimit (d : Reg) (p : Plot) (w : Who) : Except Res Nat :=
  match tag32 p w d with
  | some r => .error r
  | none => .ok (low32 p w d).toNat

/-- QSTAT. -/
def qstatWord (d a : Reg) : WordFn := withPlot (fun c p s =>
  match s.trlTarget p c.who a false with
  | .error r => (s, r)
  | .ok (t, k, _) =>
    let w := match t.stage? k with | some q => q.recs.length | none => 0
    let free := t.pool - t.held
    (s.modPlot c.plot (fun p => p.modRegs (fun g =>
      (match c.who with
       | .front => g.setS d (BitVec.ofNat 64 (w + 2 ^ 32 * free))
       | .strand _ => g.setR c.who d .z32 (BitVec.ofNat 32 w)).setFlag c.who 0#2 (t.room k))), .done))

/-- DEPTH. -/
def depthWord (d a : Reg) : WordFn := withPlot (fun c p s =>
  match s.trlTarget p c.who a false with
  | .error r => (s, r)
  | .ok (t, k, depth) =>
    let most := match t.stage? k with | some q => q.maxDepth | none => 0
    let x := BitVec.ofInt 64 ((most : Int) - depth)
    (s.modPlot c.plot (fun p => p.modRegs (fun g =>
      (match c.who with
       | .front => g.setS d x
       | .strand _ => g.setR c.who d .s32 (x.setWidth 32)).setFlag c.who 0#2 (decide (depth ≤ most)))), .done))

/-- EMIT. -/
def execEmit (a b : Reg) (s : State) : Host.Outcome State Fault Refusal := runWord (.emit a b) (emitWord a b (fun _ _ => .ok 0)) s

/-- EMITW. -/
def execEmitw (d a b : Reg) (s : State) : Host.Outcome State Fault Refusal := runWord (.emitw d a b) (emitWord a b (emitLimit d)) s

/-- QSTAT. -/
def execQstat (d a : Reg) (s : State) : Host.Outcome State Fault Refusal := runWord (.qstat d a) (qstatWord d a) s

/-- DEPTH. -/
def execDepth (d a : Reg) (s : State) : Host.Outcome State Fault Refusal := runWord (.depth d a) (depthWord d a) s

/-! ### Events of the launcher -/

/-- The live trellis of a handle: a handle is live for one context at a time (Table 13-1). -/
def State.liveTrellis (s : State) (handle : Nat) : Option Trellis := s.trellises.find? (fun t => t.handle == handle)

/-- The age of the oldest waiting record. -/
def Stage.age (q : Stage) (now : Nat) : Nat := match q.recs with | r :: _ => now - r.at_ | [] => 0

/-- QUEUE_AGE_EXPIRY (Table 13-5): a COLLECTING queue whose oldest record reaches age C becomes LAUNCHABLE. -/
def execQueueAgeExpiry (handle stage : Nat) (s : State) : Host.Outcome State Fault Refusal :=
  match s.liveTrellis handle with
  | none => .next s
  | some t =>
    match t.stage? stage with
    | none => .next s
    | some q =>
      if q.state = .collecting ∧ q.timer ≤ q.age s.leadCycles then
        .next (s.modTrellis t.id (fun t => t.modStage stage (fun q => { q with state := .launchable })))
      else .next s

/-- EMITW_TIMEOUT (Table 13-7): the limit passes, in resident cycles of the pavilion. -/
def execEmitwTimeout (plot : Nat) (who : Who) (s : State) : Host.Outcome State Fault Refusal :=
  match s.plot? plot with
  | none => .next s
  | some p =>
    match p.agent? who with
    | none => .next s
    | some a =>
      match a.phase, a.wait with
      | .blocked, .emitw _ _ n =>
        if p.run = .running ∧ p.resident ∧ a.blockedAt + n ≤ s.cycles p.pav then
          .next ((s.modPlot plot (fun p => p.modRegs (fun g => (g.setFlag who 0#2 false).retire who 4))).finish plot)
        else .next s
      | _, _ => .next s

/-- The queue's state after n records are taken (Table 13-5). -/
def Stage.afterTake (q : Stage) (now : Nat) (rest : List Record) : QueueState :=
  match rest with
  | [] => .idle
  | r :: _ => if q.thr ≤ rest.length ∨ q.timer ≤ now - r.at_ then .launchable else .collecting

/-- A group takes the n oldest records of a stage: their slots are no longer VALID, and their credits are free. -/
def State.takeRecords (s : State) (t : Trellis) (k n : Nat) (q : Stage) : State :=
  let s1 := (q.recs.take n).zipIdx.foldl (fun s x =>
    s.l2Write (q.base + 64 * ((q.head + x.2) % q.cap) + 32) (natBytes (slotHeader k x.1 false) 4)) s
  s1.modTrellis t.id (fun t => t.modStage k (fun q =>
    { q with recs := q.recs.drop n, head := q.head + n, started := q.started + 1, state := q.afterTake s.leadCycles (q.recs.drop n) }))

/-- A strand of a stage group with its record (R331). -/
def Stage.strand (q : Stage) (i : Nat) (r : Record) : Strand :=
  { Strand.start i (BitVec.ofNat 32 i) 0 i q.lane 0 with
    cohort := some 0#4
    depth := r.depth
    regs := (Vector.replicate 64 VReg.zero).mapFinIdx (fun j v _ => if j < 8 then ⟨r.words.getD j 0#32, .raw⟩ else v) }

/-- A stage group of n records (R295, R331). -/
def Trellis.groupPlot (t : Trellis) (k : Nat) (q : Stage) (recs : List Record) : Plot :=
  let depth := match recs with | r :: _ => r.depth | [] => 0
  let uni := (Vector.replicate 64 0#64).mapFinIdx (fun i v _ =>
    if i = 1 then BitVec.ofNat 64 recs.length
    else if i = 2 then BitVec.ofNat 64 (2 ^ 16 * t.handle + k)
    else if i = 3 then BitVec.ofNat 64 depth
    else v)
  { (Plot.fresh 0 t.ctx 0 (Front.at q.uni uni depth)).withStrands (recs.zipIdx.map (fun x => q.strand x.2 x.1)) with
    launch := t.id, origin := .stage t.handle k, srPlot := BitVec.ofNat 32 (0x80000000 + 2 ^ 24 * k + q.started % 2 ^ 24),
    spadKib := q.spadKib, privBytes := q.priv }

def Trellis.want (t : Trellis) (l : Launch) (q : Stage) : Want := ⟨2 * l.id + 1, t.ctx, 1, q.tiles, q.spadKib, q.priv, false⟩

/-- Another LAUNCHABLE queue for which some place is free comes first: its oldest record is older, or as old in a lower stage; a stage
without tiles passes one that waits only for a token (R330, R22). -/
def State.stageBefore (s : State) (t : Trellis) (l : Launch) (stage : Nat) (q : Stage) : Bool :=
  let at_ := fun (x : Stage) => match x.recs with | r :: _ => r.at_ | [] => 0
  t.stages.zipIdx.any (fun x =>
    x.2 != stage && x.1.state == .launchable && (decide (at_ x.1 < at_ q) || (at_ x.1 == at_ q && decide (x.2 < stage))) &&
    s.fitsSomewhere (t.want l x.1) && !(q.tiles == 0 && s.lacksToken (t.want l x.1)))

/-- STAGE_GROUP_START (R330, R331). -/
def execStageGroupStart (handle stage pav bed : Nat) (s : State) : Host.Outcome State Fault Refusal :=
  match s.liveTrellis handle with
  | none => .next s
  | some t =>
    match t.code, t.stage? stage with
    | some l, some q =>
      let w := t.want l q
      if q.state = .launchable && decide (s.liveGroups t < t.groups) && s.fits w pav bed && s.pavFree pav q.tiles && s.inTurn w &&
          !s.stageBefore t l stage q then
        match s.drawTokens w.draw with
        | (false, s1) => .next s1
        | (true, s1) =>
          let recs := q.recs.take q.thr
          let s2 := (s1.takeRecords t stage recs.length q).install (t.groupPlot stage q recs) pav bed 1 q.tiles
          .next (s2.serveWaiters t.id 8192)
      else .next s
    | _, _ => .next s

/-- Nothing feeds the trellis any more (R333). -/
def State.trellisDone (s : State) (t : Trellis) : Bool :=
  t.stages.all (fun q => q.recs.isEmpty) && s.liveGroups t == 0 && s.plots.all (fun p => (p.emitWaits t).isEmpty) &&
  !s.colls.any (fun c => c.emit && c.ctx == t.ctx && c.trellis == t.handle) &&
  !s.launches.any (fun l => l.ctx == t.ctx && l.fed == some t.handle)

/-- What a queue has taken is complete (R344). -/
def State.untake (s : State) (ctx queue id : Nat) : State :=
  s.modCtx ctx (fun c => { c with queues := modifyWhere (fun q => q.num == queue) (fun q => { q with taken := q.taken.filter (fun x => x != id) }) c.queues })

/-- TRELLIS_COMPLETION (R333). [DEDUCED: log entry 92] -/
def execTrellisCompletion (handle : Nat) (s : State) : Host.Outcome State Fault Refusal :=
  match s.liveTrellis handle with
  | none => .next s
  | some t =>
    if s.trellisDone t then
      match s.completeSignal t.ctx t.queue t.signal with
      | .error pa => .fault (.absentMemory pa)
      | .ok none => .next (s.signal t.ctx t.signal true 1#64).2
      | .ok (some s1) =>
        .next (({ s1 with trellises := s1.trellises.filter (fun x => x.id != t.id) }.untake t.ctx t.queue t.id).endLdi t.id)
    else .next s

end Sys2Proof.Machine
end

