-- ==== Sys2Proof/Machine/Link.lean ====
section
/-! DEFINITION. Requests over the fabric (10_fabric_collectives.md R244–R250): tags and generations, the direct and the relay
path, retransmission and backoff, and the messages of the reduction unit that wait for a tag. -/

namespace Sys2Proof.Machine

/-- The clock the requester and the reduction unit count on: die 0's (R21). -/
def State.unitCycles (s : State) : Nat := s.dieCycles 0

/-- Where a member is reached: a module of the pod by its number, an Ultra Ethernet member by 16 and its index (R247). [DEDUCED: log entry 73] -/
def Member.dest (m : Member) (idx : Nat) : Nat := if m.ethernet then 16 + idx else m.module

def State.groupNum? (s : State) (num : Nat) : Option Group := s.groups.find? (fun g => g.num == num)

/-! ### Paths (R244, R245) -/

/-- A port that is wired to a module of the pod, or an Ethernet port; any other is idle (R244; 20_package_management.md R421). -/
def portWired (j : Nat) : Bool := if j < 16 then decide (j ≠ Config.self.val) && decide (j < Config.podSize) else decide (j < 24)

/-- A port of the pod that carries traffic: wired, not failed and not in training. [DESIGN CHOICE: log entry 5] -/
def State.portLive (s : State) (j : Nat) : Bool :=
  decide (j ≠ Config.self.val) && decide (j < Config.podSize) &&
  (if h : j < 16 then !s.fab.ports[j].failed && !s.fab.ports[j].training else false)

/-- The module that relays traffic for j: the lowest-numbered of the pod whose ports to this module and to j are live (R245). [DESIGN CHOICE: log entry 75] -/
def State.relayOf (s : State) (j : Nat) : Option Nat :=
  (List.range 16).find? (fun h => h != j && s.portLive h && Config.peerLive h j s.unitCycles)

/-- The path of an attempt: direct, or by the module that relays it; none where there is no path. [DEDUCED: log entry 74; DESIGN CHOICE: log entry 75] -/
def State.route (s : State) (dest attempt : Nat) : Option (Option Nat) :=
  if 16 ≤ dest then some none
  else if s.portLive dest && decide (attempt < 3) then some none
  else
    match s.relayOf dest with
    | some h => some (some h)
    | none => if s.portLive dest then some none else none

/-- The port by which a destination outside or inside the pod is reached. [DEDUCED: log entry 73] -/
def portOf (dest : Nat) : Nat := if 16 ≤ dest then 16 + dest % 8 else dest

/-- The port whose egress a message of an attempt takes (Table 14-9): that of the module that relays it, where it is relayed. -/
def State.egress (s : State) (dest attempt : Nat) : Nat := ((s.route dest attempt).getD none).getD (portOf dest)

def State.modPort (s : State) (p : Nat) (f : Port → Port) : State :=
  if h : p < 24 then { s with fab := { s.fab with ports := s.fab.ports.set p (f s.fab.ports[p]) } } else s

/-- Put a message for a module on the path of an attempt; one that is relayed is counted for its port (R391), and one with no path is
lost. The dies send nothing while they are held in reset (20_package_management.md R422). [DEDUCED: log entry 74; DESIGN CHOICE: log entry 75] -/
def State.sendOn (s : State) (dest attempt : Nat) (m : Option Nat → Out) : State :=
  if !s.mgmt.powered then s
  else
    match s.route dest attempt with
    | none => s
    | some none => s.emit (m none)
    | some (some h) => (s.modPort dest (fun p => { p with reroute := satInc p.reroute })).emit (m (some h))

/-! ### Tags (R249, R250) -/

def State.genOf (s : State) (tag : BitVec 12) : BitVec 4 :=
  match s.fab.gens.find? (fun x => x.1 == tag.toNat) with
  | some x => x.2
  | none => 0#4

def TagReq.holds (t : TagReq) (n : Nat) : Bool := t.tag.toNat == n || t.extra.any (fun x => x.toNat == n)

/-- The lowest free tag. -/
def State.freeTag (s : State) : Option (BitVec 12) :=
  ((List.range 4096).find? (fun n => !s.fab.tags.any (fun t => t.holds n))).map (BitVec.ofNat 12)

/-- The free tags, the lowest first. -/
def State.freeTags (s : State) : List (BitVec 12) :=
  ((List.range 4096).filter (fun n => !s.fab.tags.any (fun t => t.holds n))).map (BitVec.ofNat 12)

def State.tag? (s : State) (tag : BitVec 12) : Option TagReq := s.fab.tags.find? (fun t => t.tag == tag)

def State.modTag (s : State) (tag : BitVec 12) (f : TagReq → TagReq) : State :=
  { s with fab := { s.fab with tags := modifyWhere (fun t => t.tag == tag) f s.fab.tags } }

/-- What the request carries (R248, R249): the sender's module, tag and generation, and its member index in the group. -/
def State.header (s : State) (t : TagReq) : FabHdr :=
  ⟨Config.self.val, t.tag, t.gen, t.group, match s.groupNum? t.group with | some g => g.own | none => 0⟩

/-- Put a request on its path; with no path it stays unanswered. [DEDUCED: log entry 74; DESIGN CHOICE: log entry 125] -/
def State.transmit (s : State) (t : TagReq) : State :=
  s.sendOn t.module t.attempts (fun via => .request t.module via (s.header t) t.body)

/-- The 4 KiB chunks that a request sends, each of which takes a tag (R249): a SEND's message may be longer than one. [DEDUCED: log entry 79] -/
def ReqBody.tags : ReqBody → Nat
  | .send _ data => max 1 ((data.length + 4095) / 4096)
  | _ => 1

/-- Send a request under the free tags it takes. -/
def State.openTag (s : State) (owner : TagOwner) (dest group member : Nat) (body : ReqBody) : Option State :=
  match s.freeTag with
  | none => none
  | some tag =>
    let n := body.tags
    let extra := if n = 1 then [] else (s.freeTags.drop 1).take (n - 1)
    if extra.length + 1 < n then none
    else
      let t : TagReq := ⟨tag, s.genOf tag, extra, owner, dest, group, member, body, 1, s.unitCycles, 1024, false, none, []⟩
      some ({ s with fab := { s.fab with tags := s.fab.tags ++ [t] } }.transmit t)

/-- Send the messages of the reduction unit that wait for a tag, oldest first. -/
def State.flushQueue (s : State) : Nat → State
  | 0 => s
  | n + 1 =>
    match s.fab.queue with
    | [] => s
    | q :: rest =>
      match s.groupNum? q.group with
      | none => { s with fab := { s.fab with queue := rest } }.flushQueue n
      | some g =>
        match g.members[q.member]? with
        | none => { s with fab := { s.fab with queue := rest } }.flushQueue n
        | some m =>
          match s.openTag .unit (m.dest q.member) q.group q.member q.body with
          | some s1 => { s1 with fab := { s1.fab with queue := rest } }.flushQueue n
          | none => s

/-- The generation of a tag that is released advances (R249). -/
def State.nextGen (s : State) (tag : BitVec 12) : State :=
  { s with fab := { s.fab with gens := (tag.toNat, s.genOf tag + 1#4) :: s.fab.gens.filter (fun x => x.1 != tag.toNat) } }

/-- A tag is free again under its next generation, and the further tags of its request with it. -/
def State.releaseTag (s : State) (tag : BitVec 12) : State :=
  let all := match s.tag? tag with | some t => tag :: t.extra | none => [tag]
  let s1 := all.foldl State.nextGen s
  { s1 with fab := { s1.fab with tags := s1.fab.tags.filter (fun t => t.tag != tag) } }.flushQueue 64

/-- A message of the reduction unit or the management class to one member. -/
def State.notify (s : State) (group member : Nat) (body : ReqBody) : State :=
  { s with fab := { s.fab with queue := s.fab.queue ++ [Queued.mk group member body] } }.flushQueue 64

/-- A message to every other member of a group. -/
def State.broadcast (s : State) (g : Group) (body : ReqBody) : State :=
  (List.range g.members.length).foldl (fun s i => if i = g.own then s else s.notify g.num i body) s

/-- The request a reply belongs to: a reply whose tag is not held, or of another generation, is discarded and counted. -/
def State.matched (s : State) (tag : BitVec 12) (gen : BitVec 4) : Except State TagReq :=
  match s.tag? tag with
  | some t => if t.gen = gen then .ok t else .error { s with fab := { s.fab with staleReply := satInc s.fab.staleReply } }
  | none => .error { s with fab := { s.fab with staleReply := satInc s.fab.staleReply } }

end Sys2Proof.Machine
end

