-- ==== Sys2Proof/Machine/Progress.lean ====
section
/-! DEFINITION. The progress table (13_trellis_progress.md R334–R339): a member's view of its group, its messages, and STEP. -/

namespace Sys2Proof.Machine

def allOnes : DWord := 0xFFFFFFFFFFFFFFFF#64

/-! ### The view -/

def Group.liveSteps (g : Group) : List Nat := (g.members.filter (fun m => m.state == .live)).map (fun m => m.step.toNat)

/-- The least step among the LIVE entries; none while no entry is LIVE. -/
def Group.least (g : Group) : Option Nat :=
  match g.liveSteps with
  | [] => none
  | x :: l => some (l.foldl min x)

/-- m after an entry has changed (R336): the greater of its value and the least LIVE step. -/
def Group.settle (g : Group) : Group :=
  match g.least with
  | some n => if g.m.toNat < n then { g with m := BitVec.ofNat 64 n } else g
  | none => g

def Group.modMember (g : Group) (i : Nat) (f : Member → Member) : Group := { g with members := g.members.modify i f }

def Group.self? (g : Group) : Option Member := g.members[g.own]?

/-- m, or all ones while it is undefined. -/
def Group.minWord (g : Group) : DWord := match g.min? with | some _ => g.m | none => allOnes

/-- A step is at least m − L. -/
def Group.reaches (g : Group) (step : Nat) : Bool := decide (g.m.toNat ≤ step + g.lead)

/-! ### Messages (R335, R337) -/

/-- Send the own step to every other member; the own entry counts its silence from what it sends. -/
def State.sendStep (s : State) (g : Group) (step : DWord) : State :=
  ((s.modGroup g.ctx g.num (fun g => g.modMember g.own (fun m => { m with heard := s.unitCycles }))).broadcast g (.step step))

/-- A step message of member i: the view after it, and whether it is answered RESYNC (Table 13-9). [DEDUCED: log entry 83] -/
def Group.onStep (g : Group) (i : Nat) (step : DWord) (now : Nat) : Group × Bool :=
  match g.members[i]? with
  | none => (g, false)
  | some m =>
    if m.state = .left then (g, false)
    else if step = allOnes then ((g.modMember i (fun m => { m with state := .left })).settle, false)
    else
      let raised := if m.step.toNat < step.toNat then step else m.step
      let back := m.state == .absent && !g.reaches step.toNat
      let state := if back then .absent else MemberState.live
      ((g.modMember i (fun m => { m with step := raised, state := state, heard := now })).settle, back)

/-- A presence message of member i. -/
def Group.onPresence (g : Group) (i now : Nat) : Group :=
  match g.members[i]? with
  | none => g
  | some m => if m.state = .left then g else g.modMember i (fun m => { m with heard := now })

/-- The answer of a request to a registered group: an acknowledgement. -/
def State.answer (s : State) (h : FabHdr) (r : ReplyBody) : State := s.sendOn h.src 1 (fun via => .reply h.src via h.tag h.gen r)

/-- The sender of a message is another member of a registered group. -/
def State.sender (s : State) (h : FabHdr) : Option Group :=
  match s.groupNum? h.group with
  | some g => if h.member < g.members.length ∧ h.member ≠ g.own then some g else none
  | none => none

/-- STEP_MESSAGE (R335): a step that is too low is answered RESYNC. -/
def execStepMessage (h : FabHdr) (step : DWord) (s : State) : Host.Outcome State Fault Refusal :=
  match s.sender h with
  | none => .next s
  | some g =>
    let r := g.onStep h.member step s.unitCycles
    let s1 := s.modGroup g.ctx g.num (fun _ => r.1)
    .next (if r.2 then s1.sendOn h.src 1 (fun via => .resync h.src via h.tag h.gen) else s1.answer h (.ack 0))

/-- PRESENCE_MESSAGE. -/
def execPresenceMessage (h : FabHdr) (s : State) : Host.Outcome State Fault Refusal :=
  match s.sender h with
  | none => .next s
  | some g => .next ((s.modGroup g.ctx g.num (fun g => g.onPresence h.member s.unitCycles)).answer h (.ack 0))

/-- A launch bound to the group is live, parked and pre-empted included. -/
def State.bound (s : State) (g : Group) : Bool := s.launches.any (fun l => l.ctx == g.ctx && l.bind == some g.num)

/-- PRESENCE_SEND (R335): every 2^24 cycles while a launch bound to the group is live. -/
def execPresenceSend (group : Nat) (s : State) : Host.Outcome State Fault Refusal :=
  match s.groupNum? group with
  | none => .next s
  | some g =>
    let now := s.unitCycles
    if s.bound g ∧ g.sentAt + 2 ^ 24 ≤ now then
      .next ((s.modGroup g.ctx g.num (fun g =>
        { g.modMember g.own (fun m => { m with heard := now }) with sentAt := now })).broadcast g .presence)
    else .next s

/-- SILENCE_TIMER_EXPIRY (Table 13-9): a LIVE member silent for the silence timer is ABSENT. -/
def execSilenceTimerExpiry (group member : Nat) (s : State) : Host.Outcome State Fault Refusal :=
  match s.groupNum? group with
  | none => .next s
  | some g =>
    match g.members[member]? with
    | none => .next s
    | some m =>
      if m.state = .live ∧ m.heard + g.silence ≤ s.unitCycles then
        .next (s.modGroup g.ctx g.num (fun g => (g.modMember member (fun m => { m with state := .absent })).settle))
      else .next s

/-- The own entry becomes ABSENT. [DEDUCED: log entry 83] -/
def Group.selfAbsent (g : Group) : Group :=
  match g.self? with
  | some m => if m.state = .live then (g.modMember g.own (fun m => { m with state := .absent })).settle else g
  | none => g

/-- RESYNC_ANSWER (Table 13-9): it is the reply to a step message. -/
def execResyncAnswer (tag : BitVec 12) (gen : BitVec 4) (s : State) : Host.Outcome State Fault Refusal :=
  match s.matched tag gen with
  | .error s1 => .next s1
  | .ok t =>
    match t.body with
    | .step _ =>
      match s.groupNum? t.group with
      | some g => .next ((s.modGroup g.ctx g.num (fun g => (g.modMember t.member (fun m => { m with failed := false })).selfAbsent)).releaseTag tag)
      | none => .next (s.releaseTag tag)
    | _ => .next s

/-- A management message to a member ends: answered, or failed after its eighth attempt. With every LIVE peer failed, the own
entry is ABSENT (R335, R337). [DEDUCED: log entry 83] -/
def Group.messageEnds (g : Group) (member : Nat) (failed : Bool) : Group :=
  let g1 := g.modMember member (fun m => { m with failed := failed })
  let peers := g1.members.zipIdx.filter (fun x => x.2 != g1.own && x.1.state == .live)
  if failed && !peers.isEmpty && peers.all (fun x => x.1.failed) then g1.selfAbsent else g1

def ReqBody.isManagement : ReqBody → Bool
  | .step _ | .presence | .short _ _ => true
  | _ => false

def State.unitEnds (s : State) (t : TagReq) (failed : Bool) : State :=
  if t.body.isManagement then
    match s.groupNum? t.group with
    | some g => s.modGroup g.ctx g.num (fun g => g.messageEnds t.member failed)
    | none => s
  else s

/-! ### STEP (R339) -/

/-- The group sA names. -/
def State.stepGroup (s : State) (p : Plot) (a : Reg) : Except Res Group :=
  let x := p.regs.s a
  match s.group? p.ctx (x.toNat % 8) with
  | some g => if x >>> 3 = 0#64 then .ok g else .error (illegalEntry x)
  | none => .error (illegalEntry x)

/-- The result and uf0. -/
def stepResult (c : Cx) (d : Reg) (x : DWord) (ok : Bool) (s : State) : State × Res :=
  (s.modPlot c.plot (fun p => p.modRegs (fun g => (g.setS d x).setFlag .front 0#2 ok)), .done)

/-- A STEP word on its group and the own entry. -/
def stepWord (a : Reg) (f : Cx → Plot → Group → Member → State → State × Res) : WordFn := withPlot (fun c p s =>
  match s.stepGroup p a with
  | .error r => (s, r)
  | .ok g =>
    match g.self? with
    | some m => f c p g m s
    | none => (s, illegalEntry (p.regs.s a)))

/-- The own entry with a new step, its state settled (SADV, SABS). -/
def Group.moved (g : Group) (step : DWord) (st : MemberState) : Group :=
  (g.modMember g.own (fun m => { m with step := step, state := st })).settle

/-- SADV. -/
def sadvWord (d a : Reg) : WordFn := stepWord a (fun c _ g m s =>
  if m.state = .left then stepResult c d m.step false s
  else if m.state = .absent ∧ !g.reaches (m.step.toNat + 1) then stepResult c d m.step false s
  else
    let step := if m.step = allOnes - 1#64 then m.step else m.step + 1#64
    let s1 := s.modGroup g.ctx g.num (fun g => g.moved step .live)
    stepResult c d step true (s1.sendStep g step))

/-- SWAIT holds a LIVE member whose step exceeds m + L (R338). -/
def Group.holds (g : Group) : Bool :=
  match g.self? with
  | some m => m.state == .live && decide (g.m.toNat + g.lead < m.step.toNat)
  | none => false

/-- SWAIT. -/
def swaitWord (d a : Reg) : WordFn := stepWord a (fun c _ g m s =>
  if g.holds then (s, .block (.lead g.num)) else stepResult c d g.minWord (m.state == .live) s)

/-- SPEER. -/
def speerWord (d a b : Reg) : WordFn := stepWord a (fun c p g _ s =>
  let x := p.regs.s b
  match g.members[x.toNat]? with
  | some m => stepResult c d m.step (m.state == .live) s
  | none => (s, illegalEntry x))

/-- SMIN. -/
def sminWord (d a : Reg) : WordFn := stepWord a (fun c _ g _ s => stepResult c d g.minWord g.min?.isSome s)

/-- SABS. -/
def sabsWord (d a b : Reg) : WordFn := stepWord a (fun c p g m s =>
  let x := p.regs.s b
  if m.state = .left ∨ x.toNat < m.step.toNat then stepResult c d m.step (m.state == .live) s
  else if x = allOnes then
    let s1 := s.modGroup g.ctx g.num (fun g => g.moved m.step .left)
    stepResult c d m.step false (s1.sendStep g x)
  else
    let st := if m.state = .absent && g.reaches x.toNat then .live else m.state
    let s1 := s.modGroup g.ctx g.num (fun g => g.moved x st)
    stepResult c d x (st == .live) (s1.sendStep g x))

/-- SLEAD. -/
def sleadWord (d a : Reg) : WordFn := stepWord a (fun c _ g m s =>
  match g.min? with
  | none => stepResult c d allOnes false s
  | some n =>
    let x : Int := (n : Int) + g.lead - m.step.toNat
    stepResult c d (BitVec.ofInt 64 x) (decide (0 ≤ x)) s)

/-- SADV. -/
def execSadv (d a : Reg) (s : State) : Host.Outcome State Fault Refusal := runWord (.sadv d a) (sadvWord d a) s

/-- SWAIT. -/
def execSwait (d a : Reg) (s : State) : Host.Outcome State Fault Refusal := runWord (.swait d a) (swaitWord d a) s

/-- SPEER. -/
def execSpeer (d a b : Reg) (s : State) : Host.Outcome State Fault Refusal := runWord (.speer d a b) (speerWord d a b) s

/-- SMIN. -/
def execSmin (d a : Reg) (s : State) : Host.Outcome State Fault Refusal := runWord (.smin d a) (sminWord d a) s

/-- SABS. -/
def execSabs (d a b : Reg) (s : State) : Host.Outcome State Fault Refusal := runWord (.sabs d a b) (sabsWord d a b) s

/-- SLEAD. -/
def execSlead (d a : Reg) (s : State) : Host.Outcome State Fault Refusal := runWord (.slead d a) (sleadWord d a) s

end Sys2Proof.Machine
end

