-- ==== Sys2Proof/Machine/Coll.lean ====
section
/-! DEFINITION. Quorum collectives (10_fabric_collectives.md R257–R269) and the sums they make (06_exact_sums.md R142–R157): long
accumulators, conversion, images, the fate of chunks, closure, the status block, emission, and the COLL words. -/

namespace Sys2Proof.Machine

/-! ### Long accumulators (R142, R145, R157) -/

def Acc.zero : Acc := ⟨0, false, false, false, 0#32⟩

def Coll.fmt (c : Coll) : Fmt := if c.bf16 then .bf16 else .fp32
def Coll.esz (c : Coll) : Nat := if c.bf16 then 2 else 4

/-- A NaN made canonical. -/
def canon32 (w : Word) : Word := if (fp32Value w).isNaN then canonicalNaN32 else w

/-- LongEnter, or in FAST mode the FP32 addition; the first value of a FAST slot is entered as it is. [DEDUCED: log entry 87] -/
def Coll.enter (c : Coll) (old : Option Acc) (code : Nat) : Acc :=
  if c.fast then
    let x := canon32 (BitVec.ofNat 32 (if c.bf16 then code * 2 ^ 16 else code))
    { Acc.zero with fast := match old with | none => x | some a => (fadd .rne a.fast x).1 }
  else
    let a := old.getD Acc.zero
    match c.fmt.value code with
    | .nan _ => { a with nan := true }
    | .inf neg => if neg then { a with ninf := true } else { a with pinf := true }
    | .fin neg m e => { a with value := a.value + signedAt neg m e (-160) }

/-- What combining an image record does to a slot (R152, R157). [DEDUCED: log entry 87] -/
def Coll.combine (c : Coll) (old : Option Acc) (x : Acc) : Acc :=
  if c.fast then { Acc.zero with fast := match old with | none => x.fast | some a => (fadd .rne a.fast x.fast).1 }
  else
    let a := old.getD Acc.zero
    ⟨a.value + x.value, a.nan || x.nan, a.pinf || x.pinf, a.ninf || x.ninf, 0#32⟩

def Coll.slot (c : Coll) (e : Nat) : Option Acc := (c.slots.find? (fun x => x.1 == e)).map (fun x => x.2)

def Coll.setSlot (c : Coll) (e : Nat) (a : Acc) : Coll := { c with slots := (e, a) :: c.slots.filter (fun x => x.1 != e) }

def Coll.count (c : Coll) (g : Nat) : Nat := match c.counts.find? (fun x => x.1 == g) with | some x => x.2 | none => 0

def Coll.addCount (c : Coll) (g k : Nat) : Coll := { c with counts := (g, c.count g + k) :: c.counts.filter (fun x => x.1 != g) }

/-! ### Conversion (R154, R155, R157) -/

/-- A finite sum ± m × 2^e rounded once, over k when k is given. -/
def roundSum (f : Fmt) (mode : Mode) (neg : Bool) (m : Nat) (e : Int) (k : Nat) (r : Word) : Nat :=
  let n := m * 2 ^ 96
  (f.roundFin mode false neg (n / k) (e - 96) (decide (n % k ≠ 0)) r).1

/-- The code of one element. -/
def Coll.convert (c : Coll) (e k : Nat) : Nat :=
  let f := c.fmt
  let a := (c.slot e).getD Acc.zero
  let mode : Mode := if c.sr then .sr else .rne
  let r := lemfyWord c.rk3 (BitVec.ofNat 32 (c.step.toNat % 2 ^ 16 * 2 ^ 16 + c.bucket)) (BitVec.ofNat 64 e)
  let v : FVal :=
    if c.fast then fp32Value a.fast
    else if a.nan || (a.pinf && a.ninf) then .nan false
    else if a.pinf then .inf false
    else if a.ninf then .inf true
    else .ofInt a.value (-160) false
  match v with
  | .nan _ => f.nanCode
  | .inf neg => f.beyond neg
  | .fin neg m x =>
    if c.avg && k == 0 then 0
    else if m = 0 then f.signed neg 0
    else roundSum f mode neg m x (if c.avg then k else 1) r

/-! ### Images (R149–R153) -/

/-- Byte i of a two's-complement value of 40 bytes. -/
def valueByte (v : Int) (i : Nat) : Nat := ((v.emod (2 ^ 320)).toNat >>> (8 * i)) % 256

/-- The smallest count of bytes whose sign extension gives v. -/
def signBytes (v : Int) : Nat :=
  ((List.range 41).find? (fun n => decide (1 ≤ n) && decide (-(2 : Int) ^ (8 * n - 1) ≤ v) && decide (v < (2 : Int) ^ (8 * n - 1)))).getD 40

/-- The minimal record of a slot (R151). -/
def Acc.record (a : Acc) : List Byte :=
  let fl := (if a.nan then 4 else 0) + (if a.pinf then 2 else 0) + (if a.ninf then 1 else 0)
  if fl ≠ 0 then natBytes (fl * 2 ^ 13) 2
  else if a.value = 0 then natBytes 0 2
  else
    let low := ((List.range 40).find? (fun i => valueByte a.value i != 0)).getD 0
    let nb := signBytes (a.value / 2 ^ (8 * low))
    natBytes (low * 2 ^ 7 + nb) 2 ++ (List.range nb).map (fun i => BitVec.ofNat 8 (valueByte a.value (low + i)))

/-- The header of an image chunk (Table 6-2). -/
structure ImageHdr where
  first : Nat
  count : Nat
  bytes : Nat
  k : Nat
  onTime : Nat
  folded : Nat
  deriving DecidableEq, Repr

def ImageHdr.encode (h : ImageHdr) : List Byte :=
  natBytes h.first 4 ++ natBytes h.count 2 ++ natBytes h.bytes 2 ++ natBytes h.k 2 ++ natBytes h.onTime 2 ++ natBytes h.folded 4

/-- Elements of a 64-element group. -/
def Coll.groupSize (c : Coll) (g : Nat) : Nat := min 64 (c.elems - 64 * g)

/-- 64-element groups of the tensor. -/
def Coll.groups (c : Coll) : Nat := (c.elems + 63) / 64

/-- The image chunk of a group. -/
def Coll.image (c : Coll) (g onTime folded : Nat) : List Byte :=
  let recs := (List.range (c.groupSize g)).flatMap (fun i =>
    let a := (c.slot (64 * g + i)).getD Acc.zero
    if c.fast then natBytes a.fast.toNat 4 else a.record)
  (ImageHdr.mk (64 * g) (c.groupSize g) recs.length (c.count g) onTime folded).encode ++ recs

/-- One element record, and the bytes after it (R150, R153). -/
def readRecord (l : List Byte) : Option (Acc × List Byte) :=
  if l.length < 2 then none
  else
    let d := leField l 0 2
    let low := d / 2 ^ 7 % 64
    let nb := d % 64
    let fl := d / 2 ^ 13
    let rest := l.drop 2
    if d / 64 % 2 ≠ 0 ∨ 40 < nb ∨ 40 < low + nb ∨ (nb = 0 ∧ low ≠ 0) ∨ rest.length < nb then none
    else
      let m : Int := leNat (rest.take nb)
      let v := if nb ≠ 0 ∧ (2 : Int) ^ (8 * nb - 1) ≤ m then m - 2 ^ (8 * nb) else m
      some (⟨if fl = 0 then v * 2 ^ (8 * low) else 0, decide (4 ≤ fl), decide (fl / 2 % 2 = 1), decide (fl % 2 = 1), 0#32⟩, rest.drop nb)

/-- n element records that fill the bytes exactly. -/
def readRecords (fast : Bool) : Nat → List Byte → Option (List Acc)
  | 0, l => if l.isEmpty then some [] else none
  | n + 1, l =>
    if fast then
      if l.length < 4 then none
      else (readRecords fast n (l.drop 4)).map (fun r => { Acc.zero with fast := BitVec.ofNat 32 (leField l 0 4) } :: r)
    else
      match readRecord l with
      | none => none
      | some (a, rest) => (readRecords fast n rest).map (fun r => a :: r)

/-- An image chunk of the collective; none where R153 refuses it. [DEDUCED: log entry 84] -/
def Coll.readImage (c : Coll) (l : List Byte) : Option (ImageHdr × List Acc) :=
  let h : ImageHdr := ⟨leField l 0 4, leField l 4 2, leField l 6 2, leField l 8 2, leField l 10 2, leField l 12 2⟩
  if l.length < 16 ∨ leField l 14 2 ≠ 0 ∨ h.first % 64 ≠ 0 ∨ c.elems ≤ h.first ∨ h.count ≠ c.groupSize (h.first / 64) ∨
      l.length ≠ 16 + h.bytes then none
  else (readRecords c.fast h.count (l.drop 16)).map (fun r => (h, r))

/-! ### Shards (R259) -/

def Coll.chunkElems (c : Coll) : Nat := 4096 / c.esz
def Coll.chunks (c : Coll) : Nat := (c.elems * c.esz + 4095) / 4096
def Coll.perShard (c : Coll) : Nat := (c.chunks + c.n - 1) / c.n
def Coll.homeOf (c : Coll) (chunk : Nat) : Nat := chunk / c.perShard
def Coll.chunkBytes (c : Coll) (chunk : Nat) : Nat := min 4096 (c.elems * c.esz - 4096 * chunk)

/-- The chunks of shard h. -/
def Coll.shard (c : Coll) (h : Nat) : List Nat := (List.range c.chunks).filter (fun k => c.homeOf k == h)

/-- The 64-element groups of shard h. -/
def Coll.shardGroups (c : Coll) (h : Nat) : List Nat := (List.range c.groups).filter (fun g => c.homeOf (64 * g / c.chunkElems) == h)

/-- The member is a home. -/
def Coll.isHome (c : Coll) (own : Nat) : Bool := !(c.shard own).isEmpty

/-- Members whose contribution of step t is whole at the home (R263). -/
def Coll.wholes (c : Coll) (own : Nat) : Nat :=
  ((List.range c.n).filter (fun m => (c.shard own).all (fun k => c.applied.contains ⟨m, k, false, c.step⟩))).length

/-! ### The status block (R258, Table 10-6) -/

def Coll.onTime (c : Coll) : Nat := match c.shardCounts.map (fun x => x.2.1) with | [] => 0 | x :: l => l.foldl min x
def Coll.foldCount (c : Coll) : Nat := (c.shardCounts.map (fun x => x.2.2)).foldl max 0
def Coll.uneven (c : Coll) : Bool := c.shardCounts.any (fun x => x.2.1 != c.onTime)

/-- Bytes +8 to +15, with a state code. -/
def Coll.statusWord (c : Coll) (state : Nat) : Nat :=
  state + (if c.malformed then 2 ^ 8 else 0) + (if c.uneven then 2 ^ 9 else 0) + (if c.emitWait then 2 ^ 10 else 0) +
    2 ^ 32 * (c.onTime % 2 ^ 16) + 2 ^ 48 * (c.foldCount % 2 ^ 16)

/-- The state the unit holds. [DEDUCED: log entry 86] -/
def Coll.stateCode (c : Coll) : Nat := if c.failed then 3 else if c.ended then 1 else if c.short then 2 else 0

def Coll.statusBlock (c : Coll) (state : Nat) : List Byte :=
  natBytes c.step.toNat 8 ++ natBytes (c.statusWord state) 8 ++ natBytes c.nans 4 ++ natBytes c.infs 4 ++ natBytes c.dropped 4 ++ natBytes 0 4

/-! ### Writes and emission (R266, R268) -/

/-- A write of the unit: by virtual address, or in a window of the pavilion that executed COPEN. [DEDUCED: log entry 89] -/
def State.unitWrite (s : State) (c : Coll) (va : DWord) (data : List Byte) : Gated × State :=
  match regionOf va with
  | .window w off =>
    match s.windowSpan (Plot.fresh 0 c.ctx c.pav (Front.fresh 0#32 0)) w off data.length with
    | some l => (.ok, (dealBytes l data).foldl (fun s y => s.engineWrite c.pav y.1 y.2) s)
    | none => (.nowhere va.toNat, s)
  | _ => s.gateWrite c.ctx va data

/-- The record the unit emits for a result chunk (R268). -/
def Coll.emitRecord (c : Coll) (k : Nat) : List Word :=
  let first := k * c.chunkElems
  [BitVec.ofNat 32 c.handle, c.step.setWidth 32, (c.step >>> 32).setWidth 32, BitVec.ofNat 32 first,
    BitVec.ofNat 32 (min c.chunkElems (c.elems - first)), BitVec.ofNat 32 (4096 * k), BitVec.ofNat 32 c.group, 0#32]

/-- Every group of result chunk k is written. -/
def Coll.chunkDone (c : Coll) (k : Nat) : Bool :=
  (List.range c.groups).all (fun g => 64 * g / c.chunkElems != k || c.done.contains g)

/-- FAILED: no write can be made (R266). -/
def State.failColl (s : State) (c : Coll) (va : Nat) : State :=
  (s.modColl c.ctx c.handle (fun c => { c with failed := true, writes := [] })).errorRecord c.ctx c.queue 0 6 0#32 0#32
    (BitVec.ofNat 64 va)

/-- STEP_END: every result is written and every record accepted, and the status block is due. -/
def Coll.due (c : Coll) : Bool :=
  !c.ended && c.done.length == c.groups && (!c.emit || c.emitted == c.chunks) && !c.writes.any (fun w => w.final)

/-- The unit's next action on a collective: a write, a record to emit, or the last status write. `none` where it rests. -/
def State.pumpOnce (s : State) (c : Coll) : Option (Except Nat (State × Bool)) :=
  let put := fun (s : State) (f : Coll → Coll) => s.modColl c.ctx c.handle f
  if c.failed then none
  else
    match c.writes with
    | w :: rest =>
      some (match s.unitWrite c w.addr (if w.final then c.statusBlock 1 else w.data) with
        | (.ok, s1) => .ok (put s1 (fun c =>
            let d := match w.grp with | some g => { c with done := g :: c.done } | none => c
            { d with writes := rest, ended := c.ended || w.final, dropped := if w.final then 0 else c.dropped }), true)
        | (.wait, s1) => .ok (s1, false)
        | (.absent pa, _) => .error pa
        | (.refused x, s1) | (.nowhere x, s1) | (.bad x, s1) => .ok (s1.failColl c x, false))
    | [] =>
      if c.emit && decide (c.emitted < c.chunks) && c.chunkDone c.emitted && !c.ended then
        match s.trellis? c.ctx c.trellis with
        | none => none
        | some t =>
          if t.room c.emitStage then
            let s1 := s.accept t.id c.emitStage (c.emitRecord c.emitted) 0 false true 0xFFFFFFFF#32
            some (.ok (put s1 (fun c => { c with emitted := c.emitted + 1, emitWait := false }), true))
          else some (.ok (put s (fun c => { c with emitWait := true }), false))
      else if c.due then
        some (.ok (put s (fun c => { c with writes := [⟨c.statusAddr, [], none, true⟩] }), true))
      else none

def State.pump (s : State) (ctx handle : Nat) : Nat → Except Nat State
  | 0 => .ok s
  | n + 1 =>
    match s.coll? ctx handle with
    | none => .ok s
    | some c =>
      match s.pumpOnce c with
      | none => .ok s
      | some (.error pa) => .error pa
      | some (.ok (s1, more)) => if more then s1.pump ctx handle n else .ok s1

/-- Actions the unit may have to take on one collective. -/
def Coll.actions (c : Coll) : Nat := 2 * c.groups + 16

def State.pumpColl (s : State) (ctx handle : Nat) : Except Nat State :=
  match s.coll? ctx handle with
  | none => .ok s
  | some c => s.pump ctx handle (c.actions + c.writes.length)

def pumped (r : Except Nat State) : Host.Outcome State Fault Refusal :=
  match r with
  | .ok s => .next s
  | .error pa => .fault (.absentMemory pa)

/-- Every collective goes on as far as it can. -/
def State.pumpAll (s : State) : Except Nat State :=
  s.colls.foldl (fun r c => match r with | .ok s => s.pumpColl c.ctx c.handle | e => e) (.ok s)

/-! ### Converting and closing (R148, R154, R265) -/

def isNaNCode (f : Fmt) (c : Nat) : Bool := match f.value c with | .nan _ => true | _ => false
def isInfCode (f : Fmt) (c : Nat) : Bool := match f.value c with | .inf _ => true | _ => false

/-- Convert a group, queue its results, and reset its slots and count. -/
def Coll.finishGroup (c : Coll) (g : Nat) : Coll :=
  let codes := (List.range (c.groupSize g)).map (fun i => c.convert (64 * g + i) (c.count g))
  { c with
    writes := c.writes ++ [⟨c.resultAddr + BitVec.ofNat 64 (64 * g * c.esz), codes.flatMap (fun x => natBytes x c.esz), some g, false⟩]
    nans := c.nans + (codes.filter (isNaNCode c.fmt)).length
    infs := c.infs + (codes.filter (isInfCode c.fmt)).length
    slots := c.slots.filter (fun x => x.1 / 64 != g)
    counts := c.counts.filter (fun x => x.1 != g) }

/-- STEP_CLOSE (R263, R265): the home's shard is converted, and its images go to every other member. -/
def State.closeStep (s : State) (g : Group) (c : Coll) : State :=
  let onTime := c.wholes g.own
  let folded := c.folded.length
  let gs := c.shardGroups g.own
  let s1 := gs.foldl (fun s k => s.broadcast g (.image c.bucket c.step (c.image k onTime folded))) s
  s1.modColl c.ctx c.handle (fun c =>
    gs.foldl Coll.finishGroup { c with closed := true, shardCounts := c.shardCounts ++ [(g.own, onTime, folded)] })

/-- The step closes with its q-th whole contribution. -/
def State.closeCheck (s : State) (g : Group) (ctx handle : Nat) : State :=
  match s.coll? ctx handle with
  | none => s
  | some c => if !c.closed && decide (c.q ≤ c.wholes g.own) then s.closeStep g c else s

/-! ### The fate of a chunk (R259–R264, Table 10-7) -/

/-- What a receiver answers. -/
inductive Answer where
  | reply (r : ReplyBody)
  | notReady
  | closed
  | silent
  deriving DecidableEq, Repr

def Group.bucketState (g : Group) (b : Nat) : BucketState :=
  match g.buckets.find? (fun x => x.1 == b) with
  | some x => x.2
  | none => .fresh

def State.collOf (s : State) (g : Group) (b : Nat) : Option Coll := s.colls.find? (fun c => c.ctx == g.ctx && c.group == g.num && c.bucket == b)

/-- The greenhouse takes a chunk: 16 MiB in all, 1 MiB for a tag (R261). -/
def State.greenRoom (s : State) (group bucket n : Nat) : Bool :=
  let total := fun (l : List HeldChunk) => l.foldl (fun n h => n + h.bytes.length) 0
  decide (total s.greenhouse + n ≤ 2 ^ 24) &&
  decide (total (s.greenhouse.filter (fun h => h.group == group && h.bucket == bucket)) + n ≤ 2 ^ 20)

def State.hold (s : State) (h : HeldChunk) : State := { s with greenhouse := s.greenhouse ++ [h] }

def Coll.mark (c : Coll) (x : ChunkId) : Coll := if c.applied.contains x then c else { c with applied := x :: c.applied }

/-- Enter a contribution chunk into the slots and counts (R146). [DESIGN CHOICE: log entry 88] -/
def Coll.apply (c : Coll) (chunk : Nat) (bytes : List Byte) : Coll :=
  let e0 := chunk * c.chunkElems
  let n := bytes.length / c.esz
  let c1 := (List.range n).foldl (fun c i => c.setSlot (e0 + i) (c.enter (c.slot (e0 + i)) (leField bytes (i * c.esz) c.esz))) c
  ((List.range c.groups).filter (fun g => decide (e0 / 64 ≤ g) && decide (64 * g < e0 + n))).foldl (fun c g => c.addCount g 1) c1

/-- Combine an image, and convert its group (R152, R265). -/
def Coll.applyImage (c : Coll) (src : Nat) (h : ImageHdr) (recs : List Acc) : Coll :=
  let c1 := recs.zipIdx.foldl (fun c x => c.setSlot (h.first + x.2) (c.combine (c.slot (h.first + x.2)) x.1)) c
  let c2 := c1.addCount (h.first / 64) h.k
  ({ c2 with shardCounts := (src, h.onTime, h.folded) :: c2.shardCounts.filter (fun x => x.1 != src) }).finishGroup (h.first / 64)

/-- Count one more dropped chunk. [DEDUCED: log entry 85] -/
def Coll.drop1 (c : Coll) : Coll := { c with dropped := c.dropped + 1 }

/-- A contribution applied to the open step, folded or on time; then the step may close. A contribution counts as folded with the first
of its chunks that is. [DEDUCED: log entry 85] -/
def State.enterChunk (s : State) (g : Group) (c : Coll) (h : HeldChunk) : State :=
  let s1 := s.modColl c.ctx c.handle (fun c =>
    let d := (c.apply h.chunk h.bytes).mark ⟨h.src, h.chunk, false, h.step⟩
    if h.step = c.step then d else { d with folded := if d.folded.contains (h.src, h.step) then d.folded else (h.src, h.step) :: d.folded })
  s1.closeCheck g c.ctx c.handle

/-- An image combined into the open step. -/
def State.enterImage (s : State) (c : Coll) (h : HeldChunk) : State :=
  match c.readImage h.bytes with
  | none => s
  | some (i, recs) => s.modColl c.ctx c.handle (fun c => (c.applyImage h.src i recs).mark ⟨h.src, h.chunk, true, h.step⟩)

/-- What becomes of a chunk that is no duplicate (Table 10-7, and R260 for images). -/
inductive Fate where
  | apply
  | hold
  | drop
  | later
  deriving DecidableEq, Repr

/-- What becomes of a chunk for step u (Table 10-7). [DEDUCED: log entry 85] -/
def Coll.fate (c : Coll) (image : Bool) (u : DWord) : Fate :=
  let t := c.step.toNat
  let u := u.toNat
  if t + 1 < u then .later
  else if u = t + 1 then .hold
  else if image then (if u = t then .apply else .drop)
  else if u = t then (if !c.closed then .apply else if c.drop then .drop else .hold)
  else if u + 1 = t ∧ !c.drop then (if c.closed then .hold else .apply)
  else .drop

/-- The chunk's bit is set (R264): it is applied, or the greenhouse holds it. -/
def State.knows (s : State) (c : Coll) (h : HeldChunk) : Bool :=
  c.applied.contains ⟨h.src, h.chunk, h.image, h.step⟩ ||
  s.greenhouse.any (fun x => x.group == h.group && x.bucket == h.bucket && x.src == h.src && x.step == h.step && x.chunk == h.chunk &&
    x.image == h.image)

/-- A chunk that has arrived: duplicates are discarded first. -/
def State.arrive (s : State) (g : Group) (c : Coll) (h : HeldChunk) : Answer × State :=
  let ack := Answer.reply (.ack h.bytes.length)
  if s.knows c h then (ack, s)
  else
    match c.fate h.image h.step with
    | .later => (.notReady, s)
    | .drop => (ack, s.modColl c.ctx c.handle Coll.drop1)
    | .hold => if s.greenRoom h.group h.bucket h.bytes.length then (ack, s.hold h) else (.notReady, s)
    | .apply => (ack, if h.image then s.enterImage c h else s.enterChunk g c h)

/-- A chunk for a tag, by the tag's state (R262). -/
def State.tagged (s : State) (group bucket : Nat) (f : Group → Coll → Answer × State) : Answer × State :=
  match s.groupNum? group with
  | none => (.notReady, s)
  | some g =>
    match g.bucketState bucket with
    | .fresh => (.notReady, s)
    | .closed => (.closed, s)
    | .opened => match s.collOf g bucket with | some c => f g c | none => (.notReady, s)

/-- A malformed chunk has come (06_exact_sums.md R153). [DEDUCED: log entry 84] -/
def Coll.bad (c : Coll) : Coll := { c with malformed := true }

/-- The descriptor fields a contribution must share, and its place in the home's shard (R259). [DEDUCED: log entry 84] -/
def Coll.agrees (c : Coll) (own : Nat) (x : ContribHdr) (n : Nat) : Bool :=
  x.n == c.n && x.elems == c.elems && x.fmt == (if c.bf16 then 4 else 3) && x.mode == (if c.fast then 1 else 0) &&
  x.op == (if c.avg then 1 else 0) && (c.shard own).contains x.chunk && n == c.chunkBytes x.chunk

/-- A contribution chunk from member src. -/
def State.takeContrib (s : State) (group src : Nat) (x : ContribHdr) (data : List Byte) : Answer × State :=
  s.tagged group x.bucket (fun g c =>
    if !c.agrees g.own x data.length || decide (c.n ≤ src) then (.reply (.ack data.length), s.modColl c.ctx c.handle Coll.bad)
    else s.arrive g c ⟨group, x.bucket, src, x.step, x.chunk, false, data⟩)

/-- An image chunk from member src. -/
def State.takeImage (s : State) (group src bucket : Nat) (step : DWord) (msg : List Byte) : Answer × State :=
  s.tagged group bucket (fun g c =>
    match c.readImage msg with
    | none => (.reply (.ack msg.length), s.modColl c.ctx c.handle Coll.bad)
    | some (i, _) => s.arrive g c ⟨group, bucket, src, step, i.first / 64, true, msg⟩)

/-- Send an answer to a request. -/
def State.reply (s : State) (h : FabHdr) : Answer → State
  | .reply r => s.answer h r
  | .notReady => s.sendOn h.src 1 (fun via => .notReady h.src via h.tag h.gen)
  | .closed => s.sendOn h.src 1 (fun via => .closed h.src via h.tag h.gen)
  | .silent => s

/-- The collective of a tag goes on. -/
def State.pumpTag (s : State) (group bucket : Nat) : Except Nat State :=
  match s.groupNum? group with
  | none => .ok s
  | some g => match s.collOf g bucket with | some c => s.pumpColl c.ctx c.handle | none => .ok s

/-- CONTRIBUTION_CHUNK. -/
def execContributionChunk (h : FabHdr) (c : ContribHdr) (data : List Byte) (s : State) : Host.Outcome State Fault Refusal :=
  let r := s.takeContrib h.group h.member c data
  pumped ((r.2.reply h r.1).pumpTag h.group c.bucket)

/-- IMAGE_CHUNK. -/
def execImageChunk (h : FabHdr) (bucket : Nat) (step : DWord) (msg : List Byte) (s : State) : Host.Outcome State Fault Refusal :=
  let r := s.takeImage h.group h.member bucket step msg
  pumped ((r.2.reply h r.1).pumpTag h.group bucket)

/-- A SHORT for the open step (R263). -/
def State.takeShort (s : State) (group bucket : Nat) (step : DWord) : State :=
  match s.groupNum? group with
  | none => s
  | some g =>
    match s.collOf g bucket with
    | none => s
    | some c =>
      if c.step = step ∧ !c.ended then
        s.modColl c.ctx c.handle (fun c =>
          let d := { c with short := true, shorts := c.shorts + 1 }
          { d with writes := d.writes ++ [⟨d.statusAddr, d.statusBlock 2, none, false⟩] })
      else s

/-- SHORT_MESSAGE: a management request, acknowledged. -/
def execShortMessage (h : FabHdr) (bucket : Nat) (step : DWord) (s : State) : Host.Outcome State Fault Refusal :=
  match s.sender h with
  | none => .next s
  | some _ => pumped (((s.takeShort h.group bucket step).answer h (.ack 0)).pumpTag h.group bucket)

/-- QUORUM_TIMER_EXPIRY (R263): the home closes on its floor, or sends SHORT and starts its timer again. -/
def execQuorumTimerExpiry (ctx handle : Nat) (s : State) : Host.Outcome State Fault Refusal :=
  match s.coll? ctx handle with
  | none => .next s
  | some c =>
    match s.group? ctx c.group with
    | none => .next s
    | some g =>
      if c.timer ≠ 0#64 ∧ !c.closed ∧ c.timerAt + c.timer.toNat ≤ s.unitCycles then
        if c.floor ≤ c.wholes g.own then pumped ((s.closeStep g c).pumpColl ctx handle)
        else
          let s1 := (s.modColl ctx handle (fun c => { c with timerAt := s.unitCycles })).broadcast g (.short c.bucket c.step)
          pumped ((s1.takeShort c.group c.bucket c.step).pumpColl ctx handle)
      else .next s

/-- COLL_EMIT_RETRY (R268): the unit tries its next record, and any write that waits, again. -/
def execCollEmitRetry (ctx handle : Nat) (s : State) : Host.Outcome State Fault Refusal := pumped (s.pumpColl ctx handle)

/-! ### COLL (R269) -/

/-- The first step, or the next, opens at a member: what it has gathered starts over, and chunks held for it enter. [DEDUCED: log entry 84] -/
def Coll.openStep (c : Coll) (home : Bool) (step : DWord) (now : Nat) : Coll :=
  { c with
    step := step, closed := !home, ended := false, timerAt := now, folded := [], shardCounts := [], done := [], emitted := 0,
    emitWait := false, nans := 0, infs := 0, malformed := false, short := false, shorts := 0,
    applied := c.applied.filter (fun x => decide (step.toNat ≤ x.step.toNat + 1)) }

/-- A chunk the greenhouse held enters the step that opens: a late one is folded whatever its step, or held again where the
step has closed meanwhile. [DEDUCED: log entry 85] -/
def State.enterHeld (s : State) (g : Group) (ctx handle : Nat) (h : HeldChunk) : State :=
  match s.coll? ctx handle with
  | none => s
  | some c =>
    if h.image then (if h.step = c.step then s.enterImage c h else s.modColl ctx handle Coll.drop1)
    else if h.step.toNat < c.step.toNat then (if c.closed then s.hold h else s.enterChunk g c h)
    else if !c.closed then s.enterChunk g c h
    else if c.drop then s.modColl ctx handle Coll.drop1
    else s.hold h

/-- A descriptor that passes Table 10-5, as the collective it opens. -/
def State.readDescriptor (s : State) (p : Plot) (l : List Byte) : Option Coll :=
  let f := leField l
  let w0 := f 0 4
  let w8 := f 8 4
  match s.group? p.ctx (w0 / 2 ^ 16 % 256) with
  | none => none
  | some g =>
    let n := f 4 2
    let emit := f 48 8 / 64 % 2 == 1
    let stage := f 48 8 % 64
    let live := match s.trellis? p.ctx (f 52 4) with | some t => decide (stage < t.stages.length) | none => false
    let fmt := w8 / 2 ^ 20 % 16
    let ok := n == g.members.length && decide (1 ≤ f 6 2) && decide (f 6 2 ≤ n) && decide (1 ≤ f 8 2) && decide (f 8 2 ≤ f 6 2) &&
      decide (w0 / 2 ^ 24 % 16 ≤ 1) && decide (w0 / 2 ^ 28 ≤ 1) && decide (w8 / 2 ^ 16 % 16 ≤ 1) && (fmt == 3 || fmt == 4) &&
      decide (w8 / 2 ^ 24 % 4 ≤ 1) && w8 / 2 ^ 26 == 0 && decide (1 ≤ f 12 4) && decide (f 12 4 ≤ 1048576) &&
      f 24 8 % 64 == 0 && f 32 8 % 64 == 0 && f 40 8 % 32 == 0 && f 48 4 / 128 == 0 && leNat (l.drop 56) == 0 && (!emit || live)
    if ok then some
      { handle := 0, ctx := p.ctx, queue := s.queueOf p, pav := p.pav, group := g.num, bucket := w0 % 2 ^ 16,
        fast := w0 / 2 ^ 24 % 16 == 1, avg := w0 / 2 ^ 28 == 1, n := n, q := f 6 2, floor := f 8 2, drop := w8 / 2 ^ 16 % 16 == 1,
        bf16 := fmt == 4, sr := w8 / 2 ^ 24 % 4 == 1, elems := f 12 4, timer := BitVec.ofNat 64 (f 16 8),
        contribAddr := BitVec.ofNat 64 (f 24 8), resultAddr := BitVec.ofNat 64 (f 32 8), statusAddr := BitVec.ofNat 64 (f 40 8),
        emit := emit, emitStage := stage, trellis := f 52 4, rk3 := s.keyAt p 3, step := 0#64, closed := false, ended := false,
        failed := false, timerAt := 0, slots := [], counts := [], applied := [], folded := [], shardCounts := [], writes := [],
        done := [], emitted := 0, emitWait := false, nans := 0, infs := 0, dropped := 0, malformed := false, short := false,
        shorts := 0, lastContrib := none }
    else none

/-- Slots claimed in the module (R143). -/
def State.slotsUsed (s : State) : Nat := s.colls.foldl (fun n c => n + c.elems) 0

def Group.setBucket (g : Group) (b : Nat) (x : BucketState) : Group := { g with buckets := (b, x) :: g.buckets.filter (fun y => y.1 != b) }

/-- COPEN. -/
def copenWord (d a b : Reg) : WordFn := withPlot (fun c p s =>
  match s.loadRecord p c.who (p.regs.s a) 128 .dev with
  | .error r => (s, r)
  | .ok (s1, bytes) =>
    let refuse := fun (code : Nat) =>
      (s1.modPlot c.plot (fun p => p.modRegs (fun g => (g.setS d (BitVec.ofNat 64 (0x10000 + code))).setFlag .front 0#2 false)), Res.done)
    match s1.readDescriptor p bytes with
    | none => refuse 1
    | some co =>
      match s1.group? p.ctx co.group with
      | none => refuse 1
      | some g =>
        if g.bucketState co.bucket = .opened then refuse 4
        else
          match (List.range 64).find? (fun h => (s1.coll? p.ctx h).isNone) with
          | none => refuse 3
          | some h =>
            if 1048576 < s1.slotsUsed + co.elems then refuse 2
            else
              let co := { co with handle := h }.openStep (co.isHome g.own) (p.regs.s b) s1.unitCycles
              let s2 := { s1 with colls := s1.colls ++ [co] }.modGroup p.ctx co.group (fun g => g.setBucket co.bucket .opened)
              (s2.modPlot c.plot (fun p => p.modRegs (fun g => (g.setS d (BitVec.ofNat 64 h)).setFlag .front 0#2 true)), .done))

/-- uf0 alone. -/
def collFlag (c : Cx) (ok : Bool) (s : State) : State × Res :=
  (s.modPlot c.plot (fun p => p.modRegs (fun g => g.setFlag .front 0#2 ok)), .done)

/-- A COLL word on an open handle; one that is not open is refused with no trap. -/
def collWord (a : Reg) (f : Cx → Plot → Coll → State → State × Res) : WordFn := withPlot (fun c p s =>
  match s.coll? p.ctx (p.regs.s a).toNat with
  | some co => f c p co s
  | none => collFlag c false s)

/-- Whether a CWAIT would go on: the step has ended, or a SHORT is still to be returned. -/
def Coll.answers (c : Coll) : Bool := c.ended || decide (0 < c.shorts)

/-- CWAIT: an acquire. [DEDUCED: log entry 91] -/
def cwaitWord (d a : Reg) : WordFn := collWord a (fun c p co s =>
  if !co.answers then (s, .block (.collective co.handle false))
  else
    let s1 := if co.ended then s else s.modColl p.ctx co.handle (fun co => { co with shorts := co.shorts - 1 })
    ((s1.invalidateL1 p.pav).modPlot c.plot (fun p => p.modRegs (fun g => (g.setS d co.step).setFlag .front 0#2 co.ended)), .done))

/-- CSTAT. -/
def cstatWord (d a : Reg) : WordFn := collWord a (fun c _ co s =>
  (s.modPlot c.plot (fun p => p.modRegs (fun g =>
    (g.setS d (BitVec.ofNat 64 (co.statusWord co.stateCode))).setFlag .front 0#2 true)), .done))

/-- A CONTRIB of the handle is still outstanding. -/
def State.contributing (s : State) (ctx handle : Nat) : Bool :=
  s.plots.any (fun p => p.ctx == ctx && p.copies.any (fun c =>
    match c.job with | .fab f => f.op == .contrib handle | .box _ => false))

/-- CCLOSE: held chunks are dropped, the status reads ENDED, the tag is CLOSED, slots and handle are free. It waits for its own CONTRIBs,
and for the write of its status. [DEDUCED: log entry 90] -/
def ccloseWord (a : Reg) : WordFn := collWord a (fun c p co s =>
  if s.contributing p.ctx co.handle then (s, .block (.collective co.handle true))
  else
    let mine := fun (h : HeldChunk) => h.group == co.group && h.bucket == co.bucket
    let last := { co with dropped := co.dropped + (s.greenhouse.filter mine).length }
    match s.unitWrite co co.statusAddr (last.statusBlock 4) with
    | (.wait, s1) => (s1, .block (.collective co.handle true))
    | (.absent pa, _) => (s, .hold (.absent pa))
    | (r, s1) =>
      let s2 := match r with
        | .refused x | .nowhere x => if co.failed then s1 else s1.errorRecord p.ctx co.queue 0 6 0#32 0#32 (BitVec.ofNat 64 x)
        | _ => s1
      collFlag c true ({ s2 with
        colls := s2.colls.filter (fun x => !(x.ctx == p.ctx && x.handle == co.handle))
        greenhouse := s2.greenhouse.filter (fun h => !mine h) }.modGroup p.ctx co.group (fun g => g.setBucket co.bucket .closed)))

/-- CREPOST: the next step opens, and the chunks held for it enter in arrival order. [DEDUCED: log entry 86] -/
def crepostWord (a : Reg) : WordFn := collWord a (fun c p co s =>
  if !co.ended then collFlag c false s
  else
    match s.group? p.ctx co.group with
    | none => collFlag c false s
    | some g =>
      let mine := fun (h : HeldChunk) => h.group == co.group && h.bucket == co.bucket
      let held := s.greenhouse.filter mine
      let s1 := { s with greenhouse := s.greenhouse.filter (fun h => !mine h) }
      let s2 := s1.modColl p.ctx co.handle (fun co => co.openStep (co.isHome g.own) (co.step + 1#64) s.unitCycles)
      let s3 := held.foldl (fun s h => s.enterHeld g p.ctx co.handle h) s2
      match s3.pumpColl p.ctx co.handle with
      | .ok s4 => collFlag c true s4
      | .error pa => (s, .hold (.absent pa)))

/-- COPEN. -/
def execCopen (d a b : Reg) (s : State) : Host.Outcome State Fault Refusal := runWord (.copen d a b) (copenWord d a b) s

/-- CWAIT. -/
def execCwait (d a : Reg) (s : State) : Host.Outcome State Fault Refusal := runWord (.cwait d a) (cwaitWord d a) s

/-- CSTAT. -/
def execCstat (d a : Reg) (s : State) : Host.Outcome State Fault Refusal := runWord (.cstat d a) (cstatWord d a) s

/-- CCLOSE. -/
def execCclose (a : Reg) (s : State) : Host.Outcome State Fault Refusal := runWord (.cclose a) (ccloseWord a) s

/-- CREPOST. -/
def execCrepost (a : Reg) (s : State) : Host.Outcome State Fault Refusal := runWord (.crepost a) (crepostWord a) s

end Sys2Proof.Machine
end

