-- ==== Sys2Proof/Machine/Fabric.lean ====
section
/-! DEFINITION. FAB and CONTRIB (10_fabric_collectives.md R249–R256, R269): the words and their checks, the chunks they send, what
a target does with a request, replies, retries and relay; and the delivery of one chunk of any engine operation. -/

namespace Sys2Proof.Machine

/-! ### The shape of a transfer -/

/-- ATOM operations by code (Table 9-4). -/
def atomOpOf : Nat → Option AtomOp
  | 0 => some .add
  | 1 => some .and
  | 2 => some .or
  | 3 => some .xor
  | 4 => some .mins
  | 5 => some .maxs
  | 6 => some .minz
  | 7 => some .maxz
  | 8 => some .xchg
  | 9 => some .cas
  | 10 => some .fadd
  | 11 => some .incw
  | _ => none

/-- The operations whose bytes go as one request; a SEND's takes a tag for each 4 KiB of its message. [DEDUCED: log entry 79] -/
def FabOp.single : FabOp → Bool
  | .ratom _ | .send _ | .recv _ => true
  | _ => false

/-- The operations whose local range is a destination (R253). -/
def FabOp.lands : FabOp → Bool
  | .rread | .ratom _ | .recv _ => true
  | _ => false

/-- The operations that read their local range. -/
def FabOp.reads : FabOp → Bool
  | .rread | .recv _ => false
  | _ => true

/-- Bytes of the local range: a compare-and-swap has its second operand at +8. -/
def FabOp.span (op : FabOp) (n : Nat) : Nat := if op = .ratom .cas then 8 + n else n

/-- The address whose 4 KiB pages cut the transfer. -/
def FabJob.base (f : FabJob) : Nat := if f.op.lands then f.lea.toNat else f.remote.toNat

/-- Pages of the transfer. -/
def FabJob.pages (f : FabJob) : Nat :=
  match f.op with
  | .contrib _ => (f.bytes + 4095) / 4096
  | op => if op.single then 1 else (f.base % 4096 + f.bytes + 4095) / 4096

def FabJob.width (f : FabJob) : Nat := max 1 f.targets.length

/-- Where chunk i starts in the transfer, and its bytes. [DEDUCED: log entry 79] -/
def FabJob.cut (f : FabJob) (i : Nat) : Nat × Nat :=
  match f.op with
  | .contrib _ => (4096 * i, min 4096 (f.bytes - 4096 * i))
  | op =>
    if op.single then (0, f.bytes)
    else
      let lo := max f.base ((f.base / 4096 + i / f.width) * 4096)
      let hi := min (f.base + f.bytes) ((f.base / 4096 + i / f.width + 1) * 4096)
      (lo - f.base, hi - lo)

def FabJob.chunks (f : FabJob) : List Chunk :=
  (List.range (f.pages * f.width)).map (fun i => ⟨i, (f.cut i).2, false, false, false⟩)

/-! ### Issue (R252, R253) -/

/-- The group and the targets a member register names. [DEDUCED: log entry 81] -/
def State.fabTargets (s : State) (p : Plot) (mcast : Bool) (x : DWord) : Option (Group × List Nat) :=
  let v := x.toNat
  if mcast then
    match s.group? p.ctx (v / 2 ^ 16 % 8) with
    | none => none
    | some g =>
      let l := (List.range 16).filter (fun j => Nat.testBit v j)
      if v / 2 ^ 19 = 0 ∧ l ≠ [] ∧ l.all (fun j => decide (j < Config.podSize)) then some (g, l) else none
  else
    match s.group? p.ctx (v / 2 ^ 12 % 8) with
    | none => none
    | some g => if v / 2 ^ 15 = 0 ∧ v % 2 ^ 12 < g.members.length then some (g, [v % 2 ^ 12]) else none

/-- Widths of a remote atomic (Table 9-4). -/
def FabOp.widthOk (op : FabOp) (n : Nat) : Bool :=
  match op with
  | .ratom .fadd => n == 4
  | .ratom _ => n == 4 || n == 8
  | _ => true

/-- The operations whose outcome a plot still waits for. -/
def State.running (s : State) (plot copy : Nat) : Bool :=
  match s.copy? plot copy with
  | some (_, c) => !c.ended
  | none => false

/-- Sends and posted buffers of operations that have ended are forgotten. -/
def State.pruneFab (s : State) : State :=
  { s with fab := { s.fab with
    sends := s.fab.sends.filter (fun x => s.running x.plot x.copy)
    posted := s.fab.posted.filter (fun x => s.running x.plot x.copy) } }

def Posted.is (x : Posted) (ctx ch group member : Nat) : Bool := x.ctx == ctx && x.ch == ch && x.group == group && x.member == member

/-- Start a fabric operation: it waits for fewer than 32 copies, for its lock entry, and for a tag (R249, R253). -/
def State.startFab (s : State) (p : Plot) (w : Who) (comp : Completion) (f : FabJob) : State × Res :=
  let n := f.op.span f.bytes
  let locks := (s.eaRange p (keyOfWho w) (some (f.lea.toNat, f.lea.toNat + n - 1))).map (fun r => (f.op.lands, r))
  let member := f.targets.headD 0
  let full := match f.op with
    | .recv ch => decide (16 ≤ (s.pruneFab.fab.posted.filter (fun x => x.is p.ctx ch f.group member)).length)
    | _ => s.freeTag.isNone
  if decide (32 ≤ p.copies.length) || !s.lockRoom p.pav locks.length || full then (s, .hold .stall)
  else
    let c : CopyRec := ⟨p.nextOp, w, comp, .fab f, f.chunks, 0#5, 0, false, [], [], [], s.words⟩
    let s1 := (s.addLocks p c.id locks).modPlot p.id (fun p => { p with copies := p.copies ++ [c], nextOp := p.nextOp + 2 })
    let fab := match f.op with
      | .send ch => { s1.fab with sends := s1.fab.sends ++ [⟨p.ctx, p.id, c.id, ch, f.group, member⟩] }
      | .recv ch => { s1.fab with posted := s1.fab.posted ++ [⟨p.ctx, ch, f.group, member, p.id, c.id⟩] }
      | _ => s1.fab
    ({ s1 with fab := fab }, .done)

/-- FAB: the completion register, then the transfer registers in order, then the local range. [DEDUCED: log entry 81] -/
def fabWord (mcast : Bool) (pick : Nat → Option FabOp) (d a : Reg) : WordFn := withPlot (fun c p s =>
  if !p.drained c.who then (s, .hold .stall)
  else
    match reg32 p c.who d with
    | .error r => (s, r)
    | .ok x =>
      match s.completionOf p x with
      | none | some (.ring ..) => (s, illegalEntry (x.setWidth 64))
      | some comp =>
        let reg := fun i => p.regs.zx c.who (regPlus a i)
        match s.fabTargets p mcast (reg 0) with
        | none => (s, illegalEntry (reg 0))
        | some (g, targets) =>
          let lane := decide (streamOf c.who = .lane)
          let remote := if lane then g.fb + reg 1 else reg 1
          let lea := if lane then windowBase .spad + reg 2 else reg 2
          let n := (reg 3).toNat % 2 ^ 24
          if remote.toNat % 4 ≠ 0 then (s, illegalEntry (reg 1))
          else if lea.toNat % 4 ≠ 0 then (s, illegalEntry (reg 2))
          else
            match pick ((reg 3).toNat / 2 ^ 24 % 16) with
            | none => (s, illegalEntry (reg 3))
            | some op =>
              if (reg 3) >>> 28 ≠ 0#64 ∨ n = 0 ∨ n % 4 ≠ 0 ∨ !op.widthOk n then (s, illegalEntry (reg 3))
              else if !s.linrOk p (keyOfWho c.who) lea (op.span n) then (s, illegalEntry (reg 2))
              else s.startFab p c.who comp ⟨op, g.num, targets, remote, lea, n, 0#64⟩)

def plainField (op : FabOp) (f : Nat) : Option FabOp := if f = 0 then some op else none

def raddField (f : Nat) : Option FabOp := if f = 1 ∨ f = 3 ∨ f = 4 then some (.radd f) else none

def CopyRec.isFab (c : CopyRec) : Bool :=
  match c.job with
  | .fab f => (match f.op with | .contrib _ => false | _ => true)
  | .box _ => false

/-- RFENCE may go on: every earlier FAB operation of the agent has ended. -/
def Plot.fenced (p : Plot) (w : Who) : Bool := p.copies.all (fun c => !(c.isFab && c.who == w && !c.ended))

/-- RFENCE (R255): a release at pod scope. -/
def rfenceWord : WordFn := withPlot (fun c p s =>
  if !p.drained c.who then (s, .hold .stall)
  else if p.fenced c.who then (s.releaseAt p.pav .pod, .done)
  else (s, .block .rfence))

/-- CONTRIB (Table 10-9): a handle that is not open, or a step no later than the last, is refused with no trap. [DEDUCED: log entry 90] -/
def contribWord (d a b : Reg) : WordFn := collWord a (fun c p co s =>
  let x := p.regs.s d
  let step := p.regs.s b
  if (match co.lastContrib with | some t => decide (step.toNat ≤ t.toNat) | none => false) then collFlag c false s
  else if x >>> 32 ≠ 0#64 then (s, illegalEntry x)
  else
    match s.completionOf p (x.setWidth 32) with
    | none | some (.ring ..) => (s, illegalEntry x)
    | some comp =>
      let n := co.elems * co.esz
      if !s.linrOk p none co.contribAddr n then (s, illegalEntry (p.regs.s a))
      else if !p.drained c.who then (s, .hold .stall)
      else
        let r := s.startFab p c.who comp ⟨.contrib co.handle, co.group, [], 0#64, co.contribAddr, n, step⟩
        match r.2 with
        | .done => collFlag c true (r.1.modColl p.ctx co.handle (fun co => { co with lastContrib := some step }))
        | o => (r.1, o))

/-! ### The target (R251, R254, R256) -/

/-- A request that has been served, or memory the module does not have. -/
abbrev Served := Except Nat (Answer × State)

/-- What an access at a target comes to; a byte with an uncorrectable error ends the operation ERRORED. [DEDUCED: log entry 77] -/
def Gated.answer (g : Gated) (r : ReplyBody) : Except Nat Answer :=
  match g with
  | .ok => .ok (.reply r)
  | .wait => .ok .notReady
  | .refused _ => .ok (.reply .refused)
  | .nowhere _ | .bad _ => .ok (.reply .errored)
  | .absent pa => .error pa

/-- The answer to a request whose range passed its checks, or did not. [DEDUCED: log entry 76] -/
def served (g : Gated) (r : ReplyBody) (s : State) : Served :=
  match g.answer r with
  | .ok a => .ok (a, s)
  | .error pa => .error pa

/-- Read n bytes and write what f makes of them, as one step. -/
def State.gateUpdate (s : State) (ctx : Nat) (va : DWord) (n : Nat) (f : List Byte → List Byte) : Gated × State × List Byte :=
  let h := s.gateFind ctx va n true
  match h.res with
  | .ok =>
    match h.s.badPart 0 h.parts with
    | some (i, l) => (.bad (va.toNat + i), h.s.logError l 0, [])
    | none =>
      match h.s.dma true h.parts with
      | (false, s1) => (.wait, s1, [])
      | (true, s1) =>
        let r := s1.engineParts gatehousePav h.parts
        (.ok, (dealBytes h.parts (f r.2)).foldl (fun s y => s.engineWrite gatehousePav y.1 y.2) r.1, r.2)
  | r => (r, h.s, [])

/-- One element of RADD: S32 wrapping, or added as DRAIN ADD adds in RNE (R137). -/
def raddElem (fmt old x : Nat) : Nat :=
  match fmtFloat fmt with
  | some f => (addRounded f .rne 0#32 (f.value old) (f.value x)).1
  | none => (old + x) % 2 ^ 32

def raddBytes (fmt : Nat) (src old : List Byte) : List Byte :=
  let w := if fmt = 4 then 2 else 4
  (List.range (src.length / w)).flatMap (fun i => natBytes (raddElem fmt (leField old (i * w) w) (leField src (i * w) w)) w)

/-- Where a local range of a fabric operation lies: none where it must wait, or where its operation has ended. -/
def State.fabLocal (s : State) (p : Plot) (c : CopyRec) (ea : DWord) (n : Nat) (write : Bool) :
    Except Nat (State × Option (List (Loc × Nat))) :=
  let h := (Hunt.start s).find p c ea n write
  match h.absent with
  | some pa => .error pa
  | none =>
    if h.err || !h.refused.isEmpty then .ok (h.s.endCopy p c stErrored, none)
    else if !h.faults.isEmpty then .ok (h.s.faultChunk p c false h.faults, none)
    else if !h.waits.isEmpty then .ok (h.s.askAll p.pav (h.s.pasid p.ctx) h.waits, none)
    else
      match h.s.dma write h.parts with
      | (false, s1) => .ok (s1, none)
      | (true, s1) => .ok (s1, some h.parts)

def State.engineWrites (s : State) (pav : Nat) (l : List (Loc × Nat)) (data : List Byte) : State :=
  (dealBytes l data).foldl (fun s y => s.engineWrite pav y.1 y.2) s

/-- A chunk is done with n bytes counted. -/
def State.fabDone (s : State) (plot copy chunk n : Nat) : State :=
  (s.modCopy plot copy (fun c => { c with chunks := modifyWhere (fun k : Chunk => k.idx == chunk) (fun k => { k with bytes := n }) c.chunks })).chunkDone
    plot copy chunk false

/-- A message meets the oldest posted buffer for its member and channel (R256); where that buffer's page is refused, both operations end
ERRORED (R254). [DEDUCED: log entry 80] -/
def State.takeMessage (s0 : State) (g : Group) (member ch : Nat) (data : List Byte) : Served :=
  let s := s0.pruneFab
  match s.fab.posted.find? (fun x => x.is g.ctx ch g.num member) with
  | none => .ok (.notReady, s)
  | some q =>
    match s.copy? q.plot q.copy with
    | none => .ok (.notReady, s)
    | some (p, c) =>
      match c.job with
      | .box _ => .ok (.notReady, s)
      | .fab f =>
        if !s.isResident p.ctx then .ok (.notReady, s)
        else
          let n := min data.length f.bytes
          match s.fabLocal p c f.lea n true with
          | .error pa => .error pa
          | .ok (s1, none) => .ok (if s1.running p.id c.id then .notReady else .reply .refused, (s1.finish p.id).pruneFab)
          | .ok (s1, some parts) =>
            let s2 := s1.engineWrites p.pav parts (data.take n)
            if f.bytes < data.length then .ok (.reply .errored, ((s2.endCopy p c stErrored).finish p.id).pruneFab)
            else .ok (.reply (.ack n), ((s2.fabDone p.id c.id 0 n).finish p.id).pruneFab)

/-- What the target of a request does. An unknown group is not answered. [DEDUCED: log entry 77] -/
def State.serveBody (s : State) (group member : Nat) (body : ReqBody) : Served :=
  match s.groupNum? group with
  | none => .ok (.silent, s)
  | some g =>
    match body with
    | .rwrite va data | .mcast va data => let r := s.gateWrite g.ctx va data; served r.1 (.ack data.length) r.2
    | .rread va n => let r := s.gateRead g.ctx va n; served r.1 (.data r.2.2) r.2.1
    | .radd va fmt data =>
      if fmt = 1 ∨ fmt = 3 ∨ fmt = 4 then
        let r := s.gateUpdate g.ctx va data.length (raddBytes fmt data)
        served r.1 (.ack data.length) r.2.1
      else .ok (.reply .errored, s)
    | .ratom va op n b c =>
      let h := s.gateFind g.ctx va n true
      let onHost := h.parts.any (fun x => x.1.space == .host)
      if onHost && !hostAtom op then .ok (.reply .errored, h.s)
      else
        let new := fun (old : List Byte) =>
          natBytes (if onHost ∧ op = .incw then atomNew .add n (leNat old) 1 0 else atomNew op n (leNat old) b.toNat c.toNat) n
        let r := s.gateUpdate g.ctx va n new
        served r.1 (.data r.2.2) r.2.1
    | .send ch data => s.takeMessage g member ch data
    | _ => .ok (.silent, s)

/-- The reply a target remembers for a request it has applied within the last 2^22 cycles (R251). [DEDUCED: log entry 78] -/
def State.remembered (s : State) (h : FabHdr) : Option ReplyBody :=
  (s.fab.applied.find? (fun x => x.src == h.src && x.tag == h.tag && x.gen == h.gen && decide (s.unitCycles < x.at_ + 2 ^ 22))).map
    (fun x => x.reply)

/-- The requests that are applied once: their answers are remembered. [DEDUCED: log entry 78] -/
def ReqBody.once : ReqBody → ReplyBody → Bool
  | .radd .., .ack _ | .ratom .., .data _ => true
  | .send .., _ => true
  | _, _ => false

/-- A request that has arrived is served, once, and answered. [DEDUCED: log entry 76] -/
def State.serve (s : State) (h : FabHdr) (body : ReqBody) : Host.Outcome State Fault Refusal :=
  match s.remembered h with
  | some r => .next (s.reply h (.reply r))
  | none =>
    match s.serveBody h.group h.member body with
    | .error pa => .fault (.absentMemory pa)
    | .ok (a, s1) =>
      let others := s1.fab.applied.filter (fun x => !(x.src == h.src && x.tag == h.tag && x.gen == h.gen))
      let s2 := match a with
        | .reply r => if body.once r then { s1 with fab := { s1.fab with applied := ⟨h.src, h.tag, h.gen, r, s1.unitCycles⟩ :: others } } else s1
        | _ => s1
      .next (s2.reply h a)

/-- RWRITE_REQUEST. -/
def execRwriteRequest (h : FabHdr) (addr : DWord) (data : List Byte) (s : State) : Host.Outcome State Fault Refusal :=
  s.serve h (.rwrite addr data)

/-- RREAD_REQUEST. -/
def execRreadRequest (h : FabHdr) (addr : DWord) (n : Nat) (s : State) : Host.Outcome State Fault Refusal := s.serve h (.rread addr n)

/-- RADD_REQUEST. -/
def execRaddRequest (h : FabHdr) (addr : DWord) (fmt : BitVec 4) (data : List Byte) (s : State) : Host.Outcome State Fault Refusal :=
  s.serve h (.radd addr fmt.toNat data)

/-- RATOM_REQUEST: an operation or a width outside Table 9-4 is answered as an error. -/
def execRatomRequest (h : FabHdr) (addr : DWord) (op : BitVec 4) (n : Nat) (b c : DWord) (s : State) : Host.Outcome State Fault Refusal :=
  match atomOpOf op.toNat with
  | some o => if (FabOp.ratom o).widthOk n then s.serve h (.ratom addr o n b c) else .next (s.reply h (.reply .errored))
  | none => .next (s.reply h (.reply .errored))

/-- MCAST_REQUEST. -/
def execMcastRequest (h : FabHdr) (addr : DWord) (data : List Byte) (s : State) : Host.Outcome State Fault Refusal :=
  s.serve h (.mcast addr data)

/-- SEND_MESSAGE. -/
def execSendMessage (h : FabHdr) (ch : BitVec 6) (data : List Byte) (s : State) : Host.Outcome State Fault Refusal :=
  s.serve h (.send ch.toNat data)

/-- DEDUP_MEMORY_EXPIRY (R251). -/
def execDedupMemoryExpiry (src : Nat) (tag : BitVec 12) (gen : BitVec 4) (s : State) : Host.Outcome State Fault Refusal :=
  .next { s with fab := { s.fab with applied := s.fab.applied.filter (fun x =>
    !(x.src == src && x.tag == tag && x.gen == gen && decide (x.at_ + 2 ^ 22 ≤ s.unitCycles))) } }

/-! ### The requester -/

/-- The operations a refused page leaves PARTIAL (R254, R390). -/
def FabOp.mayPart : FabOp → Bool
  | .radd _ | .mcast => true
  | _ => false

/-- A MCAST or RADD learns that a page of its destination waits for its page request: its status reads FAULTED (R390). [DEDUCED: log entry 138] -/
def State.faultedAt (s : State) (plot copy : Nat) : State :=
  match s.copy? plot copy with
  | none => s
  | some (p, c) =>
    match c.job, c.completion with
    | .fab f, .arrival off => if f.op.mayPart && !c.ended then s.setStatus p off stFaulted 0 else s
    | _, _ => s

/-- What the answer to a chunk does; whether its tag is done with. Data lands while the context has its parts there. -/
def State.settleChunk (s : State) (plot copy chunk : Nat) (a : Answer) : Except Nat (State × Bool) :=
  match s.copy? plot copy with
  | none => .ok (s, true)
  | some (p, c) =>
    match c.job with
    | .box _ => .ok (s, true)
    | .fab f =>
      if c.ended then .ok (s, true)
      else
        match a with
        | .reply (.ack n) => .ok (s.fabDone plot copy chunk n, true)
        | .reply (.data d) =>
          if !(s.pav p.pav).parts.contains p.ctx then .ok (s, false)
          else
            match s.fabLocal p c (f.lea + BitVec.ofNat 64 (f.cut chunk).1) d.length true with
            | .error pa => .error pa
            | .ok (s1, none) => .ok (s1, !s1.running plot copy)
            | .ok (s1, some parts) => .ok ((s1.engineWrites p.pav parts d).fabDone plot copy chunk d.length, true)
        | .reply .refused =>
          if f.op.mayPart then .ok (s.chunkDone plot copy chunk true, true) else .ok (s.endCopy p c stErrored, true)
        | .reply .errored | .closed => .ok (s.endCopy p c stErrored, true)
        | .notReady => .ok (s.faultedAt plot copy, true)
        | .silent => .ok (s, true)

/-- The request for a chunk, with the bytes read for it. -/
def FabJob.body (f : FabJob) (i : Nat) (data : List Byte) : ReqBody :=
  let va := f.remote + BitVec.ofNat 64 (f.cut i).1
  match f.op with
  | .rwrite | .contrib _ => .rwrite va data
  | .rread => .rread va (f.cut i).2
  | .radd fmt => .radd va fmt data
  | .ratom op => .ratom va op f.bytes (BitVec.ofNat 64 (leField data 0 f.bytes)) (BitVec.ofNat 64 (leField data 8 f.bytes))
  | .mcast => .mcast va data
  | .send ch | .recv ch => .send ch data

/-- A contribution chunk as the home sees it (R264). -/
def Coll.contribHdr (c : Coll) (step : DWord) (k : Nat) : ContribHdr :=
  ⟨c.bucket, step, k, c.n, c.elems, if c.bf16 then 4 else 3, if c.fast then 1 else 0, if c.avg then 1 else 0⟩

/-- Where a chunk goes: its request, the member it names, and its destination; none where it is this module's own. [DEDUCED: log entry 79] -/
def State.fabDest (s : State) (p : Plot) (g : Group) (f : FabJob) (i : Nat) (data : List Byte) : Option (ReqBody × Nat × Option Nat) :=
  let member := fun (m : Nat) (b : ReqBody) =>
    if m = g.own then some (b, m, none) else (g.members[m]?).map (fun x => (b, m, some (x.dest m)))
  match f.op with
  | .contrib handle => match s.coll? p.ctx handle with
    | some co => member (co.homeOf i) (.contrib (co.contribHdr f.step i) data)
    | none => none
  | .mcast =>
    let j := f.targets.getD (i % f.width) 0
    some (f.body i data, g.own, if j = Config.self.val then none else some j)
  | _ => member (f.targets.headD 0) (f.body i data)

/-- A SEND goes once every earlier SEND of its member and channel has ended. -/
def State.sendTurn (s : State) (c : CopyRec) (p : Plot) (op : FabOp) (group member : Nat) : Bool :=
  match op with
  | .send ch =>
    match s.pruneFab.fab.sends.find? (fun x => x.ctx == p.ctx && x.ch == ch && x.group == group && x.member == member) with
    | some x => x.plot == p.id && x.copy == c.id
    | none => true
  | _ => true

/-- Serve a request of this module's own. -/
def State.serveSelf (s : State) (g : Group) (body : ReqBody) : Served :=
  match body with
  | .contrib h data =>
    let r := s.takeContrib g.num g.own h data
    match r.2.pumpTag g.num h.bucket with
    | .ok s1 => .ok (r.1, s1)
    | .error pa => .error pa
  | b => s.serveBody g.num g.own b

/-- Send a chunk, or serve it here: no tag, or the egress budget spent, leaves it for later (R354). -/
def State.sendChunk (s : State) (p : Plot) (c : CopyRec) (f : FabJob) (k : Chunk) (data : List Byte) : Except Nat State :=
  match s.groupNum? f.group with
  | none => .ok (s.endCopy p c stErrored)
  | some g =>
    match s.fabDest p g f k.idx data with
    | none => .ok (s.endCopy p c stErrored)
    | some (body, _, none) =>
      match s.serveSelf g body with
      | .error pa => .error pa
      | .ok (a, s1) =>
        match s1.settleChunk p.id c.id k.idx a with
        | .error pa => .error pa
        | .ok r => .ok r.1
    | some (body, m, some dest) =>
      if s.freeTag.isNone || decide (1 < body.tags ∧ s.freeTags.length < body.tags) then .ok s
      else
        match s.spend 1 (s.egress dest 1) data.length with
        | (false, s1) => .ok s1
        | (true, s1) =>
          match s1.openTag (.copy p.id c.id k.idx) dest f.group m body with
          | none => .ok s1
          | some s2 => .ok (s2.modCopy p.id c.id (fun c =>
              { c with chunks := modifyWhere (fun x : Chunk => x.idx == k.idx) (fun x => { x with sent := true }) c.chunks }))

/-- A chunk of a fabric operation goes: its local bytes are found, and read where the operation reads them (R239, R240). -/
def State.moveFab (s : State) (p : Plot) (c : CopyRec) (f : FabJob) (k : Chunk) : Except Nat State :=
  let cut := f.cut k.idx
  let n := if f.op.single then f.op.span f.bytes else cut.2
  let isRecv := match f.op with | .recv _ => true | _ => false
  if isRecv || !s.sendTurn c p f.op f.group (f.targets.headD 0) then .ok s
  else
    match s.fabLocal p c (f.lea + BitVec.ofNat 64 cut.1) n f.op.lands with
    | .error pa => .error pa
    | .ok (s1, none) => .ok s1
    | .ok (s1, some parts) =>
      if !f.op.reads then s1.sendChunk p c f k []
      else
        match s1.badPart 0 parts with
        | some (i, l) =>
          let ea := f.lea + BitVec.ofNat 64 (cut.1 + i)
          .ok (((s1.logError l 4).raiseMchk p.id c.who 4 ea).endCopy p c stErrored)
        | none =>
          let r := s1.engineParts p.pav parts
          let d := r.1.staleParts p.launch parts r.2
          d.1.sendChunk p c f k d.2

/-- After an event of a fabric operation. -/
def fabEnd (plot : Nat) (r : Except Nat State) : Host.Outcome State Fault Refusal :=
  match r with
  | .ok s => .next ((s.finish plot).pruneFab)
  | .error pa => .fault (.absentMemory pa)

/-- The answer to a request lands: its tag goes, or holds the data until its destination's translation comes. [DEDUCED: log entry 82] -/
def State.landTag (s : State) (t : TagReq) (a : Answer) : Host.Outcome State Fault Refusal :=
  match t.owner with
  | .unit => .next ((s.unitEnds t false).releaseTag t.tag)
  | .copy plot copy chunk =>
    match s.settleChunk plot copy chunk a with
    | .error pa => .fault (.absentMemory pa)
    | .ok (s1, true) => fabEnd plot (.ok (s1.releaseTag t.tag))
    | .ok (s1, false) =>
      let d := match a with | .reply (.data d) => d | _ => []
      fabEnd plot (.ok (s1.modTag t.tag (fun t => { t with landing := some d })))

/-- The tag of a chunk, where its data waits to land. -/
def State.landingOf (s : State) (plot copy chunk : Nat) : Option (TagReq × List Byte) :=
  s.fab.tags.findSome? (fun t => if t.owner = .copy plot copy chunk then t.landing.map (fun d => (t, d)) else none)

/-- COPY_CHUNK_DELIVERED: one chunk of an engine operation of a context whose engines run is delivered, is sent, or lands; one that has
a source which an earlier operation still writes waits (R182, R237, R387). -/
def execCopyChunkDelivered (plot op chunk : Nat) (s : State) : Host.Outcome State Fault Refusal :=
  match s.copy? plot op with
  | none => .next s
  | some (p, c) =>
    match c.chunks.find? (fun k => k.idx == chunk && !k.done) with
    | none => .next s
    | some k =>
      if c.ended || !(k.sent || s.enginesRun p.ctx) || s.lockWait p c.id then .next s
      else
        match c.job with
        | .box b =>
          if !b.ready then .next s
          else
            match s.deliverChunk p c b chunk with
            | .next s1 => .next (s1.finish plot)
            | r => r
        | .fab f =>
          if k.sent then
            match s.landingOf plot op chunk with
            | some (t, d) => s.landTag t (.reply (.data d))
            | none => .next s
          else fabEnd plot (s.moveFab p c f k)

/-- FABRIC_REPLY (R250): a tag whose data already waits to land takes no second reply. -/
def execFabricReply (tag : BitVec 12) (gen : BitVec 4) (r : ReplyBody) (s : State) : Host.Outcome State Fault Refusal :=
  match s.matched tag gen with
  | .error s1 => .next s1
  | .ok t => if t.landing.isSome then .next s else s.landTag t (.reply r)

/-- RECEIVER_NOT_READY_REPLY: the requester waits its backoff. -/
def execReceiverNotReadyReply (tag : BitVec 12) (gen : BitVec 4) (s : State) : Host.Outcome State Fault Refusal :=
  match s.matched tag gen with
  | .error s1 => .next s1
  | .ok t =>
    if t.waiting || t.landing.isSome then .next s
    else
      let s1 := match t.owner with | .copy plot copy _ => s.faultedAt plot copy | .unit => s
      .next (s1.modTag tag (fun t => { t with waiting := true, sentAt := s.unitCycles }))

/-- CLOSED_REPLY: the request fails at once. -/
def execClosedReply (tag : BitVec 12) (gen : BitVec 4) (s : State) : Host.Outcome State Fault Refusal :=
  match s.matched tag gen with
  | .error s1 => .next s1
  | .ok t => if t.landing.isSome then .next s else s.landTag t .closed

/-- BACKOFF_EXPIRY: the request goes again, with the next backoff doubled up to 2^20 cycles. [DESIGN CHOICE: log entry 75] -/
def execBackoffExpiry (tag : BitVec 12) (s : State) : Host.Outcome State Fault Refusal :=
  match s.tag? tag with
  | none => .next s
  | some t =>
    if t.waiting ∧ t.sentAt + t.backoff ≤ s.unitCycles then
      let t1 := { t with waiting := false, sentAt := s.unitCycles, backoff := min (2 * t.backoff) (2 ^ 20), attempts := 1 }
      .next ((s.modTag tag (fun _ => t1)).transmit t1)
    else .next s

/-- REQUEST_RETRY_TIMEOUT: after 2^18 cycles of silence the request goes again, or fails after its eighth attempt. [DESIGN CHOICE: log entry 75] -/
def execRequestRetryTimeout (tag : BitVec 12) (s : State) : Host.Outcome State Fault Refusal :=
  match s.tag? tag with
  | none => .next s
  | some t =>
    if t.waiting ∨ t.landing.isSome ∨ s.unitCycles < t.sentAt + 2 ^ 18 then .next s
    else if t.attempts < 8 then
      let t1 := { t with sentAt := s.unitCycles, attempts := t.attempts + 1 }
      .next ((s.modTag tag (fun _ => t1)).transmit t1)
    else
      match t.owner with
      | .unit => .next ((s.unitEnds t true).releaseTag tag)
      | .copy .. => s.landTag t (.reply .errored)

/-! ### Relay and link retry (R245, R391) -/

/-- RELAY_FORWARD: the crossbar passes a message on the relay channel of the destination's port. A message whose port is not live is
lost, and its requester sends it again (R250). -/
def execRelayForward (src dst : Nat) (msg : List Byte) (s : State) : Host.Outcome State Fault Refusal :=
  if s.mgmt.powered && s.portLive dst then .next (s.emit (.forward dst src dst msg)) else .next s

/-- LINK_LEVEL_RETRY: no agent sees it; the port, unless it is idle, counts it. -/
def execLinkLevelRetry (port : Nat) (s : State) : Host.Outcome State Fault Refusal :=
  if portWired port then .next (s.modPort port (fun p => { p with retry := satInc p.retry })) else .next s

/-! ### The words -/

/-- FAB.RWRITE. -/
def execFabRwrite (d a : Reg) (l : Bool) (s : State) : Host.Outcome State Fault Refusal :=
  runWord (.fabRwrite d a l) (fabWord false (plainField .rwrite) d a) s

/-- FAB.RREAD. -/
def execFabRread (d a : Reg) (l : Bool) (s : State) : Host.Outcome State Fault Refusal :=
  runWord (.fabRread d a l) (fabWord false (plainField .rread) d a) s

/-- FAB.RADD. -/
def execFabRadd (d a : Reg) (l : Bool) (s : State) : Host.Outcome State Fault Refusal :=
  runWord (.fabRadd d a l) (fabWord false raddField d a) s

/-- FAB.RATOM. -/
def execFabRatom (d a : Reg) (l : Bool) (s : State) : Host.Outcome State Fault Refusal :=
  runWord (.fabRatom d a l) (fabWord false (fun f => (atomOpOf f).map FabOp.ratom) d a) s

/-- FAB.MCAST. -/
def execFabMcast (d a : Reg) (l : Bool) (s : State) : Host.Outcome State Fault Refusal :=
  runWord (.fabMcast d a l) (fabWord true (plainField .mcast) d a) s

/-- FAB.SEND. -/
def execFabSend (d a : Reg) (ch : BitVec 6) (l : Bool) (s : State) : Host.Outcome State Fault Refusal :=
  runWord (.fabSend d a ch l) (fabWord false (plainField (.send ch.toNat)) d a) s

/-- FAB.RECV. -/
def execFabRecv (d a : Reg) (ch : BitVec 6) (l : Bool) (s : State) : Host.Outcome State Fault Refusal :=
  runWord (.fabRecv d a ch l) (fabWord false (plainField (.recv ch.toNat)) d a) s

/-- FAB.RFENCE. -/
def execFabRfence (l : Bool) (s : State) : Host.Outcome State Fault Refusal := runWord (.fabRfence l) rfenceWord s

/-- CONTRIB. -/
def execContrib (d a b : Reg) (s : State) : Host.Outcome State Fault Refusal := runWord (.contrib d a b) (contribWord d a b) s

end Sys2Proof.Machine
end

