-- ==== Sys2Proof/Machine/Gatehouse.lean ====
section
/-! DEFINITION. The gatehouse (14_gatehouse_launch.md R340–R354; 13_trellis_progress.md R322, R324, R325, R334;
08_views_versions.md R192, R193, R202, R205, R206): doorbells, how a packet is read, checked and taken, the packets, the
completion of a launch, and the budgets' periods. -/

namespace Sys2Proof.Machine

/-! ### Queues -/

def State.queue? (s : State) (ctx q : Nat) : Option Queue :=
  match s.ctx? ctx with
  | some c => c.queues.find? (fun x => x.num == q)
  | none => none

def State.modQueue (s : State) (ctx q : Nat) (f : Queue → Queue) : State :=
  s.modCtx ctx (fun c => { c with queues := modifyWhere (fun x : Queue => x.num == q) f c.queues })

/-- The queue enters ERROR, with one error record (R346). -/
def State.queueError (s : State) (ctx q op reason : Nat) (w0 : Word) (detail : Nat) : State :=
  match s.queue? ctx q with
  | none => s
  | some x =>
    (s.modQueue ctx q (fun x => { x with error := true, waiting := false })).errorRecord ctx q op reason x.rd w0 (BitVec.ofNat 64 detail)

/-- DOORBELL (R343, R420): a queue that is not enabled discards it; one past the ring puts the queue in ERROR, reason 3. [DEDUCED: log entry 120] -/
def execDoorbell (ctx q : Nat) (wi : Word) (s : State) : Host.Outcome State Fault Refusal :=
  match s.queue? ctx q with
  | none => .next s
  | some x =>
    if !x.en then .next s
    else
      let s1 := s.modQueue ctx q (fun x => { x with wr := wi })
      if !x.error && decide (2 ^ x.log2 < (wi - x.rd).toNat) then .next (s1.queueError ctx q 0 3 0#32 0) else .next s1

/-! ### Packets (R344–R346) -/

/-- What a packet comes to: it is taken, it holds its queue, it is malformed (reason and detail), or it meets memory the module
does not have. A packet that holds keeps no effect but the requests it has sent. -/
inductive Verdict where
  | take (s : State)
  | hold (s : State)
  | error (s : State) (reason detail : Nat)
  | absent (pa : Nat)

/-- A packet's place, and its bytes. -/
structure Pk where
  ctx : Nat
  q : Nat
  bytes : List Byte

/-- The bits from lo up, n of them, of the 32-bit word at a byte offset. -/
def Pk.bits (k : Pk) (off lo n : Nat) : Nat := leField k.bytes off 4 / 2 ^ lo % 2 ^ n
def Pk.word (k : Pk) (off : Nat) : Nat := leField k.bytes off 4
def Pk.wide (k : Pk) (off : Nat) : Nat := leField k.bytes off 8
def Pk.va (k : Pk) (off : Nat) : DWord := BitVec.ofNat 64 (k.wide off)

/-- The bits that word i of a packet gives a meaning (Tables 14-4, 14-6, 14-8). -/
def usedBits (op i : Nat) : Nat :=
  let all := 0xFFFFFFFF
  match i with
  | 0 => 0x1FF
  | 1 => match op with
    | 1 => all | 3 => 1 | 5 => 0x3FFFF | 6 => 0x103FF | 7 => 0xFFFF | 8 => 0x1FFF | 9 => 0xF | 10 => 0x3FF | _ => 0
  | 2 => match op with
    | 1 | 2 | 3 | 4 | 6 | 9 | 10 => all | 7 => 0x1FFFF | 8 => 0x1FFF1FFF | _ => 0
  | 3 => match op with
    | 1 => 0x00FFFFFF | 2 | 3 | 4 | 6 | 9 => all | _ => 0
  | 4 | 5 => match op with
    | 1 | 3 | 4 | 6 | 7 | 8 | 9 | 10 => all | _ => 0
  | 6 => match op with
    | 1 | 7 | 8 | 9 => all | 6 => 7 | _ => 0
  | 7 => match op with
    | 1 | 7 | 8 | 9 => all | _ => 0
  | 8 | 9 => match op with
    | 1 | 7 | 9 => all | _ => 0
  | 10 => match op with
    | 1 | 7 => all | _ => 0
  | 11 => match op with
    | 1 => 0xFFFF07FF | 7 => all | _ => 0
  | _ => if op = 1 then all else 0

/-- The offset of the first word with a reserved bit set. [DEDUCED: log entry 94] -/
def Pk.reserved (k : Pk) (op : Nat) : Option Nat :=
  ((List.range 16).find? (fun i => k.word (4 * i) &&& (0xFFFFFFFF ^^^ usedBits op i) != 0)).map (fun i => 4 * i)

/-- The first limit broken: the offset of its field. [DEDUCED: log entry 94] -/
def firstBroken (l : List (Nat × Bool)) : Option Nat := (l.find? (fun x => x.2)).map (fun x => x.1)

/-- A block a packet names (reasons 4 and 8 of Table 14-7). -/
def State.block (s : State) (ctx : Nat) (va : DWord) (n : Nat) (f : State → List Byte → Verdict) : Verdict :=
  match s.gateRead ctx va n with
  | (.ok, s1, l) => f s1 l
  | (.wait, s1, _) => .hold s1
  | (.refused x, s1, _) | (.nowhere x, s1, _) => .error s1 4 x
  | (.bad x, s1, _) => .error s1 8 x
  | (.absent pa, _, _) => .absent pa

/-- The packet leaves its queue: the read index goes on, and is written to the read-index word (R343). The write comes after the
packet's effect, and a packet whose write would wait is not taken. A write the host refuses is not made. -/
def State.advance (s0 s : State) (ctx q : Nat) : Host.Outcome State Fault Refusal :=
  match s.queue? ctx q with
  | none => .next s
  | some x =>
    let rd := x.rd + 1#32
    let s1 := s.modQueue ctx q (fun x => { x with rd := rd, waiting := false })
    match s1.gateWrite ctx x.readWord (natBytes rd.toNat 4) with
    | (.wait, _) => .next (s0.gateAsk ctx x.readWord 4)
    | (.absent pa, _) => .fault (.absentMemory pa)
    | (_, s2) => .next s2

/-- Read the packet at the head of a queue and do what f makes of it (R343–R346): f stands for the opcodes `ops` admits. Every queue is
held while a live update switches the lodges (16_recovery.md R397). [DEDUCED: log entry 94] -/
def takePacket (ctx q : Nat) (ops : Nat → Bool) (f : Pk → State → Verdict) (s : State) : Host.Outcome State Fault Refusal :=
  match s.queue? ctx q with
  | none => .next s
  | some x =>
    if !s.placing ctx || s.mgmt.switching || !x.en || x.error || x.rd == x.wr then .next s
    else
      match s.gateRead ctx (x.base + BitVec.ofNat 64 (64 * (x.rd.toNat % 2 ^ x.log2))) 64 with
      | (.wait, s1, _) => .next s1
      | (.absent pa, _, _) => .fault (.absentMemory pa)
      | (.refused a, s1, _) | (.nowhere a, s1, _) => .next (s1.queueError ctx q 0 4 0#32 a)
      | (.bad a, s1, _) => .next (s1.queueError ctx q 0 8 0#32 a)
      | (.ok, s1, bytes) =>
        let k : Pk := ⟨ctx, q, bytes⟩
        let op := k.bits 0 0 8
        let w0 := BitVec.ofNat 32 (k.word 0)
        if !ops op then .next s
        else if 11 ≤ op then .next (s1.queueError ctx q op 1 w0 0)
        else
          match k.reserved op with
          | some off => .next (s1.queueError ctx q op 2 w0 off)
          | none =>
            match f k s1 with
            | .absent pa => .fault (.absentMemory pa)
            | .error s2 reason detail => .next (s2.queueError ctx q op reason w0 detail)
            | .hold s2 => .next (s2.modQueue ctx q (fun x => { x with waiting := true }))
            | .take s2 => if k.bits 0 8 1 = 1 ∧ x.taken ≠ [] then .next s1 else s1.advance s2 ctx q

/-- NOP. -/
def execPacketNop (ctx q : Nat) (s : State) : Host.Outcome State Fault Refusal := takePacket ctx q (fun op => op == 0) (fun _ s => .take s) s

/-- UNKNOWN_OP_PACKET (R345): the queue goes to ERROR with reason 1. -/
def execUnknownOpPacket (ctx q : Nat) (s : State) : Host.Outcome State Fault Refusal :=
  takePacket ctx q (fun op => decide (11 ≤ op)) (fun _ s => .hold s) s

/-! ### LAUNCH (Table 14-8, R348–R350) -/

/-- A launch or a trellis that has not completed. -/
def State.liveLaunch (s : State) (id : Nat) : Bool := s.launches.any (fun l => l.id == id)

def Context.handle? (c : Context) (h : Nat) : Option Handle := c.handles.find? (fun x => x.num == h)

/-- The last writer of a handle has completed. -/
def State.writerDone (s : State) (h : Handle) : Bool := match h.writer with | some id => !s.liveLaunch id | none => true

def State.readersDone (s : State) (h : Handle) : Bool := h.readers.all (fun id => !s.liveLaunch id)

/-- A launch need not wait for a handle it lists (R189, R350). -/
def State.handleFree (s : State) (c : Context) (e : Nat × Bool × Bool) : Bool :=
  match c.handle? e.1 with
  | none => true
  | some h =>
    (!(e.2.1 || e.2.2) || s.writerDone h) && (!e.2.1 || s.readersDone h) &&
    (e.2.1 || !e.2.2 || decide ((h.readers.filter s.liveLaunch).length < 8))

/-- The entry after the launch is taken: W makes it the last writer, R alone a reader. -/
def Context.touchHandle (id : Nat) (c : Context) (e : Nat × Bool × Bool) : Context :=
  if !(e.2.1 || e.2.2) then c
  else
    let h := (c.handle? e.1).getD ⟨e.1, none, []⟩
    let h1 : Handle := if e.2.1 then ⟨e.1, some id, []⟩ else { h with readers := if h.readers.contains id then h.readers else h.readers ++ [id] }
    { c with handles := h1 :: c.handles.filter (fun x => x.num != e.1) }

/-- Handles the launch would add. -/
def Context.newHandles (c : Context) (l : List (Nat × Bool × Bool)) : List Nat :=
  ((l.filter (fun e => (e.2.1 || e.2.2) && (c.handle? e.1).isNone)).map (fun e => e.1)).eraseDups

/-- The limits of Table 14-8 and R349. [DEDUCED: log entry 94] -/
def State.launchLimit (s : State) (c : Context) (k : Pk) : Option Nat :=
  let nx := k.bits 4 0 16
  let ny := k.bits 4 16 16
  let nz := k.bits 8 0 16
  let n := k.bits 8 16 10
  let fed := k.bits 44 16 16
  firstBroken [
    (4, nx == 0 || ny == 0),
    (8, nz == 0 || decide (2 ^ 31 < nx * ny * nz) || n == 0 || decide (512 < n) || decide (16 < k.bits 8 26 5) ||
      (k.bits 8 31 1 == 1 && nx * ny * nz % 8 != 0)),
    (12, decide (c.spad < 1024 * k.bits 12 0 10) || (k.bits 12 23 1 == 1 && (s.group? k.ctx (k.bits 12 20 3)).isNone)),
    (16, k.wide 16 % 4 != 0),
    (32, k.word 32 == 0 || k.word 32 % 4 != 0),
    (44, decide (62 < k.bits 44 0 6) || decide (16 < k.bits 44 6 5) || (fed != 0 && (s.trellis? k.ctx fed).isNone)),
    (48, k.wide 48 % 8 != 0),
    (56, k.wide 56 % 8 != 0)]

/-- A handle entry. -/
def handleEntry (w : Nat) : Nat × Bool × Bool := (w % 2 ^ 16, Nat.testBit w 16, Nat.testBit w 17)

/-- The launch the packet describes, from its argument block. -/
def State.newLaunch (s : State) (c : Context) (k : Pk) (args : List Byte) (hs : List (Nat × Bool × Bool)) : Launch :=
  { id := s.ids, ctx := k.ctx, queue := k.q, nx := k.bits 4 0 16, ny := k.bits 4 16 16, nz := k.bits 8 0 16, n := k.bits 8 16 10,
    tiles := k.bits 8 26 5, gang := k.bits 8 31 1 == 1, spadKib := k.bits 12 0 10, priv := k.bits 12 10 10,
    bind := if k.bits 12 23 1 = 1 then some (k.bits 12 20 3) else none, code := k.va 16, map := k.va 24, bytes := k.word 32,
    lane := BitVec.ofNat 32 (k.word 36), uni := BitVec.ofNat 32 (k.word 40),
    preload := (List.range (k.bits 44 0 6)).map (fun i => BitVec.ofNat 64 (leField args (8 * i) 8)), handles := hs,
    fed := if k.bits 44 16 16 = 0 then none else some (k.bits 44 16 16), signal := k.va 56, rk := c.rk, next := 0, retired := 0 }

/-- The launch joins the order of placement; a trellis it is the first to name takes its code object (R325). -/
def State.addLaunch (s : State) (l : Launch) : State :=
  let s1 := { s with launches := s.launches ++ [l], ids := s.ids + 1 }
  let s2 := s1.modCtx l.ctx (fun c => l.handles.foldl (Context.touchHandle l.id) c)
  let s3 := match l.fed with
    | none => s2
    | some h => match s2.trellis? l.ctx h with
      | some t => s2.modTrellis t.id (fun t => { t with code := t.code.or (some l) })
      | none => s2
  s3.modQueue l.ctx l.queue (fun x => { x with taken := x.taken ++ [l.id] })

/-- A launch that names a handle of the table starts after every L1 of the module is invalidated (R189). -/
def launchPacket (k : Pk) (s : State) : Verdict :=
  match s.ctx? k.ctx with
  | none => .hold s
  | some c =>
    match s.launchLimit c k with
    | some off => .error s 3 off
    | none =>
      let p := k.bits 44 0 6
      let h := k.bits 44 6 5
      s.block k.ctx (k.va 48) (8 * p + 4 * h) (fun s args =>
        let ws := (List.range h).map (fun i => leField args (8 * p + 4 * i) 4)
        let hs := ws.map handleEntry
        if ws.any (fun w => w / 2 ^ 18 != 0) then .error s 2 48
        else if 4096 < c.handles.length + (c.newHandles hs).length then .error s 3 48
        else if !hs.all (s.handleFree c) then .hold s
        else
          let earlier := hs.any (fun e => (c.handle? e.1).isSome)
          .take ((if earlier then s.invalidateAll else s).addLaunch (s.newLaunch c k args hs)))

/-- LAUNCH. -/
def execLaunch (ctx q : Nat) (s : State) : Host.Outcome State Fault Refusal := takePacket ctx q (fun op => op == 1) launchPacket s

/-! ### TRELLIS (R322, R324) -/

/-- The header (Table 13-1): a reserved field, or a limit broken, by offset. -/
def trellisReserved (l : List Byte) : Option Nat :=
  firstBroken [(0, leField l 0 2 / 128 != 0), (4, leField l 4 4 / 128 != 0), (8, leField l 8 8 / 2 ^ 23 != 0),
    (32, leField l 32 8 / 2 ^ 21 != 0), (40, leNat (l.drop 40) != 0)]

def State.trellisLimit (s : State) (l : List Byte) : Option Nat :=
  let n := leField l 0 2 % 128
  let g := leField l 4 4 % 128
  let handle := leField l 2 2
  let pool := leField l 8 8 % 2 ^ 23
  let seeds := leField l 32 8 % 2 ^ 21
  firstBroken [(0, n == 0 || decide (64 < n) || handle == 0 || s.trellises.any (fun t => t.handle == handle) ||
      decide (16 ≤ s.trellises.length)),
    (4, g == 0 || decide (64 < g)), (8, pool == 0 || decide (4194304 < pool)), (16, leField l 16 8 % 8 != 0),
    (24, seeds != 0 && leField l 24 8 % 64 != 0), (32, decide (2 ^ 20 < seeds))]

/-- A stage entry (Table 13-2). -/
def stageReserved (l : List Byte) : Option Nat :=
  firstBroken [(16, leField l 16 4 / 2 ^ 21 != 0 || leField l 20 2 / 2 ^ 15 != 0), (40, leNat (l.drop 40) != 0)]

/-- Bytes of device memory from a physical address meet no view region. -/
def State.plainDevice (s : State) (pa n : Nat) : Bool :=
  decide (pa + n ≤ deviceBytes) && s.views.all (fun r => decide (pa + n ≤ r.base) || decide (r.base + r.extent ≤ pa))

/-- Whether a cached translation reaches any of n bytes of device memory, in any view. -/
def State.entryMeets (s : State) (pa n : Nat) (e : AtcEntry) : Bool :=
  let off := (e.pa - s.bar2) % 2 ^ 50
  decide (s.bar2 ≤ e.pa) && decide (e.pa < s.bar2 + 2 ^ 52) && decide (off < pa + n) && decide (pa < off + 2 ^ e.log2)

/-- Whether a context's mapping that the module knows reaches any of n bytes of device memory. [DEDUCED: log entry 96] -/
def State.mapped (s : State) (pa n : Nat) : Bool :=
  s.xl.device.any (s.entryMeets pa n) || s.xl.grove.any (fun g => s.entryMeets pa n g.2) ||
  s.pavs.any (fun v => v.atc.any (s.entryMeets pa n))

/-- The first field of a stage entry that breaks a limit of Table 13-2. [DEDUCED: log entry 96] -/
def State.stageLimit (s : State) (l : List Byte) : Option Nat :=
  let cap := leField l 16 4 % 2 ^ 21
  let w := leField l 20 2
  let base := leField l 8 8
  firstBroken [(8, base % 4096 != 0 || !s.plainDevice base (64 * cap) || s.mapped base (64 * cap)), (16, cap == 0 || decide (2 ^ 20 < cap)),
    (20, w % 64 == 0 || decide (32 < w % 64) || decide (16 < w / 2 ^ 10 % 32)), (22, decide (512 < leField l 22 2)),
    (24, leField l 24 4 == 0), (28, leField l 28 4 % 16 != 0)]

def stageOf (l : List Byte) : Stage :=
  let w := leField l 20 2
  { lane := BitVec.ofNat 32 (leField l 0 4), uni := BitVec.ofNat 32 (leField l 4 4), base := leField l 8 8,
    cap := leField l 16 4 % 2 ^ 21, thr := w % 64, maxDepth := w / 2 ^ 6 % 16, tiles := w / 2 ^ 10 % 32, spadKib := leField l 22 2,
    timer := leField l 24 4, priv := leField l 28 4, succ := BitVec.ofNat 64 (leField l 32 8), state := .idle, recs := [], head := 0,
    tail := 0, started := 0 }

/-- A seed: its record words and its stage; none where the gatehouse refuses it. -/
def seedOf (stages : Nat) (l : List Byte) : Option (List Word × Nat) :=
  let w := leField l 32 4
  if w / 16 % 64 < stages ∧ w % 16 = 0 then
    some ((List.range 8).map (fun i => BitVec.ofNat 32 (leField l (4 * i) 4)), w / 16 % 64)
  else none

/-- Seeds fit their queues and the pool. -/
def seedsFit (stages : List Stage) (pool : Nat) (l : List (List Word × Nat)) : Bool :=
  decide (l.length ≤ pool) && stages.zipIdx.all (fun x => decide ((l.filter (fun y => y.2 == x.2)).length ≤ x.1.cap))

/-- The trellis becomes live, its seeds accepted in address order. -/
def State.addTrellis (s : State) (c : Context) (k : Pk) (h : List Byte) (stages : List Stage) (seeds : List (List Word × Nat)) : State :=
  let id := s.ids
  let t : Trellis :=
    { handle := leField h 2 2, id := id, ctx := k.ctx, queue := k.q, groups := leField h 4 4 % 128, pool := leField h 8 8 % 2 ^ 23,
      signal := BitVec.ofNat 64 (leField h 16 8), stages := stages, code := none, rk := c.rk, seq := 0 }
  let s1 := { s with trellises := s.trellises ++ [t], ids := id + 1 }
  (seeds.foldl (fun s x => s.accept id x.2 x.1 0 true false 0xFFFFFFFF#32) s1).modQueue k.ctx k.q (fun x => { x with taken := x.taken ++ [id] })

def sliceBytes (l : List Byte) (i n : Nat) : List Byte := (l.drop (n * i)).take n

def trellisPacket (k : Pk) (s : State) : Verdict :=
  match s.ctx? k.ctx with
  | none => .hold s
  | some c =>
    let va := k.va 8
    if va.toNat % 64 ≠ 0 then .error s 3 8
    else s.block k.ctx va 64 (fun s h =>
      match trellisReserved h with
      | some off => .error s 2 off
      | none =>
        match s.trellisLimit h with
        | some off => .error s 3 off
        | none =>
          let n := leField h 0 2 % 128
          s.block k.ctx (va + 64#64) (64 * n) (fun s e =>
            let entries := (List.range n).map (fun i => sliceBytes e i 64)
            match entries.zipIdx.findSome? (fun x => (stageReserved x.1).map (fun o => 64 * (1 + x.2) + o)) with
            | some off => .error s 2 off
            | none =>
              match entries.zipIdx.findSome? (fun x => (s.stageLimit x.1).map (fun o => 64 * (1 + x.2) + o)) with
              | some off => .error s 3 off
              | none =>
                let count := leField h 32 8 % 2 ^ 21
                let stages := entries.map stageOf
                s.block k.ctx (BitVec.ofNat 64 (leField h 24 8)) (64 * count) (fun s b =>
                  match (List.range count).mapM (fun i => seedOf n (sliceBytes b i 64)) with
                  | none => .error s 3 24
                  | some seeds =>
                    if seedsFit stages (leField h 8 8 % 2 ^ 23) seeds then .take (s.addTrellis c k h stages seeds) else .error s 3 32)))

/-- TRELLIS. -/
def execTrellis (ctx q : Nat) (s : State) : Host.Outcome State Fault Refusal := takePacket ctx q (fun op => op == 2) trellisPacket s

/-! ### SIGNAL, WAITSIG, BUFDEP, RKINIT, REPAIR -/

/-- A signal write: a refused one leaves an error record with reason 7 in the log of a context. [DEDUCED: log entry 67] -/
def State.signalOr (s : State) (ctx : Nat) (va : DWord) (add : Bool) (v : DWord) (log queue : Nat) : Verdict :=
  match s.signal ctx va add v with
  | (.ok, s1) => .take s1
  | (.wait, s1) => .hold s1
  | (.absent pa, _) => .absent pa
  | (.refused x, s1) | (.nowhere x, s1) | (.bad x, s1) => .take (s1.errorRecord log queue 0 7 0#32 0#32 (BitVec.ofNat 64 x))

def signalPacket (k : Pk) (s : State) : Verdict :=
  if k.wide 8 % 8 ≠ 0 then .error s 3 8 else s.signalOr k.ctx (k.va 8) (k.bits 4 0 1 == 0) (k.va 16) k.ctx k.q

/-- SIGNAL. -/
def execSignal (ctx q : Nat) (s : State) : Host.Outcome State Fault Refusal := takePacket ctx q (fun op => op == 3) signalPacket s

def waitsigPacket (k : Pk) (s : State) : Verdict :=
  if k.wide 8 % 8 ≠ 0 then .error s 3 8
  else s.block k.ctx (k.va 8) 8 (fun s1 l => if (BitVec.ofNat 64 (leNat l) - k.va 16).msb then .hold s1 else .take s1)

/-- WAITSIG: the first read of the word. -/
def execWaitsig (ctx q : Nat) (s : State) : Host.Outcome State Fault Refusal := takePacket ctx q (fun op => op == 4) waitsigPacket s

/-- WAITSIG_POLL: a later read, by a queue that waits. -/
def execWaitsigPoll (ctx q : Nat) (s : State) : Host.Outcome State Fault Refusal :=
  match s.queue? ctx q with
  | some x => if x.waiting then takePacket ctx q (fun op => op == 4) waitsigPacket s else .next s
  | none => .next s

/-- BUFDEP (14_gatehouse_launch.md R353). [DEDUCED: log entry 98] -/
def bufdepPacket (k : Pk) (s : State) : Verdict :=
  match s.ctx? k.ctx with
  | none => .hold s
  | some c =>
    let h := k.bits 4 0 16
    match k.bits 4 16 2 with
    | 3 => .error s 3 4
    | 2 => .take (s.modCtx k.ctx (fun c => { c with handles := c.handles.filter (fun x => x.num != h) }))
    | mode =>
      match c.handle? h with
      | none => .take s.invalidateAll
      | some x => if s.writerDone x && (mode == 0 || s.readersDone x) then .take s.invalidateAll else .hold s

/-- BUFDEP (R353). -/
def execBufdep (ctx q : Nat) (s : State) : Host.Outcome State Fault Refusal := takePacket ctx q (fun op => op == 5) bufdepPacket s

/-- The keys whose MASK bits are set (R74). -/
def rkinitPacket (k : Pk) (s : State) : Verdict :=
  .take (s.modCtx k.ctx (fun c => { c with rk := c.rk.mapFinIdx (fun i v _ => if Nat.testBit (k.bits 4 0 4) i then k.va (8 + 8 * i) else v) }))

/-- RKINIT. -/
def execRkinit (ctx q : Nat) (s : State) : Host.Outcome State Fault Refusal := takePacket ctx q (fun op => op == 9) rkinitPacket s

/-- Write a queue's read-index word; a refused write is not made. [DEDUCED: log entry 97] -/
def State.writeReadWord (s : State) (ctx : Nat) (va : DWord) (x : Word) : Verdict :=
  match s.gateWrite ctx va (natBytes x.toNat 4) with
  | (.wait, s1) => .hold s1
  | (.absent pa, _) => .absent pa
  | (_, s1) => .take s1

/-- REPAIR (R347). A hold keeps nothing but the requests sent: the signal word rises once, when the packet is taken. -/
def repairPacket (k : Pk) (s : State) : Verdict :=
  let tc := k.bits 4 0 6
  let tq := k.bits 4 6 4
  let rd := BitVec.ofNat 32 (k.word 8)
  let va := k.va 16
  let tell := fun (s0 s : State) =>
    if va = 0#64 then Verdict.take s
    else
      match s.signalOr tc va true 1#64 k.ctx k.q with
      | .hold _ => .hold (s0.gateAsk tc va 8)
      | v => v
  match s.queue? k.ctx k.q with
  | none => .hold s
  | some own =>
    if !own.privq then .error s 5 0
    else
      match s.queue? tc tq with
      | none => .error s 3 4
      | some t =>
        if t.error then
          if 2 ^ t.log2 < (t.wr - rd).toNat then .error s 3 8
          else
            match s.writeReadWord tc t.readWord rd with
            | .take s1 => tell s (s1.modQueue tc tq (fun x => { x with rd := rd, error := false, waiting := false }))
            | v => v
        else tell s s

/-- REPAIR. -/
def execRepair (ctx q : Nat) (s : State) : Host.Outcome State Fault Refusal := takePacket ctx q (fun op => op == 10) repairPacket s

/-! ### VIEWREG (R192, R193) -/

def VRegion.slotBytes (r : VRegion) : Nat := r.pages * r.z * 65536

/-- Two ranges of addresses meet. -/
def rangesMeet (a n b m : Nat) : Bool := decide (a < b + m) && decide (b < a + n)

def State.viewLimit (s : State) (num : Nat) (r : ViewRegion) : Option Nat :=
  let rb := r.cols * r.esz
  firstBroken [
    (4, s.views.any (fun x => x.num == num)),
    (8, r.base % 65536 != 0 || decide (deviceBytes < r.base + r.extent) ||
      s.views.any (fun x => rangesMeet r.base r.extent x.base x.extent) ||
      s.vregs.any (fun x => rangesMeet r.base r.extent x.slotPa x.slotBytes)),
    (16, r.rows % 32 != 0 || r.rows == 0 || decide (1048576 < r.rows) || decide (2 ^ 35 < r.extent)),
    (20, rb % 32 != 0 || decide (rb < 32) || decide (65536 < rb)),
    (24, !(r.esz == 1 || r.esz == 2 || r.esz == 4))]

/-- Before a region is registered, dirty row-view sectors of its extent are written back, and its column- and tiled-view lines go from
every L1 and L2 (19_programs_views_trellis.md R413). -/
def State.clearView (s : State) (r : ViewRegion) : State :=
  let meets := fun (a : Nat) => decide (r.base ≤ a % 2 ^ 50) && decide (a % 2 ^ 50 < r.base + r.extent)
  let s1 := (s.mem.sectors.filter (fun x => meets x.addr && apertureOf x.addr == 0)).foldl State.writeBack s
  { s1 with
    mem := { s1.mem with sectors := s1.mem.sectors.filter (fun x => !meets x.addr) }
    pavs := s1.pavs.map (fun v =>
      { v with l1 := v.l1.filter (fun x => apertureOf (128 * x.addr) == 0 || !meets (128 * x.addr)) }) }

/-- VIEWREG (08_views_versions.md R192, R193). [DEDUCED: log entry 95] -/
def viewregPacket (k : Pk) (s : State) : Verdict :=
  let num := k.bits 4 0 10
  if k.bits 4 16 1 = 1 then
    match s.views.find? (fun r => r.num == num) with
    | none => .error s 3 4
    | some _ =>
      let live := s.launches.map (fun l => l.id)
      let mark := fun (r : ViewRegion) => { r with removing := r.removing.or (some live) }
      .take { s with views := modifyWhere (fun r => r.num == num) mark s.views }
  else
    let r : ViewRegion := ⟨num, k.wide 8, k.word 16, k.word 20, k.bits 24 0 3, none⟩
    match s.viewLimit num r with
    | some off => .error s 3 off
    | none => let s1 := s.clearView r; .take { s1 with views := s1.views ++ [r] }

/-- VIEWREG. -/
def execViewreg (ctx q : Nat) (s : State) : Host.Outcome State Fault Refusal := takePacket ctx q (fun op => op == 6) viewregPacket s

/-- VIEW_REMOVE_EFFECT: once every launch that started before the packet has completed, dirty sectors are written back and the
region is ordinary memory. [DEDUCED: log entry 97] -/
def execViewRemoveEffect (region : Nat) (s : State) : Host.Outcome State Fault Refusal :=
  match s.views.find? (fun r => r.num == region) with
  | none => .next s
  | some r =>
    match r.removing with
    | none => .next s
    | some l =>
      if l.any s.liveLaunch then .next s
      else
        let s1 := s.syncViews
        .next { s1 with views := s1.views.filter (fun x => x.num != region) }

/-! ### VERREG (R202, R205, R206) -/

/-- The 128 bytes of a page's table entry (Table 8-4). -/
def VRegion.entryBytes (r : VRegion) (e : VPage) : List Byte :=
  (List.range 8).flatMap (fun k =>
    match e.slots[k]? with
    | none => List.replicate 16 0#8
    | some x =>
      let st := match x.state with | .free => 0 | .opened => 1 | .committed => 2
      natBytes (x.step.toNat + 2 ^ 64 * st + 2 ^ 80 * ((r.slotPa + (e.page * r.z + k) * 65536) / 65536 % 2 ^ 36)) 16)

/-- Write entries back to the table. [DEDUCED: log entry 97] -/
def State.writeEntries (s : State) (r : VRegion) (l : List VPage) : State :=
  l.foldl (fun s e => s.l2Write (r.table + 128 * e.page) (r.entryBytes e)) s

/-- The first parameter of a versioned region that breaks a limit of Table 8-3. [DEDUCED: log entry 96] -/
def State.versionLimit (s : State) (r : VRegion) : Option Nat :=
  firstBroken [
    (4, s.vregs.any (fun x => x.num == r.num) || decide (r.z < 2) || decide (8 < r.z)),
    (8, r.pages == 0 || decide (65536 < r.pages)),
    (16, r.nameBase % 65536 != 0),
    (24, r.slotVa % 65536 != 0 || rangesMeet r.nameBase (r.pages * 65536) r.slotVa r.slotBytes),
    (32, r.slotPa % 65536 != 0 || !s.plainDevice r.slotPa r.slotBytes),
    (40, r.table % 128 != 0 || decide (deviceBytes < r.table + 128 * r.pages) || s.mapped r.table (128 * r.pages))]

/-- VERREG (08_views_versions.md R202, R203). [DEDUCED: log entry 95] -/
def verregPacket (k : Pk) (s : State) : Verdict :=
  let num := k.bits 4 0 8
  if k.bits 4 15 1 = 1 then
    match s.vregs.find? (fun r => r.num == num && r.ctx == k.ctx) with
    | none => .error s 3 4
    | some r =>
      let s1 := s.writeEntries r r.entries
      .take { s1 with vregs := s1.vregs.filter (fun x => x.num != num) }
  else
    let r : VRegion := ⟨num, k.ctx, k.wide 16, k.bits 8 0 17, k.bits 4 8 4, k.wide 24, k.wide 32, k.wide 40, k.bits 4 12 3, []⟩
    match s.versionLimit r with
    | some off => .error s 3 off
    | none =>
      let s1 := s.writeEntries r ((List.range r.pages).map r.entry)
      .take { s1 with vregs := s1.vregs ++ [r] }

/-- VERREG. -/
def execVerreg (ctx q : Nat) (s : State) : Host.Outcome State Fault Refusal := takePacket ctx q (fun op => op == 7) verregPacket s

/-! ### COLLREG (R248, R334) -/

/-- An entry of the member list: LIVE at step 0; none where a reserved bit is set. -/
def memberOf (now : Nat) (l : List Byte) : Option Member :=
  let w := leField l 0 8
  let ethernet := Nat.testBit w 4
  if w / 32 ≠ 0 ∨ (!ethernet ∧ leField l 8 8 ≠ 0) then none
  else some ⟨w % 16, ethernet, BitVec.ofNat 64 (leField l 8 8), 0#64, .live, now, false⟩

/-- COLLREG (10_fabric_collectives.md R248). [DEDUCED: log entry 95] -/
def collregPacket (k : Pk) (s : State) : Verdict :=
  let num := k.bits 4 0 3
  let n := k.bits 8 0 13
  let own := k.bits 8 16 13
  let log := k.bits 4 7 6
  if k.bits 4 3 1 = 1 then
    match s.group? k.ctx num with
    | none => .error s 3 4
    | some _ => .take { s with groups := s.groups.filter (fun g => g.num != num) }
  else
    match firstBroken [
        (4, (s.groupNum? num).isSome || decide (6 < k.bits 4 4 3) || decide (log < 26) || decide (40 < log)),
        (8, n == 0 || decide (4096 < n) || decide (n ≤ own))] with
    | some off => .error s 3 off
    | none => s.block k.ctx (k.va 16) (16 * n) (fun s l =>
        match (List.range n).mapM (fun i => memberOf s.unitCycles (sliceBytes l i 16)) with
        | none => .error s 2 16
        | some ms =>
          let g : Group := ⟨num, k.ctx, own, k.bits 4 4 3, 2 ^ log, k.va 24, ms, 0#64, [], s.unitCycles⟩
          .take { s with groups := s.groups ++ [g] })

/-- COLLREG. -/
def execCollreg (ctx q : Nat) (s : State) : Host.Outcome State Fault Refusal := takePacket ctx q (fun op => op == 8) collregPacket s

/-! ### LAUNCH_COMPLETION (R351) and BUDGET_PERIOD (R354) -/

/-- The launch counts as completed everywhere that names it; the version table is written back (R206), and what its LDIs have read is
forgotten (07_ordering_model.md R179). -/
def State.endLaunch (s : State) (l : Launch) : State :=
  let s1 := (s.vregs.filter (fun r => r.ctx == l.ctx)).foldl (fun s r => s.writeEntries r r.entries) s
  let s2 := { s1 with launches := s1.launches.filter (fun x => x.id != l.id) }
  ((s2.untake l.ctx l.queue l.id).modCtx l.ctx (fun c =>
    { c with handles := c.handles.map (fun h => { h with readers := h.readers.filter (fun x => x != l.id) }) })).endLdi l.id

/-- LAUNCH_COMPLETION: every plot of the grid has retired. -/
def execLaunchCompletion (launch : Nat) (s : State) : Host.Outcome State Fault Refusal :=
  match s.launch? launch with
  | none => .next s
  | some l =>
    if l.retired ≠ l.total then .next s
    else if l.signal = 0#64 then .next (s.drainEverything.endLaunch l)
    else
      match s.completeSignal l.ctx l.queue l.signal with
      | .error pa => .fault (.absentMemory pa)
      | .ok none => .next (s.signal l.ctx l.signal true 1#64).2
      | .ok (some s1) => .next (s1.endLaunch l)

/-- BUDGET_PERIOD: an activity's period is over: its budget refills (R354). -/
def execBudgetPeriod (activity : Nat) (s : State) : Host.Outcome State Fault Refusal :=
  if h : activity < 6 then .next (s.refill ⟨activity, h⟩) else .next s

end Sys2Proof.Machine
end

