-- ==== Sys2Proof/Machine/Recovery.lean ====
section
/-! DEFINITION. Translation and its requests (15_isolation.md R358–R363), the states of a plot under faults
(16_recovery.md R381–R386, Table 16-4), and stopping, saving and returning plots (R387–R389; 11_strands_bundles.md R302). -/

namespace Sys2Proof.Machine

/-! ### Leaving and saving -/

/-- The plot is saved and gives up its rows, front-thread context and tiles; what its agents have stored is performed at the L2
first, and the bytes of its record in the save area are written whole (R187, R383, R387). [DEDUCED: log entry 71] -/
def State.savePlot (s : State) (p : Plot) : State :=
  let s1 := s.drainAll p.pav
  let s2 := { s1 with mem := { s1.mem with bad := s1.mem.bad.filter (fun b => !(b.space == Space.dev && Config.saveArea p.id b.addr)) } }
  s2.modPlot p.id (fun q => { q with saved := some ((List.range p.tiles.length).map (s.tile p)), resident := false })

/-- An uncorrectable byte of a plot's record in the save area (Table 16-7). [DESIGN CHOICE: log entry 137] -/
def State.spoiled (s : State) (p : Plot) : Option Loc :=
  s.mem.bad.find? (fun b => b.space == Space.dev && Config.saveArea p.id b.addr)

/-- The shadow state is discarded: every agent stands where the checkpoint has it, outside any bundle (R382, R383). -/
def Plot.rollback (p : Plot) : Plot :=
  let g := p.real
  let g1 := g.agents.foldl (fun g x => if x.2.phase = .issuing then g.reenter x.1 x.2.pc else g) g
  { p with regs := g1.settle, ck := none, ra := none, bundle := none, run := .rollback }

/-- RUNAHEAD_LIMIT: run-ahead has met one of its ends (R382), or the context is pre-empted (Table 16-4). -/
def execRunaheadLimit (plot : Nat) (s : State) : Host.Outcome State Fault Refusal :=
  match s.plot? plot with
  | none => .next s
  | some p => if p.run = .runahead ∧ (p.aheadDone ∨ !s.isResident p.ctx) then .next (s.setPlot p.rollback) else .next s

/-- PLOT_PARK: its loads have landed and its stores are performed; the plot is saved and its batch goes to the host as one group
(R383). -/
def execPlotPark (plot : Nat) (s : State) : Host.Outcome State Fault Refusal :=
  match s.plot? plot with
  | none => .next s
  | some p =>
    if p.run = .rollback ∧ p.regs.quiet then
      let id := s.xl.nextGroup
      let s1 := (s.savePlot p).modPlot plot (fun q => { q with run := .parked, batch := [], prg := some id })
      .next (s1.addGroup p.ctx p.batch (some plot) none)
    else .next s

/-! ### Page Request Group responses (R361, R384, R386, R389) -/

/-- Entries and refusals of a page give way, so that it is translated again. [DEDUCED: log entry 68] -/
def State.dropPage (s : State) (pasid page : Nat) : State :=
  let keep := fun (e : AtcEntry) => !e.covers pasid (page * 4096)
  { s with
    pavs := s.pavs.map (fun v => { v with atc := v.atc.filter keep })
    xl := { s.xl with
      grove := s.xl.grove.filter (fun g => keep g.2)
      device := s.xl.device.filter keep
      denied := s.xl.denied.filter (fun d => !(d.pasid == pasid && d.page == page)) } }

/-- A parked plot's group is answered (R361, R384): the plot may return. -/
def Plot.responded (p : Plot) (ok : Bool) (pages : List PageNeed) : Plot :=
  { p with
    answered := if ok then p.answered ++ pages else p.answered
    refused := if ok then p.refused else (p.refused ++ pages.map (fun n => n.page)).take 64
    run := .returnable
    prg := none
    heldResponse := none }

/-- What the group's answer tells those who asked; a plot whose context is not resident is told when it is again (R389). [DESIGN CHOICE: log entry 23] -/
def State.answerGroup (s : State) (g : PageGroup) (ok : Bool) : State :=
  let pages := g.pages.map (fun n => n.page)
  match g.plot, g.copy with
  | some id, some c =>
    s.modCopy id c (fun c =>
      if ok then { c with answered := c.answered ++ g.pages, asked := c.asked.filter (fun x => !pages.contains x) }
      else { c with refused := c.refused ++ pages })
  | some id, none =>
    s.modPlot id (fun p =>
      if p.prg = some g.id ∧ p.run = .parked then
        if s.isResident p.ctx then p.responded ok g.pages else { p with heldResponse := some (ok, g.pages), prg := none }
      else p)
  | none, _ =>
    { s with xl := { s.xl with
      answered := if ok then s.xl.answered ++ g.pages.map (fun n => (g.pasid, n)) else s.xl.answered
      refused := if ok then s.xl.refused else s.xl.refused ++ pages.map (fun x => (g.pasid, x)) } }

/-- Whatever waits for a translation or a page goes on: error records and the reduction units. -/
def State.goOn (s : State) : Except Nat State := (s.ctxs.foldl (fun s c => s.flushRecords c.slot 65) s).pumpAll

/-- PAGE_REQUEST_RESPONSE: the room it frees lets held groups go (R361, R383); a response to a group that nothing holds is
discarded (R389). -/
def execPageRequestResponse (pasid group : Nat) (r : PrgResponse) (s : State) : Host.Outcome State Fault Refusal :=
  match s.xl.groups.find? (fun g => g.id == group && g.pasid == pasid && g.sent) with
  | none => .next s
  | some g =>
    let ok := decide (r = .success)
    let s1 := { s with xl := { s.xl with groups := s.xl.groups.filter (fun h => h.id != g.id) } }
    let s2 := if ok then g.pages.foldl (fun s n => s.dropPage pasid n.page) s1 else s1
    pumped ((s2.answerGroup g ok).sendGroups.goOn)

/-! ### Returning (R385, R302) -/

/-- An agent of a plot that runs again: the word at which it was BLOCKED or GATHERED is issued again; a SYNC keeps the token of its
arrival (R36, R302, R316, R382). -/
def Regs.resumeAgent (g : Regs) (w : Who) : Regs :=
  match g.agent? w with
  | none => g
  | some a =>
    match a.phase with
    | .blocked | .gathered => g.wake w
    | _ => g

/-- Every agent as the plot returns; ages and the regrouper's timers start over (R302). -/
def Plot.resume (p : Plot) : Plot :=
  let g := p.regs.agents.foldl (fun g x => g.resumeAgent x.1) p.regs
  let g1 := { g with
    frontier := g.frontier.map (fun e => { e with age := 0, promoted := none })
    strands := g.strands.map (fun st => if st.ag.phase = .exiled then { st with ag := { st.ag with since := p.pcyc } } else st) }
  { p with regs := g1, run := .running, gatherAt := none, saved := none, resident := true }

/-- A new matrix plot could be placed but for its token, on a pavilion that no plot waits to run on again. -/
def State.couldPlace (s : State) (w : Want) : Bool :=
  (List.range 320).any (fun pav => s.pavFree pav w.tiles && (List.range 16).any (fun bed => s.fits w pav bed))

/-- A matrix plot that draws a token again waits its turn with the others in launch order (R387); a RETURNABLE one goes before new
ones (R385). [DEDUCED: log entry 72] -/
def State.tokenTurn (s : State) (p : Plot) : Bool :=
  p.tiles.isEmpty || p.token ||
  (s.plots.all (fun q => !(s.awaitsReturn q && !q.tiles.isEmpty && !q.token && decide (s.orderOf q < s.orderOf p))) &&
   (p.run == .returnable ||
    s.wanting.all (fun w => w.tiles == 0 || !s.placing w.ctx || decide (s.orderOf p ≤ w.order) || !s.couldPlace w)))

/-- A bed of its pavilion has room for a plot that waits to run again, its exiled strands in spawn memory included (R285, R302). -/
def State.returnFits (s : State) (p : Plot) (bed : Nat) : Bool :=
  decide (bed < 16) && decide (p.rows.length ≤ (s.freeRows p.pav bed).length) && decide ((s.residentOn p.pav).length < 64) &&
  decide (p.tiles.length ≤ (s.freeTiles p.pav).length) && (s.pav p.pav).parts.contains p.ctx &&
  decide (s.exiledOn p.pav bed + (p.regs.strands.filter (fun st => st.ag.phase == .exiled)).length ≤ spawnRecords)

/-- The saved tiles of a plot, with the errors they hold, go into the physical tiles it takes (R141). -/
def State.restoreTiles (s : State) (p : Plot) (l : List Nat) : State :=
  l.zipIdx.foldl (fun s x => s.setPhysTile p.pav x.1 { (p.saved.getD []).getD x.2 Tile.zero with ctx := some p.ctx }) s

/-- A plot whose record in the save area holds an uncorrectable error is HALTED as it is restored (Table 16-7, R392). -/
def State.failRestore (s : State) (p : Plot) (l : Loc) : State :=
  ((s.logError l 0).setPlot { p with run := .halted }).errorRecord p.ctx (s.queueOf p) 0 9 0#32 0#32 (p.srPlot.setWidth 64)

/-- PLOT_RETURN (Table 16-4, R387): the plot takes rows and tiles on its pavilion, whose L1 is invalidated (R187), and resumes. -/
def execPlotReturn (plot bed : Nat) (s : State) : Host.Outcome State Fault Refusal :=
  match s.plot? plot with
  | none => .next s
  | some p =>
    if !s.awaitsReturn p || !s.returnFits p bed || !s.tokenTurn p then .next s
    else
      match s.spoiled p with
      | some l => .next (s.failRestore p l)
      | none =>
      match s.drawTokens (if p.tiles.isEmpty || p.token then 0 else 1) with
      | (false, s1) => .next s1
      | (true, s1) =>
        let rows := (s1.freeRows p.pav bed).take p.rows.length
        let tiles := (s1.freeTiles p.pav).take p.tiles.length
        let q := { p with bed := bed, rows := rows, tiles := tiles, token := !tiles.isEmpty }
        .next ((((s1.restoreTiles p tiles).invalidateL1 p.pav).setPlot q.resume).finish plot)

/-! ### Pre-emption (R387) -/

/-- The plots of a context have stopped, its copies with them, and the replies to what its FAB operations and CONTRIBs have sent are in
(R387, steps 2 and 3). -/
def State.quiescent (s : State) (ctx : Nat) : Bool :=
  s.plots.all (fun p => p.ctx != ctx ||
    ((!p.resident || p.stopped) && p.run != .rollback && p.copies.all (fun c => c.ended || c.chunks.all (fun k => !k.sent))))

/-- The range locks of a context, by pavilion. -/
def State.locksOf (s : State) (ctx : Nat) : List (Nat × Lock) :=
  s.pavs.flatMap (fun v => (v.locks.filter (fun l => l.ctx == ctx)).map (fun l => (v.num, l)))

/-- Save every plot of a context that is pre-empted, with its range locks; its tokens are returned, and its parts released: their bytes
are the images of the save area (R387, step 4; Table 16-5). -/
def State.saveContext (s : State) (c : Context) : State :=
  let s1 := (s.plots.filter (fun p => p.ctx == c.slot && p.resident)).foldl State.savePlot s
  let drop := fun (v : Pavilion) =>
    { v with parts := v.parts.filter (fun x => x != c.slot), locks := v.locks.filter (fun l => l.ctx != c.slot) }
  ({ s1 with
    plots := s1.plots.map (fun p => if p.ctx = c.slot then { p with token := false } else p)
    pavs := s1.pavs.map drop } : State).modCtx c.slot (fun c => { c with present := false, locks := s1.locksOf c.slot })

def State.quiesceCtx (s : State) (c : Context) : State :=
  if c.resident || !c.present || !s.quiescent c.slot then s else s.saveContext c

/-- CONTEXT_PREEMPT, as far as it has come. [DEDUCED: log entry 71] -/
def State.quiesce (s : State) : State := s.ctxs.foldl State.quiesceCtx s

/-! ### Halting (R380) -/

/-- A plot that is to halt stands where pre-emption stops it, and its tile operations have ended. [DEDUCED: log entry 35] -/
def Plot.haltsNow (p : Plot) : Bool :=
  p.resident && p.bundle.isNone && p.regs.front.ag.phase != .issuing && p.regs.quiet && p.tops.isEmpty &&
  (p.run == .running || p.run == .rollback)

/-- The plot is saved, HALTED, and an error record with reason 9 names the trap (R380). -/
def State.haltOne (s : State) (p : Plot) : State :=
  match p.halt with
  | none => s
  | some (w, t) =>
    if p.haltsNow then
      ((s.savePlot p).modPlot p.id (fun q => { q with run := .halted, regs := q.real, ck := none, ra := none, batch := [] })).errorRecord
        p.ctx (s.queueOf p) 0 9 0#32 0#32 (haltDetail w t)
    else s

/-- The plots that are to halt do so as they come to their stops. -/
def State.halts (s : State) : State := (s.plots.filter (fun p => p.halt.isSome)).foldl State.haltOne s

/-! ### ATS (R359, R362, R363) -/

/-- The cached page sizes, largest first. [DEDUCED: log entry 70] -/
def cachedLog2 (log2 : Nat) : Nat := if 30 ≤ log2 then 30 else if 21 ≤ log2 then 21 else if 16 ≤ log2 then 16 else 12

/-- The entry a grant of 2^log2 bytes at an address gives for a requested page. [DEDUCED: log entry 70] -/
def grantEntry (q : AtsReq) (addr : DWord) (log2 : Nat) (r w : Bool) : AtcEntry :=
  let k := cachedLog2 log2
  let va := q.page * 4096
  let size := 2 ^ max log2 12
  ⟨q.pasid, va / 2 ^ k * 2 ^ k, k, addr.toNat / size * size + va % size / 2 ^ k * 2 ^ k, r, w⟩

/-- Fill the caches of the request's pavilion and grove and the device's (R358). -/
def State.fillAtc (s : State) (q : AtsReq) (e : AtcEntry) : State :=
  let s1 := s.dropPage q.pasid q.page
  let s2 := s1.modPav q.pav (fun v => { v with atc := touch 256 e v.atc })
  { s2 with xl := { s2.xl with
    grove := if q.pav < 320 then touchGrove (groveOf q.pav, e) s2.xl.grove else s2.xl.grove
    device := touchDevice e s2.xl.device } }

/-- ATS_TRANSLATION_COMPLETION: one that an invalidation has overtaken fills nothing; a refusal is kept until the page is asked
for again (R361). [DEDUCED: log entry 68] -/
def execAtsTranslationCompletion (req : Nat) (r : AtsResult) (s : State) : Host.Outcome State Fault Refusal :=
  match s.xl.reqs.find? (fun q => q.id == req) with
  | none => .next s
  | some q =>
    let s1 := { s with xl := { s.xl with reqs := s.xl.reqs.filter (fun x => x.id != req) } }
    if q.stale then .next s1
    else
      match r with
      | .grant addr log2 rd wr => pumped ((s1.fillAtc q (grantEntry q addr log2 rd wr)).goOn)
      | .unsupported | .abort =>
        let s2 := s1.dropPage q.pasid q.page
        pumped (({ s2 with xl := { s2.xl with denied := s2.xl.denied ++ [⟨q.pasid, q.page⟩] } } : State).goOn)

/-- A range of virtual addresses that an invalidation names. -/
structure InvRange where
  pasid : Nat
  every : Bool
  lo : Nat
  hi : Nat

def InvRange.hits (x : InvRange) (pasid va n : Nat) : Bool := (x.every || x.pasid == pasid) && decide (va < x.hi) && decide (x.lo < va + n)

def InvRange.hitsEntry (x : InvRange) (e : AtcEntry) : Bool := x.hits e.pasid (e.va / 2 ^ e.log2 * 2 ^ e.log2) (2 ^ e.log2)

def InvRange.hitsPage (x : InvRange) (pasid page : Nat) : Bool := x.hits pasid (page * 4096) 4096

/-- Purge the entries and the refusals of a range; requests outstanding are overtaken (R362, R363, R386). -/
def State.purge (s : State) (x : InvRange) : State :=
  let keep := fun (e : AtcEntry) => !x.hitsEntry e
  { s with
    pavs := s.pavs.map (fun v => { v with atc := v.atc.filter keep })
    plots := s.plots.map (fun p =>
      let pasid := s.pasid p.ctx
      { p with
        refused := p.refused.filter (fun g => !x.hitsPage pasid g)
        answered := p.answered.filter (fun n => !x.hitsPage pasid n.page) })
    xl := { s.xl with
      grove := s.xl.grove.filter (fun g => keep g.2)
      device := s.xl.device.filter keep
      denied := s.xl.denied.filter (fun d => !x.hitsPage d.pasid d.page)
      answered := s.xl.answered.filter (fun a => !x.hitsPage a.1 a.2.page)
      refused := s.xl.refused.filter (fun a => !x.hitsPage a.1 a.2)
      reqs := s.xl.reqs.map (fun q => { q with stale := q.stale || x.hitsPage q.pasid q.page }) } }

/-- Mark the loads that `uses` names, and every store. -/
def Agent.mark (itag : Nat) (uses : PLoad → Bool) (a : Agent) : Agent :=
  { a with
    loads := a.loads.map (fun l => if uses l then { l with itag := itag :: l.itag } else l)
    stores := a.stores.map (fun x => { x with itag := itag :: x.itag }) }

def Regs.mark (itag : Nat) (uses : PLoad → Bool) (g : Regs) : Regs :=
  { g with
    front := { g.front with ag := g.front.ag.mark itag uses }
    strands := g.strands.map (fun st => { st with ag := st.ag.mark itag uses }) }

/-- A load was translated through the range: by its effective address, or by the backing of a private byte. -/
def InvRange.hitsLoad (x : InvRange) (pasid : Nat) (l : PLoad) : Bool :=
  match l.parts with
  | none => false
  | some ps => x.hits pasid l.ea.toNat l.bytes || ps.any (fun y => y.1.space == .path)

/-- A request sent serves a chunk whose local bytes lie in the range. -/
def State.tagHit (s : State) (x : InvRange) (t : TagReq) : Bool :=
  match t.owner with
  | .unit => false
  | .copy p c k =>
    match s.copy? p c with
    | some (q, r) =>
      (match r.job with
       | .fab f => x.hits (s.pasid q.ctx) (f.lea.toNat + (f.cut k).1) (f.cut k).2
       | .box _ => false)
    | none => false

/-- The accesses under way that may have used a purged entry: those in the range, and every store of the PASIDs named. [DEDUCED: log entry 69] -/
def State.markAccesses (s : State) (itag : Nat) (x : InvRange) : State :=
  { s with
    plots := s.plots.map (fun p =>
      let pasid := s.pasid p.ctx
      if x.every || x.pasid == pasid then p.modReal (fun g => g.mark itag (x.hitsLoad pasid)) else p)
    fab := { s.fab with tags := s.fab.tags.map (fun t => if s.tagHit x t then { t with itag := itag :: t.itag } else t) } }

/-- ATS_INVALIDATE_REQUEST: the dies answer nothing while they are held in reset (20_package_management.md R422). -/
def execAtsInvalidateRequest (itag pasid : Nat) (everyPasid : Bool) (va : DWord) (log2 : Nat) (s : State) : Host.Outcome State Fault Refusal :=
  if !s.mgmt.powered then .next s
  else
    let lo := va.toNat / 2 ^ log2 * 2 ^ log2
    let x : InvRange := ⟨pasid, everyPasid, lo, lo + 2 ^ log2⟩
    let s1 := (s.purge x).markAccesses itag x
    .next { s1 with xl := { s1.xl with invals := s1.xl.invals ++ [⟨itag, 0, s.dieCycles 0⟩] } }

/-- An access that an invalidation waits for is still to be performed. [DEDUCED: log entry 69] -/
def State.waitsFor (s : State) (itag : Nat) : Bool :=
  s.plots.any (fun p => p.real.agents.any (fun x =>
    x.2.loads.any (fun l => l.itag.contains itag) || x.2.stores.any (fun y => y.itag.contains itag))) ||
  s.fab.tags.any (fun t => t.itag.contains itag)

/-- INVALIDATE_COMPLETION: the writes that the pavilions have queued are performed first (R362, Table 15-3). -/
def execInvalidateCompletion (itag : Nat) (s : State) : Host.Outcome State Fault Refusal :=
  if s.mgmt.powered && s.xl.invals.any (fun v => v.itag == itag) && !s.waitsFor itag then
    let s1 := (s.pavs.map Pavilion.num).foldl State.drainAll s
    .next ({ s1 with xl := { s1.xl with invals := s1.xl.invals.filter (fun v => v.itag != itag) } }.emit (.invalidateDone itag))
  else .next s

/-- A request that an invalidation waits for has been answered RECEIVER-NOT-READY. -/
def State.waitsAfar (s : State) (itag : Nat) : Bool := s.fab.tags.any (fun t => t.waiting && t.itag.contains itag)

/-- The cycles of a die's clock by which its Invalidate Completions are due, 2^20 after their requests; one that a RECEIVER-NOT-READY
target holds up is not bound (R363). [DEDUCED: log entry 69] -/
def State.invalsDue (s : State) (die : Nat) : List Nat :=
  (s.xl.invals.filter (fun v => v.die == die && !s.waitsAfar v.itag)).map (fun v => v.at_ + 2 ^ 20)

end Sys2Proof.Machine
end

