-- ==== Sys2Proof/Machine/Bed.lean ====
section
/-! DEFINITION. What a bed does between words: the ends of waits (11_strands_bundles.md R275), forming bundles (R276–R278, R281,
R283), the regrouper (R285–R288), the timers of a rendezvous (04_lane_arithmetic.md R107) and of REORDER (R290), and the
delivery of traps (16_recovery.md R376, R377). -/

namespace Sys2Proof.Machine

/-- The plot may issue: its context is resident, it runs or runs ahead, and no trap is to halt it (R302, R380, R382). -/
def State.mayIssue (s : State) (p : Plot) : Bool :=
  s.isResident p.ctx && p.resident && p.halt.isNone && (p.run == .running || (p.run == .runahead && !p.aheadDone))

/-- The plot runs on, and none of what it does is speculative. -/
def State.runsPlain (s : State) (p : Plot) : Bool := s.isResident p.ctx && p.resident && p.halt.isNone && p.run == .running

/-! ### The beds (R272, R278) -/

/-- A bed as the module holds it: one that it does not list has issued nothing. -/
def State.bed (s : State) (pav num : Nat) : Bed :=
  (s.beds.find? (fun b => b.pav == pav && b.num == num)).getD ⟨pav, num, none, none⟩

def State.setBed (s : State) (b : Bed) : State :=
  { s with beds := b :: s.beds.filter (fun x => !(x.pav == b.pav && x.num == b.num)) }

/-- The plots that stand on a bed. -/
def State.onBed (s : State) (pav bed : Nat) : List Plot :=
  s.plots.filter (fun p => p.pav == pav && p.bed == bed && p.resident)

/-- The plot's place in the slot-row order of its bed: its lowest row. [DESIGN CHOICE: log entry 40] -/
def Plot.place (p : Plot) : Nat := p.rows.foldl min 16

/-- How far a plot stands behind the row that a bed served last, round-robin. -/
def Plot.turnAfter (p : Plot) (last : Option Nat) : Nat :=
  match last with
  | none => p.place
  | some r => (p.place + 16 - r) % 17

/-! ### The ends of waits -/

/-- The condition that a BLOCKED agent waits for holds, so that its word is issued again. Barriers, rendezvous, POPQ and EMITW
are served by what ends their wait. [DEDUCED: log entry 28] -/
def State.waitOver (s : State) (p : Plot) (w : Who) (a : Agent) : Bool :=
  a.phase == .blocked &&
  match a.wait with
  | .pushq => decide (p.dq.length < 64) || p.regs.longestPop.isSome
  | .await off t => s.awaited p off t
  | .ring off => s.ringReady p off
  | .version name step opens exact => s.versionReady p name step opens exact
  | .collective h closes =>
    if closes then !s.contributing p.ctx h
    else match s.coll? p.ctx h with | some c => c.answers | none => true
  | .lead g => match s.group? p.ctx g with | some x => !x.holds | none => true
  | .rfence => p.fenced w
  | _ => false

/-- BLOCKED_RELEASE: agents whose wait is over stand READY or HELD at their word (R275, R37). [DEDUCED: log entry 28] -/
def State.releaseBlocked (s : State) (id : Nat) : State :=
  match s.plot? id with
  | none => s
  | some p =>
    if p.run ≠ .running then s
    else
      let l := p.regs.agents.filter (fun x => s.waitOver p x.1 x.2)
      if l.isEmpty then s
      else s.modPlot id (fun p => (p.modRegs (fun g => l.foldl (fun g x => g.reenter x.1 x.2.pc) g)).stamp)

/-! ### Forming a bundle -/

/-- The strands of an entry that are READY, those that have waited longest first, then by srSID. -/
def insertWait (st : Strand) : List Strand → List Strand
  | [] => [st]
  | x :: l =>
    if st.ag.since < x.ag.since ∨ (st.ag.since = x.ag.since ∧ st.sid.toNat ≤ x.sid.toNat) then st :: x :: l
    else x :: insertWait st l

def Plot.readyAt (p : Plot) (addr : Word) : List Strand := ((p.regs.at addr).filter p.ready).foldr insertWait []

/-- The priority of an entry (R276, R283): the PRIO of the clause its strands stand in, or 0 after a yield until its age is F. -/
def Plot.prioOf (p : Plot) (e : Entry) : Nat :=
  if e.yielded && decide (e.age < p.fair) then 0
  else
    match (p.regs.at e.addr).findSome? (fun st => st.ag.clause) with
    | some c => hdrPrio c.hw
    | none => 0

/-- Whether the first of two ready entries goes first: promotion, the earlier first; then priority; then the lower offset
(R277, R281). -/
def Plot.goesBefore (p : Plot) (e f : Entry) : Bool :=
  match e.promoted, f.promoted with
  | some x, some y => decide (x < y) || (x == y && decide (e.addr.toNat < f.addr.toNat))
  | some _, none => true
  | none, some _ => false
  | none, none => decide (p.prioOf f < p.prioOf e) || (p.prioOf e == p.prioOf f && decide (e.addr.toNat < f.addr.toNat))

def Plot.chosenEntry (p : Plot) : Option Entry :=
  (p.regs.frontier.filter p.entryReady).foldl (fun m e =>
    match m with
    | none => some e
    | some x => if p.goesBefore e x then some e else some x) none

/-- One strand for each home lane, the longest waiting, all in the clause of the first. -/
def takeLanes (l : List Strand) : List Strand :=
  match l with
  | [] => []
  | first :: _ =>
    l.foldl (fun acc st =>
      if st.ag.clause == first.ag.clause && !acc.any (fun x => x.lane == st.lane) then acc ++ [st] else acc) []

/-- The strand issues: past the header, or at the word where it re-enters. -/
def Agent.issues (a : Agent) : Agent :=
  { a with
    phase := .issuing
    pc := if (match a.clause with | some c => c.hpc == a.pc | none => false) then a.pc + 4#32 else a.pc }

/-- The bundle of the chosen entry, which waits from now on. Its age starts over, and what other entries have yielded ends (R281,
R283). -/
def Plot.form (p : Plot) (e : Entry) (now : Nat) : Plot :=
  let ms := takeLanes (p.readyAt e.addr)
  let g := ms.foldl (fun g st => g.modAgent (.strand st.key) Agent.issues) p.regs
  { p with
    bundle := some ⟨ms.map (fun st => st.key)⟩
    issuedAt := now
    regs := { g with
      frontier := g.frontier.map (fun x =>
        if x.addr == e.addr then { x with age := 0, promoted := none } else { x with yielded := false }) } }

/-- The bundles in flight on a bed (R278). -/
def State.inFlight (s : State) (pav bed : Nat) : Nat := ((s.onBed pav bed).filter (fun p => p.bundle.isSome)).length

/-- The plot has a ready entry and no bundle in flight (R278). -/
def State.wantsPlace (s : State) (p : Plot) : Bool :=
  s.mayIssue p && p.bundle.isNone && p.regs.frontier.any p.entryReady

/-- The plot is admitted to a free in-flight place of its bed: those that stand before it, round-robin in slot-row order, leave one
(R278). -/
def State.admits (s : State) (p : Plot) : Bool :=
  let last := (s.bed p.pav p.bed).row
  let before := (s.onBed p.pav p.bed).filter (fun q =>
    q.id != p.id && s.wantsPlace q && decide (q.turnAfter last < p.turnAfter last))
  s.mayIssue p && p.bundle.isNone && decide (before.length + s.inFlight p.pav p.bed < 8)

/-- Strands at clause boundaries enter their clauses, and waits that are over end; then, where the bed admits the plot, it forms the
bundle of the chosen entry (R277, R278). -/
def State.formBundle (s : State) (plot : Nat) : State :=
  match s.plot? plot with
  | none => s
  | some p =>
    if !s.mayIssue p || p.bundle.isSome then s
    else
      let s1 := (s.enterAll plot).releaseBlocked plot
      match s1.plot? plot with
      | none => s1
      | some q =>
        match q.chosenEntry with
        | none => s1
        | some e =>
          if s1.admits q then
            ((s1.setPlot (q.form e s1.words)).setBed { s1.bed q.pav q.bed with row := some q.place }).finish plot
          else s1

/-- BUNDLE_FORMATION (R277). -/
def execBundleFormation (plot : Nat) (s : State) : Host.Outcome State Fault Refusal := .next (s.formBundle plot)

/-- AGE_PROMOTION: the age of an entry has reached F (R281); its priority, if it had yielded, is its clause's again (R283). The plot
cycle in which the age rises to F does the same (`Plot.older`). [DESIGN CHOICE: log entry 102] -/
def execAgePromotion (plot : Nat) (addr : Word) (s : State) : Host.Outcome State Fault Refusal :=
  match s.plot? plot with
  | none => .next s
  | some p =>
    .next (s.setPlot (p.modRegs (fun g => { g with
      frontier := modifyWhere (fun e => e.addr == addr && decide (p.fair ≤ e.age))
        (fun e => { e with promoted := if p.nofair then e.promoted else some (e.promoted.getD p.pcyc), yielded := false })
        g.frontier })))

/-! ### The rendezvous timer -/

/-- RENDEZVOUS_TIMEOUT: 2^20 pavilion cycles after the first arrival every waiting member raises COHORT, srTVAL 1 (R107). -/
def execRendezvousTimeout (plot : Nat) (cohort : BitVec 4) (s : State) : Host.Outcome State Fault Refusal :=
  match s.plot? plot with
  | none => .next s
  | some p =>
    let ms := (p.regs.cohort cohort).filter (fun st => st.ag.phase == .blocked && st.ag.wait == .rendezvous)
    if s.runsPlain p && ms.any (fun st => decide (st.ag.blockedAt + 2 ^ 20 ≤ s.cycles p.pav)) then
      .next ((ms.foldl (fun s st => s.recordTrap plot (.strand st.key) ⟨.cohort, 0, 1#64, st.ag.pc, true⟩) s).finish plot)
    else .next s

/-! ### The regrouper (R285–R288) -/

/-- An exiled strand whose record in spawn memory is complete (R284). -/
def Strand.inMemory (st : Strand) : Bool := st.ag.phase == .exiled && st.ag.loads.isEmpty

/-- The slot that a strand holds, once the moves planned are made; none while it is in spawn memory. -/
def Plot.slotOf (p : Plot) (st : Strand) : Option (Nat × Nat) :=
  match p.moves.find? (fun m => m.key == st.key) with
  | some m => some (m.row, m.lane)
  | none => if !st.isLive || st.inMemory then none else some (st.row, st.lane)

def Plot.occupant (p : Plot) (row lane : Nat) : Option Strand := p.regs.strands.find? (fun st => p.slotOf st == some (row, lane))

/-- The vacated slots of a row. [DEDUCED: log entry 100] -/
def Plot.vacantIn (p : Plot) (row : Nat) : List Nat := (List.range 32).filter (fun l => (p.occupant row l).isNone)

/-- The row with the most vacated slots, the lowest on a tie. [DEDUCED: log entry 100] -/
def Plot.roomiest (p : Plot) : Nat :=
  ((List.range p.rows.length).foldl (fun (m : Nat × Nat) r =>
    let n := (p.vacantIn r).length
    if m.2 < n then (r, n) else m) (0, 0)).1

/-- The first vacated slot of another row, in ascending slot order. -/
def Plot.vacantElsewhere (p : Plot) (row : Nat) : Option (Nat × Nat) :=
  ((List.range p.rows.length).filter (fun r => r != row)).findSome? (fun r => ((p.vacantIn r).head?).map (fun l => (r, l)))

/-- A resident that can move. -/
def Plot.movable (p : Plot) (st : Strand) : Bool :=
  st.ag.atBoundary && st.ag.loads.isEmpty && (p.regs.lockedOf st.key).isNone && !p.moves.any (fun m => m.key == st.key)

/-- Plan one strand of a released group into a row, past the lanes already given out: it stands READY or HELD at its target, and
its move, with that of a resident it displaces, is to be made; what it yielded as it was exiled lowers its entry (R283). [DEDUCED: log entry 100] -/
def Plot.planOne (row : Nat) (x : Plot × List Nat) (k : Nat) : Plot × List Nat :=
  let p := x.1
  match p.regs.strand? k with
  | none => x
  | some st =>
    let lanes := if (p.regs.lockedOf k).isSome then [st.lane] else List.range 32
    let room := fun (l : Nat) =>
      if x.2.contains l then none
      else
        match p.occupant row l with
        | none => some (l, ([] : List Move))
        | some r =>
          match p.vacantElsewhere row with
          | some d => if p.movable r then some (l, [Move.mk r.key d.1 d.2]) else none
          | none => none
    match lanes.findSome? room with
    | none => x
    | some (l, ms) =>
      let q : Plot := { p with moves := p.moves ++ ms ++ [Move.mk k row l] }
      (q.modRegs (fun g => g.boundary (.strand k) st.ag.pc st.ag.yieldNext), x.2 ++ [l])

/-- By srSID. -/
def insertSid (st : Strand) : List Strand → List Strand
  | [] => [st]
  | x :: l => if st.sid.toNat ≤ x.sid.toNat then st :: x :: l else x :: insertSid st l

/-- The strands in spawn memory, the longest exiled first. -/
def Plot.exiles (p : Plot) : List Strand := (p.regs.strands.filter Strand.inMemory).foldr insertWait []

def Plot.exilesAt (p : Plot) (addr : Word) : List Strand := p.exiles.filter (fun st => st.ag.pc == addr)

/-- Release at most 32 strands at an address, oldest first, into one row. -/
def Plot.releaseAt (p : Plot) (addr : Word) : Plot :=
  let group := ((p.exilesAt addr).take 32).foldr insertSid []
  let row := p.roomiest
  (group.foldl (fun x st => Plot.planOne row x st.key) (p, [])).1

/-- Condition 1: 32 strands with distinct srSIDs wait at the address. [DEDUCED: log entry 100] -/
def Plot.fullGroup (p : Plot) (addr : Word) : Bool :=
  decide (32 ≤ (((p.exilesAt addr).map (fun st => st.sid.toNat)).eraseDups).length)

/-- Condition 3: no strand is READY, HELD, ISSUING or BLOCKED. -/
def Plot.onlyExiles (p : Plot) : Bool :=
  p.regs.strands.all (fun st => st.ag.phase == .exited || st.ag.phase == .exiled || st.ag.phase == .gathered)

/-- A REORDER waits for the exiled strands (R289). -/
def Plot.gathering (p : Plot) : Bool := p.regs.strands.any (fun st => st.ag.phase == .gathered) && p.onlyExiles

/-- Release every exiled strand, the oldest address first, row by row. [DEDUCED: log entry 101] -/
def Plot.releaseEvery (p : Plot) : Plot :=
  ((p.exiles.map (fun st => st.ag.pc)).eraseDups).foldl (fun p a => (List.range 16).foldl (fun p _ => p.releaseAt a) p) p

/-- What REGROUPER_RELEASE does to a plot, for an address. -/
def Plot.regroup (p : Plot) (addr : Word) : Plot :=
  if p.gathering then p.releaseEvery
  else if p.fullGroup addr then p.releaseAt addr
  else
    match p.exiles with
    | st :: _ => if p.onlyExiles ∧ st.ag.pc = addr then p.releaseAt addr else p
    | [] => p

/-- REGROUPER_RELEASE (R286, R289): a full group, or what is left when nothing else of the plot can go on. [DEDUCED: log entry 101] -/
def execRegrouperRelease (plot : Nat) (addr : Word) (s : State) : Host.Outcome State Fault Refusal :=
  match s.plot? plot with
  | none => .next s
  | some p => if s.runsPlain p && p.moves.isEmpty then .next ((s.setPlot (p.regroup addr)).finish plot) else .next s

/-- EXILE_WAIT_EXPIRY (R286): the oldest strand at the address has waited 512 plot cycles. -/
def execExileWaitExpiry (plot : Nat) (addr : Word) (s : State) : Host.Outcome State Fault Refusal :=
  match s.plot? plot with
  | none => .next s
  | some p =>
    let due := (p.exilesAt addr).any (fun st => decide (st.ag.since + 512 ≤ p.pcyc))
    if s.runsPlain p && p.moves.isEmpty && due then .next ((s.setPlot (p.releaseAt addr)).finish plot) else .next s

/-- REGROUPER_MOVE (R287, R288): one strand comes to its slot; locks are judged afresh (R291). [DEDUCED: log entry 101] -/
def execRegrouperMove (plot : Nat) (s : State) : Host.Outcome State Fault Refusal :=
  match s.plot? plot with
  | none => .next s
  | some p =>
    match p.moves with
    | [] => .next s
    | m :: rest =>
      if s.runsPlain p then
        let q := { p with moves := rest }
        .next ((s.setPlot (q.modRegs (fun g => (g.modStrand m.key (fun st => { st with row := m.row, lane := m.lane })).unlockCheck))).finish plot)
      else .next s

/-- REORDER_TIMEOUT (R290): the gather has not completed in 2^20 plot cycles; every GATHERED strand raises COHORT, srTVAL 3. -/
def execReorderTimeout (plot : Nat) (s : State) : Host.Outcome State Fault Refusal :=
  match s.plot? plot with
  | none => .next s
  | some p =>
    match p.gatherAt with
    | none => .next s
    | some t =>
      if s.runsPlain p && decide (t + 2 ^ 20 ≤ p.pcyc) then
        let ms := p.regs.strands.filter (fun st => st.ag.phase == .gathered)
        let s1 := s.setPlot { p with gatherAt := none }
        .next ((ms.foldl (fun s st => s.recordTrap plot (.strand st.key) ⟨.cohort, 0, 3#64, st.ag.pc, true⟩) s1).finish plot)
      else .next s

/-! ### Trap delivery (R376, R377) -/

/-- A handler slot is free while no agent of its kind is in handler mode. -/
def Plot.slotFree (p : Plot) (uni : Bool) : Bool :=
  if uni then !p.regs.front.ag.handler else !p.regs.strands.any (fun st => st.isLive && st.ag.handler)

/-- The priority of the entry a strand waits in; at a boundary whose clause it has not entered, the PRIO of the header there. [DEDUCED: log entry 36] -/
def State.trapPrio (s : State) (p : Plot) (st : Strand) : Nat :=
  let yielded := p.regs.frontier.any (fun e => e.addr == st.ag.pc && e.yielded && decide (e.age < p.fair))
  if yielded then 0
  else
    match st.ag.clause with
    | some c => hdrPrio c.hw
    | none => match s.codeWord p st.ag.pc with | .ok r => hdrPrio r.val | .error _ => 0

/-- Whether the trap of the first strand is delivered before that of the second. [DEDUCED: log entry 36] -/
def State.trapBefore (s : State) (p : Plot) (x y : Strand × Trap) : Bool :=
  let a := x.2.cls.order
  let b := y.2.cls.order
  if a ≠ b then decide (a < b)
  else
    let i := s.trapPrio p x.1
    let j := s.trapPrio p y.1
    if i ≠ j then decide (j < i) else decide (x.1.sid.toNat < y.1.sid.toNat)

/-- The first pending trap of a plot's strands. -/
def State.firstTrap (s : State) (p : Plot) : Option (Strand × Trap) :=
  (p.regs.strands.filterMap (fun st => if st.isLive then st.ag.trap.map (fun t => (st, t)) else none)).foldl
    (fun m x => match m with | none => some x | some y => if s.trapBefore p x y then some x else some y) none

/-- Deliver a trap as it was recorded, or have the word issued again for the agent. -/
def State.deliverOne (s : State) (p : Plot) (w : Who) (t : Trap) : Host.Outcome State Fault Refusal :=
  if t.recorded then
    match s.deliver p.id w t with
    | .ok s1 => .next (s1.finish p.id)
    | .error h => s.held p.id [h]
  else .next { s with issue := some ⟨p.id, .again w, t.pc, 0#32, 4⟩ }

/-- TRAP_DELIVERY: to the strand whose trap is first, or to the front thread; a word trap that was not recorded has its word issued
again within the step. -/
def execTrapDelivery (plot : Nat) (uni : Bool) (s : State) : Host.Outcome State Fault Refusal :=
  match s.plot? plot with
  | none => .next s
  | some p =>
    if !s.runsPlain p || !p.slotFree uni then .next s
    else if uni then
      match p.regs.front.ag.trap with
      | some t => s.deliverOne p .front t
      | none => .next s
    else
      match s.firstTrap p with
      | some (st, t) => s.deliverOne p (.strand st.key) t
      | none => .next s

/-- A word that the spec assigns to no instruction: ILLEGAL, with the row of Table 2-11 (02_clauses_encoding.md R54). -/
def execIllegalEncoding (row : Nat) (w : Word) (s : State) : Host.Outcome State Fault Refusal :=
  runWord (.illegalEncoding row w) (fun c s => (s, illegal row c.word64)) s

end Sys2Proof.Machine
end

