-- ==== Sys2Proof/Machine/Manage.lean ====
section
/-! DEFINITION. The management registers and what reaches them (20_package_management.md R419–R427; 15_isolation.md R366, R373),
power, heat and ports, the lodges (01_apnak_device.md R19, R20; 16_recovery.md R393, R395, R396), resets and power. -/

namespace Sys2Proof.Machine

def State.modMgmt (s : State) (f : Mgmt → Mgmt) : State := { s with mgmt := f s.mgmt }

/-! ### Masters, refusals and commits -/

/-- The class of a master (Table 15-4). -/
def masterCode : Master → Nat
  | .host => 1
  | .bmc => 2
  | .pod => 3

/-- A refused management action (Table 20-3); a refusal with code 1 is counted (R427). -/
def State.refuse (s : State) (m : Master) (code off : Nat) : State :=
  s.modMgmt (fun g =>
    { g with
      status := BitVec.ofNat 32 (code % 256 * 2 ^ 24 + masterCode m * 2 ^ 20 + off % 2 ^ 16)
      refused := if code = 1 then g.refused.mapFinIdx (fun i v _ => if i + 1 = masterCode m then satInc v else v) else g.refused })

/-! ### The lodge state table (R395) -/

/-- The bytes of a body: its fields in the order of Table 16-8. [DESIGN CHOICE: log entry 139] -/
def TableBody.bytes (b : TableBody) : List Byte :=
  natBytes (match b.owner with | some m => masterCode m | none => 0) 1 ++ natBytes b.epoch.toNat 1 ++ natBytes b.nonce.toNat 8 ++
  (match b.keys with | some k => natBytes k.1 97 ++ natBytes k.2 56 | none => natBytes 0 153) ++
  natBytes (match b.policy with | some p => p.toNat | none => 255) 1 ++ b.limits.flatMap (fun n => natBytes n 4) ++ natBytes b.cap 4 ++
  b.ports.map (fun p => BitVec.ofNat 8 ((if p.1 then 2 else 0) + (if p.2 then 1 else 0))) ++
  b.ctxs.flatMap (fun c =>
    natBytes c.slot 1 ++ natBytes c.pasid 4 ++ natBytes c.flags.toNat 4 ++ natBytes c.spad 4 ++ natBytes c.csp 4 ++
    natBytes c.priv.toNat 8 ++ natBytes c.elog.toNat 8 ++ natBytes c.vec 1 ++ natBytes (if c.resident then 1 else 0) 1) ++
  b.counters.flatMap (fun n => natBytes n.toNat 4)

def Context.row (c : Context) : CtxRow := ⟨c.slot, c.pasid, c.flags, c.spad, c.csp, c.priv, c.elog, c.vec, c.resident⟩

/-- What a version of the table records (Table 16-8). -/
def State.tableBody (s : State) : TableBody :=
  let g := s.mgmt
  { owner := g.owner, epoch := g.epoch, nonce := g.nonce, keys := g.keys, policy := g.policy
    limits := s.budgets.toList.map (fun b => b.nextLimit)
    cap := g.cap
    ports := s.fab.ports.toList.map (fun p => (p.failed, p.training))
    ctxs := s.ctxs.map Context.row
    counters := s.budgets.toList.map (fun b => b.throttle) ++ [s.fab.staleReply] ++ g.refused.toList ++
      s.fab.ports.toList.flatMap (fun p => [p.retry, p.fail, p.reroute]) ++ [g.merrCount] }

/-- A bank as it is written (Table 16-8). -/
def State.bank (s : State) (version : DWord) : Bank :=
  let b := s.tableBody
  ⟨version, s.mgmt.schema, b.bytes.length, s.mgmt.heartbeat, Config.sha384 b.bytes, b⟩

/-- The version of a bank; one never written is older than any. -/
def bankAge (b : Option Bank) : Nat := match b with | some x => x.version.toNat + 1 | none => 0

/-- The older bank of a copy takes the version. -/
def writeOlder (b : Bank) (v : Vector (Option Bank) 2) : Vector (Option Bank) 2 :=
  if bankAge v[1] < bankAge v[0] then v.set 1 (some b) else v.set 0 (some b)

/-- LODGE_COMMIT: version n + 1, which records what is to take effect, goes into the older bank of both copies, which lie in the dies'
CSP; then it takes effect (R395). -/
def State.commitTo (s s1 : State) : State :=
  let v := s.mgmt.version + 1#64
  { s1 with mgmt := { s1.mgmt with
    version := v
    table := if s1.mgmt.powered then s1.mgmt.table.map (writeOlder (s1.bank v)) else s1.mgmt.table } }

/-- The newest bank, in either copy, whose digest checks. -/
def Mgmt.newest (g : Mgmt) : Option Bank :=
  (g.table.toList.flatMap (fun c => c.toList)).foldl (fun m b =>
    match b with
    | some x => if decide (x.digest = Config.sha384 x.body.bytes) && decide (bankAge m < bankAge b) then b else m
    | none => m) none

/-- An entry of the context table as its mirror has it. -/
def Context.mirrored (c : Context) (l : List CtxRow) : Context :=
  match l.find? (fun r => r.slot == c.slot) with
  | some r =>
    { c with
      pasid := r.pasid, flags := r.flags, spad := r.spad, csp := r.csp, priv := r.priv, elog := r.elog, vec := r.vec,
      resident := r.resident }
  | none => c

/-- A lodge imports the newest bank that checks. The counters, which only a module reset clears (20_package_management.md R426), go on;
with no bank the state stands as it is. [DESIGN CHOICE: log entry 139] -/
def State.imported (s : State) : State :=
  match s.mgmt.newest with
  | none => s
  | some x =>
    let b := x.body
    { s with
      mgmt := { s.mgmt with
        version := x.version, schema := x.schema, heartbeat := x.heartbeat, owner := b.owner, epoch := b.epoch, nonce := b.nonce,
        keys := b.keys, policy := b.policy, cap := b.cap }
      budgets := s.budgets.mapFinIdx (fun i y _ => { y with nextLimit := b.limits.getD i y.nextLimit })
      fab := { s.fab with ports := s.fab.ports.mapFinIdx (fun i p _ =>
        { p with failed := (b.ports.getD i (p.failed, p.training)).1, training := (b.ports.getD i (p.failed, p.training)).2 }) }
      ctxs := s.ctxs.map (fun c => c.mirrored b.ctxs) }

/-! ### Requests and the firmware's time (R20, R354, R396) -/

def Clocks.passDie (c : Clocks) (d n : Nat) : Clocks := { c with die := c.die.mapFinIdx (fun i v _ => if i = d then v + n else v) }

def Clocks.passLodge (c : Clocks) (l n : Nat) : Clocks := { c with lodge := c.lodge.mapFinIdx (fun i v _ => if i = l then v + n else v) }

def State.activeCycles (s : State) : Nat := s.lodgeCycles s.mgmt.eastActive

def State.standbyCycles (s : State) : Nat := s.lodgeCycles (!s.mgmt.eastActive)

/-- The state in which the active lodge's firmware does its next work: a cycle of its budget is spent; where the budget is spent out, the
work waits, and the lodge's clock goes on to the next period (Table 14-9). [DESIGN CHOICE: log entry 48] -/
def State.worked (s : State) : State :=
  match s.spend 4 0 1 with
  | (true, s1) => s1
  | (false, s1) =>
    let rest := (s1.budget 4).since + 1000 - s1.activeCycles
    (({ s1 with clk := s1.clk.passLodge (if s.mgmt.eastActive then 0 else 1) rest } : State).spend 4 0 1).2

/-- A lodge is taking over (R396). [DESIGN CHOICE: log entry 111] -/
def State.takingOver (s : State) : Bool :=
  match s.mgmt.tookOver with
  | some t => decide (s.activeCycles < t + Config.takeoverCycles)
  | none => false

/-- A management request: answered busy during a takeover (R396), else work of the firmware. -/
def State.request (s : State) (m : Master) (f : State → Host.Outcome State Fault Refusal) : Host.Outcome State Fault Refusal :=
  if s.takingOver then .next (s.emit (.busy m)) else f s.worked

/-- A write of device-wide state: refused but from the owner (R366); committed before it has its effect. -/
def State.ownerWrite (s : State) (m : Master) (off : Nat) (ok : Bool) (f : State → State) : State :=
  if s.mgmt.owner ≠ some m then s.refuse m 1 off else if ok then s.commitTo (f s) else s.refuse m 2 off

/-! ### Power and heat (R422–R424) -/

/-- The effective cap. [DESIGN CHOICE: log entry 4] -/
def Mgmt.effectiveCap (g : Mgmt) : Nat := min g.cap g.thermal

def State.powerCap (s : State) (m : Master) (v : Word) : State :=
  s.ownerWrite m 0x0100 (decide (1800 ≤ v.toNat) && decide (v.toNat ≤ 3000)) (fun s => s.modMgmt (fun g => { g with cap := v.toNat }))

/-- POWER_CAP_WRITE (R423): the pool follows from the cap (R22). -/
def execPowerCapWrite (m : Master) (v : Word) (s : State) : Host.Outcome State Fault Refusal :=
  s.request m (fun s => .next (s.powerCap m v))

/-- The ranges of Table 14-9. -/
def budgetRange (i : Fin 6) : Nat × Nat := [(4096, 256000), (4096, 100000), (16, 1024), (0, 1048576), (100, 1000), (8, 320)].getD i.val (0, 0)

def State.setBudget (s : State) (m : Master) (i : Fin 6) (v : Word) : State :=
  let r := budgetRange i
  s.ownerWrite m (0x0200 + 4 * i.val) (decide (r.1 ≤ v.toNat) && decide (v.toNat ≤ r.2)) (fun s =>
    { s with budgets := s.budgets.set i { s.budgets[i] with nextLimit := v.toNat } })

/-- BUDGET_WRITE (R354): the change takes effect at the next period. -/
def execBudgetWrite (m : Master) (i : Fin 6) (v : Word) (s : State) : Host.Outcome State Fault Refusal :=
  s.request m (fun s => .next (s.setBudget m i v))

/-- The dies lose what they hold, the table in their CSP with it: everything but the lodges and their registers, the port counters, the host's memory, and what
the model keeps for itself. [DEDUCED: log entry 115] -/
def State.diesReset (s : State) : State :=
  { State.reset with
    clk := s.clk
    mem := { Store.reset with host := s.mem.host }
    ids := s.ids
    fab := { Fabric.reset with ports := s.fab.ports, staleReply := s.fab.staleReply }
    budgets := s.budgets.map (fun b => { b with spent := [] })
    mgmt := { s.mgmt with table := Mgmt.reset.table }
    agenda := s.agenda
    free := s.free
    out := s.out }

/-- A module reset or cold power cycle (R19, R365, R369, R426): everything at its reset value but the fuses, the identity statement
and its policy, the lodges' images, the host's memory, and THERMTRIP, which a power cycle clears: the module has then lost its main supply; a nonce is drawn. [DEDUCED: log
entry 115] [DEDUCED: log entry 115] -/
def State.moduleReset (s : State) : State :=
  let g := s.mgmt
  { State.reset with
    mem := { Store.reset with host := s.mem.host }
    ids := s.ids
    mgmt := { Mgmt.reset with
      east := ⟨g.east.image, false⟩, west := ⟨g.west.image, false⟩, nonce := Config.nonce s.free, policy := g.policy,
      identity := g.identity, fused := g.fused, temp := g.temp, trip := g.trip && g.powered, powered := g.powered, answers := g.answers }
    agenda := s.agenda
    free := s.free + 1
    out := s.out }

/-- MODULE_RESET. -/
def execModuleReset (s : State) : Host.Outcome State Fault Refusal := .next s.moduleReset

/-- STANDBY_POWER (R422): the dies are held in reset. [DEDUCED: log entries 115, 124] -/
def execStandbyPower (s : State) : Host.Outcome State Fault Refusal :=
  .next (s.diesReset.modMgmt (fun g => { g with powered := false }))

/-- MAIN_POWER_ON: the dies leave reset, and THERMTRIP counts from here (R426). [DEDUCED: log entry 115] -/
def execMainPowerOn (s : State) : Host.Outcome State Fault Refusal :=
  .next (if s.mgmt.powered then s else s.modMgmt (fun g => { g with powered := true, trip := false }))

/-- The thermal limit after a reading in units of 0.1 °C (R424). [DEDUCED: log entry 116] -/
def Mgmt.thermalStep (g : Mgmt) (tenths : Nat) : Nat :=
  if 1000 ≤ tenths then max 1800 (g.effectiveCap - 150)
  else if tenths < 950 then (if g.cap ≤ g.effectiveCap + 150 then 3000 else g.effectiveCap + 150)
  else g.thermal

/-- THERMAL_SAMPLE: every 2^20 lodge cycles. At 110 °C the module stops as by a reset, with THERMTRIP written (THERMTRIP). [DEDUCED: log entries 116, 124] -/
def execThermalSample (tenths : Nat) (s : State) : Host.Outcome State Fault Refusal :=
  if s.activeCycles < s.mgmt.sampledAt + 2 ^ 20 then .next s
  else
    let s0 := s.worked
    let s1 := s0.modMgmt (fun g =>
      { g with temp := BitVec.ofNat 16 tenths, sampledAt := s0.activeCycles, thermal := g.thermalStep tenths, trip := g.trip || decide (1100 ≤ tenths) })
    .next (if 1100 ≤ tenths then s1.moduleReset else s1)

/-! ### Ports (R245, R391, R421, R427) -/

/-- Whether the owner's channel can carry an event: the host's and the pod manager's go by the dies, which standby power holds in reset
(R422). [DESIGN CHOICE: log entry 117] -/
def State.channelOpen (s : State) (m : Master) : Bool :=
  match m with
  | .pod => s.mgmt.powered && (List.range 16).any s.portLive
  | .host => s.mgmt.powered && Config.channelUp 1 s.activeCycles
  | .bmc => Config.channelUp 2 s.activeCycles

/-- Send the event of a port to the owner: MSI-X vector 64 to the host, a message to the others; to nobody with no owner. [DESIGN CHOICE: log entry 117] -/
def State.portEvent (s : State) (port : Nat) : State :=
  match s.mgmt.owner with
  | none => s.modPort port (fun p => { p with event := none })
  | some m =>
    if s.channelOpen m then
      (s.modPort port (fun p => { p with event := none })).emit (match m with | .host => .msix 64 | _ => .portEvent m port)
    else s.modPort port (fun p => { p with event := some s.activeCycles })

def State.port? (s : State) (p : Nat) : Option Port := if h : p < 24 then some s.fab.ports[p] else none

/-- PORT_FAILURE: a wired port fails, its failure is counted, and the owner is told; the port's state is committed first (R395). -/
def execPortFailure (port : Nat) (s : State) : Host.Outcome State Fault Refusal :=
  match s.port? port with
  | none => .next s
  | some p =>
    if p.failed || !portWired port || !s.mgmt.powered then .next s
    else .next ((s.commitTo (s.modPort port (fun p => { p with failed := true, fail := satInc p.fail }))).portEvent port)

/-- PORT_EVENT_RESEND: an event not yet delivered goes again, every 2^20 lodge cycles. -/
def execPortEventResend (port : Nat) (s : State) : Host.Outcome State Fault Refusal :=
  match (s.port? port).bind (fun p => p.event) with
  | none => .next s
  | some t =>
    .next (if s.activeCycles < t + 2 ^ 20 then s else s.worked.portEvent port)

/-- A write of PORT_CTL (20_package_management.md Table 20-1): a port that is not wired stays idle (R421). [DESIGN CHOICE: log entry 117] -/
def State.retrain (s : State) (m : Master) (port : Nat) (v : Word) : State :=
  s.ownerWrite m (0x0500 + 16 * port) true (fun s =>
    if v.getLsbD 0 && portWired port then s.modPort port (fun p => { p with training := true, event := none }) else s)

/-- PORT_RETRAIN. -/
def execPortRetrain (m : Master) (port : Nat) (v : Word) (s : State) : Host.Outcome State Fault Refusal :=
  s.request m (fun s => .next (if port < 24 then s.retrain m port v else s))

/-- PORT_TRAINING_COMPLETE. -/
def execPortTrainingComplete (port : Nat) (s : State) : Host.Outcome State Fault Refusal :=
  match s.port? port with
  | none => .next s
  | some p =>
    if p.training && s.mgmt.powered then .next (s.commitTo (s.modPort port (fun p => { p with training := false, failed := false })))
    else .next s

/-! ### The lodges (R19, R395, R396) -/

/-- HEARTBEAT: every 2^20 cycles of the active lodge. [DEDUCED: log entry 116] -/
def execHeartbeat (s : State) : Host.Outcome State Fault Refusal :=
  if s.activeCycles < s.mgmt.lastBeat + 2 ^ 20 then .next s
  else
    let s1 := s.worked
    .next (s1.commitTo (s1.modMgmt (fun g =>
      { g with heartbeat := g.heartbeat + 1#64, lastBeat := s1.activeCycles, beatSeen := g.heartbeat + 1#64, beatAt := s1.standbyCycles })))

def Mgmt.active (g : Mgmt) : Lodge := if g.eastActive then g.east else g.west

def Mgmt.standby (g : Mgmt) : Lodge := if g.eastActive then g.west else g.east

def Mgmt.setStandby (g : Mgmt) (l : Lodge) : Mgmt := if g.eastActive then { g with west := l } else { g with east := l }

/-- What the active lodge times goes on by the clock of another lodge, from the cycle t of it. [DEDUCED: log entry 124] -/
def State.retimed (s : State) (t : Nat) : State :=
  { s with
    fab := { s.fab with ports := s.fab.ports.map (fun p => { p with event := p.event.map (fun _ => t) }) }
    budgets := s.budgets.set 4 { s.budgets[4] with since := t } }

/-- The lodges change places: the other is active from cycle t of its clock. -/
def State.swapped (s : State) : State :=
  let t := s.standbyCycles
  (s.modMgmt (fun g =>
    { g with eastActive := !g.eastActive, switching := false, lastBeat := t, beatAt := s.activeCycles, sampledAt := t })).retimed t

/-- The standby lodge imports the table and takes over: the failed lodge is offline, SPDM sessions end, and a request not answered is
lost (R396). -/
def State.takeover (s : State) : State :=
  if s.mgmt.standby.offline then s
  else
    s.imported.swapped.modMgmt (fun g => { g.setStandby ⟨g.standby.image, true⟩ with sessions := [], tookOver := some s.standbyCycles })

/-- TAKEOVER_TIMEOUT: the heartbeat has not changed for 2^24 of the standby's cycles. -/
def execTakeoverTimeout (s : State) : Host.Outcome State Fault Refusal :=
  if s.mgmt.beatSeen = s.mgmt.heartbeat ∧ s.mgmt.beatAt + 2 ^ 24 ≤ s.standbyCycles then .next s.takeover else .next s

/-- LODGE_FAILURE_REPORT. -/
def execLodgeFailureReport (s : State) : Host.Outcome State Fault Refusal := .next s.takeover

/-! ### Scrub and the device memory BAR (R354, R393, R419) -/

/-- SCRUB: n bytes of a stack are read within its budget. The errors found, and those known, are logged. [DESIGN CHOICE: log entries 15, 119] -/
def execScrub (stack pa n : Nat) (found : List Nat) (s : State) : Host.Outcome State Fault Refusal :=
  if !s.mgmt.powered then .next s
  else
    match s.spend 3 stack n with
    | (false, s1) => .next s1
    | (true, s1) =>
      let here := fun (a : Nat) => decide (pa ≤ a) && decide (a < pa + n) && decide ((Config.stackOf a).val = stack)
      let fresh := (found.filter (fun a => here a && !s.mem.bad.contains ⟨.dev, a⟩)).eraseDups
      let s2 : State := { s1 with mem := { s1.mem with bad := s1.mem.bad ++ fresh.map (fun a => Loc.mk .dev a) } }
      .next ((s2.mem.bad.filter (fun l => l.space == .dev && here l.addr)).foldl (fun s l => s.logError l 0) s2)

/-- The bytes a requester sees: what an uncorrectable byte reads as is not stated. [DESIGN CHOICE: log entry 26] -/
def State.seen (s : State) (l : Loc) (data : List Byte) : List Byte :=
  data.zipIdx.map (fun x => if (s.firstBad ⟨l.space, l.addr + x.2⟩ 1).isSome then (Config.freeWord (s.free + x.2)).setWidth 8 else x.1)

/-- DEVICE_MEMORY_BAR_ACCESS: a PCIe requester reads or writes device memory at the home L2 slice. An address in no registered view
reads 0 and is not written (08_views_versions.md R195). [DESIGN CHOICE: log entries 6, 26] -/
def execDeviceMemoryBarAccess (off n : Nat) (write : Option (List Byte)) (s : State) : Host.Outcome State Fault Refusal :=
  if !s.mgmt.powered ∨ 2 ^ 52 < off + n then .next s
  else
    match s.place (s.bar2 + off) n, write with
    | .at l, some data => .next (s.engineWrite gatehousePav l (data.take n))
    | .at l, none =>
      let r := s.engineRead gatehousePav l n
      match s.firstBad l n with
      | some i => .next ({ (r.1.logError ⟨l.space, l.addr + i⟩ 0) with free := s.free + n }.emit (.barData (s.seen l r.2)))
      | none => .next (r.1.emit (.barData r.2))
    | .absent pa, _ => .fault (.absentMemory pa)
    | _, some _ => .next s
    | _, none => .next (s.emit (.barData (List.replicate n 0#8)))

/-! ### Attestation (R373) and sensors (R425) -/

/-- An answer with the code of the SPDM response. [PRESUMED: log entry 18] -/
def State.attestTo (s : State) (m : Master) (code : Nat) (body : BitVec 384) : State :=
  (s.modMgmt (fun g => { g with answers := g.answers + 1 })).emit (.attest m code body)

/-- An answer whose content no rule states: it may rest on what the request carries. -/
def State.answerOpen (s : State) (m : Master) (request code arg : Nat) : State :=
  s.attestTo m code (Config.spdmAnswer request arg s.mgmt.answers)

/-- ERROR, with UnsupportedRequest or InvalidRequest. [PRESUMED: log entry 18] -/
def State.answerError (s : State) (m : Master) (why : Nat) : State := s.attestTo m 0x7F (BitVec.ofNat 384 why)

def Mgmt.session (g : Mgmt) (m : Master) : Option Session := g.sessions.find? (fun x => x.master == masterCode m)

def Mgmt.setSession (g : Mgmt) (m : Master) (b : Option Session) : Mgmt :=
  { g with sessions := b.toList ++ g.sessions.filter (fun x => x.master != masterCode m) }

/-- GET_VERSION. -/
def execGetVersion (m : Master) (s : State) : Host.Outcome State Fault Refusal :=
  s.request m (fun s => .next (s.answerOpen m 0x84 0x04 0))

/-- GET_CAPABILITIES. -/
def execGetCapabilities (m : Master) (s : State) : Host.Outcome State Fault Refusal :=
  s.request m (fun s => .next (s.answerOpen m 0xE1 0x61 0))

/-- NEGOTIATE_ALGORITHMS: `supported` says that the request offers the algorithms of R373. -/
def execNegotiateAlgorithms (m : Master) (supported : Bool) (s : State) : Host.Outcome State Fault Refusal :=
  s.request m (fun s => .next (if supported then s.answerOpen m 0xE3 0x63 0 else s.answerError m 1))

/-- GET_DIGESTS. -/
def execGetDigests (m : Master) (s : State) : Host.Outcome State Fault Refusal :=
  s.request m (fun s => .next (s.answerOpen m 0x81 0x01 0))

/-- GET_CERTIFICATE: the chain stands in slot 0 only. -/
def execGetCertificate (m : Master) (slot : Nat) (s : State) : Host.Outcome State Fault Refusal :=
  s.request m (fun s => .next (if slot = 0 then s.answerOpen m 0x82 0x02 slot else s.answerError m 1))

/-- CHALLENGE: its nonce is signed with the key of slot 0. -/
def execChallenge (m : Master) (slot nonce : Nat) (s : State) : Host.Outcome State Fault Refusal :=
  s.request m (fun s => .next (if slot = 0 then s.answerOpen m 0x83 0x03 nonce else s.answerError m 1))

def ownerCode : Option Master → Nat
  | none => 0
  | some m => masterCode m

/-- OWN_STATUS (Table 15-4). [DESIGN CHOICE: log entry 19] -/
def Mgmt.ownStatus (g : Mgmt) : Nat :=
  g.epoch.toNat * 2 ^ 16 + (if g.moving.isSome then 16 else 0) + 4 * (g.policy.getD 0#2).toNat + ownerCode g.owner

/-- The bytes of the recorded owner keys. [DESIGN CHOICE: log entry 19] -/
def Mgmt.keyBytes (g : Mgmt) : Option (List Byte) := g.keys.map (fun k => natBytes k.1 97 ++ natBytes k.2 56)

/-- The measurement of an index (Table 15-6). [DESIGN CHOICE: log entry 19] -/
def Mgmt.measurement (g : Mgmt) (index : Nat) : Option (BitVec 384) :=
  match index with
  | 1 => some Config.bootRomDigest
  | 2 => some (Config.sha384 g.active.image)
  | 3 => some (Config.sha384 g.standby.image)
  | 4 => some (Config.sha384 g.identity)
  | 5 => some (BitVec.ofNat 384 (g.ownStatus + 2 ^ 32 * g.fused.toNat))
  | 6 => some (match g.keyBytes with | some b => Config.sha384 b | none => 0#384)
  | _ => none

/-- GET_MEASUREMENTS: the state at the instant of the answer. -/
def execGetMeasurements (m : Master) (index : Nat) (s : State) : Host.Outcome State Fault Refusal :=
  s.request m (fun s => .next (match s.mgmt.measurement index with
    | some x => s.attestTo m 0x60 x
    | none => s.answerOpen m 0xE0 0x60 index))

/-- KEY_EXCHANGE: a session begins. -/
def execKeyExchange (m : Master) (exchange : Nat) (s : State) : Host.Outcome State Fault Refusal :=
  s.request m (fun s =>
    .next ((s.modMgmt (fun g => g.setSession m (some ⟨masterCode m, exchange, false⟩))).answerOpen m 0xE4 0x64 exchange))

/-- FINISH: the session that KEY_EXCHANGE began is set up, where the verify data fits it; else it ends, with ERROR DecryptError.
[PRESUMED: log entry 18] [PRESUMED: log entry 18] -/
def execFinish (m : Master) (verify : Nat) (s : State) : Host.Outcome State Fault Refusal :=
  s.request m (fun s =>
    match s.mgmt.session m with
    | some ⟨_, x, false⟩ =>
      if Config.finishOk x verify then
        .next ((s.modMgmt (fun g => g.setSession m (some ⟨masterCode m, x, true⟩))).answerOpen m 0xE5 0x65 verify)
      else .next ((s.modMgmt (fun g => g.setSession m none)).answerError m 6)
    | _ => .next (s.answerError m 1))

/-- END_SESSION. -/
def execEndSession (m : Master) (s : State) : Host.Outcome State Fault Refusal :=
  s.request m (fun s =>
    match s.mgmt.session m with
    | some ⟨_, _, true⟩ => .next ((s.modMgmt (fun g => g.setSession m none)).answerOpen m 0xEC 0x6C 0)
    | _ => .next (s.answerError m 1))

/-- Any other SPDM request: ERROR with UnsupportedRequest. -/
def execSpdmUnsupportedRequest (m : Master) (_code : Nat) (s : State) : Host.Outcome State Fault Refusal :=
  s.request m (fun s => .next (s.answerError m 7))

/-- PLDM_SENSOR_REQUEST: sensor 0 is the module's power, sensor 1 the hottest die sensor. [PRESUMED: log entry 18; DESIGN CHOICE: log entry 21] -/
def execPldmSensorRequest (m : Master) (sensor : Nat) (s : State) : Host.Outcome State Fault Refusal :=
  s.request m (fun s =>
    if sensor = 1 then .next (s.emit (.sensor m 1 (s.mgmt.temp.setWidth 32)))
    else .next ({ s with free := s.free + 1 }.emit (.sensor m sensor ((Config.freeWord s.free).setWidth 32))))

/-! ### Reading a register (R425, R426) -/

def half (x : DWord) (high : Bool) : Word := if high then (x >>> 32).setWidth 32 else x.setWidth 32

/-- A register of a port. -/
def Port.word (p : Port) (k : Nat) : Word :=
  match k with
  | 0 => BitVec.ofNat 32 ((if p.failed then 2 else 0) + (if p.training then 1 else 0))
  | 1 => p.retry
  | 2 => p.fail
  | _ => p.reroute

/-- A word of the memory-error log: the newest entry of the place (Table 20-1). -/
def Mgmt.merrWord (g : Mgmt) (j k : Nat) : Word :=
  match (g.merr.zipIdx.reverse).find? (fun x => x.2 % 256 == j) with
  | some x =>
    match k with
    | 0 => BitVec.ofNat 32 x.1.1
    | 1 => BitVec.ofNat 32 (x.1.1 / 2 ^ 32)
    | 2 => BitVec.ofNat 32 (x.1.2 % 256)
    | _ => 0#32
  | none => 0#32

/-- What a 32-bit read of BAR0 returns to any master (Table 20-1, R420); the module's power is not stated. [DESIGN CHOICE: log entry 21] -/
def State.readReg (s : State) (off : Nat) : Word :=
  let g := s.mgmt
  if off % 4 ≠ 0 then 0#32
  else if off = 0x0000 then 0x77000001#32
  else if off = 0x0010 then BitVec.ofNat 32 g.ownStatus
  else if off = 0x0018 then half g.nonce false
  else if off = 0x001C then half g.nonce true
  else if off = 0x0020 then g.status
  else if off = 0x0100 then BitVec.ofNat 32 g.cap
  else if off = 0x0108 then BitVec.ofNat 32 (g.effectiveCap * 2 ^ 16) ||| ((Config.freeWord s.free).setWidth 32 &&& 0xFFFF#32)
  else if off = 0x0110 then g.temp.setWidth 32 ||| (if g.trip then 0x80000000#32 else 0#32)
  else if 0x0200 ≤ off ∧ off ≤ 0x0214 then
    (if h : (off - 0x0200) / 4 < 6 then BitVec.ofNat 32 s.budgets[(off - 0x0200) / 4].nextLimit else 0#32)
  else if 0x0300 ≤ off ∧ off ≤ 0x0314 then (if h : (off - 0x0300) / 4 < 6 then s.budgets[(off - 0x0300) / 4].throttle else 0#32)
  else if off = 0x0400 then s.fab.staleReply
  else if 0x0404 ≤ off ∧ off ≤ 0x040C then (if h : (off - 0x0404) / 4 < 3 then g.refused[(off - 0x0404) / 4] else 0#32)
  else if 0x0500 ≤ off ∧ off < 0x0680 then (match s.port? ((off - 0x0500) / 16) with | some p => p.word (off / 4 % 4) | none => 0#32)
  else if off = 0x0800 then g.merrCount
  else if 0x1000 ≤ off ∧ off < 0x2000 then g.merrWord ((off - 0x1000) / 16) (off / 4 % 4)
  else if off = 0x4004 then (if g.switching then 0x80000000#32 else 0#32) ||| g.result.setWidth 32
  else if off = 0x4008 then g.seq
  else if 0x4100 ≤ off ∧ off < 0x4200 then BitVec.ofNat 32 (leNat ((g.arg.toList.drop (off - 0x4100)).take 4))
  else if 0x10000 ≤ off ∧ off < 0x12000 then
    (if off % 8 = 0 then (match s.queue? ((off - 0x10000) / 128) (off / 8 % 16) with | some q => q.wr | none => 0#32) else 0#32)
  else 0#32

end Sys2Proof.Machine
end

