-- ==== Sys2Proof/Machine/Owner.lean ====
section
/-! DEFINITION. Claims (15_isolation.md R364, R365), the owner interface and its commands (R374; R366–R372), contexts that come and
go (R340, R341, R355; 16_recovery.md R387–R389), live update and failover (R396, R397), and writes of the registers (R366, R426). -/

namespace Sys2Proof.Machine

/-! ### Election (R364, R365, R372) -/

/-- The masters a policy names (Table 15-4). -/
def policyAllows (p : BitVec 2) (m : Master) : Bool :=
  match p.toNat with
  | 0 => true
  | 1 => m == .host
  | 2 => m == .host || m == .bmc
  | _ => m != .pod

def Mgmt.allows (g : Mgmt) (m : Master) : Bool := match g.policy with | some p => policyAllows p m | none => false

/-- A new nonce is drawn. [DESIGN CHOICE: log entries 7, 8] -/
def State.drawNonce (s : State) : State := { s with free := s.free + 1 }.modMgmt (fun g => { g with nonce := Config.nonce s.free })

/-- A master becomes the owner, with its keys; EPOCH rises and a nonce is drawn. -/
def State.elect (s : State) (m : Master) (ecdsa lms : Nat) : State :=
  (s.modMgmt (fun g => { g with owner := some m, keys := some (ecdsa, lms), epoch := g.epoch + 1#8 })).drawNonce

/-- A claim as it arrives: who sends it, the nonce it names, its keys. -/
structure Claim where
  m : Master
  nonce : DWord
  ecdsa : Nat
  lms : Nat
  deriving DecidableEq, Repr

/-- The lodge handles a claim: one that finds no owner, names the nonce and passes the policy elects its sender. [DEDUCED: log entry 112] -/
def State.takeClaim (s : State) (c : Claim) : State :=
  if s.mgmt.owner = none ∧ s.mgmt.moving = none ∧ c.nonce = s.mgmt.nonce ∧ s.mgmt.allows c.m then s.commitTo (s.elect c.m c.ecdsa c.lms)
  else s

/-- The claims that arrive before the active lodge's clock passes. [DEDUCED: log entry 112] -/
def State.claimsNow (s : State) : List Claim :=
  let here := s.agenda.takeWhile (fun t => match t with | .lodgeClock l _ => l != (if s.mgmt.eastActive then 0 else 1) | _ => true)
  here.filterMap (fun t => match t with | .event (.claim m n e l) => some (Claim.mk m n e l) | _ => none)

/-- CLAIM: after those that the same lodge cycle brings from a master that goes before its own, host driver, BMC, pod manager (R365). -/
def execClaim (m : Master) (nonce : DWord) (ecdsa lms : Nat) (s : State) : Host.Outcome State Fault Refusal :=
  s.request m (fun s =>
    let first := fun (k : Nat) => s.claimsNow.filter (fun c => masterCode c.m == k && decide (k < masterCode m))
    .next ((first 1 ++ first 2 ++ [Claim.mk m nonce ecdsa lms]).foldl State.takeClaim s))

/-! ### Arguments and sources (R374) -/

/-- n bytes of OI_ARG as a number. -/
def Mgmt.argNum (g : Mgmt) (off n : Nat) : Nat := leNat ((g.arg.toList.drop off).take n)

/-- The first uncorrectable byte of the device memory that a command names. -/
def State.sourceBad (s : State) : Option Loc :=
  let src := s.mgmt.argNum 0 8
  if src = 0 then none else (s.firstBad ⟨.dev, src⟩ (s.mgmt.argNum 8 8)).map (fun i => Loc.mk .dev (src + i))

/-- The bytes that a command names by source and length: device memory by physical address, or the staging buffer; none where the
memory is not there or holds an uncorrectable error. [DEDUCED: log entry 113; DESIGN CHOICE: log entry 130] -/
def State.source (s : State) : Option (List Byte) :=
  let src := s.mgmt.argNum 0 8
  let n := s.mgmt.argNum 8 8
  if src = 0 then some (s.mgmt.staging.take n)
  else if deviceBytes < src + n then none
  else if s.sourceBad.isSome then none
  else some (s.l2Read src n).2

/-- An error in the bytes that a command names is logged (16_recovery.md R393). -/
def State.sourceLogged (s : State) : State := match s.sourceBad with | some l => s.logError l 0 | none => s

/-- A command that took the staging buffer empties it. [DEDUCED: log entry 113] -/
def State.taken (s : State) : State := if s.mgmt.argNum 0 8 = 0 then s.modMgmt (fun g => { g with staging := [] }) else s

/-- The code for the signatures that fail (Table 20-3): ECDSA, LMS, or both. [DEDUCED: log entry 112] -/
def signatureCode (ecdsa lms : Bool) : Nat :=
  match ecdsa, lms with
  | true, true => 0
  | false, true => 3
  | true, false => 4
  | false, false => 5

/-! ### Contexts -/

/-- A context still has something that bears its PASID (R355). -/
def State.inUse (s : State) (c : Context) : Bool :=
  !c.queues.isEmpty || !c.handles.isEmpty || s.plots.any (fun p => p.ctx == c.slot) || s.launches.any (fun l => l.ctx == c.slot) ||
  s.groups.any (fun g => g.ctx == c.slot) || s.colls.any (fun x => x.ctx == c.slot) || s.trellises.any (fun t => t.ctx == c.slot) ||
  s.vregs.any (fun r => r.ctx == c.slot)

/-- What a command comes to: a refusal with its code, or its effect. -/
abbrev Effect := Except Nat State

/-- CTX_WRITE: the entry of a slot that was empty starts with the flags of reset (R282). [DEDUCED: log entry 110] -/
def State.ctxWrite (s : State) (slot : Nat) : Effect :=
  let g := s.mgmt
  let pasid := g.argNum 0 4
  let flags := g.argNum 4 4
  let spad := g.argNum 8 4
  let csp := g.argNum 12 4
  let priv := g.argNum 16 8
  let elog := g.argNum 24 8
  let vec := g.argNum 32 4
  let old := s.ctx? slot
  let busy := old.any (fun c => c.resident)
  let moved := old.any (fun c => c.pasid != pasid && s.inUse c)
  if busy = true ∨ 2 ^ 20 ≤ pasid ∨ 2 ^ 14 ≤ flags ∨ 32 < spad ∨ 112 < csp ∨ priv % 65536 ≠ 0 ∨ elog % 32 ≠ 0 ∨ 64 ≤ vec ∨ g.argNum 36 220 ≠ 0 then .error 2
  else if moved = true then .error 6
  else
    let c := old.getD
      { slot := slot, pasid := 0, flags := 7#32, spad := 0, csp := 0, priv := 0#64, elog := 0#64, vec := 0, resident := false,
        present := false, locks := [], queues := [], rk := Vector.replicate 4 0#64, handles := [], records := 0, pending := [] }
    let d := { c with
      pasid := pasid, flags := BitVec.ofNat 32 flags, spad := spad * 16384, csp := csp * 65536, priv := BitVec.ofNat 64 priv,
      elog := BitVec.ofNat 64 elog, vec := vec }
    .ok { s with ctxs := d :: s.ctxs.filter (fun x => x.slot != slot) }

/-- The bytes of CSP for each die that the parts of resident contexts may take together (R143). -/
def cspBytes : Nat := 7 * 1048576

/-- The pavilions on which a saved context has an image. -/
def State.savedOn (s : State) (ctx : Nat) : List Nat := ((s.plots.filter (fun p => p.ctx == ctx)).map (fun p => p.pav)).eraseDups

/-- Every image of one grove fits on the pavilions of another, in the same places. -/
def State.groveFits (s : State) (c : Context) (pavs : List Nat) (grove : Nat) : Bool :=
  pavs.all (fun p => decide (s.spadUsed (8 * grove + p % 8) + c.spad ≤ spadBytes))

/-- Where each saved grove goes: back to itself where its images fit, else to the lowest grove not yet given out that has room. [DEDUCED: log entry 114] -/
def State.planGroves (s : State) (c : Context) : Option (List (Nat × Nat)) :=
  let saved := s.savedOn c.slot
  ((saved.map groveOf).eraseDups).foldl (fun m g =>
    match m with
    | none => none
    | some l =>
      let pavs := saved.filter (fun p => groveOf p == g)
      let ok := fun (x : Nat) => !l.any (fun y => y.2 == x) && s.groveFits c pavs x
      match (g :: List.range 40).find? ok with
      | some x => some (l ++ [(g, x)])
      | none => none) (some [])

/-- The pavilion that receives the image of another. -/
def newPav (plan : List (Nat × Nat)) (pav : Nat) : Nat :=
  match plan.find? (fun x => x.1 == groveOf pav) with
  | some x => 8 * x.2 + pav % 8
  | none => pav

/-- A flat SPAD number after the move of a context's images. -/
def newSpad (plan : List (Nat × Nat)) (ctx a : Nat) : Nat :=
  if a / spadBytes % 64 = ctx then spadAt (newPav plan (a / spadBytes / 64)) ctx (a % spadBytes) else a

def newLock (plan : List (Nat × Nat)) (ctx : Nat) (l : Lock) : Lock :=
  if l.ctx = ctx then
    match l.range with
    | .local .spad lo hi => { l with range := .local .spad (newSpad plan ctx lo) (newSpad plan ctx lo + (hi - lo)) }
    | _ => l
  else l

/-- The images and plots of a context go to the pavilions of the plan (R388). [DEDUCED: log entry 114] -/
def State.moveContext (s : State) (c : Context) (plan : List (Nat × Nat)) : State :=
  let ctx := c.slot
  let mine := fun (x : Host.Cell) => x.1 / spadBytes % 64 == ctx
  let cells := (s.mem.spad.filter mine).foldl (fun m x => cellSet m (newSpad plan ctx x.1) x.2) (s.mem.spad.filter (fun x => !mine x))
  { s with
    mem := { s.mem with
      spad := cells
      bad := s.mem.bad.map (fun l => if l.space = .spad then { l with addr := newSpad plan ctx l.addr } else l) }
    plots := s.plots.map (fun p => if p.ctx = ctx then { p with pav := newPav plan p.pav } else p)
    colls := s.colls.map (fun x => if x.ctx = ctx then { x with pav := newPav plan x.pav } else x) }

/-- The range locks of the save area stand again, where the images of their pavilions have gone (R388). -/
def State.restoreLocks (s : State) (c : Context) (plan : List (Nat × Nat)) : State :=
  c.locks.foldl (fun s x => s.modPav (newPav plan x.1) (fun v => { v with locks := v.locks ++ [newLock plan c.slot x.2] })) s

/-- A context that has been saved takes its parts, images and range locks again by a plan, and responses held move their plots (R388,
R389). -/
def State.takeBack (s : State) (c : Context) (plan : List (Nat × Nat)) : State :=
  let s1 := if plan.all (fun x => x.1 == x.2) then s else s.moveContext c plan
  let s2 := ((s1.savedOn c.slot).foldl (fun s p => s.claimPart p c.slot) s1).restoreLocks c plan
  { s2 with plots := s2.plots.map (fun p =>
    if p.ctx = c.slot then (match p.heldResponse with | some (ok, pages) => p.responded ok pages | none => p) else p) }

/-- CTX_RESIDENT 1: a context whose pre-emption is still under way goes on; one that has been saved is taken back, and what waits goes
on; plots return as they find room (R388). -/
def State.makeResident (s : State) (c : Context) : Except Nat (Except Nat State) :=
  let others := s.ctxs.filter (fun x => x.slot != c.slot)
  let resume := fun (s : State) => (s.modCtx c.slot (fun x => { x with resident := true, present := true, locks := [] })).sendGroups.goOn
  if c.resident then .ok (.ok s)
  else if others.any (fun x => x.resident && x.pasid == c.pasid) then .error 6
  else if c.present then .ok (resume s)
  else if cspBytes < (others.filter (fun x => x.resident || x.present)).foldl (fun n x => n + x.csp) c.csp then .error 2
  else
    match s.planGroves c with
    | none => .error 2
    | some plan => .ok (resume (s.takeBack c plan))

/-- CTX_FLAGS. -/
def State.ctxFlags (s : State) (slot : Nat) : Effect :=
  let flags := s.mgmt.argNum 0 4
  if (s.ctx? slot).isNone ∨ 2 ^ 14 ≤ flags then .error 2 else .ok (s.modCtx slot (fun c => { c with flags := BitVec.ofNat 32 flags }))

/-- Everything of a context ends with no further effect, and its parts are zeroed (R341, R374). [DEDUCED: log entry 110] -/
def State.removeContext (s : State) (slot : Nat) : State :=
  let mine := (s.plots.filter (fun p => p.ctx == slot)).map (fun p => p.id)
  let nums := (s.groups.filter (fun g => g.ctx == slot)).map (fun g => g.num)
  let ended := fun (t : TagReq) => match t.owner with | .copy p _ _ => mine.contains p | .unit => nums.contains t.group
  let pasid := s.pasid slot
  let gone := (s.launches.filter (fun l => l.ctx == slot)).map (fun l => l.id)
  let s1 := { s with
    plots := s.plots.filter (fun p => p.ctx != slot)
    launches := s.launches.filter (fun l => l.ctx != slot)
    trellises := s.trellises.filter (fun t => t.ctx != slot)
    vregs := s.vregs.filter (fun r => r.ctx != slot)
    groups := s.groups.filter (fun g => g.ctx != slot)
    colls := s.colls.filter (fun c => c.ctx != slot)
    greenhouse := s.greenhouse.filter (fun h => !nums.contains h.group)
    ctxs := s.ctxs.filter (fun c => c.slot != slot)
    fab := { s.fab with
      queue := s.fab.queue.filter (fun q => !nums.contains q.group)
      sends := s.fab.sends.filter (fun x => x.ctx != slot)
      posted := s.fab.posted.filter (fun x => x.ctx != slot) }
    xl := { s.xl with
      groups := s.xl.groups.filter (fun g => g.ctx != slot)
      answered := s.xl.answered.filter (fun a => a.1 != pasid)
      refused := s.xl.refused.filter (fun a => a.1 != pasid) }
    pavs := s.pavs.map (fun v =>
      { v with
        parts := v.parts.filter (fun c => c != slot)
        locks := v.locks.filter (fun l => l.ctx != slot)
        tiles := v.tiles.map (fun t => if t.2.ctx = some slot then (t.1, ⟨none, [], []⟩) else t) })
    mem := { s.mem with
      spad := s.mem.spad.filter (fun x => x.1 / spadBytes % 64 != slot)
      csp := s.mem.csp.filter (fun x => x.1 / 2 ^ 26 != slot)
      invs := s.mem.invs.filter (fun v => !gone.contains v.launch)
      bad := s.mem.bad.filter (fun l => !((l.space == .spad && l.addr / spadBytes % 64 == slot) || (l.space == .csp && l.addr / 2 ^ 26 == slot))) } }
  (s.fab.tags.filter ended).foldl (fun s t => s.releaseTag t.tag) s1

/-- QUEUE_WRITE (Table 14-3). [DEDUCED: log entry 110] -/
def State.queueWrite (s : State) (slot num : Nat) : Effect :=
  let g := s.mgmt
  let base := g.argNum 0 8
  let word := g.argNum 8 8
  let rw := g.argNum 16 8
  let log2 := word % 32
  let privq := Nat.testBit word 5
  let en := Nat.testBit word 6
  match s.ctx? slot with
  | none => .error 2
  | some c =>
    if base % 4096 ≠ 0 ∨ log2 < 4 ∨ 16 < log2 ∨ 2 ^ 7 ≤ word ∨ rw % 8 ≠ 0 ∨ g.argNum 24 8 ≠ 0 then .error 2
    else
      let old := c.queues.find? (fun q => q.num == num)
      let changed := old.any (fun q =>
        q.en && (q.base.toNat != base || q.log2 != log2 || q.privq != privq || q.readWord.toNat != rw))
      if changed then .error 2
      else
        let q := old.getD ⟨num, 0#64, 4, false, false, 0#64, 0#32, 0#32, false, false, []⟩
        let n : Queue := { q with
          base := BitVec.ofNat 64 base, log2 := log2, privq := privq, en := en, readWord := BitVec.ofNat 64 rw }
        .ok (s.modCtx slot (fun c => { c with queues := n :: c.queues.filter (fun q => q.num != num) }))

/-! ### Firmware and identity (R370–R372) -/

/-- IMAGE_LOAD: into the lodge that stands by. [DESIGN CHOICE: log entry 111] -/
def State.imageLoad (s : State) : Effect :=
  match s.source with
  | none => .error 2
  | some img =>
    let code := signatureCode (Config.waizelEcdsaOk img) (Config.waizelLmsOk img)
    if code ≠ 0 then .error code
    else if (Config.imageVersion img).toNat < s.mgmt.fused.toNat then .error 2
    else .ok (s.modMgmt (fun g => g.setStandby ⟨img, false⟩)).taken

/-- IDENTITY_LOAD: a statement refused leaves no owner policy (R372). [DEDUCED: log entry 112] -/
def State.identityLoad (s : State) : Effect × State :=
  let bare := s.modMgmt (fun g => { g with policy := none })
  match s.source with
  | none => (.error 2, s)
  | some st =>
    let code := signatureCode (Config.waizelEcdsaOk st) (Config.waizelLmsOk st)
    if code ≠ 0 then (.error code, bare)
    else (.ok (s.modMgmt (fun g => { g with identity := st, policy := some (Config.identityPolicy st) })).taken, s)

/-- STAGE. -/
def State.stageBytes (s : State) : Effect :=
  let n := s.mgmt.argNum 0 1
  if n = 0 then .ok (s.modMgmt (fun g => { g with staging := [] }))
  else if 248 < n ∨ 4194304 < s.mgmt.staging.length + n then .error 2
  else .ok (s.modMgmt (fun g => { g with staging := g.staging ++ (g.arg.toList.drop 8).take n }))

/-! ### Statements (R367, R368) -/

def fieldOf (b : List Byte) (off n : Nat) : Nat := leNat ((b.drop off).take n)

def masterOf (n : Nat) : Option Master :=
  match n with
  | 1 => some .host
  | 2 => some .bmc
  | 3 => some .pod
  | _ => none

/-- The checks of a statement's body (Table 15-5): its kind, EPOCH, nonce, successor, new minimum, and fields that must be zero. -/
def Mgmt.bodyOk (g : Mgmt) (b : List Byte) : Bool :=
  let kind := fieldOf b 0 4
  let cls := fieldOf b 5 1
  let keys := fieldOf b 16 97 = 0 ∧ fieldOf b 120 56 = 0
  let common := decide (fieldOf b 4 1 = g.epoch.toNat) && decide (fieldOf b 8 8 = g.nonce.toNat) && decide (fieldOf b 7 1 = 0) &&
    decide (fieldOf b 113 1 = 0) && decide (fieldOf b 116 4 = 0)
  common &&
  match kind with
  | 1 => (match masterOf cls with | some m => g.allows m | none => false) && decide (fieldOf b 6 1 < 2) && decide (fieldOf b 114 2 = 0)
  | 2 => decide (cls = 0) && decide (fieldOf b 6 1 = 0) && decide keys && decide (fieldOf b 114 2 = 0)
  | 3 => decide (cls = 0) && decide (fieldOf b 6 1 = 0) && decide keys && decide (g.fused.toNat < fieldOf b 114 2)
  | _ => false

/-- The effect of a statement that has passed (HANDOVER, RELEASE, RAISE_MIN_VERSION): a handover with RESET ends and removes every context
before the successor is the owner. [DEDUCED: log entry 118] -/
def State.applyStatement (s : State) (b : List Byte) : State :=
  let ek := fieldOf b 16 97
  let lk := fieldOf b 120 56
  match fieldOf b 0 4, masterOf (fieldOf b 5 1) with
  | 1, some m =>
    if fieldOf b 6 1 = 0 then s.elect m ek lk
    else
      (((s.ctxs.map (fun c => c.slot)).foldl State.removeContext s).modMgmt (fun g => { g with moving := some (m, ek, lk) })).drawNonce
  | 2, _ => (s.modMgmt (fun g => { g with owner := none, keys := none, epoch := g.epoch + 1#8 })).drawNonce
  | 3, _ => (s.modMgmt (fun g => { g with fused := BitVec.ofNat 16 (fieldOf b 114 2) })).drawNonce
  | _, _ => s

/-- STATEMENT. [DEDUCED: log entry 112] -/
def State.submit (s : State) : Effect :=
  match s.source, s.mgmt.keys with
  | some b, some (ek, lk) =>
    let body := b.take 176
    let code := signatureCode (Config.ecdsaOk ek body ((b.drop 176).take 96)) (Config.lmsOk lk body (b.drop 272))
    if b.length < 272 then .error 2
    else if code ≠ 0 then .error code
    else if s.mgmt.bodyOk body then .ok (s.applyStatement body).taken
    else .error 2
  | _, _ => .error 2

/-- HANDOVER_RESET_COMPLETE: no context is left; SPAD, CSP and tiles are zero and the translation caches empty; then the successor is
the owner. [DEDUCED: log entry 118] -/
def execHandoverResetComplete (s : State) : Host.Outcome State Fault Refusal :=
  match s.mgmt.moving with
  | none => .next s
  | some (m, ek, lk) =>
    let s1 := (s.ctxs.map (fun c => c.slot)).foldl State.removeContext s
    let s2 : State := { s1 with
      pavs := s1.pavs.map (fun v => { v with atc := [], tiles := [], parts := [], locks := [] })
      xl := { s1.xl with grove := [], device := [], denied := [], reqs := s1.xl.reqs.map (fun q => { q with stale := true }) }
      mem := { s1.mem with spad := [], csp := [], bad := s1.mem.bad.filter (fun l => l.space != .spad && l.space != .csp) } }
    .next (s2.commitTo ((s2.modMgmt (fun g => { g with moving := none })).elect m ek lk))

/-! ### Commands (R374) -/

/-- The end of a command: OI_SEQ and RESULT, with a refusal recorded. -/
def State.endCommand (s : State) (m : Master) (code : Nat) : State :=
  let s1 := s.modMgmt (fun g => { g with seq := g.seq + 1#32, result := BitVec.ofNat 8 code })
  if code = 0 then s1 else s1.refuse m code 0x4000

/-- A command whose effect is known: refused with all state unchanged, or committed and done. -/
def State.closeCommand (s : State) (m : Master) (r : Effect) : State :=
  match r with
  | .ok s1 => (s.commitTo s1).endCommand m 0
  | .error code => s.endCommand m code

/-- A write of OI_CMD (Table 15-7): who may write it, BUSY, reserved bits, MOVING, then the command's own effect. [DEDUCED: log entry 109] -/
def State.commanded (s : State) (m : Master) (cmd : Word) (op : Nat) (f : Nat → Nat → State → Host.Outcome State Fault Refusal) :
    Host.Outcome State Fault Refusal :=
  let w := cmd.toNat
  let may := decide (s.mgmt.owner = some m) || (decide (s.mgmt.owner = none) && m == .bmc && (op == 11 || op == 12))
  if !may then .next (s.refuse m 1 0x4000)
  else if s.mgmt.switching then .next (s.refuse m 8 0x4000)
  else if w / 2 ^ 10 % 2 ^ 14 ≠ 0 ∨ (s.mgmt.moving.isSome ∧ op ≠ 12) then .next (s.endCommand m 2)
  else f (w % 64) (w / 64 % 16) s

/-- A write of OI_CMD with the operation of an instruction: a request like any other. -/
def State.command (s : State) (m : Master) (cmd : Word) (op : Nat) (f : Nat → Nat → State → Host.Outcome State Fault Refusal) :
    Host.Outcome State Fault Refusal :=
  if cmd.toNat / 2 ^ 24 ≠ op then .next s else s.request m (fun s => s.commanded m cmd op f)

/-- A command with an effect that cannot stop. -/
def plainCommand (m : Master) (cmd : Word) (op : Nat) (f : Nat → Nat → State → Effect) (s : State) : Host.Outcome State Fault Refusal :=
  s.command m cmd op (fun c q s => .next (s.closeCommand m (f c q s)))

/-- CTX_WRITE. -/
def execCtxWrite (m : Master) (cmd : Word) (s : State) : Host.Outcome State Fault Refusal := plainCommand m cmd 1 (fun c _ s => s.ctxWrite c) s

/-- CTX_RESIDENT: resident again, or pre-empted (R387); plots of a context pre-empted are saved as they stop. -/
def execCtxResident (m : Master) (cmd : Word) (s : State) : Host.Outcome State Fault Refusal :=
  s.command m cmd 2 (fun slot _ s =>
    match s.ctx? slot with
    | none => .next (s.endCommand m 2)
    | some c =>
      if Nat.testBit (s.mgmt.argNum 0 4) 0 then
        match s.makeResident c with
        | .error code => .next (s.endCommand m code)
        | .ok (.error pa) => .fault (.absentMemory pa)
        | .ok (.ok s1) => .next ((s.commitTo s1).endCommand m 0)
      else .next ((s.commitTo (s.modCtx slot (fun c => { c with resident := false })).quiesce).endCommand m 0))

/-- CTX_FLAGS. -/
def execCtxFlags (m : Master) (cmd : Word) (s : State) : Host.Outcome State Fault Refusal := plainCommand m cmd 3 (fun c _ s => s.ctxFlags c) s

/-- CTX_REMOVE. -/
def execCtxRemove (m : Master) (cmd : Word) (s : State) : Host.Outcome State Fault Refusal :=
  plainCommand m cmd 4 (fun c _ s => .ok (s.removeContext c)) s

/-- QUEUE_WRITE. -/
def execQueueWrite (m : Master) (cmd : Word) (s : State) : Host.Outcome State Fault Refusal := plainCommand m cmd 5 (fun c q s => s.queueWrite c q) s

/-- IMAGE_LOAD. -/
def execImageLoad (m : Master) (cmd : Word) (s : State) : Host.Outcome State Fault Refusal := 
  s.command m cmd 7 (fun _ _ s => .next (s.sourceLogged.closeCommand m s.sourceLogged.imageLoad))

/-- LIVE_UPDATE (R397): the command runs until the switch. [DESIGN CHOICE: log entry 111] -/
def execLiveUpdate (m : Master) (cmd : Word) (s : State) : Host.Outcome State Fault Refusal :=
  s.command m cmd 8 (fun _ _ s =>
    if s.mgmt.standby.offline then .next (s.endCommand m 2)
    else .next (s.modMgmt (fun g => { g with switching := true, switchAt := s.dieCycles 0 })))

/-- LIVE_UPDATE_SWITCH: the active lodge commits a final version, which the standby imports; the lodges change places, or the standby
refuses the schema and the active one resumes. [DESIGN CHOICE: log entry 111] -/
def execLiveUpdateSwitch (s : State) : Host.Outcome State Fault Refusal :=
  if !s.mgmt.switching then .next s
  else
    let s1 := s.commitTo s
    let m := s.mgmt.owner.getD .host
    if Config.imageAccepts s.mgmt.standby.image s.mgmt.schema then
      .next ((s1.imported.swapped.modMgmt (fun g => { g with schema := Config.imageSchema s.mgmt.standby.image })).endCommand m 0)
    else .next ((s1.modMgmt (fun g => { g with switching := false })).endCommand m 7)

/-- FAILOVER (R396). [DESIGN CHOICE: log entry 111] -/
def execFailover (m : Master) (cmd : Word) (s : State) : Host.Outcome State Fault Refusal :=
  plainCommand m cmd 9 (fun _ _ s => if s.mgmt.standby.offline then .error 2 else .ok s.takeover) s

/-- STATEMENT. -/
def execStatement (m : Master) (cmd : Word) (s : State) : Host.Outcome State Fault Refusal := 
  s.command m cmd 10 (fun _ _ s => .next (s.sourceLogged.closeCommand m s.sourceLogged.submit))

/-- IDENTITY_LOAD. -/
def execIdentityLoad (m : Master) (cmd : Word) (s : State) : Host.Outcome State Fault Refusal :=
  s.command m cmd 11 (fun _ _ s =>
    .next (s.sourceLogged.identityLoad.2.closeCommand m s.sourceLogged.identityLoad.1))

/-- STAGE. -/
def execStage (m : Master) (cmd : Word) (s : State) : Host.Outcome State Fault Refusal := plainCommand m cmd 12 (fun _ _ s => s.stageBytes) s

/-! ### Register writes (R366, R374, R426) -/

/-- A write of OI_ARG. -/
def State.argWrite (s : State) (m : Master) (off : Nat) (v : Word) : State :=
  let may := decide (s.mgmt.owner = some m) || (decide (s.mgmt.owner = none) && m == .bmc)
  if !may then s.refuse m 1 off
  else if s.mgmt.switching then s.refuse m 8 off
  else
    let k := off - 0x4100
    let b := natBytes v.toNat 4
    s.modMgmt (fun g => { g with arg := g.arg.mapFinIdx (fun i x _ => if k ≤ i ∧ i < k + 4 then b.getD (i - k) 0#8 else x) })

/-- A write of OI_CMD by any operation code. -/
def execCommand (m : Master) (cmd : Word) (s : State) : Host.Outcome State Fault Refusal :=
  match cmd.toNat / 2 ^ 24 with
  | 1 => execCtxWrite m cmd s
  | 2 => execCtxResident m cmd s
  | 3 => execCtxFlags m cmd s
  | 4 => execCtxRemove m cmd s
  | 5 => execQueueWrite m cmd s
  | 7 => execImageLoad m cmd s
  | 8 => execLiveUpdate m cmd s
  | 9 => execFailover m cmd s
  | 10 => execStatement m cmd s
  | 11 => execIdentityLoad m cmd s
  | 12 => execStage m cmd s
  | op => s.command m cmd op (fun _ _ s => .next (s.endCommand m 2))

/-- REGISTER_WRITE: a 32-bit write of any offset of BAR0. Offsets that are not 4-aligned, read-only or not named write nothing; a
doorbell is the host's (R366). [DEDUCED: log entry 120] -/
def execRegisterWrite (m : Master) (off : Nat) (v : Word) (s : State) : Host.Outcome State Fault Refusal :=
  if off % 4 ≠ 0 then .next s
  else if off = 0x0100 then execPowerCapWrite m v s
  else if 0x0200 ≤ off ∧ off ≤ 0x0214 then
    (if h : (off - 0x0200) / 4 < 6 then execBudgetWrite m ⟨(off - 0x0200) / 4, h⟩ v s else .next s)
  else if 0x0500 ≤ off ∧ off < 0x0680 ∧ off % 16 = 0 then execPortRetrain m ((off - 0x0500) / 16) v s
  else if off = 0x4000 then execCommand m v s
  else if 0x4100 ≤ off ∧ off < 0x4200 then s.request m (fun s => .next (s.argWrite m off v))
  else if 0x10000 ≤ off ∧ off < 0x12000 ∧ off % 8 = 0 ∧ m = .host then execDoorbell ((off - 0x10000) / 128) (off / 8 % 16) v s
  else .next s

end Sys2Proof.Machine
end

