-- ==== Sys2Proof/Machine/Dispatch.lean ====
section
/-! DEFINITION. Every instruction and event, one arm each. -/

namespace Sys2Proof.Machine

/-- What an instruction does. [DESIGN CHOICE: log entry 10] -/
def exec (i : Instr) (s : State) : Host.Outcome State Fault Refusal :=
  match i with
  | .add d a b => Sys2Proof.Machine.execAdd d a b s
  | .sub d a b => Sys2Proof.Machine.execSub d a b s
  | .mul d a b => Sys2Proof.Machine.execMul d a b s
  | .mulhs d a b => Sys2Proof.Machine.execMulhs d a b s
  | .mulhz d a b => Sys2Proof.Machine.execMulhz d a b s
  | .andR d a b => Sys2Proof.Machine.execAndR d a b s
  | .orR d a b => Sys2Proof.Machine.execOrR d a b s
  | .xorR d a b => Sys2Proof.Machine.execXorR d a b s
  | .andn d a b => Sys2Proof.Machine.execAndn d a b s
  | .shl d a b => Sys2Proof.Machine.execShl d a b s
  | .shr d a b => Sys2Proof.Machine.execShr d a b s
  | .sra d a b => Sys2Proof.Machine.execSra d a b s
  | .rol d a b => Sys2Proof.Machine.execRol d a b s
  | .mins d a b => Sys2Proof.Machine.execMins d a b s
  | .maxs d a b => Sys2Proof.Machine.execMaxs d a b s
  | .minz d a b => Sys2Proof.Machine.execMinz d a b s
  | .maxz d a b => Sys2Proof.Machine.execMaxz d a b s
  | .absd d a b => Sys2Proof.Machine.execAbsd d a b s
  | .popc d a => Sys2Proof.Machine.execPopc d a s
  | .clz d a => Sys2Proof.Machine.execClz d a s
  | .brev d a => Sys2Proof.Machine.execBrev d a s
  | .addsat d a b => Sys2Proof.Machine.execAddsat d a b s
  | .subsat d a b => Sys2Proof.Machine.execSubsat d a b s
  | .bfx d a b => Sys2Proof.Machine.execBfx d a b s
  | .bfi d a b => Sys2Proof.Machine.execBfi d a b s
  | .selF0 d a b => Sys2Proof.Machine.execSelF0 d a b s
  | .selF1 d a b => Sys2Proof.Machine.execSelF1 d a b s
  | .selF2 d a b => Sys2Proof.Machine.execSelF2 d a b s
  | .selF3 d a b => Sys2Proof.Machine.execSelF3 d a b s
  | .addi d a imm => Sys2Proof.Machine.execAddi d a imm s
  | .andi d a imm => Sys2Proof.Machine.execAndi d a imm s
  | .ori d a imm => Sys2Proof.Machine.execOri d a imm s
  | .xori d a imm => Sys2Proof.Machine.execXori d a imm s
  | .shfiShl d a n => Sys2Proof.Machine.execShfiShl d a n s
  | .shfiShr d a n => Sys2Proof.Machine.execShfiShr d a n s
  | .shfiSra d a n => Sys2Proof.Machine.execShfiSra d a n s
  | .shfiRol d a n => Sys2Proof.Machine.execShfiRol d a n s
  | .movh d imm => Sys2Proof.Machine.execMovh d imm s
  | .movw d lit => Sys2Proof.Machine.execMovw d lit s
  | .icmp f c a b => Sys2Proof.Machine.execIcmp f c a b s
  | .icmpi f c a imm => Sys2Proof.Machine.execIcmpi f c a imm s
  | .fadd d a b r => Sys2Proof.Machine.execFadd d a b r s
  | .fsub d a b r => Sys2Proof.Machine.execFsub d a b r s
  | .fmul d a b r => Sys2Proof.Machine.execFmul d a b r s
  | .fmin d a b => Sys2Proof.Machine.execFmin d a b s
  | .fmax d a b => Sys2Proof.Machine.execFmax d a b s
  | .fminn d a b => Sys2Proof.Machine.execFminn d a b s
  | .fmaxn d a b => Sys2Proof.Machine.execFmaxn d a b s
  | .fabs d a => Sys2Proof.Machine.execFabs d a s
  | .fneg d a => Sys2Proof.Machine.execFneg d a s
  | .fcpys d a b => Sys2Proof.Machine.execFcpys d a b s
  | .fsqrt d a r => Sys2Proof.Machine.execFsqrt d a r s
  | .frcp d a r => Sys2Proof.Machine.execFrcp d a r s
  | .frsq d a r => Sys2Proof.Machine.execFrsq d a r s
  | .fexp2 d a r => Sys2Proof.Machine.execFexp2 d a r s
  | .flog2 d a r => Sys2Proof.Machine.execFlog2 d a r s
  | .faddX2 d a b r => Sys2Proof.Machine.execFaddX2 d a b r s
  | .fmulX2 d a b r => Sys2Proof.Machine.execFmulX2 d a b r s
  | .faddP2 d a b r => Sys2Proof.Machine.execFaddP2 d a b r s
  | .fmulP2 d a b r => Sys2Proof.Machine.execFmulP2 d a b r s
  | .fclass d a => Sys2Proof.Machine.execFclass d a s
  | .fma d a b c r => Sys2Proof.Machine.execFma d a b c r s
  | .fms d a b c r => Sys2Proof.Machine.execFms d a b c r s
  | .fnma d a b c r => Sys2Proof.Machine.execFnma d a b c r s
  | .fmaX2 d a b c r => Sys2Proof.Machine.execFmaX2 d a b c r s
  | .fmaP2 d a b c r => Sys2Proof.Machine.execFmaP2 d a b c r s
  | .fcmp f c a b => Sys2Proof.Machine.execFcmp f c a b s
  | .cvt d a b t r satf => Sys2Proof.Machine.execCvt d a b t r satf s
  | .tagset d a c => Sys2Proof.Machine.execTagset d a c s
  | .tagget d a => Sys2Proof.Machine.execTagget d a s
  | .tagchk a c => Sys2Proof.Machine.execTagchk a c s
  | .shfl d a b => Sys2Proof.Machine.execShfl d a b s
  | .shflx d a b => Sys2Proof.Machine.execShflx d a b s
  | .shflu d a b => Sys2Proof.Machine.execShflu d a b s
  | .shfld d a b => Sys2Proof.Machine.execShfld d a b s
  | .ballot d f => Sys2Proof.Machine.execBallot d f s
  | .anyF g f => Sys2Proof.Machine.execAnyF g f s
  | .allF g f => Sys2Proof.Machine.execAllF g f s
  | .redadd d a => Sys2Proof.Machine.execRedadd d a s
  | .redmaxs d a => Sys2Proof.Machine.execRedmaxs d a s
  | .redfadd d a => Sys2Proof.Machine.execRedfadd d a s
  | .scanadd d a => Sys2Proof.Machine.execScanadd d a s
  | .mxqE2m1 d a b => Sys2Proof.Machine.execMxqE2m1 d a b s
  | .mxqE4m3 d a b => Sys2Proof.Machine.execMxqE4m3 d a b s
  | .mxqE5m2 d a b => Sys2Proof.Machine.execMxqE5m2 d a b s
  | .mxdq d a b => Sys2Proof.Machine.execMxdq d a b s
  | .bcast d a l => Sys2Proof.Machine.execBcast d a l s
  | .ld d a z w sc o => Sys2Proof.Machine.execLd d a z w sc o s
  | .lda d a z w sc o => Sys2Proof.Machine.execLda d a z w sc o s
  | .ldi d a z w sc o => Sys2Proof.Machine.execLdi d a z w sc o s
  | .st d a z w sc o => Sys2Proof.Machine.execSt d a z w sc o s
  | .stl d a z w sc o => Sys2Proof.Machine.execStl d a z w sc o s
  | .ldv d a b z sc m => Sys2Proof.Machine.execLdv d a b z sc m s
  | .atomAdd d a b ar sc => Sys2Proof.Machine.execAtomAdd d a b ar sc s
  | .atomAnd d a b ar sc => Sys2Proof.Machine.execAtomAnd d a b ar sc s
  | .atomOr d a b ar sc => Sys2Proof.Machine.execAtomOr d a b ar sc s
  | .atomXor d a b ar sc => Sys2Proof.Machine.execAtomXor d a b ar sc s
  | .atomMins d a b ar sc => Sys2Proof.Machine.execAtomMins d a b ar sc s
  | .atomMaxs d a b ar sc => Sys2Proof.Machine.execAtomMaxs d a b ar sc s
  | .atomMinz d a b ar sc => Sys2Proof.Machine.execAtomMinz d a b ar sc s
  | .atomMaxz d a b ar sc => Sys2Proof.Machine.execAtomMaxz d a b ar sc s
  | .atomXchg d a b ar sc => Sys2Proof.Machine.execAtomXchg d a b ar sc s
  | .atomCas d a b ar sc => Sys2Proof.Machine.execAtomCas d a b ar sc s
  | .atomFadd d a b ar sc => Sys2Proof.Machine.execAtomFadd d a b ar sc s
  | .atomIncw d a b ar sc => Sys2Proof.Machine.execAtomIncw d a b ar sc s
  | .fenceFull sc => Sys2Proof.Machine.execFenceFull sc s
  | .fenceAcq sc => Sys2Proof.Machine.execFenceAcq sc s
  | .fenceRel sc => Sys2Proof.Machine.execFenceRel sc s
  | .fenceView sc => Sys2Proof.Machine.execFenceView sc s
  | .stmx d a b sc => Sys2Proof.Machine.execStmx d a b sc s
  | .pf a l2only => Sys2Proof.Machine.execPf a l2only s
  | .vopen d a b => Sys2Proof.Machine.execVopen d a b s
  | .vcommit a b sc => Sys2Proof.Machine.execVcommit a b sc s
  | .vquery d a => Sys2Proof.Machine.execVquery d a s
  | .vretire a b => Sys2Proof.Machine.execVretire a b s
  | .br c o => Sys2Proof.Machine.execBr c o s
  | .brx c o => Sys2Proof.Machine.execBrx c o s
  | .call c o => Sys2Proof.Machine.execCall c o s
  | .jr a => Sys2Proof.Machine.execJr a s
  | .ret => Sys2Proof.Machine.execRet s
  | .callr a => Sys2Proof.Machine.execCallr a s
  | .wait ld st cp tl => Sys2Proof.Machine.execWait ld st cp tl s
  | .yield => Sys2Proof.Machine.execYield s
  | .exit => Sys2Proof.Machine.execExit s
  | .join c => Sys2Proof.Machine.execJoin c s
  | .leave => Sys2Proof.Machine.execLeave s
  | .rdv => Sys2Proof.Machine.execRdv s
  | .spawn a => Sys2Proof.Machine.execSpawn a s
  | .reorder a k => Sys2Proof.Machine.execReorder a k s
  | .popq d => Sys2Proof.Machine.execPopq d s
  | .peekq d => Sys2Proof.Machine.execPeekq d s
  | .pushq a => Sys2Proof.Machine.execPushq a s
  | .movsr d n => Sys2Proof.Machine.execMovsr d n s
  | .movrs a n => Sys2Proof.Machine.execMovrs a n s
  | .nop => Sys2Proof.Machine.execNop s
  | .barInit a n => Sys2Proof.Machine.execBarInit a n s
  | .barArrive d n => Sys2Proof.Machine.execBarArrive d n s
  | .barWait d n => Sys2Proof.Machine.execBarWait d n s
  | .barSync d n => Sys2Proof.Machine.execBarSync d n s
  | .barInval n => Sys2Proof.Machine.execBarInval n s
  | .barQuery d n => Sys2Proof.Machine.execBarQuery d n s
  | .ainit a b => Sys2Proof.Machine.execAinit a b s
  | .await d a b => Sys2Proof.Machine.execAwait d a b s
  | .aadd a b => Sys2Proof.Machine.execAadd a b s
  | .rinit d a => Sys2Proof.Machine.execRinit d a s
  | .rwaitf d a => Sys2Proof.Machine.execRwaitf d a s
  | .rrel a => Sys2Proof.Machine.execRrel a s
  | .rstat d a => Sys2Proof.Machine.execRstat d a s
  | .trap n => Sys2Proof.Machine.execTrap n s
  | .brk n => Sys2Proof.Machine.execBrk n s
  | .eret => Sys2Proof.Machine.execEret s
  | .rkset a imm => Sys2Proof.Machine.execRkset a imm s
  | .ud => Sys2Proof.Machine.execUd s
  | .mma d a b p k => Sys2Proof.Machine.execMma d a b p k s
  | .mmag d a b p k => Sys2Proof.Machine.execMmag d a b p k s
  | .tzero d f32 => Sys2Proof.Machine.execTzero d f32 s
  | .tld d a f32 => Sys2Proof.Machine.execTld d a f32 s
  | .tst d a => Sys2Proof.Machine.execTst d a s
  | .tscal d a => Sys2Proof.Machine.execTscal d a s
  | .tadd d a b => Sys2Proof.Machine.execTadd d a b s
  | .drain d a b m r t => Sys2Proof.Machine.execDrain d a b m r t s
  | .cpyTload d a b l sc => Sys2Proof.Machine.execCpyTload d a b l sc s
  | .cpyTstore d a b l sc => Sys2Proof.Machine.execCpyTstore d a b l sc s
  | .cpyTaddf d a b l sc => Sys2Proof.Machine.execCpyTaddf d a b l sc s
  | .cpyLinr d a b l sc => Sys2Proof.Machine.execCpyLinr d a b l sc s
  | .cpyGather d a b l sc => Sys2Proof.Machine.execCpyGather d a b l sc s
  | .cpyPubl d a b l sc => Sys2Proof.Machine.execCpyPubl d a b l sc s
  | .cpyPull d a b l sc => Sys2Proof.Machine.execCpyPull d a b l sc s
  | .fabRwrite d a l => Sys2Proof.Machine.execFabRwrite d a l s
  | .fabRread d a l => Sys2Proof.Machine.execFabRread d a l s
  | .fabRadd d a l => Sys2Proof.Machine.execFabRadd d a l s
  | .fabRatom d a l => Sys2Proof.Machine.execFabRatom d a l s
  | .fabMcast d a l => Sys2Proof.Machine.execFabMcast d a l s
  | .fabSend d a ch l => Sys2Proof.Machine.execFabSend d a ch l s
  | .fabRecv d a ch l => Sys2Proof.Machine.execFabRecv d a ch l s
  | .fabRfence l => Sys2Proof.Machine.execFabRfence l s
  | .copen d a b => Sys2Proof.Machine.execCopen d a b s
  | .contrib d a b => Sys2Proof.Machine.execContrib d a b s
  | .cwait d a => Sys2Proof.Machine.execCwait d a s
  | .cstat d a => Sys2Proof.Machine.execCstat d a s
  | .cclose a => Sys2Proof.Machine.execCclose a s
  | .crepost a => Sys2Proof.Machine.execCrepost a s
  | .sadv d a => Sys2Proof.Machine.execSadv d a s
  | .swait d a => Sys2Proof.Machine.execSwait d a s
  | .speer d a b => Sys2Proof.Machine.execSpeer d a b s
  | .smin d a => Sys2Proof.Machine.execSmin d a s
  | .sabs d a b => Sys2Proof.Machine.execSabs d a b s
  | .slead d a => Sys2Proof.Machine.execSlead d a s
  | .emit a b => Sys2Proof.Machine.execEmit a b s
  | .emitw d a b => Sys2Proof.Machine.execEmitw d a b s
  | .qstat d a => Sys2Proof.Machine.execQstat d a s
  | .depth d a => Sys2Proof.Machine.execDepth d a s
  | .bundleFormation plot => Sys2Proof.Machine.execBundleFormation plot s
  | .agePromotion plot addr => Sys2Proof.Machine.execAgePromotion plot addr s
  | .loadDataLands plot who imm => Sys2Proof.Machine.execLoadDataLands plot who imm s
  | .storePerformed plot who imm => Sys2Proof.Machine.execStorePerformed plot who imm s
  | .rendezvousTimeout plot cohort => Sys2Proof.Machine.execRendezvousTimeout plot cohort s
  | .regrouperRelease plot addr => Sys2Proof.Machine.execRegrouperRelease plot addr s
  | .exileWaitExpiry plot addr => Sys2Proof.Machine.execExileWaitExpiry plot addr s
  | .regrouperMove plot => Sys2Proof.Machine.execRegrouperMove plot s
  | .reorderTimeout plot => Sys2Proof.Machine.execReorderTimeout plot s
  | .trapDelivery plot uni => Sys2Proof.Machine.execTrapDelivery plot uni s
  | .launchCompletion launch => Sys2Proof.Machine.execLaunchCompletion launch s
  | .plotPlacement pav beds => Sys2Proof.Machine.execPlotPlacement pav beds s
  | .doorbell ctx q wi => Sys2Proof.Machine.execDoorbell ctx q wi s
  | .packetNop ctx q => Sys2Proof.Machine.execPacketNop ctx q s
  | .launch ctx q => Sys2Proof.Machine.execLaunch ctx q s
  | .trellis ctx q => Sys2Proof.Machine.execTrellis ctx q s
  | .signal ctx q => Sys2Proof.Machine.execSignal ctx q s
  | .waitsig ctx q => Sys2Proof.Machine.execWaitsig ctx q s
  | .waitsigPoll ctx q => Sys2Proof.Machine.execWaitsigPoll ctx q s
  | .bufdep ctx q => Sys2Proof.Machine.execBufdep ctx q s
  | .viewreg ctx q => Sys2Proof.Machine.execViewreg ctx q s
  | .viewRemoveEffect region => Sys2Proof.Machine.execViewRemoveEffect region s
  | .verreg ctx q => Sys2Proof.Machine.execVerreg ctx q s
  | .collreg ctx q => Sys2Proof.Machine.execCollreg ctx q s
  | .rkinit ctx q => Sys2Proof.Machine.execRkinit ctx q s
  | .repair ctx q => Sys2Proof.Machine.execRepair ctx q s
  | .budgetPeriod activity => Sys2Proof.Machine.execBudgetPeriod activity s
  | .queueAgeExpiry handle stage => Sys2Proof.Machine.execQueueAgeExpiry handle stage s
  | .stageGroupStart handle stage pav bed => Sys2Proof.Machine.execStageGroupStart handle stage pav bed s
  | .emitwTimeout plot who => Sys2Proof.Machine.execEmitwTimeout plot who s
  | .trellisCompletion handle => Sys2Proof.Machine.execTrellisCompletion handle s
  | .runaheadLimit plot => Sys2Proof.Machine.execRunaheadLimit plot s
  | .plotPark plot => Sys2Proof.Machine.execPlotPark plot s
  | .pageRequestResponse pasid group r => Sys2Proof.Machine.execPageRequestResponse pasid group r s
  | .plotReturn plot bed => Sys2Proof.Machine.execPlotReturn plot bed s
  | .atsTranslationCompletion req r => Sys2Proof.Machine.execAtsTranslationCompletion req r s
  | .atsInvalidateRequest itag pasid everyPasid va log2 => Sys2Proof.Machine.execAtsInvalidateRequest itag pasid everyPasid va log2 s
  | .invalidateCompletion itag => Sys2Proof.Machine.execInvalidateCompletion itag s
  | .copyChunkDelivered plot op chunk => Sys2Proof.Machine.execCopyChunkDelivered plot op chunk s
  | .matrixOpComplete plot => Sys2Proof.Machine.execMatrixOpComplete plot s
  | .rwriteRequest h addr data => Sys2Proof.Machine.execRwriteRequest h addr data s
  | .rreadRequest h addr n => Sys2Proof.Machine.execRreadRequest h addr n s
  | .raddRequest h addr fmt data => Sys2Proof.Machine.execRaddRequest h addr fmt data s
  | .ratomRequest h addr op n b c => Sys2Proof.Machine.execRatomRequest h addr op n b c s
  | .mcastRequest h addr data => Sys2Proof.Machine.execMcastRequest h addr data s
  | .sendMessage h ch data => Sys2Proof.Machine.execSendMessage h ch data s
  | .relayForward src dst msg => Sys2Proof.Machine.execRelayForward src dst msg s
  | .fabricReply tag gen r => Sys2Proof.Machine.execFabricReply tag gen r s
  | .receiverNotReadyReply tag gen => Sys2Proof.Machine.execReceiverNotReadyReply tag gen s
  | .closedReply tag gen => Sys2Proof.Machine.execClosedReply tag gen s
  | .requestRetryTimeout tag => Sys2Proof.Machine.execRequestRetryTimeout tag s
  | .backoffExpiry tag => Sys2Proof.Machine.execBackoffExpiry tag s
  | .dedupMemoryExpiry src tag gen => Sys2Proof.Machine.execDedupMemoryExpiry src tag gen s
  | .contributionChunk h c data => Sys2Proof.Machine.execContributionChunk h c data s
  | .quorumTimerExpiry ctx handle => Sys2Proof.Machine.execQuorumTimerExpiry ctx handle s
  | .imageChunk h bucket step msg => Sys2Proof.Machine.execImageChunk h bucket step msg s
  | .shortMessage h bucket step => Sys2Proof.Machine.execShortMessage h bucket step s
  | .collEmitRetry ctx handle => Sys2Proof.Machine.execCollEmitRetry ctx handle s
  | .linkLevelRetry port => Sys2Proof.Machine.execLinkLevelRetry port s
  | .portFailure port => Sys2Proof.Machine.execPortFailure port s
  | .stepMessage h step => Sys2Proof.Machine.execStepMessage h step s
  | .presenceSend group => Sys2Proof.Machine.execPresenceSend group s
  | .presenceMessage h => Sys2Proof.Machine.execPresenceMessage h s
  | .silenceTimerExpiry group member => Sys2Proof.Machine.execSilenceTimerExpiry group member s
  | .resyncAnswer tag gen => Sys2Proof.Machine.execResyncAnswer tag gen s
  | .versionWaitTimeout plot who => Sys2Proof.Machine.execVersionWaitTimeout plot who s
  | .claim m nonce ecdsa lms => Sys2Proof.Machine.execClaim m nonce ecdsa lms s
  | .ctxWrite m cmd => Sys2Proof.Machine.execCtxWrite m cmd s
  | .ctxResident m cmd => Sys2Proof.Machine.execCtxResident m cmd s
  | .ctxFlags m cmd => Sys2Proof.Machine.execCtxFlags m cmd s
  | .ctxRemove m cmd => Sys2Proof.Machine.execCtxRemove m cmd s
  | .queueWrite m cmd => Sys2Proof.Machine.execQueueWrite m cmd s
  | .imageLoad m cmd => Sys2Proof.Machine.execImageLoad m cmd s
  | .liveUpdate m cmd => Sys2Proof.Machine.execLiveUpdate m cmd s
  | .liveUpdateSwitch => Sys2Proof.Machine.execLiveUpdateSwitch s
  | .failover m cmd => Sys2Proof.Machine.execFailover m cmd s
  | .statement m cmd => Sys2Proof.Machine.execStatement m cmd s
  | .handoverResetComplete => Sys2Proof.Machine.execHandoverResetComplete s
  | .identityLoad m cmd => Sys2Proof.Machine.execIdentityLoad m cmd s
  | .stage m cmd => Sys2Proof.Machine.execStage m cmd s
  | .heartbeat => Sys2Proof.Machine.execHeartbeat s
  | .takeoverTimeout => Sys2Proof.Machine.execTakeoverTimeout s
  | .lodgeFailureReport => Sys2Proof.Machine.execLodgeFailureReport s
  | .powerCapWrite m v => Sys2Proof.Machine.execPowerCapWrite m v s
  | .budgetWrite m imm v => Sys2Proof.Machine.execBudgetWrite m imm v s
  | .portRetrain m port v => Sys2Proof.Machine.execPortRetrain m port v s
  | .registerWrite m off v => Sys2Proof.Machine.execRegisterWrite m off v s
  | .thermalSample tenths => Sys2Proof.Machine.execThermalSample tenths s
  | .portEventResend port => Sys2Proof.Machine.execPortEventResend port s
  | .scrub stack pa n found => Sys2Proof.Machine.execScrub stack pa n found s
  | .moduleReset => Sys2Proof.Machine.execModuleReset s
  | .standbyPower => Sys2Proof.Machine.execStandbyPower s
  | .getVersion m => Sys2Proof.Machine.execGetVersion m s
  | .getCapabilities m => Sys2Proof.Machine.execGetCapabilities m s
  | .negotiateAlgorithms m supported => Sys2Proof.Machine.execNegotiateAlgorithms m supported s
  | .getDigests m => Sys2Proof.Machine.execGetDigests m s
  | .getCertificate m slot => Sys2Proof.Machine.execGetCertificate m slot s
  | .challenge m slot nonce => Sys2Proof.Machine.execChallenge m slot nonce s
  | .getMeasurements m index => Sys2Proof.Machine.execGetMeasurements m index s
  | .keyExchange m exchange => Sys2Proof.Machine.execKeyExchange m exchange s
  | .finish m verify => Sys2Proof.Machine.execFinish m verify s
  | .endSession m => Sys2Proof.Machine.execEndSession m s
  | .spdmUnsupportedRequest m code => Sys2Proof.Machine.execSpdmUnsupportedRequest m code s
  | .pldmSensorRequest m sensor => Sys2Proof.Machine.execPldmSensorRequest m sensor s
  | .illegalEncoding row w => Sys2Proof.Machine.execIllegalEncoding row w s
  | .unknownOpPacket ctx q => Sys2Proof.Machine.execUnknownOpPacket ctx q s
  | .deviceMemoryBarAccess off n write => Sys2Proof.Machine.execDeviceMemoryBarAccess off n write s
  | .portTrainingComplete port => Sys2Proof.Machine.execPortTrainingComplete port s
  | .mainPowerOn => Sys2Proof.Machine.execMainPowerOn s

end Sys2Proof.Machine
end

