-- ==== Sys2Proof/Machine/Turns.lean ====
section
/-! DEFINITION. The turns that make up a run: the word that a bundle or a front thread issues next (11_strands_bundles.md R272,
R277, R278), the words issued again for a trap (16_recovery.md R377), the gatehouse's next packet, and the order of turns where
the agenda names none. -/

namespace Sys2Proof.Machine

/-! ### Issuing the next word -/

/-- The word could not be read: an MCHK is recorded there for every agent that was to issue it, or run-ahead stops them. [DESIGN CHOICE: log entry 130] -/
def State.fetchFails (s : State) (p : Plot) (by_ : Issuer) (t : Trap) : State :=
  ((p.issuers by_).foldl (fun s w =>
    if p.run = .running then s.recordTrap p.id w t else s.modPlot p.id (fun p => p.stopAhead w)) s).finish p.id

/-- Read, decode and execute the word an agent stands at. -/
def issueAt (s : State) (p : Plot) (by_ : Issuer) (w : Who) : Host.Outcome State Fault Refusal :=
  match p.agent? w with
  | none => .next s
  | some a =>
    match a.clause with
    | none => .next s
    | some c =>
      match s.nextWord p (streamOf w) c a.pc with
      | .error h => s.held p.id [h]
      | .ok n =>
        match n.notes with
        | (d, v) :: _ => .next (n.s.fetchFails p by_ ⟨.mchk, d, v, a.pc, true⟩)
        | [] => exec n.val.instr { n.s with issue := some ⟨p.id, by_, a.pc, n.val.word, n.val.len⟩ }

/-- The next word of a plot, if the plot is still there. -/
def issueFor (s : State) (id : Nat) (by_ : Issuer) (w : Who) : Host.Outcome State Fault Refusal :=
  match s.plot? id with
  | some p => issueAt s p by_ w
  | none => .next s

/-- Strands at clause boundaries enter their clauses, and waits that are over end, while the plot may issue. -/
def State.wake (s : State) (id : Nat) : State :=
  match s.plot? id with
  | none => s
  | some p => if s.mayIssue p then (s.enterAll id).releaseBlocked id else s

/-- The bundle in flight takes up its next word, in the plot cycle that it takes (R279): it stalls until something comes of it. -/
def Plot.takesUp (p : Plot) : Plot := { p.tick with stalled := true }

/-- A lane word of the bundle in flight. A bundle goes on to the end of its clause though the
context be pre-empted (R302). -/
def laneGo (s : State) (id : Nat) : Host.Outcome State Fault Refusal :=
  match s.plot? id with
  | none => .next s
  | some p =>
    match p.issuers .bundle with
    | [] => .next s
    | w :: _ => if p.resident ∧ (p.run = .running ∨ p.run = .runahead) then issueFor ((s.wake id).modPlot id Plot.takesUp) id .bundle w else .next s

/-- The next word of the bundle in flight can issue: issued now, it would not stall (R278). -/
def State.bundleCan (s : State) (id : Nat) : Bool :=
  match laneGo s id with
  | .next t => match t.plot? id with | some p => !p.stalled | none => true
  | _ => true

/-- Of the bundles in flight on the bed, none whose next word can issue has waited longer than the plot's (R278). Of two that have
waited as long, the plot with the lower row goes first. [DESIGN CHOICE: log entry 102] -/
def State.waitedLongest (s : State) (p : Plot) : Bool :=
  (s.onBed p.pav p.bed).all (fun q =>
    q.id == p.id || q.bundle.isNone || decide (p.issuedAt < q.issuedAt) || (p.issuedAt == q.issuedAt && decide (p.place < q.place)) ||
    !s.bundleCan q.id)

/-- A bundle whose word has issued waits from then on. -/
def issuedNow (id : Nat) (r : Host.Outcome State Fault Refusal) : Host.Outcome State Fault Refusal :=
  match r with
  | .next s => .next (s.modPlot id (fun p => if p.stalled then p else { p with issuedAt := s.words }))
  | r => r

/-- The bed issues the word of a bundle in flight, where its turn has come (R278). -/
def laneTurn (s : State) (id : Nat) : Host.Outcome State Fault Refusal :=
  match s.plot? id with
  | none => .next s
  | some p => if s.waitedLongest p then issuedNow id (laneGo s id) else .next s

/-- The front thread may issue: it is not blocked, no trap of its is pending, and it is within its clause or the plot may issue. -/
def State.frontCan (s : State) (p : Plot) : Bool :=
  let a := p.regs.front.ag
  p.resident && (p.run == .running || p.run == .runahead) && a.trap.isNone &&
  (a.phase == .issuing || (a.phase == .waiting && s.mayIssue p)) &&
  !(match p.ra with | some r => r.stopped.contains .front | none => false)

/-- It may issue, and where it stands at a header, the waits of that are met (R272, R34). -/
def State.frontReady (s : State) (p : Plot) : Bool :=
  let a := p.regs.front.ag
  s.frontCan p && (match a.clause with | none => false | some c => c.hpc != a.pc || p.headerMet a c.hw)

/-- The bed's uniform slot is the front thread's: it is within its clause, or no other front thread of the bed is within its own, and
none that is ready comes before it, round-robin (R272). -/
def State.hasSlot (s : State) (p : Plot) : Bool :=
  let last := (s.bed p.pav p.bed).uni
  p.regs.front.ag.phase == .issuing ||
  (s.onBed p.pav p.bed).all (fun q =>
    q.id == p.id || (q.regs.front.ag.phase != .issuing && !(s.frontReady q && decide (q.turnAfter last < p.turnAfter last))))

/-- The plot forms its bundle where it can, and its front thread enters its clause when it stands at a boundary. -/
def State.readyFront (s : State) (id : Nat) : State :=
  match s.plot? id with
  | none => s
  | some p => if s.mayIssue p then ((s.formBundle id).enterOne id .front).releaseBlocked id else s

/-- The plot cycle of a word that has issued outside a bundle (R279): `n` counts what had happened to the plot before. -/
def ticked (id n : Nat) (r : Host.Outcome State Fault Refusal) : Host.Outcome State Fault Refusal :=
  match r with
  | .next s => .next (s.modPlot id (fun p => if n + 2 ≤ p.arrivals then p.tick else p))
  | r => r

/-- The front thread issues on, past the header where it stands at one; the slot is its own. -/
def frontGo (s : State) (p : Plot) : Host.Outcome State Fault Refusal :=
  let s1 := s.setBed { s.bed p.pav p.bed with uni := some p.place }
  ticked p.id p.arrivals (issueFor (s1.modPlot p.id (fun p => p.modAgent .front Agent.issues)) p.id .front .front)

/-- A uniform word of a plot's front thread (R272). -/
def frontTurn (s : State) (id : Nat) : Host.Outcome State Fault Refusal :=
  let s1 := s.readyFront id
  match s1.plot? id with
  | none => .next s1
  | some p => if s1.frontReady p && s1.hasSlot p then frontGo s1 p else .next s1

/-- After a TRAP_DELIVERY that has a word issued again for one agent, that word executes within the same step (R377). -/
def againTurn (r : Host.Outcome State Fault Refusal) : Host.Outcome State Fault Refusal :=
  match r with
  | .next s =>
    match s.issue with
    | some ⟨id, .again w, _, _, _⟩ =>
      ticked id ((s.plot? id).elim 0 Plot.arrivals) (issueFor { s with issue := none } id (.again w) w)
    | _ => .next s
  | r => r

/-- What follows every turn: plots of a context being pre-empted are saved as they come to their stops (R387), plots that are to halt
halt (R380), and the caches hold no more than they can. [DESIGN CHOICE: log entry 22] -/
def settled (r : Host.Outcome State Fault Refusal) : Host.Outcome State Fault Refusal :=
  match r with
  | .next s => .next s.quiesce.halts.trimL2.trimL1
  | r => r

/-! ### Timers that have run out (R26) -/

/-- The timers of a plot that have run out: waits of its agents, rendezvous, and the gather of a REORDER. -/
def State.plotTimers (s : State) (p : Plot) : List Turn :=
  let now := s.cycles p.pav
  if !s.runsPlain p then []
  else
    p.regs.agents.filterMap (fun x =>
      match x.2.phase, x.2.wait with
      | .blocked, .emitw _ _ n => if x.2.blockedAt + n ≤ now then some (.event (.emitwTimeout p.id x.1)) else none
      | .blocked, .version name step opens exact =>
        match s.silenceOf p name with
        | some t => if x.2.blockedAt + t ≤ now ∧ s.versionReady p name step opens exact = false then some (.event (.versionWaitTimeout p.id x.1)) else none
        | none => none
      | .blocked, .rendezvous =>
        match x.1 with
        | .strand k =>
          if x.2.blockedAt + 2 ^ 20 ≤ now then (p.regs.lockedOf k).map (fun c => .event (.rendezvousTimeout p.id c)) else none
        | .front => none
      | _, _ => none) ++
    (match p.gatherAt with
     | some t => if t + 2 ^ 20 ≤ p.pcyc then [.event (.reorderTimeout p.id)] else []
     | none => [])

/-- Stage queues whose oldest record has reached their age. -/
def State.queueTimers (s : State) : List Turn :=
  s.trellises.flatMap (fun t => (t.stages.zipIdx.filter (fun k =>
    k.1.state == .collecting && decide (k.1.timer ≤ k.1.age s.leadCycles))).map (fun k => .event (.queueAgeExpiry t.handle k.2)))

/-- Quorum timers that have run out. -/
def State.quorumTimers (s : State) : List Turn :=
  (s.colls.filter (fun c => c.timer != 0#64 && !c.closed && (s.group? c.ctx c.group).isSome && decide (c.timerAt + c.timer.toNat ≤ s.unitCycles))).map
    (fun c => .event (.quorumTimerExpiry c.ctx c.handle))

/-- Members silent for the silence timer. -/
def State.silenceTimers (s : State) : List Turn :=
  s.groups.flatMap (fun g => (g.members.zipIdx.filter (fun m =>
    m.1.state == .live && decide (m.1.heard + g.silence ≤ s.unitCycles))).map (fun m => .event (.silenceTimerExpiry g.num m.2)))

/-- A live update whose queues have been held for 2^22 cycles (16_recovery.md R397). -/
def State.switchTimer (s : State) : List Turn :=
  if s.mgmt.switching ∧ s.mgmt.switchAt + 2 ^ 22 ≤ s.dieCycles 0 then [.event .liveUpdateSwitch] else []

/-- The timers on which the promise of progress rests (R26), and that of a live update: they go off before a clock passes further.
[DESIGN CHOICE: log entry 9] [DESIGN CHOICE: log entry 9] -/
def State.dueTimers (s : State) : List Turn :=
  [s.plots.flatMap s.plotTimers, s.queueTimers, s.quorumTimers, s.silenceTimers, s.switchTimer].flatten

/-- The cycles of a die's clock past which something is overdue: a stage queue whose oldest record reaches its age (R26), an Invalidate
Completion (15_isolation.md R363), the switch of a live update (16_recovery.md R397). -/
def State.deadlines (s : State) (die : Nat) : List Nat :=
  (if die = 0 ∧ s.mgmt.switching then [s.mgmt.switchAt + 2 ^ 22] else []) ++
  (if die = 0 then s.trellises.flatMap (fun t => (t.stages.filter (fun k => k.state == .collecting)).filterMap (fun k =>
    k.recs.head?.map (fun r => r.at_ + k.timer))) else []) ++ s.invalsDue die

/-- How many of n cycles may pass on a die's clock. -/
def State.mayPass (s : State) (die n : Nat) : Nat := (s.deadlines die).foldl (fun m d => min m (d - s.dieCycles die)) n

/-- A timer that has run out goes off; else the clock of a die passes. [DESIGN CHOICE: log entry 9] -/
def State.passDie (s : State) (d n : Nat) : Host.Outcome State Fault Refusal :=
  match s.dueTimers with
  | .event i :: _ => exec i s
  | _ => .next { s with clk := s.clk.passDie d (s.mayPass d n) }

/-- What one turn does. A line or sector that is evicted, and a queued write that drains, are the caches' own moves (Table 7-1,
Table 7-3); an evicted sector is written back. [DESIGN CHOICE: log entry 9] -/
def runTurn (s : State) : Turn → Host.Outcome State Fault Refusal
  | .issueLane id => laneTurn s id
  | .issueFront id => frontTurn s id
  | .event i => againTurn (exec i s)
  | .dieClock d n => s.passDie d n
  | .lodgeClock l n => .next { s with clk := s.clk.passLodge l n }
  | .evictLine pav line => .next (s.modPav pav (fun v => { v with l1 := v.l1.filter (fun x => x.addr != line) }))
  | .evictSector a =>
    match s.sector? a with
    | some x =>
      let s1 := s.writeBack x
      .next { s1 with mem := { s1.mem with sectors := s1.mem.sectors.filter (fun y => y.addr != x.addr) } }
    | none => .next s
  | .drainStore pav =>
    match (s.pav pav).wtq with
    | [] => .next s
    | e :: rest => .next ((s.modPav pav (fun v => { v with wtq := rest })).l2Write e.addr e.data)
  | .runBlock id => .next (s.runBlock id)

/-! ### The turns that are open -/

/-- The chunks of a plot's engine operations that can move, and those whose data has come and waits to land. -/
def State.chunkTurns (s : State) (p : Plot) : List Turn :=
  (p.copies.filter (fun c => !c.ended)).flatMap (fun c =>
    [c.chunks.find? (fun k => !k.done && !k.sent), c.chunks.find? (fun k => (s.landingOf p.id c.id k.idx).isSome)].filterMap
      (fun o => o.map (fun k => .event (.copyChunkDelivered p.id c.id k.idx))))

/-- A turn, where it is open. -/
def open_ (b : Bool) (t : Turn) : List Turn := if b then [t] else []

/-- What an exiled strand could do next (R286, R289). -/
def State.exileTurns (s : State) (p : Plot) : List Turn :=
  match p.exiles with
  | st :: _ =>
    open_ (s.runsPlain p && (p.onlyExiles || p.fullGroup st.ag.pc)) (.event (.regrouperRelease p.id st.ag.pc)) ++
    open_ (s.runsPlain p && decide (st.ag.since + 512 ≤ p.pcyc)) (.event (.exileWaitExpiry p.id st.ag.pc))
  | [] => []

/-- A bed where a plot that waits to return fits. -/
def State.returnTurns (s : State) (p : Plot) : List Turn :=
  if s.awaitsReturn p then (((List.range 16).find? (s.returnFits p)).map (fun bed => Turn.event (.plotReturn p.id bed))).toList else []

/-- Traps that a handler slot can take. -/
def State.trapTurns (s : State) (p : Plot) : List Turn :=
  let plain := s.runsPlain p
  open_ (plain && p.regs.front.ag.trap.isSome && p.slotFree true) (.event (.trapDelivery p.id true)) ++
  open_ (plain && p.regs.strands.any (fun st => st.isLive && st.ag.trap.isSome) && p.slotFree false) (.event (.trapDelivery p.id false))

/-- What a plot's agents could issue next. -/
def State.issueTurns (s : State) (p : Plot) : List Turn :=
  let may := s.mayIssue p
  open_ p.bundle.isSome (.issueLane p.id) ++
  open_ (s.admits p && p.regs.strands.any (fun st =>
    (st.ag.phase == .waiting && st.ag.trap.isNone) || s.waitOver p (.strand st.key) st.ag)) (.event (.bundleFormation p.id)) ++
  open_ (s.frontCan p || (may && s.waitOver p .front p.regs.front.ag)) (.issueFront p.id)

/-- What a plot's beds and engines could do next. -/
def State.plotTurns (s : State) (p : Plot) : List Turn :=
  [(p.real.agents.filter (fun x => !x.2.loads.isEmpty)).map (fun x => Turn.event (.loadDataLands p.id x.1 0)),
    (p.real.agents.filter (fun x => !x.2.stores.isEmpty)).map (fun x => Turn.event (.storePerformed p.id x.1 0)),
    s.chunkTurns p,
    open_ (s.tileReady p).isSome (.event (.matrixOpComplete p.id)),
    open_ (p.run == .runahead && (p.aheadDone || !s.isResident p.ctx)) (.event (.runaheadLimit p.id)),
    open_ (p.run == .rollback && p.regs.quiet) (.event (.plotPark p.id)),
    s.trapTurns p, s.issueTurns p,
    open_ (s.runsPlain p && !p.moves.isEmpty) (.event (.regrouperMove p.id)),
    s.exileTurns p, s.returnTurns p].flatten

/-- The event that takes the packet at the head of a queue, by its opcode (Table 14-5). -/
def packetEvent (op ctx q : Nat) : Instr :=
  match op with
  | 0 => .packetNop ctx q
  | 1 => .launch ctx q
  | 2 => .trellis ctx q
  | 3 => .signal ctx q
  | 4 => .waitsig ctx q
  | 5 => .bufdep ctx q
  | 6 => .viewreg ctx q
  | 7 => .verreg ctx q
  | 8 => .collreg ctx q
  | 9 => .rkinit ctx q
  | 10 => .repair ctx q
  | _ => .unknownOpPacket ctx q

/-- The packet turns of a context's queues. -/
def State.packetTurns (s : State) (c : Context) : List Turn :=
  (c.queues.filter (fun q => s.placing c.slot && q.en && !q.error && q.rd != q.wr)).map (fun q =>
    let r := s.gateRead c.slot (q.base + BitVec.ofNat 64 (64 * (q.rd.toNat % 2 ^ q.log2))) 4
    .event (packetEvent (leNat r.2.2 % 256) c.slot q.num))

/-- The first bed where a plot of a launch fits. -/
def State.bedFor (s : State) (w : Want) : Option (Nat × Nat) :=
  (List.range 320).findSome? (fun pav => ((List.range 16).find? (fun bed => s.fits w pav bed)).map (fun bed => (pav, bed)))

/-- The first grove where a GANG of a launch fits, with a bed of each of its pavilions. -/
def State.bedsFor (s : State) (w : Want) : Option (Nat × List Nat) :=
  (List.range 40).findSome? (fun g =>
    let beds := (List.range 8).filterMap (fun i =>
      if s.pavFree (8 * g + i) w.tiles then (List.range 16).find? (fun bed => s.fits w (8 * g + i) bed) else none)
    if beds.length = 8 then some (8 * g, beds) else none)

/-- The next plot, or the next eight of a GANG, where they fit. -/
def State.placeTurns (s : State) : List Turn :=
  let next := fun (gang : Bool) => s.launches.find? (fun l => decide (l.next < l.total) && l.gang == gang && s.inTurn l.want)
  (((next false).bind (fun l => s.bedFor l.want)).map (fun x => Turn.event (.plotPlacement x.1 [x.2]))).toList ++
  (((next true).bind (fun l => s.bedsFor l.want)).map (fun x => Turn.event (.plotPlacement x.1 x.2))).toList

/-- A trellis that has completed, and the stage groups that fit. -/
def State.trellisTurns (s : State) (t : Trellis) : List Turn :=
  let starts := (t.stages.zipIdx.filter (fun k => k.1.state == .launchable)).filterMap (fun k =>
    t.code.bind (fun l => (s.bedFor (t.want l k.1)).map (fun b => Turn.event (.stageGroupStart t.handle k.2 b.1 b.2))))
  if s.trellisDone t then .event (.trellisCompletion t.handle) :: starts else starts

/-- The gatehouse's turns: packets, placement and completions. -/
def State.gateTurns (s : State) : List Turn :=
  [s.ctxs.flatMap s.packetTurns, s.placeTurns,
    (s.launches.filter (fun l => l.retired == l.total)).map (fun l => .event (.launchCompletion l.id)),
    s.trellises.flatMap s.trellisTurns].flatten

/-- Views whose removal takes effect. -/
def State.viewTimers (s : State) : List Turn :=
  (s.views.filter (fun r => match r.removing with | some l => !l.any s.liveLaunch | none => false)).map
    (fun r => .event (.viewRemoveEffect r.num))

/-- Queues that wait on a signal word. -/
def State.pollTimers (s : State) : List Turn :=
  s.ctxs.flatMap (fun c => (c.queues.filter (fun q => q.waiting)).map (fun q => .event (.waitsigPoll c.slot q.num)))

/-- Collectives with records or writes that wait for another try. -/
def State.retryTimers (s : State) : List Turn :=
  (s.colls.filter (fun c => c.emitWait || !c.writes.isEmpty)).map (fun c => .event (.collEmitRetry c.ctx c.handle))

/-- Fabric requests whose backoff or whose silence has run out. -/
def State.tagTimers (s : State) : List Turn :=
  let now := s.unitCycles
  s.fab.tags.filterMap (fun t =>
    if t.waiting then (if t.sentAt + t.backoff ≤ now then some (.event (.backoffExpiry t.tag)) else none)
    else if t.landing.isNone ∧ t.sentAt + 2 ^ 18 ≤ now then some (.event (.requestRetryTimeout t.tag))
    else none)

/-- PRESENCE that is due. -/
def State.presenceTimers (s : State) : List Turn :=
  (s.groups.filter (fun g => s.bound g && decide (g.sentAt + 2 ^ 24 ≤ s.unitCycles))).map (fun g => .event (.presenceSend g.num))

/-- Activities whose period is over, and whose budget has been drawn on or set anew. -/
def State.budgetTimers (s : State) : List Turn :=
  ((List.range 6).filter (fun i =>
    match s.budgets[i]? with
    | some b => s.periodOver i b && (!b.spent.isEmpty || !b.held.isEmpty || b.limit != b.nextLimit)
    | none => false)).map (fun i => .event (.budgetPeriod i))

/-- What the lodges have to do: the end of a handover with RESET and of a live update, the heartbeat, a takeover. -/
def State.lodgeTimers (s : State) : List Turn :=
  let g := s.mgmt
  open_ g.moving.isSome (.event .handoverResetComplete) ++ open_ g.switching (.event .liveUpdateSwitch) ++
  open_ (decide (g.lastBeat + 2 ^ 20 ≤ s.activeCycles)) (.event .heartbeat) ++
  open_ (g.beatSeen == g.heartbeat && decide (g.beatAt + 2 ^ 24 ≤ s.standbyCycles)) (.event .takeoverTimeout)

/-- The timers of the module's units that have run out, and the work that waits for another try. -/
def State.unitTimers (s : State) : List Turn :=
  [s.viewTimers, s.pollTimers, s.retryTimers, s.tagTimers, s.presenceTimers, s.budgetTimers, s.lodgeTimers, s.xl.invals.map (fun v => .event (.invalidateCompletion v.itag))].flatten

/-- The turn where the agenda is empty: a timer that has run out; else those that are open take turns. [DESIGN CHOICE: log entry 9] -/
def State.pickTurn (s : State) : Option Turn :=
  match s.dueTimers with
  | t :: _ => some t
  | [] =>
    let l := s.plots.flatMap s.plotTurns ++ s.gateTurns ++ s.unitTimers
    l[s.picks % l.length]?

/-- A cycle of every clock, where nothing is overdue. [DESIGN CHOICE: log entries 14, 121; DEDUCED: log entry 124] -/
def State.tick (s : State) : State :=
  { s with
    picks := s.picks + 1
    clk := ⟨s.clk.die.mapFinIdx (fun i n _ => n + s.mayPass i 1), s.clk.lodge.map (fun n => n + 1)⟩ }

/-- A run's next move: the first turn of the agenda, or, in a cycle of every clock, one that is open. [DESIGN CHOICE: log entries 9, 121] -/
def State.turn (s : State) : Host.Outcome State Fault Refusal :=
  match s.agenda with
  | t :: rest => settled (runTurn { s with agenda := rest } t)
  | [] =>
    let s1 := s.tick
    match s1.pickTurn with
    | some t => settled (runTurn s1 t)
    | none => .next s1

/-! ### Placing one instruction where the next step fetches it -/

/-- The stream, class and word count of a clause that holds a word as its first and only instruction. -/
def placeOf (w : Word) : Stream × Nat × Nat :=
  let m := (majOf w).toNat
  if m = 0x08 then (.lane, 0, 2)
  else if m ≤ 0x1F then (.lane, 0, 1)
  else if m ≤ 0x23 then (.lane, 5, 1)
  else if m = 0x25 ∧ fnOf w = 9#8 then (.uniform, 5, 1)
  else if m ≤ 0x28 then (.lane, 5, 1)
  else if 0x30 ≤ m ∧ m ≤ 0x33 then (.uniform, 2, 1)
  else if m = 0x34 then (if w.getLsbD 3 then (.lane, 3, 1) else (.uniform, 3, 1))
  else if m = 0x35 then (if w.getLsbD 3 then (.lane, 4, 1) else (.uniform, 4, 1))
  else if m = 0x36 ∨ m = 0x37 then (.uniform, 4, 1)
  else (.lane, 5, 1)

/-- A header with no waits. -/
def plainHeader (cnt cls : Nat) : Word := BitVec.ofNat 32 (cnt * 2 ^ 28 + cls * 2 ^ 25 + 0x1FFFE00 + 128)

/-- A plot that stands past the header of a clause, its strand in flight or its front thread issuing. [DESIGN CHOICE: log entry 12] -/
def Plot.standing (id : Nat) (st : Stream) (c : Clause) : Plot :=
  let start := fun (ag : Agent) => { ag with clause := some c, phase := .issuing }
  let front := Front.fresh 4#32 0
  let strand := Strand.start 0 0#32 0 0 4#32 0
  match st with
  | .uniform => Plot.fresh id 0 0 { front with ag := start front.ag }
  | .lane =>
    let p := Plot.fresh id 0 0 { front with ag := { front.ag with phase := .exited } }
    { p with nextKey := 1, rows := [0], bundle := some ⟨[0]⟩, regs := { p.regs with strands := [{ strand with ag := start strand.ag }] } }

/-- Give the module a plot that stands at the instruction: a context if slot 0 has none, the code and its clause map in
device memory with their translation, a launch, and a strand or a front thread part way into the clause, whose turn is next. [DESIGN CHOICE: log entry 12] -/
def State.placeWord (s : State) (bits : Nat) : State :=
  let word := BitVec.ofNat 32 bits
  let (st, cls, cnt) := placeOf word
  let id := s.ids
  let hdr := plainHeader cnt cls
  let s1 := if (s.ctx? 0).isSome then s else { s with ctxs := Context.fresh 0 0 :: s.ctxs }
  let s2 := s1.modPav 0 (fun v => { v with atc := touch 256 ⟨s1.pasid 0, 0x10000, 12, s1.bar2, true, true⟩ v.atc })
  let s3 := s2.l2Write 0 (natBytes (hdr.toNat + 2 ^ 32 * bits) 12)
  let s4 := s3.l2Write 2048 [1#8]
  { s4 with
    plots := Plot.standing id st ⟨0#32, hdr⟩ :: s4.plots
    launches := Launch.fresh id 0 0x10000#64 0x10800#64 (4 + 4 * cnt) :: s4.launches
    ids := id + 1
    agenda := (match st with | .lane => .issueLane id | .uniform => .issueFront id) :: s4.agenda }

end Sys2Proof.Machine
end

