-- ==== Sys2Proof/Machine/Step.lean ====
section
/-! DEFINITION. One step of the module, and placing one instruction where the next step fetches it. -/

namespace Sys2Proof.Machine

/-- One step: the move that comes next. [DESIGN CHOICE: log entry 9] -/
def step (s : State) : Host.Outcome State Fault Refusal := s.turn

/-- The module with one instruction, its bits numbered as the opcode table numbers them, where the next step issues it. [DESIGN CHOICE: log entry 12] -/
def State.withFetchWord (s : State) (nbits w : Nat) : State := s.placeWord (w % 2 ^ nbits)

end Sys2Proof.Machine
end

