-- ==== Sys2Proof/Safety.lean ====
section
/-! DEFINITION. What counts as a sound state, and the conditions under which one agent issues a word: the terms the statements
are made in. -/

namespace Sys2Proof.Machine

/-- Every memory has its canonical form. -/
def Store.wf (m : Store) : Bool :=
  Memory.wf m.dev && Memory.wf m.host && Memory.wf m.spad && Memory.wf m.csp

/-- An agent `w` of a running plot `p` issues the word `i` alone, as `x` says: no register it names is pending (R297), its
operands pass row 8 of Table 2-11, and it is no word that handler mode bars (R380). -/
structure Issues (s : State) (i : Instr) (x : Issue) (w : Who) (p : Plot) : Prop where
  issue : s.issue = some x
  first : x.by_ = .bundle ∨ x.by_ = .front
  plot : s.plot? x.plot = some p
  alone : p.issuers x.by_ = [w]
  running : p.run = .running
  clear : p.regs.clear w (p.regs.useFor w i) = true
  shape : wf (streamOf w) i = true
  agent : ∃ a, p.agent? w = some a ∧ (a.handler && barredInHandler i) = false

/-- The memories have their canonical form, and every sector of the L2 holds its 128 bytes. -/
def State.sound (s : State) : Prop := s.mem.wf = true ∧ ∀ y ∈ s.mem.sectors, y.data.length = 128

/-- An agent apart from where it stands: what it has outstanding, its MCHKs and its trap registers. -/
def Agent.body (a : Agent) : Agent :=
  { a with
    pc := 0#32, clause := none, phase := .waiting, wait := .none, since := 0, blockedAt := 0, yieldNext := false, trap := none,
    visit := 0 }

/-- A strand apart from where it stands and from its row. -/
def Strand.body (st : Strand) : Strand := { st with row := 0, ag := st.ag.body }

/-- The registers, flags and identities of a plot's agents, apart from where they stand and wait. -/
def Regs.body (g : Regs) : Regs :=
  { g with strands := g.strands.map Strand.body, front := { g.front with ag := g.front.ag.body }, frontier := [], overflow := [] }

/-- A plot apart from where its agents stand and from the bed's bookkeeping. -/
def Plot.body (p : Plot) : Plot :=
  { p with regs := p.regs.body, bundle := none, rows := [], moves := [], arrivals := 0, gatherAt := none, stalled := false }

/-- Nothing of the plot but its own word takes effect when the word ends: no MCHK waits, and no strand is gathered. -/
structure Quiet (p : Plot) : Prop where
  mchk : ∀ w a, p.agent? w = some a → a.mchk = [] ∧ a.later = []
  gathered : ∀ st ∈ p.regs.strands, st.ag.phase ≠ .gathered

/-- A step from `s` to `t` changes nothing but one plot, and the count of words. -/
structure OnlyPlot (s t : State) (id : Nat) : Prop where
  rest : ({ t with plots := s.plots, issue := s.issue, words := s.words } : State) = s
  plots : ∀ j, j ≠ id → t.plot? j = s.plot? j

/-- The agent is out of handler mode. -/
def Regs.plain (g : Regs) (w : Who) : Prop := ∀ a, g.agent? w = some a → a.handler = false

/-- From `g` to `h`, no register and no flag changes but the registers `ds` and the flags `fs` of the agent `w`, and no agent changes but
in where it stands. -/
structure SameBut (g h : Regs) (w : Who) (ds : List Reg) (fs : List (BitVec 2)) : Prop where
  v : ∀ k n, ¬(w = .strand k ∧ n ∈ ds) → h.v k n = g.v k n
  s : ∀ n, ¬(w = .front ∧ n ∈ ds) → h.s n = g.s n
  flag : ∀ u n, ¬(u = w ∧ n ∈ fs) → h.flag u n = g.flag u n
  banks : h.banks = g.banks
  ids : h.strands.map (fun st => (st.key, st.sid, st.lane, st.cohort, st.spawned, st.spawns, st.depth)) =
    g.strands.map (fun st => (st.key, st.sid, st.lane, st.cohort, st.spawned, st.spawns, st.depth))
  agents : ∀ u, (h.agent? u).map Agent.body = (g.agent? u).map Agent.body

/-- The frame of a word of the plot `p` that writes registers only: nothing of the machine changes but that plot, and nothing of the
plot but the registers and flags named, where the agents stand, and srFPF, which only gains flags, and only where `fp` says so. -/
def Frames (s t : State) (x : Issue) (p : Plot) (w : Who) (ds : List Reg) (fs : List (BitVec 2)) (fp : Bool) : Prop :=
  OnlyPlot s t x.plot ∧ ∃ q, t.plot? x.plot = some q ∧ ({ q with regs := p.regs } : Plot).body = p.body ∧
    SameBut p.regs q.regs w ds fs ∧ (fp = false → q.regs.fpf = p.regs.fpf) ∧ p.regs.fpf ||| q.regs.fpf = q.regs.fpf

/-- The word retires for the agent, and what follows a word follows. -/
def State.retired (s : State) (x : Issue) (w : Who) : State :=
  (s.modPlot x.plot (fun p => p.modRegs (fun g => g.retire w x.len))).finish x.plot

/-- The word transfers control, and what follows a word follows. -/
def State.jumped (s : State) (x : Issue) (w : Who) (t : Word) : State :=
  (s.modPlot x.plot (fun p => p.modRegs (fun g => g.jump w t))).finish x.plot

/-- The agent blocks at its word. -/
def State.waits (s : State) (x : Issue) (w : Who) (k : Wait) : State :=
  (s.modPlot x.plot (fun p => p.modRegs (fun g => g.blockAt w k s.words (s.cyclesOf x.plot)))).finish x.plot

/-- The word has no effect but the trap it raises, which its agent holds. -/
def State.traps (s : State) (x : Issue) (w : Who) (c : TrapClass) (d : Nat) (v : DWord) : State :=
  ((s.begun x).recordTrap x.plot w ⟨c, d, v, x.pc, false⟩).finish x.plot

/-- A change of the registers of the plot of a word. -/
def State.regsOf (s : State) (x : Issue) (f : Regs → Regs) : State := s.modPlot x.plot (fun p => p.modRegs f)

/-- A plot that has taken up one more word. -/
def Plot.counted (p : Plot) : Plot := { p with arrivals := p.arrivals + 1 }

/-- A word of plot `p` whose effect is on the plot, and which retires. -/
def State.wroteP (s : State) (x : Issue) (w : Who) (q : Plot) : State := ((s.begun x).setPlot q).retired x w

/-- A word of plot `p` whose effect is on the plot's registers, and which retires. -/
def State.wrote (s : State) (x : Issue) (w : Who) (p : Plot) (f : Regs → Regs) : State := s.wroteP x w (p.counted.modRegs f)

/-- Every register of the list has a tag that the word accepts; the uniform stream has no tags (R92). -/
def tagsOk (acc : Tag → Bool) (g : Regs) (w : Who) (l : List Reg) : Prop := ∀ r ∈ l, acc (g.tagOf w r) = true

/-- A result to D: a tagged 32-bit value in the lane stream, a 64-bit value in the uniform stream. -/
def Regs.put (g : Regs) (w : Who) (d : Reg) (t : Tag) (lane : Nat → Word) (uni : DWord) : Regs :=
  match w with
  | .front => g.setS d uni
  | .strand k => g.setV k d ⟨lane k, t⟩

/-- An integer word of two sources gives D the operation on them at the width of the stream, and the tag that its column keeps,
and retires. -/
def Binary (i : Reg → Reg → Reg → Instr) (k : Kept) (op : BinOp) : Prop :=
  ∀ (s : State) (x : Issue) (w : Who) (p : Plot) (d a b : Reg), Issues s (i d a b) x w p →
    tagsOk intAccepts p.regs w [a, b] →
    exec (i d a b) s = .next (s.wrote x w p (fun g =>
      g.put w d (keptTag k [g.tagOf w a, g.tagOf w b]) (fun n => op (g.v n a).val (g.v n b).val) (op (g.s a) (g.s b))))

/-- An integer word of one source. -/
def Unary (i : Reg → Reg → Instr) (t : Tag → Tag) (op : UnOp) : Prop :=
  ∀ (s : State) (x : Issue) (w : Who) (p : Plot) (d a : Reg), Issues s (i d a) x w p → tagsOk intAccepts p.regs w [a] →
    exec (i d a) s = .next (s.wrote x w p (fun g => g.put w d (t (g.tagOf w a)) (fun n => op (g.v n a).val) (op (g.s a))))

/-- A floating-point word of a strand writes its result, tagged, and ORs its flags into srFPF, where no flag that it sets is enabled
for ARITH (R85); where one is, it raises ARITH and writes nothing. -/
def Floats (i : Instr) (acc : Tag → Bool) (t : Tag) (srcs : List Reg) (d : Reg) (op : (Reg → Word) → Word × Fl) : Prop :=
  ∀ (s : State) (x : Issue) (k : Nat) (p : Plot), Issues s i x (.strand k) p → tagsOk acc p.regs (.strand k) srcs →
    let y := op (fun r => (p.regs.v k r).val)
    if p.arithEnables &&& y.2 = 0#5 then
      exec i s = .next (s.wrote x (.strand k) p (fun g => (g.setV k d ⟨y.1, t⟩).orFpf y.2))
    else
      exec i s = .next (((s.begun x).recordTrap x.plot (.strand k) ⟨.arith, 0, y.2.setWidth 64, x.pc, false⟩).finish x.plot)

/-- The same for a word of register pairs. -/
def FloatPairs (i : Instr) (acc : Tag → Bool) (t : Tag) (srcs : List Reg) (d : Reg) (op : (Reg → Word) → Word × Word × Fl) : Prop :=
  ∀ (s : State) (x : Issue) (k : Nat) (p : Plot), Issues s i x (.strand k) p →
    tagsOk acc p.regs (.strand k) (srcs.flatMap (fun r => [r, regPlus r 1])) →
    let y := op (fun r => (p.regs.v k r).val)
    if p.arithEnables &&& y.2.2 = 0#5 then
      exec i s = .next (s.wrote x (.strand k) p (fun g => ((g.setV k d ⟨y.1, t⟩).setV k (regPlus d 1) ⟨y.2.1, t⟩).orFpf y.2.2))
    else
      exec i s = .next (((s.begun x).recordTrap x.plot (.strand k) ⟨.arith, 0, y.2.2.setWidth 64, x.pc, false⟩).finish x.plot)

/-- The last member `k` of a locked cohort `co` comes to a word at which the others wait (R105, R106). -/
structure Meets (s : State) (i : Instr) (x : Issue) (k : Nat) (co : BitVec 4) (p : Plot) : Prop where
  issues : Issues s i x (.strand k) p
  locked : p.regs.lockedOf k = some co
  arrived : allArrived (p.regs.membersOf co) k x.pc = true

/-- What the members' registers hold after a cross-lane word with the results `y`, one for each member. -/
def Regs.received (g : Regs) (ms : List Strand) (y : List XOut) : Regs :=
  (ms.zip y).foldl (fun g z =>
    z.2.flags.foldl (fun g f => g.setFlag (.strand z.1.key) f.1 f.2) (z.2.regs.foldl (fun g w => g.setV z.1.key w.1 w.2) g)) g

/-- The other members go on, and the last retires the word. -/
def State.released (s : State) (x : Issue) (k : Nat) (ms : List Strand) : State :=
  (((ms.filter (fun st => st.key != k)).foldl (fun s st => s.releaseMember x.plot st.key x.len) s).retired x (.strand k))

/-- A cross-lane word gives every member its result, ORs its flags into srFPF, and every member retires it (R106), where no flag
that it sets is enabled for ARITH. -/
def Crosses (i : Instr) (src : List (Reg × (Tag → Bool))) (out : State → Plot → List Strand → List XOut × Fl) : Prop :=
  ∀ (s : State) (x : Issue) (k : Nat) (co : BitVec 4) (p : Plot), Meets s i x k co p →
    (∀ r ∈ src, r.2 (p.regs.v k r.1).tag = true) →
    let ms := p.regs.membersOf co
    let y := out s p ms
    p.arithEnables &&& y.2 = 0#5 →
    exec i s = .next (((s.begun x).setPlot (p.counted.modRegs (fun g => (g.received ms y.1).orFpf y.2))).released x k ms)

/-- The alignment that an access of n bytes needs (R47, R164): pairs of the lane stream need that of a word. -/
def alignOf (w : Who) (n : Nat) : Nat := if streamOf w = .lane then min n 4 else n

/-- A load joins its agent's outstanding loads. -/
def State.withLoad (s : State) (p : Plot) (w : Who) (l : PLoad) : State :=
  s.modPlot p.id (fun q => q.modAgent w (fun a => { a with loads := a.loads ++ [l], seq := a.seq + 1 }))

/-- A tile operation of plot `p` is issued: its ranges are locked, it stands last in the plot's queue, and the tile's tag is set. -/
def State.tileIssued (s : State) (p : Plot) (kind : TileKind) (locks : List (Bool × Range)) (d : Nat) (s32 : Bool) : State :=
  (s.addLocks p p.nextOp locks).modPlot p.id (fun q =>
    { q with tops := q.tops ++ [⟨q.nextOp, kind, 0, 0#5⟩], nextOp := q.nextOp + 1, tileS32 := q.tileS32.set d s32 })

/-- An agent may issue a tile operation with so many locks: its own accesses are performed, fewer than 8 tile operations are
outstanding, and the lock table has room (R127, R128, R183). -/
def State.tileRoom (s : State) (p : Plot) (w : Who) (n : Nat) : Prop :=
  p.drained w = true ∧ p.tops.length < 8 ∧ s.lockRoom p.pav n = true

/-- A copy of plot `p` is issued: its ranges are locked and it joins the plot's copies. -/
def State.copyIssued (s : State) (p : Plot) (c : CopyRec) (locks : List (Bool × Range)) (tile : List TileOp) : State :=
  (s.addLocks p c.id locks).modPlot p.id (fun q =>
    { q with copies := q.copies ++ [c], nextOp := q.nextOp + 2, tops := q.tops ++ tile })

/-- A SEND joins the sends of its member and channel, a RECV the buffers posted for them. -/
def State.fabStarted (s : State) (p : Plot) (op : FabOp) (group member copy : Nat) : State :=
  match op with
  | .send ch => { s with fab := { s.fab with sends := s.fab.sends ++ [⟨p.ctx, p.id, copy, ch, group, member⟩] } }
  | .recv ch => { s with fab := { s.fab with posted := s.fab.posted ++ [⟨p.ctx, ch, group, member, p.id, copy⟩] } }
  | _ => s

/-- There is room for a fabric operation: fewer than 16 posted buffers of the member and channel, or else a tag that is free. -/
def State.fabRoom (s : State) (p : Plot) (op : FabOp) (group member : Nat) : Prop :=
  match op with
  | .recv ch => (s.pruneFab.fab.posted.filter (fun x => x.is p.ctx ch group member)).length < 16
  | _ => s.freeTag.isSome = true

/-- The packet `k` with opcode `op` is at the head of an enabled queue that may go on (R343–R345): it is read, every reserved bit is
zero, and it need not wait for what the queue has taken. -/
structure Heads (s : State) (k : Pk) (op : Nat) (x : Queue) (s1 : State) : Prop where
  queue : s.queue? k.ctx k.q = some x
  goes : s.placing k.ctx = true ∧ s.mgmt.switching = false ∧ x.en = true ∧ x.error = false ∧ x.rd ≠ x.wr
  read : s.gateRead k.ctx (x.base + BitVec.ofNat 64 (64 * (x.rd.toNat % 2 ^ x.log2))) 64 = (.ok, s1, k.bytes)
  opcode : k.bits 0 0 8 = op
  plain : k.reserved op = none
  alone : k.bits 0 8 1 = 0 ∨ x.taken = []

/-- The reduction unit has nothing to do on a collective: no write waits, no record is ready to emit, and its status block is not due
(10_fabric_collectives.md R266, R268). -/
def Coll.rests (c : Coll) : Bool :=
  c.failed || (c.writes.isEmpty && !(c.emit && decide (c.emitted < c.chunks) && c.chunkDone c.emitted && !c.ended) && !c.due)

/-- Nothing waits for a translation or a page but the accesses of plots: the reduction units rest, and no error record waits to be written. -/
def State.rests (s : State) : Prop := (∀ c ∈ s.colls, c.rests = true) ∧ ∀ c ∈ s.ctxs, c.pending = []

/-- The read index of the packet's queue, one further, and its word written, after the effect `s` (R343): what the write comes to, and
the state that it leaves. -/
def State.indexWrite (s : State) (k : Pk) (y : Queue) : Gated × State :=
  (s.modQueue k.ctx k.q (fun x => { x with rd := y.rd + 1#32, waiting := false })).gateWrite k.ctx y.readWord (natBytes (y.rd + 1#32).toNat 4)

/-- The packet can leave its queue after the effect `s`: the read-index word can be written (R343). -/
def State.canAdvance (s : State) (k : Pk) : Prop := ∃ y, s.queue? k.ctx k.q = some y ∧ (s.indexWrite k y).1 = .ok

/-- The state after the packet, whose effect is `s`, has left its queue (R343). -/
def State.advanced (s : State) (k : Pk) : State := match s.queue? k.ctx k.q with | some y => (s.indexWrite k y).2 | none => s

end Sys2Proof.Machine
end

