-- ==== Sys2Proof/Certificates/Slice0/Obligations.lean ====
section
/-! DEFINITION. The statements for the provers. -/

open Sys2Proof Sys2Proof.Machine

/-- Words of every family of the opcode map, most of them words that the spec's programs write out and the others put together from the
encoding tables, and the instructions they stand for. -/
def Obligations.DecodedWords : Prop :=
  decodeWord 0x2810_97FB#32 none = .ok (.icmpi 1 .lts 2 0x7FB#11) ∧ decodeWord 0x2C10_8301#32 none = .ok (.fadd 1 2 3 .rz) ∧
  decodeWord 0x2C20_8308#32 none = .ok (.fmul 2 2 3 .rne) ∧ decodeWord 0x3040_4210#32 none = .ok (.fma 4 1 2 4 .rne) ∧
  decodeWord 0x4850_C769#32 none = .ok (.cvt 5 3 7 .e4m3x4 .sr true) ∧
  decodeWord 0x2030_0000#32 (some 0x3FC0_0000#32) = .ok (.movw 3 0x3FC0_0000#32) ∧
  decodeWord 0x5420_6200#32 none = .ok (.ld 2 1 .word .spad .plot 0) ∧ decodeWord 0x6461_20C4#32 none = .ok (.stl 6 4 .word .global .dev 4) ∧
  decodeWord 0x6C31_060B#32 none = .ok (.atomAdd 3 4 6 true .dev) ∧ decodeWord 0x7000_001B#32 none = .ok (.fenceView .dev) ∧
  decodeWord 0x74A1_0603#32 none = .ok (.stmx 10 4 6 .dev) ∧ decodeWord 0x7C01_080D#32 none = .ok (.vcommit 4 8 .dev) ∧
  decodeWord 0x817F_FFF0#32 none = .ok (.br (.ifSet 1) 0x3FFFF0#22) ∧ decodeWord 0x8800_0380#32 none = .ok (.call .always 0x380#22) ∧
  decodeWord 0x8C01_8000#32 none = .ok (.jr 6) ∧ decodeWord 0x903C_BC00#32 none = .ok (.wait 0 15 2 15) ∧
  decodeWord 0x9400_0001#32 none = .ok .exit ∧ decodeWord 0x94E0_110A#32 none = .ok (.movsr 14 17) ∧
  decodeWord 0x9801_0002#32 none = .ok (.barInit 4 2) ∧ decodeWord 0xA000_0700#32 none = .ok (.trap 7) ∧
  decodeWord 0xC021_0602#32 none = .ok (.mma 2 4 6 0 2) ∧ decodeWord 0xCC22_0A24#32 none = .ok (.drain 2 8 10 .store .sr .bf16x2) ∧
  decodeWord 0xD141_0603#32 none = .ok (.cpyTload 20 4 6 false .dev) ∧ decodeWord 0xD0A1_0C4B#32 none = .ok (.cpyGather 10 4 12 true .dev) ∧
  decodeWord 0xD542_0000#32 none = .ok (.fabRwrite 20 8 false) ∧ decodeWord 0xD402_0558#32 none = .ok (.fabSend 0 8 5 true) ∧
  decodeWord 0xD881_0500#32 none = .ok (.copen 8 4 5) ∧ decodeWord 0xD942_4A01#32 none = .ok (.contrib 20 9 10) ∧
  decodeWord 0xDC51_0000#32 none = .ok (.sadv 5 4) ∧ decodeWord 0xE092_8001#32 none = .ok (.emitw 9 10 0) ∧
  decodeWord 0x05E7_9117#32 none = .ok (.bfx 30 30 17) ∧ decodeWord 0x4DE7_8000#32 none = .ok (.tagset 30 30 .raw) ∧
  decodeWord 0x51E2_D300#32 none = .ok (.shfl 30 11 19) ∧ decodeWord 0x50A0_800B#32 none = .ok (.mxqE2m1 10 2 0) ∧
  decodeWord 0x9DE7_D201#32 none = .ok (.await 30 31 18) ∧ decodeWord 0x9590_0008#32 none = .ok (.peekq 25) ∧
  decodeWord 0x08B5_AAB5#32 none = .ok (.addi 11 22 0x2AB5) ∧ decodeWord 0x18B5_80A9#32 none = .ok (.shfiSra 11 22 41) ∧
  decodeWord 0x1CBA_5C3E#32 none = .ok (.movh 11 0xA5C3E) ∧ decodeWord 0x2425_A502#32 none = .ok (.icmp 2 .lts 22 37) ∧
  decodeWord 0x4415_A502#32 none = .ok (.fcmp 1 .lt 22 37) ∧ decodeWord 0x68B5_A559#32 none = .ok (.ldv 11 22 37 .half .dev .exact) ∧
  decodeWord 0x7805_8001#32 none = .ok (.pf 22 true) ∧ decodeWord 0xC4B5_A50F#32 none = .ok (.mmag 11 22 37 0 15) ∧
  decodeWord 0xC8B5_A504#32 none = .ok (.tadd 11 22 37)

/-- The bytes of every well-formed instruction that has words decode to it, with every operand, and leave what follows. -/
def Obligations.EncodedDecodes : Prop :=
  ∀ (i : Instr) (st : Stream) (rest : List Byte), wf st i = true → encode i ≠ [] → decode (encodeBytes i ++ rest) = .ok (i, rest)

/-- Every word that decodes, with its literal where it takes one, is the encoding of the instruction it decodes to: no two words have one
meaning, and no bit of a word is without one. -/
def Obligations.EncodingUnique : Prop :=
  ∀ (w : Word) (lit : Option Word) (i : Instr), lit.isSome = takesLiteral w → decodeWord w lit = .ok i → encode i = w :: lit.toList

/-- R30, R45, R53: the word at an agent's offset decodes, with the literal after it where it takes one and the clause has room, to the
instruction that issues; a word out of its place, or that no row decodes, issues as ILLEGAL with its row of Table 2-11. What the reads
have to report (R386, R392) goes with it. A step takes the first turn of the agenda. Where it is a lane word of the bundle in flight whose
turn has come (R278), or a uniform word of the front thread that the bed's uniform slot serves (R272), and the word at the agent's offset
is the instruction i, the step is exec of i, in the state in which the word was read, with the plot, the offset and the word recorded as
those of the issue, and the plot cycle that the word takes. Where the word could not be read, an MCHK is recorded at it (R386, R392). The
model's own reading of what the spec leaves open enters (log entry 29). -/
def Obligations.StepRunsDecoded : Prop :=
  (
    ∀ (s : State) (p : Plot) (st : Stream) (c : Clause) (pc : Word) (m : Rd Word), s.codeWord p pc = .ok m →
      let room := decide (pc.toNat + 8 ≤ c.stop)
      (majorAssigned (majOf m.val).toNat = true → placeOk st (hdrCls c.hw) m.val (!room) = true →
        (takesLiteral m.val = false ∨ room = false →
          (∀ i, decodeWord m.val none = .ok i →
            s.nextWord p st c pc = .ok ⟨⟨i, m.val, if takesLiteral m.val then 8 else 4⟩, m.notes, m.s⟩) ∧
          (∀ e, decodeWord m.val none = .error e → s.nextWord p st c pc = .ok ⟨⟨.illegalEncoding e.row m.val, m.val, 4⟩, m.notes, m.s⟩)) ∧
        (∀ l i, takesLiteral m.val = true → room = true → m.s.codeWord p (pc + 4#32) = .ok l → decodeWord m.val (some l.val) = .ok i →
          s.nextWord p st c pc = .ok ⟨⟨i, m.val, 8⟩, m.notes ++ l.notes, l.s⟩)) ∧
      (takesLiteral m.val = false →
        (majorAssigned (majOf m.val).toNat = false → s.nextWord p st c pc = .ok ⟨⟨.illegalEncoding 4 m.val, m.val, 4⟩, m.notes, m.s⟩) ∧
        (majorAssigned (majOf m.val).toNat = true → placeOk st (hdrCls c.hw) m.val (!room) = false →
          s.nextWord p st c pc = .ok ⟨⟨.illegalEncoding 5 m.val, m.val, 4⟩, m.notes, m.s⟩))) ∧
  (
    ∀ (s : State) (rest : List Turn) (id : Nat) (p0 p : Plot) (a : Agent) (c : Clause) (n : Rd NextWord),
      let s0 : State := { s with agenda := rest }
      (∀ w ws, s.agenda = .issueLane id :: rest → s0.plot? id = some p0 → p0.issuers .bundle = w :: ws → p0.resident = true →
        (p0.run = .running ∨ p0.run = .runahead) → s0.waitedLongest p0 = true →
        let s1 := (s0.wake id).modPlot id Plot.takesUp
        s1.plot? id = some p → p.agent? w = some a → a.clause = some c → s1.nextWord p (streamOf w) c a.pc = .ok n →
        (n.notes = [] → step s =
          settled (issuedNow id (exec n.val.instr { n.s with issue := some ⟨p.id, .bundle, a.pc, n.val.word, n.val.len⟩ }))) ∧
        (∀ d v l, n.notes = (d, v) :: l →
          step s = settled (issuedNow id (.next (n.s.fetchFails p .bundle ⟨.mchk, d, v, a.pc, true⟩))))) ∧
      (∀ p1, s.agenda = .issueFront id :: rest →
        let s1 := s0.readyFront id
        s1.plot? id = some p1 → s1.frontReady p1 = true → s1.hasSlot p1 = true →
        let s2 := (s1.setBed { s1.bed p1.pav p1.bed with uni := some p1.place }).modPlot p1.id (fun p => p.modAgent .front Agent.issues)
        s2.plot? p1.id = some p → p.agent? .front = some a → a.clause = some c → s2.nextWord p .uniform c a.pc = .ok n →
        (n.notes = [] → step s = settled (ticked p1.id p1.arrivals
          (exec n.val.instr { n.s with issue := some ⟨p.id, .front, a.pc, n.val.word, n.val.len⟩ }))) ∧
        (∀ d v l, n.notes = (d, v) :: l →
          step s = settled (ticked p1.id p1.arrivals (.next (n.s.fetchFails p .front ⟨.mchk, d, v, a.pc, true⟩))))))

/-- R19: at reset the east lodge is active and the west lodge stands by, on the state after power-on and after MODULE_RESET from any
state. -/
def Obligations.ResetLodges : Prop :=
  let lodges := fun (s : State) => s.mgmt.eastActive = true ∧ s.mgmt.east.offline = false ∧ s.mgmt.west.offline = false ∧
    s.mgmt.switching = false
  lodges State.reset ∧ ∀ s, ∃ t, exec .moduleReset s = .next t ∧ lodges t

/-- After reset nobody owns the module and the EPOCH is 0, no handover is under way, no context and no plot exists, the power cap is
3,000 W, the budgets are the defaults of Table 14-9, the error counters and the memory-error log are empty, and no byte of
device memory is listed. MODULE_RESET leaves the same from any state. The unowned state, the cap and the defaults are the spec's; device
memory reading as zero where nothing was written is the model's choice (log 1). -/
def Obligations.ResetState : Prop :=
  let fresh := fun (s : State) => s.mgmt.owner = none ∧ s.mgmt.epoch = 0#8 ∧ s.mgmt.moving = none ∧ s.ctxs = [] ∧ s.plots = [] ∧
    s.launches = [] ∧ s.trellises = [] ∧ s.views = [] ∧ s.mgmt.cap = 3000 ∧ s.budgets.toList.map (fun b => (b.limit, b.nextLimit)) =
      [256000, 100000, 256, 65536, 1000, 320].map (fun n => (n, n)) ∧
    s.mgmt.merrCount = 0#32 ∧ s.mgmt.merr = [] ∧ (∀ pa, cellGet s.mem.dev pa = 0#8)
  fresh State.reset ∧ State.reset.sound ∧ ∀ s, Memory.wf s.mem.host = true → ∃ t, exec .moduleReset s = .next t ∧ fresh t ∧ t.sound ∧
    t.mem.host = s.mem.host

/-- Table 2-4: the strands of a new grid plot start with v0–v63 zero and tagged RAW and their flags 0, at the launch's lane entry, strand i
under the identity i, in home lane i mod 32 of row i / 32; its front thread starts with the values of the launch packet in its
s-registers, s0 zero, at the uniform entry; its barriers are uninitialised, its srFPF is 0 and its tiles have the tag F32. s0 reads as
zero always, and a write to it is discarded. The model's own reading of what the spec leaves open enters (log entry 60). -/
def Obligations.StartRegisters : Prop :=
  (∀ (l : Launch) (i : Nat),
    let p := l.plot i
    p.regs.strands.length = l.n ∧ p.regs.fpf = 0#32 ∧ (∀ b < 16, p.bars[b]? = some Barrier.reset) ∧ (∀ f, p.regs.flag .front f = false) ∧
    (∀ r : Reg, p.regs.s r = if r = 0#6 then 0#64 else l.preload.getD (r.toNat - 1) 0#64) ∧
    p.regs.front.ag.pc = l.uni ∧
    ∀ st ∈ p.regs.strands, st.sid = BitVec.ofNat 32 st.key ∧ st.row = st.key / 32 ∧ st.lane = st.key % 32 ∧ st.ag.pc = l.lane ∧
      ∀ (r : Reg) (f : BitVec 2), p.regs.v st.key r = ⟨0#32, .raw⟩ ∧ p.regs.flag (.strand st.key) f = false) ∧
  (∀ (s : State) (p : Plot) (pav bed rows n : Nat), s.plot? s.ids = none → Quiet p → (∃ y ∈ p.regs.agents, y.2.phase ≠ .exited) →
    ∃ q, (s.install p pav bed rows n).plot? s.ids = some q ∧ q.regs.body = p.regs.body ∧ ∀ k, q.tileS32At k = false) ∧
  (∀ (g : Regs) (x : DWord), g.s 0#6 = 0#64 ∧ g.setS 0#6 x = g)

/-- R321: UD raises ILLEGAL always, with the word in srTVAL; delivered, the trap leaves the word in the agent's srTVAL and class 2 in its
srTCAUSE. -/
def Obligations.UdRaisesIllegal : Prop :=
  ∀ (s : State) (x : Issue) (w : Who) (p : Plot), Issues s .ud x w p →
    exec .ud s = .next (s.traps x w .illegal 10 (x.word.setWidth 64)) ∧
    ∀ (g : Regs) (entry : Word) (a : Agent), g.agent? w = some a →
      ∃ b, (g.takeTrap w ⟨.illegal, 10, x.word.setWidth 64, x.pc, false⟩ entry).agent? w = some b ∧
        b.tval = x.word.setWidth 64 ∧ b.tcause.toNat % 16 = 2

/-- R95: FCLASS writes the mask of the class of its operand, tagged Z32, and sets no flag. Of the ten bits exactly the one of the class is
set: by the sign, the exponent field and the fraction field of the operand. -/
def Obligations.FloatClasses : Prop :=
  (∀ (s : State) (x : Issue) (k : Nat) (p : Plot) (d a : Reg), Issues s (.fclass d a) x (.strand k) p →
    tagsOk fpAccepts p.regs (.strand k) [a] →
    exec (.fclass d a) s = .next (s.wrote x (.strand k) p (fun g => g.setV k d ⟨fclassMask (p.regs.v k a).val, .z32⟩))) ∧
  (∀ v : Word,
    let neg := v.msb
    let e := v.toNat / 2 ^ 23 % 256
    let f := v.toNat % 2 ^ 23
    let bit :=
      if e = 255 then (if f = 0 then (if neg then 0 else 7) else if v.getLsbD 22 then 9 else 8)
      else if e = 0 then (if f = 0 then (if neg then 3 else 4) else if neg then 2 else 5)
      else if neg then 1 else 6
    bit < 10 ∧ ∀ j < 32, (fclassMask v).getLsbD j = decide (j = bit))

/-- R99: FCMP takes sources tagged RAW or F32, raises FORMAT at the first of another tag, and writes the flag by Table 4-13. The order of
two values that are no NaN is that of their magnitudes' codes with their signs, so that −0 and +0 are equal. A NaN has a magnitude above
that of infinity, and is signalling where bit 22 is 0. Function codes from 8 up do not decode. -/
def Obligations.FloatCompares : Prop :=
  (∀ (s : State) (x : Issue) (k : Nat) (p : Plot) (f : BitVec 2) (c : FCond) (a b : Reg), Issues s (.fcmp f c a b) x (.strand k) p →
    let ok := fun (r : Reg) => (p.regs.v k r).tag = .raw ∨ (p.regs.v k r).tag = .f32
    let y := fcond c (p.regs.v k a).val (p.regs.v k b).val
    let bad := fun (r : Reg) => exec (.fcmp f c a b) s =
      .next (s.traps x (.strand k) .format 0 (BitVec.ofNat 64 (r.toNat + 256 * Tag.code (p.regs.v k r).tag)))
    (ok a → ok b → p.arithEnables &&& y.2 = 0#5 →
      exec (.fcmp f c a b) s = .next (s.wrote x (.strand k) p (fun g => (g.setFlag (.strand k) f y.1).orFpf y.2))) ∧
    (ok a → ok b → p.arithEnables &&& y.2 ≠ 0#5 →
      exec (.fcmp f c a b) s = .next (s.traps x (.strand k) .arith 0 (y.2.setWidth 64))) ∧
    (¬ok a → bad a) ∧ (ok a → ¬ok b → bad b)) ∧
  (∀ (c : FCond) (u v : Word),
    let mag := fun (w : Word) => w.toNat % 2 ^ 31
    let key := fun (w : Word) => if w.msb then -((mag w : Nat) : Int) else ((mag w : Nat) : Int)
    let nan := 0x7F800000 < mag u ∨ 0x7F800000 < mag v
    let snan := (0x7F800000 < mag u ∧ u.getLsbD 22 = false) ∨ (0x7F800000 < mag v ∧ v.getLsbD 22 = false)
    ((fcond c u v).1 = true ↔ match c with
      | .eq => ¬nan ∧ key u = key v
      | .ne => nan ∨ key u ≠ key v
      | .lt => ¬nan ∧ key u < key v
      | .le => ¬nan ∧ key u ≤ key v
      | .gt => ¬nan ∧ key v < key u
      | .ge => ¬nan ∧ key v ≤ key u
      | .un => nan
      | .ord => ¬nan) ∧
    ((c = .lt ∨ c = .le ∨ c = .gt ∨ c = .ge) → ((fcond c u v).2 = 0x10#5 ↔ nan) ∧ ((fcond c u v).2 = 0#5 ↔ ¬nan)) ∧
    ((c = .eq ∨ c = .ne ∨ c = .un ∨ c = .ord) → ((fcond c u v).2 = 0x10#5 ↔ snan) ∧ ((fcond c u v).2 = 0#5 ↔ ¬snan))) ∧
  (∀ w : Word, majOf w = 0x11#6 → 8 ≤ (fnOf w).toNat → ∀ i, decodeWord w none ≠ .ok i)

/-- R134: TADD may name one tile more than once. Each element of the result is the sum of the elements that stood before the operation
at its place in the two source tiles, whichever of the three is which: TADD t0, t0, t0 doubles t0. -/
def Obligations.TileAddsReadFirst : Prop :=
  ∀ (s : State) (p : Plot) (d a b n : Nat) (s32 : Bool) (f : BitVec 5), p.pav < 320 → (s.tile p a).bad = [] → (s.tile p b).bad = [] →
    ∀ k < 4096,
      let x := (s.tile p a).dense.getD k 0#32
      let y := (s.tile p b).dense.getD k 0#32
      (((s.runTile p ⟨n, .tadd d a b s32, 0, f⟩).1.tile p d).dense)[k]? = some (if s32 then x + y else (fadd .rne x y).1)

/-- R420: the doorbell of queue q of context c is the register at BAR0 offset 0x10000 + 128 c + 8 q. The host's write to it is the
doorbell of R343; a read returns the last write index written; for a context or queue that is not enabled a doorbell is discarded. -/
def Obligations.DoorbellRegisters : Prop :=
  (∀ (s : State) (c q : Nat) (v : Word), c < 64 → q < 16 →
    exec (.registerWrite .host (0x10000 + 128 * c + 8 * q) v) s = exec (.doorbell c q v) s ∧
    (∀ x, s.queue? c q = some x → s.readReg (0x10000 + 128 * c + 8 * q) = x.wr) ∧
    (∀ x, s.queue? c q = some x → x.en = true →
      ∃ t, exec (.doorbell c q v) s = .next t ∧ t.readReg (0x10000 + 128 * c + 8 * q) = v) ∧
    ((s.queue? c q = none ∨ ∃ x, s.queue? c q = some x ∧ x.en = false) → exec (.doorbell c q v) s = .next s)) ∧
  (∀ (s : State) (v : Word), exec (.registerWrite .host 0x10298 v) s = exec (.doorbell 5 3 v) s)

/-- The frame of the words of majors 0x01 to 0x14 but XLN, and of NOP, out of handler mode: each changes its destination registers or its
flag, the floating-point words OR flags into srFPF, and nothing else of the plot's registers and flags, of the plot, of memory or of the
machine changes, whether the word retires or traps. -/
def Obligations.RegisterWordsFrame : Prop :=
  ∀ (s t : State) (i : Instr) (x : Issue) (w : Who) (p : Plot) (d a b c : Reg) (r : Rm) (f : BitVec 2) (k14 : BitVec 14) (k6 : BitVec 6)
    (k20 : BitVec 20) (k11 : BitVec 11) (l : Word) (ic : ICond) (fc : FCond) (tg : Tag) (cr : CvtRnd) (sf : Bool),
    Issues s i x w p → Quiet p → p.regs.plain w → exec i s = .next t →
    (i ∈ [Instr.add d a b, .sub d a b, .mul d a b, .mulhs d a b, .mulhz d a b, .andR d a b, .orR d a b, .xorR d a b, .andn d a b,
        .shl d a b, .shr d a b, .sra d a b, .rol d a b, .mins d a b, .maxs d a b, .minz d a b, .maxz d a b, .absd d a b, .popc d a,
        .clz d a, .brev d a, .addsat d a b, .subsat d a b, .bfx d a b, .bfi d a b, .selF0 d a b, .selF1 d a b, .selF2 d a b, .selF3 d a b,
        .addi d a k14, .andi d a k14, .ori d a k14, .xori d a k14, .shfiShl d a k6, .shfiShr d a k6, .shfiSra d a k6, .shfiRol d a k6,
        .movh d k20, .movw d l, .tagset d a tg, .tagget d a] → Frames s t x p w [d] [] false) ∧
    (i ∈ [Instr.icmp f ic a b, .icmpi f ic a k11] → Frames s t x p w [] [f] false) ∧
    (i ∈ [Instr.tagchk a tg, .nop] → Frames s t x p w [] [] false) ∧
    (i ∈ [Instr.fadd d a b r, .fsub d a b r, .fmul d a b r, .fmin d a b, .fmax d a b, .fminn d a b, .fmaxn d a b, .fabs d a, .fneg d a,
        .fcpys d a b, .fsqrt d a r, .frcp d a r, .frsq d a r, .fexp2 d a r, .flog2 d a r, .fclass d a, .fma d a b c r, .fms d a b c r,
        .fnma d a b c r] → Frames s t x p w [d] [] true) ∧
    (i ∈ [Instr.faddX2 d a b r, .fmulX2 d a b r, .fmaX2 d a b c r, .faddP2 d a b r, .fmulP2 d a b r, .fmaP2 d a b c r] →
      Frames s t x p w [d, regPlus d 1] [] true) ∧
    (i = .fcmp f fc a b → Frames s t x p w [] [f] true) ∧
    (i = .cvt d a b tg cr sf → Frames s t x p w ((List.range 8).map (regPlus d)) [] true)

/-- What reading and writing storage does to each byte, in a sound state. A write to a space other than device memory changes the bytes it
covers and no other byte of any space. A write to device memory at grove scope or wider, of a pavilion with no queued writes, and one of a
strand's private bytes, which pass the L1 by, change the bytes they cover at the L2; one at a nearer scope changes no byte of memory, and
joins the pavilion's queue. A read changes no byte. The model's own reading of what the spec leaves open enters (log entry 44). -/
def Obligations.BytesReadAndWritten : Prop :=
  ∀ (s : State) (pav : Nat) (l : Loc) (sc : Scope), s.sound →
    (∀ data, l.space = .host ∨ l.space = .spad ∨ l.space = .csp → let t := s.writeAt pav l data sc
      ({ t with mem := s.mem } : State) = s ∧ ∀ sp a, cellGet (t.mem.cells sp) a =
        if sp = l.space ∧ l.addr ≤ a ∧ a < l.addr + data.length then data.getD (a - l.addr) 0#8 else cellGet (s.mem.cells sp) a) ∧
    (∀ data, l.space = .dev → nearScope sc = true → let t := s.writeAt pav l data sc
      ({ t with pavs := s.pavs } : State) = s ∧ (pav < 320 → (t.pav pav).wtq = (s.pav pav).wtq ++ [⟨l.addr, data⟩])) ∧
    (∀ data, (l.space = .dev ∧ nearScope sc = false ∧ (s.pav pav).wtq = []) ∨ l.space = .path → l.addr + data.length ≤ 2 ^ 50 →
      let t := s.writeAt pav l data sc
      ({ t with mem := s.mem, pavs := s.pavs } : State) = s ∧ (∀ sp, sp ≠ .dev → t.mem.cells sp = s.mem.cells sp) ∧
      ∀ a, a < 2 ^ 50 → t.l2Byte a = if l.addr ≤ a ∧ a < l.addr + data.length then data.getD (a - l.addr) 0#8 else s.l2Byte a) ∧
    (∀ n, l.space = .host ∨ l.space = .spad ∨ l.space = .csp → s.readAt pav l n sc = (s, cellsGet (s.mem.cells l.space) l.addr n)) ∧
    (∀ n, (l.space = .dev ∧ (nearScope sc = true ∨ (s.pav pav).wtq = [])) ∨ l.space = .path → let t := (s.readAt pav l n sc).1
      ({ t with mem := s.mem, pavs := s.pavs } : State) = s ∧ (∀ sp, t.mem.cells sp = s.mem.cells sp) ∧ (∀ a, t.l2Byte a = s.l2Byte a) ∧
      (nearScope sc = false ∨ l.space = .path → (s.readAt pav l n sc).2 = byteRun s.l2Byte l.addr n))

/-- The frame of an access that is performed, where its plot is quiet and the front thread lives. STORE_PERFORMED leaves every byte outside
the store's own as it was, and every register, flag and other plot; LOAD_DATA_LANDS, but for ATOM, leaves every byte, and every register
but its destination. -/
def Obligations.AccessesFrame : Prop :=
  ∀ (s t : State) (id i : Nat) (w : Who) (p : Plot) (a : Agent), s.sound → s.plot? id = some p → p.ck = none → p.agent? w = some a →
    Quiet p → p.regs.front.ag.phase ≠ .exited →
    (∀ y s1, a.stores[i]? = some y → p.regs.mayPerform w a y = true → s.dma true y.span = (true, s1) →
      (nearScope y.scope = true ∨ (s.pav p.pav).wtq = []) → (∀ z ∈ y.parts, z.1.addr + z.2.length ≤ 2 ^ 50) →
      exec (.storePerformed id w i) s = .next t →
      (∀ sp b, sp ≠ .dev → (∀ z ∈ y.parts, ¬(z.1.space = sp ∧ z.1.addr ≤ b ∧ b < z.1.addr + z.2.length)) →
        cellGet (t.mem.cells sp) b = cellGet (s.mem.cells sp) b) ∧
      (∀ b, b < 2 ^ 50 → (∀ z ∈ y.parts, ¬((z.1.space = .dev ∨ z.1.space = .path) ∧ z.1.addr ≤ b ∧ b < z.1.addr + z.2.length)) → t.l2Byte b = s.l2Byte b) ∧
      (∀ j, j ≠ id → t.plot? j = s.plot? j) ∧ ∃ q, t.plot? id = some q ∧ (∀ k r, q.regs.v k r = p.regs.v k r) ∧
        (∀ r, q.regs.s r = p.regs.s r) ∧ (∀ u f, q.regs.flag u f = p.regs.flag u f) ∧ q.regs.fpf = p.regs.fpf) ∧
    (∀ l ps s1, a.loads[i]? = some l → p.regs.mayLand w a l = true → l.parts = some ps → l.kind ≠ .cycles → l.isAtom = false →
      l.handler = false → s.dma false ps = (true, s1) → s1.badPart 0 ps = none → (s.pav p.pav).wtq = [] →
      exec (.loadDataLands id w i) s = .next t →
      (∀ sp b, sp ≠ .dev → cellGet (t.mem.cells sp) b = cellGet (s.mem.cells sp) b) ∧ (∀ b, t.l2Byte b = s.l2Byte b) ∧
      (∀ j, j ≠ id → t.plot? j = s.plot? j) ∧ ∃ q, t.plot? id = some q ∧
        (∀ k r, ¬(w = .strand k ∧ (r = l.dst ∨ (l.pair = true ∧ r = regPlus l.dst 1))) → q.regs.v k r = p.regs.v k r) ∧
        (∀ r, ¬(w = .front ∧ r = l.dst) → q.regs.s r = p.regs.s r) ∧ (∀ u f, q.regs.flag u f = p.regs.flag u f) ∧
        q.regs.fpf = p.regs.fpf)

/-- The integer words of two sources, of Table 4-2: each gives D the result the table states, at the width of the stream, keeps the
tag its column keeps, and retires. Shift and rotation counts are taken modulo the width. -/
def Obligations.IntegerTwoSources : Prop :=
  Binary .add .s32z32 (fun x y => x + y) ∧ Binary .sub .s32z32 (fun x y => x - y) ∧ Binary .mul .s32z32 (fun x y => x * y) ∧
  Binary .mulhs .none (fun {n} x y => BitVec.ofInt n (x.toInt * y.toInt / (2 ^ n : Nat))) ∧
  Binary .mulhz .none (fun {n} x y => BitVec.ofNat n (x.toNat * y.toNat / 2 ^ n)) ∧
  Binary .andR .none (fun x y => x &&& y) ∧ Binary .orR .none (fun x y => x ||| y) ∧ Binary .xorR .none (fun x y => x ^^^ y) ∧
  Binary .andn .none (fun x y => x &&& ~~~y) ∧
  Binary .shl .none (fun {n} x y => x <<< (y.toNat % n)) ∧ Binary .shr .none (fun {n} x y => x >>> (y.toNat % n)) ∧
  Binary .sra .none (fun {n} x y => x.sshiftRight (y.toNat % n)) ∧ Binary .rol .none (fun {n} x y => x.rotateLeft (y.toNat % n)) ∧
  Binary .mins .s32 (fun x y => if x.toInt < y.toInt then x else y) ∧
  Binary .maxs .s32 (fun x y => if x.toInt < y.toInt then y else x) ∧
  Binary .minz .z32 (fun x y => if x.toNat < y.toNat then x else y) ∧
  Binary .maxz .z32 (fun x y => if x.toNat < y.toNat then y else x) ∧
  Binary .absd .none (fun {n} x y => BitVec.ofNat n (x.toInt - y.toInt).natAbs) ∧
  Binary .addsat .s32 (fun {n} x y => clampSigned n (x.toInt + y.toInt)) ∧
  Binary .subsat .s32 (fun {n} x y => clampSigned n (x.toInt - y.toInt)) ∧
  Binary .bfx .none (fun {n} x y => BitVec.ofNat n (x.toNat / 2 ^ (y.toNat % 64) % 2 ^ (y.toNat / 256 % 128)))

/-- The other integer words: BFI writes the field that B names into D; POPC, CLZ and BREV; SEL by each flag; the immediate forms, whose
constants are sign-extended in ADDI and zero-extended elsewhere; MOVH and MOVW, which read no register. The integer compares write the
flag they name by Table 4-7, on values of the width of the stream, and no register. -/
def Obligations.IntegerOtherForms : Prop :=
  (
    (∀ (s : State) (x : Issue) (w : Who) (p : Plot) (d a b : Reg), Issues s (.bfi d a b) x w p → tagsOk intAccepts p.regs w [a, b, d] →
      exec (.bfi d a b) s = .next (s.wrote x w p (fun g =>
        g.put w d .raw (fun n => bfiW (g.v n d).val (g.v n a).val (g.v n b).val) (bfiW (g.s d) (g.s a) (g.s b))))) ∧
    Unary .popc toZ32 popcW ∧ Unary .clz toZ32 clzW ∧ Unary .brev toRaw brevW ∧
    (∀ (s : State) (x : Issue) (w : Who) (p : Plot) (d a b : Reg) (i : Instr) (f : BitVec 2),
      (i, f) ∈ [(Instr.selF0 d a b, 0#2), (.selF1 d a b, 1#2), (.selF2 d a b, 2#2), (.selF3 d a b, 3#2)] →
      Issues s i x w p → tagsOk intAccepts p.regs w [a, b] →
      exec i s = .next (s.wrote x w p (fun g =>
        g.put w d (keptTag .any [g.tagOf w a, g.tagOf w b]) (fun n => if g.flag w f then (g.v n a).val else (g.v n b).val)
          (if g.flag w f then g.s a else g.s b)))) ∧
    (∀ i : BitVec 14, Unary (.addi · · i) (fun t => keptTag .s32z32 [t]) (fun {n} x => x + i.signExtend n) ∧
      Unary (.andi · · i) toRaw (fun {n} x => x &&& i.setWidth n) ∧ Unary (.ori · · i) toRaw (fun {n} x => x ||| i.setWidth n) ∧
      Unary (.xori · · i) toRaw (fun {n} x => x ^^^ i.setWidth n)) ∧
    (∀ i : BitVec 6, Unary (.shfiShl · · i) toRaw (fun {n} x => shlW x (BitVec.ofNat n i.toNat)) ∧
      Unary (.shfiShr · · i) toRaw (fun {n} x => shrW x (BitVec.ofNat n i.toNat)) ∧
      Unary (.shfiSra · · i) toRaw (fun {n} x => sraW x (BitVec.ofNat n i.toNat)) ∧
      Unary (.shfiRol · · i) toRaw (fun {n} x => rolW x (BitVec.ofNat n i.toNat))) ∧
    (∀ (s : State) (x : Issue) (w : Who) (p : Plot) (d : Reg) (i : BitVec 20), Issues s (.movh d i) x w p →
      exec (.movh d i) s = .next (s.wrote x w p (fun g => g.setR w d .raw (i.setWidth 32 <<< 12)))) ∧
    (∀ (s : State) (x : Issue) (w : Who) (p : Plot) (d : Reg) (i : Word), Issues s (.movw d i) x w p →
      exec (.movw d i) s = .next (s.wrote x w p (fun g => g.setR w d .raw i)))) ∧
  (
    (∀ (s : State) (x : Issue) (w : Who) (p : Plot) (f : BitVec 2) (k : ICond) (a b : Reg), Issues s (.icmp f k a b) x w p →
      tagsOk intAccepts p.regs w [a, b] →
      exec (.icmp f k a b) s = .next (s.wrote x w p (fun g => g.setFlag w f
        (match w with | .front => icond k (g.s a) (g.s b) | .strand n => icond k (g.v n a).val (g.v n b).val)))) ∧
    (∀ (s : State) (x : Issue) (w : Who) (p : Plot) (f : BitVec 2) (k : ICond) (a : Reg) (i : BitVec 11),
      Issues s (.icmpi f k a i) x w p → tagsOk intAccepts p.regs w [a] →
      exec (.icmpi f k a i) s = .next (s.wrote x w p (fun g => g.setFlag w f
        (match w with | .front => icond k (g.s a) (i.signExtend 64) | .strand n => icond k (g.v n a).val (i.signExtend 32))))) ∧
    (∀ (n : Nat) (a b : BitVec n), (icond .eq a b = true ↔ a = b) ∧ (icond .ne a b = true ↔ a ≠ b) ∧
      (icond .lts a b = true ↔ a.toInt < b.toInt) ∧ (icond .les a b = true ↔ a.toInt ≤ b.toInt) ∧
      (icond .ltz a b = true ↔ a.toNat < b.toNat) ∧ (icond .lez a b = true ↔ a.toNat ≤ b.toNat) ∧
      (icond .tst a b = true ↔ a &&& b ≠ 0)))

/-- FADD to FCLASS and FMA, FMS and FNMA: each rounds its exact result once, writes it tagged F32 (FCLASS: Z32), and ORs its flags into srFPF;
where it would set a flag enabled for ARITH, it raises ARITH with those flags in srTVAL and writes nothing. The X2 forms are two
independent operations on the halves of the pairs, their flags ORed; the P2 forms take the pairs as two-register values and tag the result
F32P. The model's own reading of what the spec leaves open enters (log entries 104, 106, 107, 108). -/
def Obligations.FloatResults : Prop :=
  (
    ∀ (d a b c : Reg) (r : Rm),
      Floats (.fadd d a b r) fpAccepts .f32 [a, b] d (fun v => fadd r (v a) (v b)) ∧
      Floats (.fsub d a b r) fpAccepts .f32 [a, b] d (fun v => fsub r (v a) (v b)) ∧
      Floats (.fmul d a b r) fpAccepts .f32 [a, b] d (fun v => fmul r (v a) (v b)) ∧
      Floats (.fmin d a b) fpAccepts .f32 [a, b] d (fun v => fminmax false false (v a) (v b)) ∧
      Floats (.fmax d a b) fpAccepts .f32 [a, b] d (fun v => fminmax true false (v a) (v b)) ∧
      Floats (.fminn d a b) fpAccepts .f32 [a, b] d (fun v => fminmax false true (v a) (v b)) ∧
      Floats (.fmaxn d a b) fpAccepts .f32 [a, b] d (fun v => fminmax true true (v a) (v b)) ∧
      Floats (.fabs d a) fpAccepts .f32 [a] d (fun v => (fabs32 (v a), 0#5)) ∧
      Floats (.fneg d a) fpAccepts .f32 [a] d (fun v => (fneg32 (v a), 0#5)) ∧
      Floats (.fcpys d a b) fpAccepts .f32 [a, b] d (fun v => (fcpys (v a) (v b), 0#5)) ∧
      Floats (.fsqrt d a r) fpAccepts .f32 [a] d (fun v => fsqrt r (v a)) ∧
      Floats (.frcp d a r) fpAccepts .f32 [a] d (fun v => frcp r (v a)) ∧
      Floats (.frsq d a r) fpAccepts .f32 [a] d (fun v => frsq r (v a)) ∧
      Floats (.fexp2 d a r) fpAccepts .f32 [a] d (fun v => fexp2 r (v a)) ∧
      Floats (.flog2 d a r) fpAccepts .f32 [a] d (fun v => flog2 r (v a)) ∧
      Floats (.fclass d a) fpAccepts .z32 [a] d (fun v => (fclassMask (v a), 0#5)) ∧
      Floats (.fma d a b c r) fpAccepts .f32 [a, b, c] d (fun v => ffma r (v a) (v b) (v c)) ∧
      Floats (.fms d a b c r) fpAccepts .f32 [a, b, c] d (fun v => ffms r (v a) (v b) (v c)) ∧
      Floats (.fnma d a b c r) fpAccepts .f32 [a, b, c] d (fun v => ffnma r (v a) (v b) (v c))) ∧
  (
    ∀ (d a b c : Reg) (r : Rm),
      FloatPairs (.faddX2 d a b r) fpAccepts .f32 [a, b] d
        (fun v => ((fadd r (v a) (v b)).1, (fadd r (v (regPlus a 1)) (v (regPlus b 1))).1,
          (fadd r (v a) (v b)).2 ||| (fadd r (v (regPlus a 1)) (v (regPlus b 1))).2)) ∧
      FloatPairs (.fmulX2 d a b r) fpAccepts .f32 [a, b] d
        (fun v => ((fmul r (v a) (v b)).1, (fmul r (v (regPlus a 1)) (v (regPlus b 1))).1,
          (fmul r (v a) (v b)).2 ||| (fmul r (v (regPlus a 1)) (v (regPlus b 1))).2)) ∧
      FloatPairs (.fmaX2 d a b c r) fpAccepts .f32 [a, b, c] d
        (fun v => ((ffma r (v a) (v b) (v c)).1, (ffma r (v (regPlus a 1)) (v (regPlus b 1)) (v (regPlus c 1))).1,
          (ffma r (v a) (v b) (v c)).2 ||| (ffma r (v (regPlus a 1)) (v (regPlus b 1)) (v (regPlus c 1))).2)) ∧
      FloatPairs (.faddP2 d a b r) p2Accepts .f32p [a, b] d (fun v => faddP2 r (pairAt v a) (pairAt v b)) ∧
      FloatPairs (.fmulP2 d a b r) p2Accepts .f32p [a, b] d (fun v => fmulP2 r (pairAt v a) (pairAt v b)) ∧
      FloatPairs (.fmaP2 d a b c r) p2Accepts .f32p [a, b, c] d (fun v => ffmaP2 r (pairAt v a) (pairAt v b) (pairAt v c)))

/-- FCMP writes the flag of Table 4-13 and ORs its flags into srFPF; TAGSET changes the tag alone; TAGGET gives the tag code;
TAGCHK has no effect where the tag is the one it names, and raises FORMAT where it is not. -/
def Obligations.FloatFlagsAndTags : Prop :=
  (∀ (s : State) (x : Issue) (k : Nat) (p : Plot) (f : BitVec 2) (c : FCond) (a b : Reg), Issues s (.fcmp f c a b) x (.strand k) p →
    tagsOk fpAccepts p.regs (.strand k) [a, b] → p.arithEnables &&& (fcond c (p.regs.v k a).val (p.regs.v k b).val).2 = 0#5 →
    exec (.fcmp f c a b) s = .next (s.wrote x (.strand k) p (fun g =>
      (g.setFlag (.strand k) f (fcond c (g.v k a).val (g.v k b).val).1).orFpf (fcond c (g.v k a).val (g.v k b).val).2))) ∧
  (∀ (s : State) (x : Issue) (k : Nat) (p : Plot) (d a : Reg) (t : Tag), Issues s (.tagset d a t) x (.strand k) p →
    exec (.tagset d a t) s = .next (s.wrote x (.strand k) p (fun g => g.setV k d ⟨(g.v k a).val, t⟩))) ∧
  (∀ (s : State) (x : Issue) (k : Nat) (p : Plot) (d a : Reg), Issues s (.tagget d a) x (.strand k) p →
    exec (.tagget d a) s = .next (s.wrote x (.strand k) p (fun g => g.setV k d ⟨BitVec.ofNat 32 (Tag.code (g.v k a).tag), .z32⟩))) ∧
  (∀ (s : State) (x : Issue) (k : Nat) (p : Plot) (a : Reg) (t : Tag), Issues s (.tagchk a t) x (.strand k) p →
    exec (.tagchk a t) s =
      if (p.regs.v k a).tag = t then .next (s.wrote x (.strand k) p (fun g => g))
      else .next (((s.begun x).recordTrap x.plot (.strand k)
        ⟨.format, 0, BitVec.ofNat 64 (a.toNat + 256 * Tag.code (p.regs.v k a).tag), x.pc, false⟩).finish x.plot))

/-- CVT: where the checks of R101 pass, with the source run they give, each destination register receives its converted elements, tagged with
the destination format, and the flags are ORed into srFPF; stochastic rounding takes its bits from rk0, the salt and the strand's index.
The model's own reading of what the spec leaves open enters (log entries 105, 106). -/
def Obligations.Conversion : Prop :=
  ∀ (s : State) (x : Issue) (k : Nat) (p : Plot) (st : Strand) (d a b : Reg) (t : Tag) (r : CvtRnd) (sf : Bool) (srcs : List (Tag × Word)),
    Issues s (.cvt d a b t r sf) x (.strand k) p → p.regs.strand? k = some st →
    cvtCheck p.regs k d a b t (r == .sr) = .ok srcs →
    let y := cvtWords t (p.regs.v k a).tag (Mode.ofCvt r) sf (saltWord (s.keysOf p)[0] (p.regs.v k b).val (elemIndex p st)) srcs
    p.arithEnables &&& y.2 = 0#5 →
    exec (.cvt d a b t r sf) s = .next (s.wrote x (.strand k) p (fun g =>
      (y.1.zipIdx.foldl (fun g z => g.setV k (regPlus d z.2) ⟨z.1, t⟩) g).orFpf y.2))

/-- The cross-lane words, at the last arrival of a locked cohort: what each member receives. MXQ and MXDQ over a locked cohort: the members'
blocks quantised with their scales, and the elements of each member scaled. The model's own reading of what the spec leaves open enters
(log entries 104, 105). -/
def Obligations.CrossLane : Prop :=
  (
    ∀ (d a b : Reg),
      Crosses (.shfl d a b) [(b, indexAccepts)] (fun _ p ms => (ms.map (fun st =>
        ⟨[(d, laneValue p ms a ((p.regs.v st.key b).val.toNat % 32))], []⟩), 0#5)) ∧
      Crosses (.shflx d a b) [(b, indexAccepts)] (fun _ p ms => (ms.map (fun st =>
        ⟨[(d, laneValue p ms a (st.lane ^^^ ((p.regs.v st.key b).val.toNat % 32)))], []⟩), 0#5)) ∧
      Crosses (.shflu d a b) [(b, indexAccepts)] (fun _ p ms => (ms.map (fun st =>
        let z := (p.regs.v st.key b).val.toNat
        ⟨[(d, laneValue p ms a (if z ≤ st.lane then st.lane - z else st.lane))], []⟩), 0#5)) ∧
      Crosses (.shfld d a b) [(b, indexAccepts)] (fun _ p ms => (ms.map (fun st =>
        let z := (p.regs.v st.key b).val.toNat
        ⟨[(d, laneValue p ms a (if st.lane + z ≤ 31 then st.lane + z else st.lane))], []⟩), 0#5)) ∧
      (∀ l : BitVec 5, Crosses (.bcast d a l) [] (fun _ p ms => (ms.map (fun _ => ⟨[(d, laneValue p ms a l.toNat)], []⟩), 0#5))) ∧
      (∀ f : BitVec 2, Crosses (.ballot d f) [] (fun _ p ms => (ms.map (fun _ => ⟨[(d, ⟨ballotWord p ms f, .z32⟩)], []⟩), 0#5))) ∧
      (∀ g f : BitVec 2, Crosses (.anyF g f) [] (fun _ p ms =>
        (ms.map (fun _ => ⟨[], [(g, ms.any (fun st => p.regs.flag (.strand st.key) f))]⟩), 0#5))) ∧
      (∀ g f : BitVec 2, Crosses (.allF g f) [] (fun _ p ms =>
        (ms.map (fun _ => ⟨[], [(g, ms.all (fun st => p.regs.flag (.strand st.key) f))]⟩), 0#5))) ∧
      Crosses (.redadd d a) [(a, intAccepts)] (fun _ p ms =>
        (ms.map (fun _ => ⟨[(d, ⟨sumWords (ms.map (fun st => (p.regs.v st.key a).val)), .raw⟩)], []⟩), 0#5)) ∧
      Crosses (.redmaxs d a) [(a, intAccepts)] (fun _ p ms =>
        (ms.map (fun _ => ⟨[(d, ⟨maxWords (ms.map (fun st => (p.regs.v st.key a).val)), .raw⟩)], []⟩), 0#5)) ∧
      Crosses (.redfadd d a) [(a, fpAccepts)] (fun _ p ms =>
        (ms.map (fun _ => ⟨[(d, ⟨(redfadd (ms.map (fun st => (p.regs.v st.key a).val))).1, .f32⟩)], []⟩),
          (redfadd (ms.map (fun st => (p.regs.v st.key a).val))).2)) ∧
      Crosses (.scanadd d a) [(a, intAccepts)] (fun _ p ms => (ms.map (fun st =>
        ⟨[(d, ⟨sumWords ((ms.filter (fun z => decide (z.lane ≤ st.lane))).map (fun z => (p.regs.v z.key a).val)), .raw⟩)], []⟩), 0#5))) ∧
  (
    ∀ (d a b : Reg),
      (∀ (i : Instr) (f : MxFmt), (i, f) ∈ [(Instr.mxqE2m1 d a b, MxFmt.e2m1), (.mxqE4m3 d a b, .e4m3), (.mxqE5m2 d a b, .e5m2)] →
        Crosses i (((List.range (Tag.count f.tag)).map (fun j => (regPlus a j, fpAccepts))) ++ (if b = 0#6 then [] else [(b, indexAccepts)]))
          (fun s p ms =>
            let y := mxqCohort f (if b = 0#6 then .rne else .sr) (s.keysOf p)[0] (ms.map (fun st =>
              ⟨(List.range (Tag.count f.tag)).map (fun j => (p.regs.v st.key (regPlus a j)).val), (p.regs.v st.key b).val, elemIndex p st⟩))
            (y.1.map (fun o => ⟨[(d, ⟨o.elems, f.tag⟩), (regPlus d 1, ⟨o.scale, .e8m0x4⟩)], []⟩), y.2))) ∧
      Crosses (.mxdq d a b) [(a, mxTag), (b, scaleTag)] (fun _ p ms =>
        let outs := ms.map (fun st =>
          let z := p.regs.v st.key a
          (List.range (Tag.count z.tag)).map (fun j =>
            let blk := (Tag.count z.tag * st.lane + j) / 32
            (j, mxdqElement z.tag (elemOf .e8m0x4 (laneValue p ms b (blk / 4)).val (blk % 4)) z.val j)))
        (outs.map (fun l => ⟨l.map (fun y => (regPlus d y.1, ⟨y.2.1, .f32⟩)), []⟩),
          outs.foldl (fun fl l => l.foldl (fun fl y => fl ||| y.2.2) fl) 0#5)))

/-- R218: what each check answers, in order, each over the whole access before the next: alignment, then window, name range and range locks,
then translation. A piece in a window is at its place in the part of the calling agent's context; a private one is translated at its place
in the PRIV backing, and reached past the L1. The model's own reading of what the spec leaves open enters (log entries 49, 129). -/
def Obligations.AccessChecks : Prop :=
  ∀ (s : State) (p : Plot) (w : Who) (ea : DWord) (n align : Nat) (store : Bool),
    let answer := s.reach p w ea n align store
    (ea.toNat % align ≠ 0 → answer = .error (illegalEntry ea)) ∧
    (ea.toNat % align = 0 → s.pieceLocs p w (pieces ea n) = none → answer = .error (illegalEntry ea)) ∧
    (∀ r, ea.toNat % align = 0 → s.pieceLocs p w (pieces ea n) = some r →
      if r.any (fun x => x.2.isNone && s.touchesName p.ctx x.1.1.toNat x.1.2) then answer = .error (illegalEntry ea)
      else
        match r.findSome? (fun x => s.lockHit p x.1.1 x.1.2 x.2 store) with
        | some a => answer = .error (.trap .range 0 a)
        | none => answer = s.reachPieces p store r) ∧
    (∀ (a : DWord) (k : Nat) (l : List (DWord × Nat)), match regionOf a with
      | .beyond => s.pieceLocs p w ((a, k) :: l) = none
      | .window win off => s.pieceLocs p w ((a, k) :: l) =
          (s.windowLoc p (keyOf w) win off k).bind (fun y => (s.pieceLocs p w l).map (fun r => ((a, k), some y) :: r))
      | .global _ => s.pieceLocs p w ((a, k) :: l) = (s.pieceLocs p w l).map (fun r => ((a, k), none) :: r)) ∧
    (∀ (a : DWord) (k : Nat) (o : Option Loc), let one := s.reachPieces p store [((a, k), o)]
      let reached := fun (va : Nat) (f : Loc → Loc) =>
        match s.translateFor p va k store with
        | (.at l, s1) => one = .ok ⟨some [(f l, k)], none, s1⟩
        | (.unregistered pa, s1) => one = .ok ⟨none, some (5, BitVec.ofNat 64 pa), s1⟩
        | (.refused, s1) => one = .ok ⟨none, some (8, a), s1⟩
        | (.miss, _) => one = .error (.hold (.ats [⟨va, store⟩]))
        | (.denied, _) => one = .error (.hold (.page [⟨va, store⟩]))
        | (.absent pa, _) => one = .error (.hold (.absent pa))
      (o = none → reached a.toNat id) ∧
      (∀ l, o = some l → l.space = .priv → reached (s.privVa p l) Loc.onPath) ∧
      (∀ l, o = some l → l.space ≠ .priv → one = .ok ⟨some [(l, k)], none, s⟩)) ∧
    (∀ (a b : DWord) (x y : Loc) (s1 s2 : State), s.translateFor p a.toNat 4 store = (.at x, s1) →
      s1.translateFor p b.toNat 4 store = (.at y, s2) →
      s.reachPieces p store [((a, 4), none), ((b, 4), none)] = .ok ⟨some [(x, 4), (y, 4)], none, s2⟩)

/-- LD, LDA and LDI: an access that passes the checks of R218 joins the agent's outstanding loads, and the word retires. -/
def Obligations.LoadsIssue : Prop :=
  ∀ (s : State) (x : Issue) (w : Who) (p : Plot) (ag : Agent) (d a : Reg) (z : Size) (win : Win) (sc : Scope) (off : BitVec 6)
    (i : Instr) (kind : LoadKind) (acq : Bool) (r : Reach),
    (i, kind, acq) ∈ [(Instr.ld d a z win sc off, LoadKind.plain, false), (.lda d a z win sc off, .plain, true),
      (.ldi d a z win sc off, .invariant, false)] →
    Issues s i x w p → p.agent? w = some ag → ag.loads.length < 32 →
    let ea := p.regs.ea w a z win off
    (s.begun x).reach p.counted w ea (sizeBytes z) (alignOf w (sizeBytes z)) false = .ok r →
    exec i s = .next ((r.s.withLoad p w (mkLoad ag p.counted w kind d (sizeBytes z) r.parts ea (narrowScope ea sc) acq false r.mchk)).retired x w)

/-- ST and STL: the bytes of D join the agent's outstanding stores, each with the place it goes to, and the word retires. -/
def Obligations.StoresIssue : Prop :=
  ∀ (s : State) (x : Issue) (w : Who) (p : Plot) (ag : Agent) (d a : Reg) (z : Size) (win : Win) (sc : Scope) (off : BitVec 6)
    (i : Instr) (rel : Bool) (r : Reach),
    (i, rel) ∈ [(Instr.st d a z win sc off, false), (.stl d a z win sc off, true)] →
    Issues s i x w p → p.agent? w = some ag → ag.storeCount < 32 →
    let ea := p.regs.ea w a z win off
    (s.begun x).reach p.counted w ea (sizeBytes z) (alignOf w (sizeBytes z)) true = .ok r →
    exec i s = .next ((r.s.issueStore p.counted w (r.parts.map (fun l => dealBytes l (p.regs.storeBytes w d (sizeBytes z))))
      (narrowScope ea sc) rel r.mchk).retired x w)

/-- ATOM: where the location is the module's own, or host memory that can perform the operation, the operation joins the agent's
outstanding loads with its operands; on host memory INCW is an addition of 1, at scope SYS. -/
def Obligations.AtomsIssue : Prop :=
  ∀ (s : State) (x : Issue) (w : Who) (p : Plot) (ag : Agent) (d a b : Reg) (ar : Bool) (sc : Scope) (i : Instr) (op : AtomOp)
    (l : Loc) (s1 : State),
    (i, op) ∈ [(Instr.atomAdd d a b ar sc, AtomOp.add), (.atomAnd d a b ar sc, .and), (.atomOr d a b ar sc, .or),
      (.atomXor d a b ar sc, .xor), (.atomMins d a b ar sc, .mins), (.atomMaxs d a b ar sc, .maxs), (.atomMinz d a b ar sc, .minz),
      (.atomMaxz d a b ar sc, .maxz), (.atomXchg d a b ar sc, .xchg), (.atomCas d a b ar sc, .cas), (.atomFadd d a b ar sc, .fadd),
      (.atomIncw d a b ar sc, .incw)] →
    Issues s i x w p → p.agent? w = some ag → ag.loads.length < 32 → ag.storeCount < 32 →
    let n := if streamOf w = .uniform ∧ op ≠ .fadd then 8 else 4
    let ea := p.regs.wide w a
    (s.begun x).reach p.counted w ea n n true = .ok ⟨some [(l, n)], none, s1⟩ →
    (l.space ≠ .host → exec i s = .next ((s1.withLoad p w
      { mkLoad ag p.counted w (.atom op (p.regs.zx w b) (p.regs.zx w (regPlus b 1))) d n (some [(l, n)]) ea (narrowScope ea sc) ar ar none with
        pair := false }).retired x w)) ∧
    (l.space = .host → hostAtom op = true → exec i s = .next ((s1.withLoad p w
      { mkLoad ag p.counted w (if op = .incw then .atom .add 1#64 0#64 else .atom op (p.regs.zx w b) (p.regs.zx w (regPlus b 1)))
          d n (some [(l, n)]) ea .sys ar ar none with pair := false }).retired x w)) ∧
    (l.space = .host → hostAtom op = false →
      exec i s = .next (((s.begun x).recordTrap x.plot w ⟨.illegal, 11, ea, x.pc, false⟩).finish x.plot))

/-- FENCE, once the earlier accesses it orders are performed, acts on the caches and retires; PF of an address in a window, or of one that is
locked, has no effect; PF of a translated device address brings the sector nearer. STMX at the last arrival of a locked cohort, both
ranges reached: each member stores its own elements, and its own scales where the block has them. The model's own reading of what the spec
leaves open enters (log entries 42, 43). -/
def Obligations.FencesPrefetchAndStmx : Prop :=
  (
    (∀ (s : State) (x : Issue) (w : Who) (p : Plot) (ag : Agent) (sc : Scope), p.agent? w = some ag → ag.loads = [] →
      (Issues s (.fenceAcq sc) x w p → exec (.fenceAcq sc) s = .next (((s.begun x).acquireAt p.pav sc).retired x w)) ∧
      (Issues s (.fenceRel sc) x w p → ag.stores = [] →
        exec (.fenceRel sc) s = .next (((s.begun x).releaseAt p.pav sc).retired x w)) ∧
      (Issues s (.fenceFull sc) x w p → ag.stores = [] →
        exec (.fenceFull sc) s = .next ((((s.begun x).releaseAt p.pav sc).acquireAt p.pav sc).retired x w)) ∧
      (Issues s (.fenceView sc) x w p → ag.stores = [] →
        exec (.fenceView sc) s = .next (((((s.begun x).releaseAt p.pav sc).acquireAt p.pav sc).syncViews).retired x w))) ∧
    (∀ (s : State) (x : Issue) (w : Who) (p : Plot) (a : Reg) (l2 : Bool), Issues s (.pf a l2) x w p →
      let ea := p.regs.wide w a
      ((∀ va, regionOf ea ≠ .global va) → exec (.pf a l2) s = .next ((s.begun x).retired x w)) ∧
      (∀ va, regionOf ea = .global va → s.touchesName p.ctx va 1 = false →
        ((s.lockHit p ea 1 none true).isSome = true → exec (.pf a l2) s = .next ((s.begun x).retired x w)) ∧
        (∀ l s1, s.lockHit p ea 1 none true = none → (s.begun x).translateFor p.counted va 1 false = (.at l, s1) → l.space = .dev →
          exec (.pf a l2) s = .next ((if l2 then s1.l2Fill l.addr else (s1.l2Fill l.addr).l1Need p.pav (l.addr / 128)).retired x w))))) ∧
  (
    ∀ (s : State) (x : Issue) (k : Nat) (co : BitVec 4) (p : Plot) (d a b : Reg) (sc : Scope) (lead : Strand)
      (le lg : List ((DWord × Nat) × Option Loc)) (re rg : Reach),
      Meets s (.stmx d a b sc) x k co p → mxTag (p.regs.v k d).tag = true → scaleTag (p.regs.v k (regPlus d 1)).tag = true →
      let ms := p.regs.membersOf co
      let w := Who.strand lead.key
      let ea := p.regs.wide w a
      let ga := p.regs.wide w b
      let nb := if (p.regs.v lead.key d).tag = .e2m1x8 then 8 else 4
      ms.find? (fun st => st.lane == 0) = some lead → ms.all (fun st => decide (st.ag.storeCount + stmxCount nb st ≤ 32)) = true →
      ea.toNat % 128 = 0 → ga.toNat % nb = 0 → s.checkPieces p w ea true [(ea, 128)] = .ok le →
      s.checkPieces p w ga true [(ga, nb)] = .ok lg →
      (s.begun x).reachPieces p.counted true le = .ok re → re.s.reachPieces p.counted true lg = .ok rg →
      exec (.stmx d a b sc) s =
        .next ((stmxStores d (narrowScope ea sc) (narrowScope ga sc) nb p.counted ms re rg rg.s).released x k ms))

/-- LOAD_DATA_LANDS: a load that may be performed reads its bytes and writes its destination; STORE_PERFORMED: a store that may be performed
writes its bytes at their places, and is outstanding no more. The model's own reading of what the spec leaves open enters (log entries 47,
126). -/
def Obligations.AccessesPerform : Prop :=
  (∀ (s s1 : State) (id i : Nat) (w : Who) (p : Plot) (a : Agent) (l : PLoad) (ps : List (Loc × Nat)),
    s.plot? id = some p → p.real.agent? w = some a → a.loads[i]? = some l → p.real.mayLand w a l = true → l.parts = some ps →
    l.kind ≠ .cycles → s.dma false ps = (true, s1) → s1.badPart 0 ps = none →
    let r := s1.performLoad p l ps
    exec (.loadDataLands id w i) s = .next ((r.1.modPlot p.id (fun q => q.modBoth (fun g => g.landed w l r.2 false))).finish id)) ∧
  (∀ (s s1 : State) (id i : Nat) (w : Who) (p : Plot) (a : Agent) (y : PStore),
    s.plot? id = some p → p.real.agent? w = some a → a.stores[i]? = some y → p.real.mayPerform w a y = true →
    s.dma true y.span = (true, s1) →
    exec (.storePerformed id w i) s = .next ((((if y.release then s1.releaseAt p.pav y.scope else s1).writeParts p.pav y.scope y.parts).modPlot
      id (fun q => q.modBoth (fun g => g.modAgent w (fun a => { a with stores := a.stores.filter (fun v => v.seq != y.seq) })))).finish id))

/-- VOPEN, VCOMMIT, VQUERY and VRETIRE on a name of the context whose entry reads without error: what they do to the page's entry, to D and to
the flag. VOPEN of a step at or below H changes nothing and gives 0 with the flag 0. LDV: NEWEST and NOWAIT take the newest committed
version whose step is at least that asked, EXACT the one of that step; the load of the slot's bytes is an acquire, and the flag becomes 1.
Where there is none, NOWAIT gives 0 in the flag, and the others wait, or raise STALE where the version can never come. -/
def Obligations.VersionWordsAndLoads : Prop :=
  (
    ∀ (s : State) (x : Issue) (w : Who) (p : Plot) (d a b : Reg) (sc : Scope) (r : VRegion),
      let name := p.regs.wide w a
      let step := p.regs.zx w b
      let e := r.entry (r.pageOf name.toNat)
      let t := s.begun x
      let put := fun (t : State) (f : Regs → Regs) => t.modPlot x.plot (fun q => q.modRegs f)
      s.nameRange p.ctx name.toNat = some r → s.entryBad r (r.pageOf name.toNat) = none →
      (Issues s (.vopen d a b) x w p → e.opened step = true →
        exec (.vopen d a b) s = .next ((put t (fun g => (g.setWide w d 0#64).setFlag w 0#2 false)).retired x w)) ∧
      (∀ k, Issues s (.vopen d a b) x w p → e.opened step = false → t.slotFor r e = some k →
        exec (.vopen d a b) s = .next ((put (t.setVEntry r.num { e with h := some step, slots := e.slots.set k ⟨.opened, step⟩ })
          (fun g => (g.setWide w d (BitVec.ofNat 64 (r.slotAddr e.page k))).setFlag w 0#2 true)).retired x w)) ∧
      (Issues s (.vopen d a b) x w p → e.opened step = false → t.slotFor r e = none →
        exec (.vopen d a b) s = .next (t.waits x w (.version name step true false))) ∧
      (∀ k, Issues s (.vcommit a b sc) x w p → p.drained w = true → e.openSlot step = some k →
        exec (.vcommit a b sc) s = .next ((put ((t.releaseAt p.pav sc).setVEntry r.num { e with slots := e.slots.set k ⟨.committed, step⟩ })
          (fun g => g.setFlag w 0#2 true)).retired x w)) ∧
      (∀ k, Issues s (.vretire a b) x w p → e.openSlot step = some k →
        exec (.vretire a b) s = .next ((put (t.setVEntry r.num { e with slots := e.slots.set k ⟨.free, step⟩ })
          (fun g => g.setFlag w 0#2 true)).retired x w)) ∧
      (Issues s (.vretire a b) x w p → e.openSlot step = none →
        exec (.vretire a b) s = .next ((put t (fun g => g.setFlag w 0#2 false)).retired x w)) ∧
      (Issues s (.vquery d a) x w p →
        exec (.vquery d a) s = .next ((put t (fun g =>
          (g.setWide w d (match e.newest with | some n => n.2 | none => 0xFFFFFFFFFFFFFFFF#64)).setFlag w 0#2 e.newest.isSome)).retired x w))) ∧
  (
    ∀ (s : State) (x : Issue) (w : Who) (p : Plot) (ag : Agent) (d a b : Reg) (z : Size) (sc : Scope) (m : LdvMode) (r : VRegion),
      Issues s (.ldv d a b z sc m) x w p → p.agent? w = some ag →
      let name := p.regs.wide w a
      let step := p.regs.zx w b
      let page := r.pageOf name.toNat
      let t := s.begun x
      s.nameRange p.ctx name.toNat = some r → s.entryBad r page = none → name.toNat % sizeBytes z = 0 →
      (∀ k l s1, s.resolve r (r.entry page) step (m == .exact) = .slot k → ag.loads.length < 32 →
        let va := BitVec.ofNat 64 (r.slotAddr page k + (name.toNat - r.nameBase) % 65536)
        s.lockHit p va (sizeBytes z) none false = none → t.translateFor p.counted va.toNat (sizeBytes z) false = (.at l, s1) →
        exec (.ldv d a b z sc m) s = .next (((s1.modPlot p.id (fun q => q.modRegs (fun g => g.setFlag w 0#2 true))).withLoad p w
          (mkLoad ag p.counted w (.versioned r.num page k) d (sizeBytes z) (some [(l, sizeBytes z)]) va sc true false none)).retired x w)) ∧
      (s.resolve r (r.entry page) step (m == .exact) = .stale →
        exec (.ldv d a b z sc m) s = .next ((t.recordTrap x.plot w ⟨.stale, 0, name, x.pc, false⟩).finish x.plot)) ∧
      (s.resolve r (r.entry page) step (m == .exact) = .wait → m = .nowait →
        exec (.ldv d a b z sc m) s = .next ((t.modPlot x.plot (fun q => q.modRegs (fun g => g.setFlag w 0#2 false))).retired x w)) ∧
      (s.resolve r (r.entry page) step (m == .exact) = .wait → m ≠ .nowait →
        exec (.ldv d a b z sc m) s = .next (t.waits x w (.version name step false (m == .exact)))))

/-- R303: a branch goes to its target, or to the next word, where its condition does not hold; the target must be a clause header, or the word
raises ILLEGAL with DETAIL 1 and the target in srTVAL. CALL writes the link where it is taken. BRX of one strand alone branches as BR.
Where the clause map cannot be read, the entry at the target reports it, not the branch (R386, R392: log 130). R304: JR, RET and CALLR go
to the offset in the register, which must be a clause header; CALLR then writes the link, so that its target is read first. A uniform
value with a bit above bit 31, and an offset that is no header, raise ILLEGAL; a lane register of another tag than RAW, S32 and Z32 raises
FORMAT. The model's own reading of what the spec leaves open enters (log entry 130). -/
def Obligations.BranchesAndJumps : Prop :=
  (
    ∀ (s : State) (x : Issue) (w : Who) (p : Plot) (c : Cond) (o : BitVec 22) (r : Rd Bool),
      let taken := condTrue p.regs w c
      let t := if taken then x.pc + (o.signExtend 32 <<< 2) else x.pc + 4#32
      let enters := r.val = true ∨ r.notes ≠ []
      (s.begun x).checkEntry p.counted t = .ok r →
      (Issues s (.br c o) x w p → enters → exec (.br c o) s = .next (r.s.jumped x w t)) ∧
      (Issues s (.br c o) x w p → ¬enters → exec (.br c o) s = .next (s.traps x w .illegal 1 (t.setWidth 64))) ∧
      (Issues s (.call c o) x w p → enters →
        exec (.call c o) s = .next ((if taken then r.s.regsOf x (fun g => g.link w x.pc) else r.s).jumped x w t)) ∧
      (Issues s (.call c o) x w p → ¬enters → exec (.call c o) s = .next (s.traps x w .illegal 1 (t.setWidth 64))) ∧
      (∀ ag k, w = .strand k → p.agent? w = some ag → ag.clause.isSome = true → r.s.plot? x.plot = some p.counted →
        Issues s (.brx c o) x w p → enters → exec (.brx c o) s = .next (r.s.jumped x w t))) ∧
  (
    ∀ (s : State) (x : Issue) (w : Who) (p : Plot) (i : Instr) (a : Reg) (links : Bool),
      (i, a, links) ∈ [(Instr.jr a, a, false), (.ret, 63#6, false), (.callr a, a, true)] →
      Issues s i x w p →
      (p.regs.zx w a >>> 32 ≠ 0#64 → exec i s = .next (s.traps x w .illegal 11 (p.regs.zx w a))) ∧
      ∀ r, p.regs.zx w a >>> 32 = 0#64 →
        let t := (p.regs.zx w a).setWidth 32
        let enters := r.val = true ∨ r.notes ≠ []
        (s.begun x).checkEntry p.counted t = .ok r →
        (enters → tagsOk indexAccepts p.regs w [a] →
          exec i s = .next ((if links then r.s.regsOf x (fun g => g.link w x.pc) else r.s).jumped x w t)) ∧
        (enters → indexAccepts (p.regs.tagOf w a) = false →
          exec i s = .next (s.traps x w .format 0 (BitVec.ofNat 64 (a.toNat + 256 * Tag.code (p.regs.tagOf w a))))) ∧
        (¬enters → exec i s = .next (s.traps x w .illegal 1 (t.setWidth 64))))

/-- WAIT, once the counts are down to its fields; YIELD and NOP; EXIT, JOIN and LEAVE (R299, R305–R308). -/
def Obligations.WaitExitAndCohorts : Prop :=
  (∀ (s : State) (x : Issue) (w : Who) (p : Plot) (ag : Agent) (ld st cp tl : BitVec 4), Issues s (.wait ld st cp tl) x w p →
    p.agent? w = some ag → waitMet ag.loads.length ld.toNat = true → waitMet ag.storeCount st.toNat = true →
    waitMet p.copies.length cp.toNat = true → waitMet p.tops.length tl.toNat = true →
    exec (.wait ld st cp tl) s = .next ((s.begun x).retired x w)) ∧
  (∀ (s : State) (x : Issue) (w : Who) (p : Plot), Issues s .nop x w p → exec .nop s = .next (s.wroteP x w p.counted)) ∧
  (∀ (s : State) (x : Issue) (w : Who) (p : Plot), Issues s .yield x w p →
    exec .yield s = .next (s.wroteP x w (match w with
      | .front => p.counted
      | .strand _ => p.counted.modAgent w (fun a => { a with yieldNext := true })))) ∧
  (∀ (s : State) (x : Issue) (k : Nat) (p : Plot), Issues s .exit x (.strand k) p →
    exec .exit s = .next (((s.begun x).setPlot (p.counted.modRegs (fun g => (g.modStrand k Strand.exit).unlockCheck))).finish x.plot)) ∧
  (∀ (s : State) (x : Issue) (p : Plot), Issues s .exit x .front p →
    let g := p.regs.modAgent .front (fun a => { a with phase := .exited, clause := none, wait := .none })
    exec .exit s = .next (((s.begun x).setPlot { p.counted with
      regs := g.strands.foldl (fun g st => match popReg st.ag with | some d => g.popped st.key d none | none => g) g }).finish x.plot)) ∧
  (∀ (s : State) (x : Issue) (k : Nat) (p : Plot) (st : Strand) (co : BitVec 4), Issues s (.join co) x (.strand k) p →
    p.regs.strand? k = some st →
    exec (.join co) s = .next (s.wrote x (.strand k) p (fun g =>
      if st.cohort = some co ∨ (g.cohort co).length < 32 then
        ((g.setFlag (.strand k) 0#2 true).modStrand k (fun st => { st with cohort := some co })).unlockCheck
      else g.setFlag (.strand k) 0#2 false))) ∧
  (∀ (s : State) (x : Issue) (k : Nat) (p : Plot), Issues s .leave x (.strand k) p →
    exec .leave s = .next (s.wrote x (.strand k) p (fun g => (g.modStrand k (fun st => { st with cohort := none })).unlockCheck)))

/-- RDV at the last arrival: every member goes on (R308); SPAWN makes 32 strands on a free row, or gives 0 in f0 (R293, R309); REORDER gathers
its strand (R289, R310). The model's own reading of what the spec leaves open enters (log entries 28, 39, 40). -/
def Obligations.RendezvousSpawnReorder : Prop :=
  (∀ (s : State) (x : Issue) (k : Nat) (co : BitVec 4) (p : Plot), Meets s .rdv x k co p → p.drained (.strand k) = true →
    exec .rdv s = .next ((s.begun x).released x k (p.regs.membersOf co))) ∧
  (∀ (s : State) (x : Issue) (k : Nat) (p : Plot) (st : Strand) (a : Reg) (r : Rd Bool), Issues s (.spawn a) x (.strand k) p →
    p.regs.strand? k = some st → st.spawned = false → st.ag.drained = true → tagsOk indexAccepts p.regs (.strand k) [a] →
    let t := (p.regs.v k a).val
    let made := fun (g : Regs) (ok : Bool) =>
      (g.modStrand k (fun st => { st with spawns := st.spawns + 1 })).setFlag (.strand k) 0#2 ok
    let enters := r.val = true ∨ r.notes ≠ []
    (s.begun x).checkEntry p.counted t = .ok r →
    (¬enters → exec (.spawn a) s = .next (s.traps x (.strand k) .illegal 1 (t.setWidth 64))) ∧
    (enters → (r.s.freeRows p.pav p.bed = [] ∨ 16 ≤ p.rows.length) →
      exec (.spawn a) s = .next ((r.s.regsOf x (fun g => made g false)).retired x (.strand k))) ∧
    (∀ row rest, enters → r.s.freeRows p.pav p.bed = row :: rest → p.rows.length < 16 →
      let new := (List.range 32).map (fun i =>
        { st.spawn (fun j => (p.regs.v k (BitVec.ofNat 6 j)).val) (p.nextKey + i) p.rows.length i t 0 with
          area := p.regs.freeAreas.getD i 0 })
      exec (.spawn a) s = .next ((r.s.modPlot x.plot (fun q =>
        { q with
          rows := q.rows ++ [row]
          nextKey := q.nextKey + 32
          regs := new.foldl (fun g y => g.join y.key false) (made { q.regs with strands := q.regs.strands ++ new } true) })).retired
            x (.strand k)))) ∧
  (∀ (s : State) (x : Issue) (k : Nat) (p : Plot) (a : Reg) (n : BitVec 6), Issues s (.reorder a n) x (.strand k) p →
    tagsOk indexAccepts p.regs (.strand k) [a] →
    exec (.reorder a n) s = .next (((s.begun x).setPlot { (p.counted.modStrand k (fun st =>
      { st with sortKey := (p.regs.v k a).val, live := n.toNat + 1, ag := { st.ag with phase := .gathered, since := p.pcyc } })) with
        gatherAt := some (p.gatherAt.getD p.pcyc) }).finish x.plot))

/-- R311: POPQ takes the oldest entry, so that a front thread blocked at a PUSHQ has that issued again, gives 0 in f0 where there is none and
the front thread has exited, and waits otherwise; PEEKQ only reads it; PUSHQ serves the POPQ that has waited longest, puts its word at the
end of a queue of fewer than 64, and waits at 64. The model's own reading of what the spec leaves open enters (log entry 28). -/
def Obligations.DecisionQueue : Prop :=
  (∀ (s : State) (x : Issue) (k : Nat) (p : Plot) (d : Reg), Issues s (.popq d) x (.strand k) p →
    (∀ y rest, p.dq = y :: rest →
      let got := fun (g : Regs) => (g.setV k d ⟨y, .raw⟩).setFlag (.strand k) 0#2 true
      let pushes := p.regs.front.ag.phase = .blocked ∧ p.regs.front.ag.wait = .pushq
      (¬pushes → exec (.popq d) s = .next (s.wroteP x (.strand k) { (p.counted.modRegs got) with dq := rest })) ∧
      (pushes → exec (.popq d) s = .next (s.wroteP x (.strand k)
        { (p.counted.modRegs (fun g => (got g).reenter .front (got g).front.ag.pc)) with dq := rest }))) ∧
    (p.dq = [] → p.regs.front.ag.phase = .exited →
      exec (.popq d) s = .next (s.wrote x (.strand k) p (fun g => g.setFlag (.strand k) 0#2 false))) ∧
    (p.dq = [] → p.regs.front.ag.phase ≠ .exited → exec (.popq d) s = .next (((s.begun x).setPlot p.counted).waits x (.strand k) (.popq d)))) ∧
  (∀ (s : State) (x : Issue) (k : Nat) (p : Plot) (d : Reg), Issues s (.peekq d) x (.strand k) p →
    exec (.peekq d) s = .next (s.wrote x (.strand k) p (fun g =>
      match p.dq with
      | y :: _ => (g.setV k d ⟨y, .raw⟩).setFlag (.strand k) 0#2 true
      | [] => g.setFlag (.strand k) 0#2 false))) ∧
  (∀ (s : State) (x : Issue) (w : Who) (p : Plot) (a : Reg), Issues s (.pushq a) x w p → p.drained w = true →
    p.regs.zx w a >>> 32 = 0#64 → tagsOk indexAccepts p.regs w [a] →
    let y := (p.regs.zx w a).setWidth 32
    (∀ k d, p.regs.longestPop = some (k, d) →
      exec (.pushq a) s = .next (s.wrote x w p (fun g =>
        ((g.setV k d ⟨y, .raw⟩).setFlag (.strand k) 0#2 true).retire (.strand k) 4))) ∧
    (p.regs.longestPop = none → p.dq.length < 64 → exec (.pushq a) s = .next (s.wroteP x w { p.counted with dq := p.dq ++ [y] })) ∧
    (p.regs.longestPop = none → 64 ≤ p.dq.length → exec (.pushq a) s = .next (((s.begun x).setPlot p.counted).waits x w .pushq)))

/-- R312: MOVSR of a register other than srCYC gives D its value; srCYC joins the agent's loads; MOVRS writes srFPF, whose bits above bit 4
must be zero, and in handler mode srTPC; RKSET writes a round key of the launch (R320). The model's own reading of what the spec leaves
open enters (log entries 20, 34). -/
def Obligations.SpecialRegisters : Prop :=
  (∀ (s : State) (x : Issue) (w : Who) (p : Plot) (d : Reg) (n : BitVec 6) (ag : Agent), Issues s (.movsr d n) x w p →
    p.agent? w = some ag →
    (n ≠ 17#6 → exec (.movsr d n) s = .next (((s.begun x).regsOf x (fun g =>
      g.setSpecial w d ((s.begun x).special p.counted w n.toNat))).retired x w)) ∧
    (n = 17#6 → ag.loads.length < 32 → exec (.movsr d n) s = .next (((s.begun x).withLoad p w
      (mkLoad ag p.counted w .cycles d 4 none 0#64 .plot false false none)).retired x w))) ∧
  (∀ (s : State) (x : Issue) (w : Who) (p : Plot) (a : Reg) (ag : Agent), p.agent? w = some ag →
    let y := p.regs.zx w a
    (Issues s (.movrs a 21#6) x w p → y.toNat < 32 →
      exec (.movrs a 21#6) s = .next (s.wrote x w p (fun g => { g with fpf := y.setWidth 32 }))) ∧
    (Issues s (.movrs a 21#6) x w p → 32 ≤ y.toNat → exec (.movrs a 21#6) s = .next (s.traps x w .illegal 11 y)) ∧
    (Issues s (.movrs a 19#6) x w p → ag.handler = true → y.toNat < 2 ^ 32 →
      exec (.movrs a 19#6) s = .next (s.wroteP x w (p.counted.modAgent w (fun a => { a with tpc := y.setWidth 32 })))) ∧
    (Issues s (.movrs a 19#6) x w p → ag.handler = false →
      exec (.movrs a 19#6) s = .next (s.traps x w .illegal 8 (x.word.setWidth 64)))) ∧
  (∀ (s : State) (x : Issue) (w : Who) (p : Plot) (a : Reg) (n : BitVec 2), Issues s (.rkset a n) x w p → p.origin = .grid →
    exec (.rkset a n) s = .next (((s.begun x).modLaunch p.launch (fun l =>
      { l with rk := l.rk.set n.toNat (p.regs.wide w a) n.isLt })).retired x w))

/-- R313–R316: the barrier words on the plot's barrier N. An arrival that is not the last raises ARRIVED; the last sets it to 0 and the phase
on by one modulo 2^31, and wakes those whose wait passes; an arrival at a barrier that is not ACTIVE only counts in STRAY, and gives
INVALID. SYNC arrives and waits on its token, which at the last arrival passes at once; a SYNC issued again waits on the token it keeps.
The model's own reading of what the spec leaves open enters (log entry 28). -/
def Obligations.BarrierWords : Prop :=
  ∀ (s : State) (x : Issue) (w : Who) (p : Plot) (d : Reg) (n : BitVec 4),
    let b := p.bar n.toNat
    let give := fun (q : Plot) (v : Word) (ok : Bool) => q.modRegs (fun g => (g.setR w d .z32 v).setFlag w 0#2 ok)
    let y := p.regs.zx w d
    let t := y.setWidth 32
    let gone := (b.phase.toNat + 2 ^ 31 - t.toNat % 2 ^ 31) % 2 ^ 31
    (Issues s (.barInit d n) x w p → 1 ≤ y.toNat → y.toNat ≤ 1023 → tagsOk indexAccepts p.regs w [d] →
      (p.wtr n.toNat = false → exec (.barInit d n) s = .next (s.wroteP x w (p.counted.setBar n.toNat
        { b with expected := y.toNat, arrived := 0, stray := 0, state := .active }))) ∧
      (p.wtr n.toNat = true → exec (.barInit d n) s = .next (s.traps x w .busy 0 (n.setWidth 64)))) ∧
    (Issues s (.barInit d n) x w p → (y.toNat = 0 ∨ 1023 < y.toNat) → exec (.barInit d n) s = .next (s.traps x w .illegal 11 y)) ∧
    (Issues s (.barArrive d n) x w p → p.drained w = true →
      (b.state = .active → b.arrived + 1 ≠ b.expected → exec (.barArrive d n) s = .next (s.wroteP x w
        (give (p.counted.setBar n.toNat { b with arrived := b.arrived + 1 }) b.phase true))) ∧
      (b.state = .active → b.arrived + 1 = b.expected → exec (.barArrive d n) s = .next (s.wroteP x w
        (give ((p.counted.setBar n.toNat { b with arrived := 0, phase := BitVec.ofNat 32 ((b.phase.toNat + 1) % 2 ^ 31) }).wakeBar n.toNat)
          b.phase true))) ∧
      (b.state ≠ .active → exec (.barArrive d n) s = .next (s.wroteP x w
        (give (p.counted.setBar n.toNat { b with stray := min (b.stray + 1) 63 }) 0x80000000#32 false)))) ∧
    (Issues s (.barWait d n) x w p → y >>> 32 = 0#64 → tagsOk indexAccepts p.regs w [d] →
      ((t.getLsbD 31 = true ∨ b.state ≠ .active) →
        exec (.barWait d n) s = .next (s.wroteP x w (give p.counted 0x80000000#32 false))) ∧
      (t.getLsbD 31 = false → b.state = .active → 1 ≤ gone → gone ≤ 2 ^ 30 - 1 →
        exec (.barWait d n) s = .next (s.wroteP x w (give p.counted b.phase true))) ∧
      (t.getLsbD 31 = false → b.state = .active → ¬(1 ≤ gone ∧ gone ≤ 2 ^ 30 - 1) →
        exec (.barWait d n) s = .next (((s.begun x).setPlot p.counted).waits x w (.barrier n.toNat d t false)))) ∧
    (Issues s (.barSync d n) x w p → p.keptToken w n.toNat = none → p.drained w = true →
      (b.state ≠ .active → exec (.barSync d n) s = .next (s.wroteP x w
        (give (p.counted.setBar n.toNat { b with stray := min (b.stray + 1) 63 }) 0x80000000#32 false))) ∧
      (b.state = .active → b.arrived + 1 ≠ b.expected → b.phase.getLsbD 31 = false → exec (.barSync d n) s = .next
        (((s.begun x).setPlot (p.counted.setBar n.toNat { b with arrived := b.arrived + 1 })).waits x w (.barrier n.toNat d b.phase true))) ∧
      (b.state = .active → b.arrived + 1 = b.expected → b.phase.getLsbD 31 = false →
        let b1 := { b with arrived := 0, phase := BitVec.ofNat 32 ((b.phase.toNat + 1) % 2 ^ 31) }
        exec (.barSync d n) s = .next (s.wroteP x w (give ((p.counted.setBar n.toNat b1).wakeBar n.toNat) b1.phase true)))) ∧
    (∀ u, Issues s (.barSync d n) x w p → p.keptToken w n.toNat = some u →
      let q := p.counted.modAgent w (fun a => { a with wait := .none })
      ((u.getLsbD 31 = true ∨ b.state ≠ .active) → exec (.barSync d n) s = .next (s.wroteP x w (give q 0x80000000#32 false))) ∧
      (u.getLsbD 31 = false → b.state = .active → b.passed u = true → exec (.barSync d n) s = .next (s.wroteP x w (give q b.phase true))) ∧
      (u.getLsbD 31 = false → b.state = .active → b.passed u = false →
        exec (.barSync d n) s = .next (((s.begun x).setPlot q).waits x w (.barrier n.toNat d u true)))) ∧
    (Issues s (.barInval n) x w p → exec (.barInval n) s = .next (s.wroteP x w
      ((p.counted.setBar n.toNat { b with state := .invalid, arrived := 0 }).dismissBar n.toNat))) ∧
    (Issues s (.barQuery d n) x w p →
      exec (.barQuery d n) s = .next (s.wrote x w p (fun g => g.setSpecial w d (p.barWord n.toNat))))

/-- R241–R243: AINIT, AADD and AWAIT on an arrival word of 16 bytes in the context's SPAD part, and RINIT, RWAITF, RREL and RSTAT on a ring's
record of 32 bytes there. An uncorrectable error among the bytes that a word reads is logged and reported to its agent (R392: log 130).
The model's own reading of what the spec leaves open enters (log entries 37, 38, 130). -/
def Obligations.ArrivalWordsAndRings : Prop :=
  ∀ (s : State) (x : Issue) (w : Who) (p : Plot) (d a b : Reg) (off : Nat),
    let t := s.begun x
    let word := fun o => t.spadWord p.counted (off + o)
    let low := (p.regs.zx w b).setWidth 32
    let read := fun (lo len : Nat) (u : State) => u.reportSpad p.counted w 1 (off + lo) len
    p.regs.zx w a = BitVec.ofNat 64 off → off < 2 ^ 32 →
    (off % 16 = 0 → (s.spadLoc p.pav p.ctx off 16).isSome = true →
      (Issues s (.ainit a b) x w p → exec (.ainit a b) s = .next ((((t.setSpadWord p.counted off low).setSpadWord p.counted (off + 4)
        0#32).setSpadWord p.counted (off + 12) 0#32).retired x w)) ∧
      (Issues s (.aadd a b) x w p → p.drained w = true → exec (.aadd a b) s = .next ((read 0 12 (
        let k := (word 4).toNat + low.toNat
        let n := (word 0).toNat
        (t.setSpadWord p.counted (off + 4) (BitVec.ofNat 32 (if n = 0 then k else k % n))).setSpadWord p.counted (off + 8)
          (BitVec.ofNat 32 ((word 8).toNat + (if n = 0 then 0 else k / n))))).retired x w)) ∧
      (Issues s (.await d a b) x w p →
        exec (.await d a b) s = .next (if (word 8 - low).toNat < 2 ^ 31 then
            (read 8 4 (t.regsOf x (fun g => g.setR w d .z32 (word 8)))).retired x w
          else (read 8 4 t).waits x w (.await off low)))) ∧
    (off % 32 = 0 → (s.spadLoc p.pav p.ctx off 32).isSome = true →
      (Issues s (.rinit d a) x w p →
        exec (.rinit d a) s = .next (if t.ringOk p.counted off = true then
          ((read 0 12 ((((t.setSpadWord p.counted (off + 12) 0#32).setSpadWord p.counted (off + 16) 0#32).setSpadWord p.counted (off + 20)
            0#32).regsOf x (fun g => (g.setR w d .z32 0#32).setFlag w 0#2 true))).retired x w)
          else (read 0 12 (t.regsOf x (fun g => (g.setR w d .z32 1#32).setFlag w 0#2 false))).retired x w)) ∧
      (Issues s (.rwaitf d a) x w p →
        exec (.rwaitf d a) s = .next (
          if word 12 ≠ word 16 then (read 0 24 (t.regsOf x (fun g => (g.setR w d .z32 (word 0 + BitVec.ofNat 32
            ((word 4).toNat * ((word 16).toNat % (word 8).toNat)))).setFlag w 0#2 true))).retired x w
          else if word 20 &&& 0xFF#32 ≠ 0#32 then (read 0 24 (t.regsOf x (fun g => g.setFlag w 0#2 false))).retired x w
          else (read 0 24 t).waits x w (.ring off))) ∧
      (Issues s (.rrel a) x w p →
        exec (.rrel a) s = .next (if word 16 ≠ word 12 then
            (read 12 8 ((t.setSpadWord p.counted (off + 16) (word 16 + 1#32)).regsOf x (fun g => g.setFlag w 0#2 true))).retired x w
          else (read 12 8 (t.regsOf x (fun g => g.setFlag w 0#2 false))).retired x w)) ∧
      (Issues s (.rstat d a) x w p →
        exec (.rstat d a) s = .next ((read 12 12 (t.regsOf x (fun g => g.setR w d .z32
          (((word 12 - word 16) &&& 0xFFFF#32) ||| ((word 20 &&& 0xFF#32) <<< 16))))).retired x w)))

/-- TRAP and BRK raise their class with the number in srTVAL (R318); UD and a word that no row decodes raise ILLEGAL, with the row of Table
2-11 in DETAIL and the word in srTVAL (R51, R54, R321). The trap is held, and nothing else of the word is done. The model's own reading of
what the spec leaves open enters (log entry 31). -/
def Obligations.RaisedByWords : Prop :=
  ∀ (s : State) (x : Issue) (w : Who) (p : Plot),
    (∀ n, Issues s (.trap n) x w p → exec (.trap n) s = .next (s.traps x w .trap 0 (n.setWidth 64))) ∧
    (∀ n, Issues s (.brk n) x w p → exec (.brk n) s = .next (s.traps x w .brk 0 (n.setWidth 64))) ∧
    (Issues s .ud x w p → exec .ud s = .next (s.traps x w .illegal 10 (x.word.setWidth 64))) ∧
    (∀ r v, Issues s (.illegalEncoding r v) x w p →
      exec (.illegalEncoding r v) s = .next (s.traps x w .illegal r (x.word.setWidth 64)))

/-- R379: taking a trap writes the agent's srTCAUSE (Table 16-2), srTVAL and srTPC, sets its handler-mode bit and puts its PC at the handler
entry, at a clause boundary; no strand's registers, flags, cohort or slot change, nor any other agent, nor the bank. The errors noted for
the agent so far wait for the end of handler mode (R377: log 128). The model's own reading of what the spec leaves open enters (log entry
128). -/
def Obligations.TrapEntry : Prop :=
  ∀ (g : Regs) (w : Who) (t : Trap) (entry : Word) (a : Agent), g.agent? w = some a →
    (∃ b, (g.takeTrap w t entry).agent? w = some b ∧ b.handler = true ∧ b.pc = entry ∧ b.tpc = t.pc ∧ b.tval = t.tval ∧
      b.tcause = BitVec.ofNat 32 (t.cls.code + 2 ^ 8 * (if w = .front then 1 else 0) + 2 ^ 16 * t.detail) ∧ b.phase = .waiting ∧ b.wait = .none ∧
      b.clause = none ∧ b.trap = none ∧ b.loads = a.loads ∧ b.stores = a.stores ∧ b.mchk = [] ∧ b.later = a.later ++ a.mchk) ∧
    (∀ v, v ≠ w → (g.takeTrap w t entry).agent? v = g.agent? v) ∧
    (g.takeTrap w t entry).strands.map (fun st => (st.key, st.sid, st.row, st.lane, st.cohort, st.regs, st.flags)) =
      g.strands.map (fun st => (st.key, st.sid, st.row, st.lane, st.cohort, st.regs, st.flags)) ∧
    (g.takeTrap w t entry).front.regs = g.front.regs ∧ (g.takeTrap w t entry).front.flags = g.front.flags ∧
    (g.takeTrap w t entry).banks = g.banks ∧ (g.takeTrap w t entry).fpf = g.fpf

/-- R275, R376, R379, R380: a trap that an agent raises holds it at its word; one raised in handler mode halts the plot as well: once the plot
has come to its stop, it is saved, and an error record of reason 9 names the first such trap. TRAP_DELIVERY hands a recorded trap of the
front thread to the handler that the trap vector names, or halts the plot where there is none, and reports the errors that its reads have
met; the order between strands' traps is that of R376. The model's own reading of what the spec leaves open enters (log entries 35, 36,
128). -/
def Obligations.TrapsRecordedAndDelivered : Prop :=
  (∀ (s : State) (id : Nat) (w : Who) (p : Plot) (a : Agent) (t : Trap), s.plot? id = some p → p.agent? w = some a →
    let held := s.modPlot id (fun p => p.modRegs (fun g => g.holdTrap w t))
    (a.handler = false → s.recordTrap id w t = held) ∧
    (a.handler = true → s.recordTrap id w t = held.modPlot id (fun p => { p with halt := some (p.halt.getD (w, t)) }))) ∧
  (∀ (s : State) (p : Plot) (w : Who) (t : Trap), p.halt = some (w, t) → p.haltsNow = true →
    s.haltOne p = ((s.savePlot p).modPlot p.id (fun q =>
      { q with run := .halted, regs := q.real, ck := none, ra := none, batch := [] })).errorRecord p.ctx (s.queueOf p) 0 9 0#32 0#32
        ((causeWord w t).setWidth 64 <<< 32 ||| t.pc.setWidth 64)) ∧
  (∀ (s : State) (p : Plot) (t : Trap) (e : Rd (Option Word)), s.plot? p.id = some p → s.runsPlain p = true →
    p.regs.front.ag.handler = false → p.regs.front.ag.trap = some t → t.recorded = true → s.handlerEntry p .uniform = .ok e →
    let s1 := e.s.raiseNotes p.id .front e.notes
    exec (.trapDelivery p.id true) s = .next ((match e.val with
      | some entry => s1.modPlot p.id (fun q => q.modRegs (fun g => (g.takeTrap .front t entry).settle))
      | none => s1.haltPlot p.id .front t).finish p.id)) ∧
  (∀ (s : State) (p : Plot) (st : Strand) (t : Trap) (e : Rd (Option Word)), s.plot? p.id = some p → s.runsPlain p = true →
    (∀ y ∈ p.regs.strands, y.ag.handler = false) → s.firstTrap p = some (st, t) → p.agent? (.strand st.key) = some st.ag → st ∈ p.regs.strands →
    (t.recorded = true → s.handlerEntry p .lane = .ok e →
      let s1 := e.s.raiseNotes p.id (.strand st.key) e.notes
      exec (.trapDelivery p.id false) s = .next ((match e.val with
        | some entry => s1.modPlot p.id (fun q => q.modRegs (fun g => (g.takeTrap (.strand st.key) t entry).settle))
        | none => s1.haltPlot p.id (.strand st.key) t).finish p.id)) ∧
    (t.recorded = false →
      exec (.trapDelivery p.id false) s = .next { s with issue := some ⟨p.id, .again (.strand st.key), t.pc, 0#32, 4⟩ }))

/-- R319: ERET outside handler mode raises ILLEGAL. In handler mode it clears the handler-mode bit and sets the PC to srTPC: at a clause
header the agent enters that clause as at any entry; else it re-enters the clause of the nearest header below. An srTPC that fails R29, or
that lies in no clause, raises ILLEGAL, and the agent stays in handler mode. Where the code cannot be read, the agent leaves handler mode
and the error is reported to it (R386, R392: log 130). The model's own reading of what the spec leaves open enters (log entries 33, 130). -/
def Obligations.TrapReturn : Prop :=
  ∀ (s : State) (x : Issue) (w : Who) (p : Plot) (a : Agent), Issues s .eret x w p → p.agent? w = some a →
    let t := s.begun x
    let leaves := fun (u : State) (notes : List (Nat × DWord)) =>
      exec .eret s = .next (((u.regsOf x (fun g => (g.modAgent w Agent.leaves).boundary w a.tpc false)).raiseNotes x.plot w notes).finish x.plot)
    let illegal := exec .eret s = .next (s.traps x w .illegal 1 (a.tpc.setWidth 64))
    (a.handler = false → exec .eret s = .next (s.traps x w .illegal 11 (x.word.setWidth 64))) ∧
    (a.handler = true → t.offsetOk p.counted a.tpc = false → illegal) ∧
    (∀ m, a.handler = true → t.offsetOk p.counted a.tpc = true → t.mapBit p.counted a.tpc = .ok m →
      (m.val = true ∨ m.notes ≠ [] → leaves m.s m.notes) ∧
      (∀ h, m.val = false → m.notes = [] → m.s.headerBelow p.counted a.tpc 15 = .ok h →
        (h.val = none → h.notes = [] → illegal) ∧
        (h.val = none → h.notes ≠ [] → leaves h.s h.notes) ∧
        (∀ hw hpc, h.val = some hpc → h.s.codeWord p.counted hpc = .ok hw →
          (hw.notes ≠ [] → leaves hw.s hw.notes) ∧
          (hw.notes = [] → hpc.toNat + 4 + 4 * hdrCnt hw.val ≤ a.tpc.toNat → illegal) ∧
          (hw.notes = [] → a.tpc.toNat < hpc.toNat + 4 + 4 * hdrCnt hw.val →
            exec .eret s = .next ((hw.s.regsOf x (fun g => (g.modAgent w (fun b =>
              { b.leaves with clause := some ⟨hpc, hw.val⟩ })).reenterAs w a.tpc false)).finish x.plot)))))

/-- R276–R278, R281, R283: BUNDLE_FORMATION forms the bundle of the chosen entry of a plot that its bed admits: one ready strand for each home
lane, which issue; the entry's age starts over, and what the others have yielded ends. A bed admits a plot while the plots in flight and
those that stand before it, round-robin, leave one of its eight places. AGE_PROMOTION promotes an entry whose age has reached F, unless
the plot is NOFAIR, and ends its yield. R286–R290, R107: the regrouper releases a full group at an address, or one whose oldest strand has
waited 512 plot cycles, and moves one strand at a time to its slot; a rendezvous that has waited 2^20 pavilion cycles, and a REORDER that
has waited 2^20 plot cycles, raise COHORT in the strands that wait. The model's own reading of what the spec leaves open enters (log
entries 28, 100, 101, 102). -/
def Obligations.BundlesAndRegrouping : Prop :=
  (
    (∀ (s : State) (id : Nat) (p q : Plot) (e : Entry), s.plot? id = some p → s.mayIssue p = true → p.bundle = none →
      let s1 := (s.enterAll id).releaseBlocked id
      s1.plot? id = some q → q.chosenEntry = some e →
      let ms := takeLanes (q.readyAt e.addr)
      (s1.admits q = true → exec (.bundleFormation id) s = .next (((s1.setPlot
        { q with
          bundle := some ⟨ms.map (fun st => st.key)⟩
          issuedAt := s1.words
          regs := { ms.foldl (fun g st => g.modAgent (.strand st.key) Agent.issues) q.regs with
            frontier := (ms.foldl (fun g st => g.modAgent (.strand st.key) Agent.issues) q.regs).frontier.map (fun y =>
              if y.addr == e.addr then { y with age := 0, promoted := none } else { y with yielded := false }) } }).setBed
          { s1.bed q.pav q.bed with row := some q.place }).finish id)) ∧
      (s1.admits q = false → exec (.bundleFormation id) s = .next s1)) ∧
    (∀ (s : State) (p : Plot), s.mayIssue p = true → p.bundle = none →
      let last := (s.bed p.pav p.bed).row
      (s.admits p = true ↔ ((s.onBed p.pav p.bed).filter (fun q =>
        q.id != p.id && s.wantsPlace q && decide (q.turnAfter last < p.turnAfter last))).length + s.inFlight p.pav p.bed < 8)) ∧
    (∀ (s : State) (id : Nat) (addr : Word) (p : Plot), s.plot? id = some p →
      exec (.agePromotion id addr) s = .next (s.setPlot (p.modRegs (fun g => { g with frontier := g.frontier.map (fun e =>
        if e.addr == addr && decide (p.fair ≤ e.age) then
          { e with promoted := if p.nofair then e.promoted else some (e.promoted.getD p.pcyc), yielded := false } else e) }))))) ∧
  (
    ∀ (s : State) (id : Nat) (p : Plot), s.plot? id = some p → s.runsPlain p = true →
      (∀ addr, p.moves = [] → p.gathering = false → p.fullGroup addr = true →
        exec (.regrouperRelease id addr) s = .next ((s.setPlot (p.releaseAt addr)).finish id)) ∧
      (∀ addr, p.moves = [] → (p.exilesAt addr).any (fun st => decide (st.ag.since + 512 ≤ p.pcyc)) = true →
        exec (.exileWaitExpiry id addr) s = .next ((s.setPlot (p.releaseAt addr)).finish id)) ∧
      (∀ m rest, p.moves = m :: rest →
        exec (.regrouperMove id) s = .next ((s.setPlot (({ p with moves := rest } : Plot).modRegs (fun g =>
          (g.modStrand m.key (fun st => { st with row := m.row, lane := m.lane })).unlockCheck))).finish id)) ∧
      (∀ co, let ms := (p.regs.cohort co).filter (fun st => st.ag.phase == .blocked && st.ag.wait == .rendezvous)
        ms.any (fun st => decide (st.ag.blockedAt + 2 ^ 20 ≤ s.cycles p.pav)) = true →
        exec (.rendezvousTimeout id co) s = .next ((ms.foldl (fun s st =>
          s.recordTrap id (.strand st.key) ⟨.cohort, 0, 1#64, st.ag.pc, true⟩) s).finish id)) ∧
      (∀ t, p.gatherAt = some t → t + 2 ^ 20 ≤ p.pcyc →
        exec (.reorderTimeout id) s = .next (((p.regs.strands.filter (fun st => st.ag.phase == .gathered)).foldl (fun s st =>
          s.recordTrap id (.strand st.key) ⟨.cohort, 0, 3#64, st.ag.pc, true⟩) (s.setPlot { p with gatherAt := none })).finish id)))

/-- R277: no other ready entry of the plot is better placed than the chosen one: a promoted entry goes before one that is not, the earlier
promoted before the later; of the others, the higher priority goes first; and of equals the lower offset. The model's own reading of what
the spec leaves open enters (log entry 102). -/
def Obligations.ChosenEntryIsFirst : Prop :=
  ∀ (p : Plot) (e : Entry), p.chosenEntry = some e →
    e ∈ p.regs.frontier ∧ p.entryReady e = true ∧
    ∀ f ∈ p.regs.frontier, p.entryReady f = true →
      match e.promoted, f.promoted with
      | some i, some j => i < j ∨ (i = j ∧ e.addr.toNat ≤ f.addr.toNat)
      | some _, none => True
      | none, some _ => False
      | none, none => p.prioOf f < p.prioOf e ∨ (p.prioOf e = p.prioOf f ∧ e.addr.toNat ≤ f.addr.toNat)

/-- R127–R134: a word of the matrix engine whose tiles, operand words and tags pass their checks joins the plot's tile operations with what it
reads latched, its source ranges locked (for TST, its destination), and the tile's tag set. R124, R128, R134: MATRIX_OP_COMPLETE performs
the plot's first tile operation, ORs its flags into srFPF and drops its locks. TZERO leaves zero in every element; TADD leaves sums, of
S32 elements modulo 2^32; an 8-bit integer block adds its products exactly, modulo 2^32. The model's own reading of what the spec leaves
open enters (log entries 58, 59, 63, 134, 135). -/
def Obligations.MatrixWords : Prop :=
  (
    ∀ (s : State) (x : Issue) (w : Who) (p : Plot) (d a b : Reg) (pr : Pair) (k : BitVec 4) (f32 : Bool),
      let t := s.begun x
      let kb := k.toNat + 1
      let u := p.regs.zx w a
      let v := p.regs.zx w b
      let rows := List.range 64
      let from_ := fun (t : State) (i : Instr) (kind : TileKind) (locks : List (Bool × Range)) (s32 : Bool) =>
        Issues s i x w p → t.tileRoom p w locks.length →
          exec i s = .next ((t.tileIssued p.counted kind locks d.toNat s32).retired x w)
      let now := from_ t
      (tilesIn p [d] = true → t.operandOk p.counted pr true kb v = true → p.tileS32At d.toNat = pairS32 pr →
        (t.operandOk p.counted pr false kb u = true →
          now (.mma d a b pr k) (.mma d.toNat u v none pr kb)
            (t.operandLocks p.counted pr false kb u rows ++ t.operandLocks p.counted pr true kb v rows) (pairS32 pr)) ∧
        (∀ idx, operandFields pr false kb u true = true → t.indexList p.counted (p.regs.zx w (regPlus a 1)) = some idx →
          (∀ i < 64, idx.getD i 0 ≠ 0xFFFF → t.rowOk p.counted pr false kb u (idx.getD i 0) = true) →
          from_ (t.reportBad p.counted (t.badSpan p.counted .spad (p.regs.zx w (regPlus a 1)).toNat 128)) (.mmag d a b pr k) (.mma d.toNat u v (some idx) pr kb)
            (t.operandLocks p.counted pr false kb u (idx.filter (fun j => j != 0xFFFF)) ++ t.operandLocks p.counted pr true kb v rows)
            (pairS32 pr))) ∧
      (tilesIn p [d] = true → now (.tzero d f32) (.tzero d.toNat) [] (!f32)) ∧
      (tilesIn p [d] = true → t.tileWordOk p.counted u = true →
        now (.tld d a f32) (.tld d.toNat u (!f32)) ((t.tileRange p.counted u).map (fun r => (false, r))) (!f32) ∧
        now (.tst d a) (.tst d.toNat u (p.tileS32At d.toNat)) ((t.tileRange p.counted u).map (fun r => (true, r))) (p.tileS32At d.toNat)) ∧
      (tilesIn p [d] = true → p.tileS32At d.toNat = false → now (.tscal d a) (.tscal d.toNat (u.setWidth 32)) [] false) ∧
      (tilesIn p [d, a, b] = true → p.tileS32At b.toNat = p.tileS32At a.toNat →
        now (.tadd d a b) (.tadd d.toNat a.toNat b.toNat (p.tileS32At a.toNat)) [] (p.tileS32At a.toNat))) ∧
  (
    (∀ (s : State) (id : Nat) (p : Plot) (o : TileOp), s.plot? id = some p → s.tileReady p = some o →
      let r := s.runTile p o
      exec (.matrixOpComplete id) s = .next ((((r.1.modPlot id (fun q =>
        { (q.modBoth (fun g => g.orFpf r.2)) with tops := q.tops.filter (fun y => y.id != o.id) })).dropLocks p o.id).endDrained id o.kind).finish id)) ∧
    (∀ (s : State) (p : Plot) (d n : Nat) (f : BitVec 5), p.pav < 320 → ∀ k < 4096, (((s.runTile p ⟨n, .tzero d, 0, f⟩).1.tile p d).dense)[k]? = some 0#32) ∧
    (∀ (s : State) (p : Plot) (d a b n : Nat) (f : BitVec 5), p.pav < 320 → (s.tile p a).bad = [] → (s.tile p b).bad = [] → ∀ k < 4096,
      (((s.runTile p ⟨n, .tadd d a b true, 0, f⟩).1.tile p d).dense)[k]? =
        some ((s.tile p a).dense.getD k 0#32 + (s.tile p b).dense.getD k 0#32)) ∧
    (∀ (u v : List Nat) (i j : Nat) (t : Word), mmaStep ⟨8, by decide⟩ (u, i) (v, j) t =
      (t + BitVec.ofInt 32 ((u.zip v).map (fun y => (BitVec.ofNat 8 y.1).toInt * (BitVec.ofNat 8 y.2).toInt)).sum, 0#5)))

/-- R229–R232, R242: a CPY whose registers pass their checks, read as loads of its agent, takes its record; a record that fails R232 ends the
copy at once, BADREC; one that passes makes a copy with its chunks, its ranges locked. A copy that completes to a ring claims the slots
its image takes, where the ring has them; one without a chunk ends at once, DONE. A GATHER that meets an uncorrectable byte in its list
logs it, raises MCHK 4 and ends ERRORED (R240). R128, R135, R136: a DRAIN whose operands and record pass joins the plot's tile operations,
to read its tile, and its copies. The model's own reading of what the spec leaves open enters (log entries 42, 51, 52, 53). -/
def Obligations.CopiesAndDrainIssue : Prop :=
  (
    ∀ (s s1 : State) (x : Issue) (w : Who) (p : Plot) (i : Instr) (op : CopyOp) (d a b : Reg) (l : Bool) (sc : Scope) (comp comp' : Completion)
      (coords idx : List Nat) (off : Nat) (reg : DWord) (bytes : List Byte),
      (i, op) ∈ [(Instr.cpyTload d a b l sc, CopyOp.tload), (.cpyTstore d a b l sc, .tstore), (.cpyTaddf d a b l sc, .taddf),
        (.cpyLinr d a b l sc, .linr), (.cpyGather d a b l sc, .gather), (.cpyPubl d a b l sc, .publ), (.cpyPull d a b l sc, .pull)] →
      Issues s i x w p → p.drained w = true →
      let t := s.begun x
      let u := p.regs.zx w d
      let v := p.regs.zx w (regPlus d 1)
      let ring := match comp with | .ring .. => true | _ => false
      u >>> 32 = 0#64 → v >>> 32 = 0#64 → t.completionOf p.counted (u.setWidth 32) = some comp →
      t.localRegOk p.counted (v.setWidth 32) (ring || decide (op = .linr)) = true → cpyCoords p.counted w b op = .ok (coords, off, reg) →
      ((op = .publ ∨ op = .pull) → sc = .grove) → t.loadRecord p.counted w (p.regs.wide w a) 64 sc = .ok (s1, bytes) →
      let la := Layout.ofBytes bytes
      let slots := ring && op.fills
      let job : BoxJob := ⟨op, la, coords, [], windowBase (if slots then .spad else locWin (v.setWidth 32)) + BitVec.ofNat 64 (locOff (v.setWidth 32)),
        if locFmt (v.setWidth 32) = 0 then la.fmt else locFmt (v.setWidth 32), (locRnd (v.setWidth 32)).getD .rne, t.keyAt p.counted la.rk,
        p.regs.wide w b, [], true⟩
      let job' : BoxJob := { job with idx := idx }
      let c0 : CopyRec := ⟨p.nextOp, w, comp', .box job', [], 0#5, 0, false, [], [], [], s1.words⟩
      let c : CopyRec := { c0 with chunks := chunksOf (s1.piecesOf p.counted c0 job') }
      let locks := s1.copyLocks p.counted c job'
      let t1 := s1.copyIssued p.counted c locks []
      (s1.recordOk p.counted (keyOfWho w) job slots 0 = false → exec i s = .next ((s1.complete p.counted comp 2).retired x w)) ∧
      (s1.recordOk p.counted (keyOfWho w) job slots 0 = true →
        (∀ o bad, op = .gather → s1.gatherList p.counted off la.box1 = some idx → s1.badSpan p.counted .spad off (4 * la.box1) = some (o, bad) →
          exec i s = .next ((((s1.logError bad 4).raiseMchk p.id w 4 (windowBase .spad + BitVec.ofNat 64 o)).complete p.counted comp 3).retired x w)) ∧
        ((if op = .gather then s1.gatherList p.counted off la.box1 = some idx ∧ s1.badSpan p.counted .spad off (4 * la.box1) = none else idx = []) →
          (match comp with
            | .ring o _ => ∃ n, s1.ringNeed p.counted o job' = some n ∧ comp' = .ring o n ∧ s1.ringFree p.counted o n = true
            | c => comp' = c) →
          p.copies.length < 32 → s1.lockRoom p.pav locks.length = true →
          (c.chunks ≠ [] → exec i s = .next (t1.retired x w)) ∧
          (∀ q, c.chunks = [] → t1.plot? p.id = some q → exec i s = .next (((t1.writeMask q c job').endCopy q c 1).retired x w))))) ∧
  (
    ∀ (s s1 : State) (x : Issue) (p : Plot) (d a b : Reg) (m : DrainMode) (r : DrainRnd) (dst : DrainDst) (comp : Completion) (bytes : List Byte),
      Issues s (.drain d a b m r dst) x .front p → p.drained .front = true →
      let t := s.begun x
      let s32 := decide (dst = .s32)
      let half : DWord → List Nat := fun v => [v.toNat % 2 ^ 32, v.toNat / 2 ^ 32]
      tilesIn p [d] = true → (dst = .s32 → r = .rne) → p.tileS32At d.toNat = s32 →
      t.drainCompletion p.counted (p.regs.s (regPlus a 1)) = some comp →
      t.loadRecord p.counted .front (p.regs.s a) 64 .dev = .ok (s1, bytes) →
      let la := Layout.ofBytes bytes
      let job : BoxJob := ⟨.drain m s32, la, half (p.regs.s b) ++ half (p.regs.s (regPlus b 1)), [], 0#64, if s32 then 1 else 3, r,
        t.keyAt p.counted la.rk, 0#64, [], false⟩
      let c0 : CopyRec := ⟨p.nextOp, .front, comp, .box job, [], 0#5, 0, false, [], [], [], s1.words⟩
      let c : CopyRec := { c0 with chunks := chunksOf (s1.piecesOf p.counted c0 job) }
      let locks := s1.copyLocks p.counted c job
      (s1.recordOk p.counted none job false (drainCode dst) = false →
        exec (.drain d a b m r dst) s = .next ((s1.complete p.counted comp 2).retired x .front)) ∧
      (s1.recordOk p.counted none job false (drainCode dst) = true → p.copies.length < 32 → p.tops.length < 8 → s1.lockRoom p.pav locks.length = true →
        exec (.drain d a b m r dst) s = .next ((s1.copyIssued p.counted c locks
          [⟨p.nextOp + 1, .drainRead d.toNat p.nextOp s32 (decide (m = .storez)), 0, 0#5⟩]).retired x .front)))

/-- R237, R239, R240: COPY_CHUNK_DELIVERED moves the units of a chunk whose bytes are all found, and marks it done; where a page is refused to
a copy that does not reduce, or a byte has no place, the copy ends ERRORED, and so it does, with an MCHK, where a byte is uncorrectable; a
page the host has yet to give is counted and asked for. The model's own reading of what the spec leaves open enters (log entries 44, 55,
56). -/
def Obligations.ChunksDeliver : Prop :=
  ∀ (s : State) (id op chunk : Nat) (p : Plot) (c : CopyRec) (b : BoxJob) (k : Chunk),
    s.copy? id op = some (p, c) → c.chunks.find? (fun k => k.idx == chunk && !k.done) = some k → c.ended = false →
    (k.sent || s.enginesRun p.ctx) = true → s.lockWait p c.id = false → c.job = .box b → b.ready = true →
    let h := (s.hunt p c b chunk).1
    let placed := (s.hunt p c b chunk).2
    let dst := placed.flatMap (fun y => y.dst)
    h.absent = none →
    ((h.err = true ∨ (h.refused ≠ [] ∧ b.reduces = false)) → exec (.copyChunkDelivered id op chunk) s = .next ((s.endCopy p c 3).finish id)) ∧
    (h.err = false → h.refused ≠ [] → b.reduces = true →
      exec (.copyChunkDelivered id op chunk) s = .next ((h.s.chunkDone p.id c.id chunk true).finish id)) ∧
    (h.err = false → h.refused = [] → h.faults ≠ [] →
      exec (.copyChunkDelivered id op chunk) s = .next ((h.s.faultChunk p c b.reduces h.faults).finish id)) ∧
    (∀ s1 s2, h.err = false → h.refused = [] → h.faults = [] → h.waits = [] → h.s.dma false (placed.flatMap (fun y => y.src)) = (true, s1) →
      s1.dma true dst = (true, s2) →
      let m := placed.foldl (b.move p) ⟨s2, 0#5, none⟩
      let t := (m.s.heal dst).modCopy p.id c.id (fun c => { c with fl := c.fl ||| m.fl })
      (m.bad = none → exec (.copyChunkDelivered id op chunk) s = .next ((t.chunkDone p.id c.id chunk false).finish id)) ∧
      (∀ ea l q e, m.bad = some (ea, l) → t.copy? p.id c.id = some (q, e) →
        exec (.copyChunkDelivered id op chunk) s = .next ((((t.logError l 4).raiseMchk p.id c.who 4 ea).endCopy q e 3).finish id)))

/-- R252, R253: a FAB word whose registers pass their checks makes an engine operation with its chunks and its local range locked; a SEND
joins the sends of its member and channel, a RECV the posted buffers. RFENCE goes on once the agent's earlier fabric operations have
ended, and is a release at pod scope; until then it waits (R255). The model's own reading of what the spec leaves open enters (log entries
42, 79, 81). -/
def Obligations.FabricWords : Prop :=
  (∀ (s : State) (x : Issue) (w : Who) (p : Plot) (i : Instr) (mcast : Bool) (pick : Nat → Option FabOp) (op : FabOp) (d a : Reg) (l : Bool)
      (ch : BitVec 6) (comp : Completion) (g : Group) (targets : List Nat),
    (i, mcast, pick) ∈ [(Instr.fabRwrite d a l, false, plainField .rwrite), (.fabRread d a l, false, plainField .rread),
      (.fabRadd d a l, false, raddField), (.fabRatom d a l, false, fun f => (atomOpOf f).map FabOp.ratom),
      (.fabMcast d a l, true, plainField .mcast), (.fabSend d a ch l, false, plainField (.send ch.toNat)),
      (.fabRecv d a ch l, false, plainField (.recv ch.toNat))] →
    Issues s i x w p → p.drained w = true →
    let t := s.begun x
    let u := p.regs.zx w d
    let reg := fun i => p.regs.zx w (regPlus a i)
    u >>> 32 = 0#64 → t.completionOf p.counted (u.setWidth 32) = some comp → (∀ o n, comp ≠ .ring o n) →
    t.fabTargets p.counted mcast (reg 0) = some (g, targets) →
    let remote := if streamOf w = .lane then g.fb + reg 1 else reg 1
    let lea := if streamOf w = .lane then windowBase .spad + reg 2 else reg 2
    let n := (reg 3).toNat % 2 ^ 24
    remote.toNat % 4 = 0 → lea.toNat % 4 = 0 → pick ((reg 3).toNat / 2 ^ 24 % 16) = some op → (reg 3) >>> 28 = 0#64 → n ≠ 0 → n % 4 = 0 →
    op.widthOk n = true → t.linrOk p.counted (keyOfWho w) lea (op.span n) = true →
    let f : FabJob := ⟨op, g.num, targets, remote, lea, n, 0#64⟩
    let locks := (t.eaRange p.counted (keyOfWho w) (some (lea.toNat, lea.toNat + op.span n - 1))).map (fun r => (op.lands, r))
    let s1 := t.copyIssued p.counted ⟨p.nextOp, w, comp, .fab f, f.chunks, 0#5, 0, false, [], [], [], t.words⟩ locks []
    p.copies.length < 32 → t.lockRoom p.pav locks.length = true →
    t.fabRoom p.counted op g.num (targets.headD 0) →
    exec i s = .next ((s1.fabStarted p op g.num (targets.headD 0) p.nextOp).retired x w)) ∧
  (∀ (s : State) (x : Issue) (w : Who) (p : Plot) (l : Bool), Issues s (.fabRfence l) x w p → p.drained w = true →
    let ended := ∀ c ∈ p.copies, c.isFab = true → c.who = w → c.ended = true
    (ended → exec (.fabRfence l) s = .next (((s.begun x).releaseAt p.pav .pod).retired x w)) ∧
    (¬ended → exec (.fabRfence l) s = .next ((s.begun x).waits x w .rfence)))

/-- R257, R258, R269: the COLL words and CONTRIB of a front thread. COPEN of a descriptor that passes Table 10-5 opens a handle; a handle that
is not open is refused in uf0, and so is CONTRIB of a step no later than the last and CREPOST of a step that has not ended. CWAIT goes on
at the end of the step, or with a SHORT, which it takes, and is an acquire; CSTAT reads the status; CCLOSE frees the handle once its
status is written, and waits for the write; CREPOST opens the next step; CONTRIB of a later step than the last makes an engine operation.
The model's own reading of what the spec leaves open enters (log entries 84, 85, 86, 90, 91). -/
def Obligations.CollectiveWords : Prop :=
  ∀ (s : State) (x : Issue) (p : Plot) (d a b : Reg),
    let t := s.begun x
    let flagged := fun (s : State) (ok : Bool) => (s.regsOf x (fun g => g.setFlag .front 0#2 ok)).retired x .front
    (∀ s1 bytes co g h, Issues s (.copen d a b) x .front p → t.loadRecord p.counted .front (p.regs.s a) 128 .dev = .ok (s1, bytes) →
      s1.readDescriptor p.counted bytes = some co → s1.group? p.ctx co.group = some g →
      (g.bucketState co.bucket = .opened → exec (.copen d a b) s = .next ((s1.regsOf x (fun g =>
        (g.setS d 0x10004#64).setFlag .front 0#2 false)).retired x .front)) ∧
      (g.bucketState co.bucket ≠ .opened → (List.range 64).find? (fun h => (s1.coll? p.ctx h).isNone) = some h →
        s1.slotsUsed + co.elems ≤ 1048576 →
        exec (.copen d a b) s = .next (((({ s1 with
          colls := s1.colls ++ [({ co with handle := h } : Coll).openStep (co.isHome g.own) (p.regs.s b) s1.unitCycles] } : State).modGroup p.ctx co.group
            (fun g => g.setBucket co.bucket .opened)).regsOf x (fun g =>
              (g.setS d (BitVec.ofNat 64 h)).setFlag .front 0#2 true)).retired x .front))) ∧
    (s.coll? p.ctx (p.regs.s a).toNat = none →
      (Issues s (.contrib d a b) x .front p → exec (.contrib d a b) s = .next (flagged t false)) ∧
      (Issues s (.cwait d a) x .front p → exec (.cwait d a) s = .next (flagged t false)) ∧
      (Issues s (.cstat d a) x .front p → exec (.cstat d a) s = .next (flagged t false)) ∧
      (Issues s (.cclose a) x .front p → exec (.cclose a) s = .next (flagged t false)) ∧
      (Issues s (.crepost a) x .front p → exec (.crepost a) s = .next (flagged t false))) ∧
    (∀ co, s.coll? p.ctx (p.regs.s a).toNat = some co →
      (Issues s (.cwait d a) x .front p → co.ended = true →
        exec (.cwait d a) s = .next (((t.invalidateL1 p.pav).regsOf x (fun g => (g.setS d co.step).setFlag .front 0#2 true)).retired x .front)) ∧
      (Issues s (.cwait d a) x .front p → co.ended = false → co.shorts = 0 →
        exec (.cwait d a) s = .next (t.waits x .front (.collective co.handle false))) ∧
      (Issues s (.cwait d a) x .front p → co.ended = false → 0 < co.shorts →
        exec (.cwait d a) s = .next ((((t.modColl p.ctx co.handle (fun co => { co with shorts := co.shorts - 1 })).invalidateL1 p.pav).regsOf x
          (fun g => (g.setS d co.step).setFlag .front 0#2 false)).retired x .front)) ∧
      (Issues s (.cstat d a) x .front p →
        exec (.cstat d a) s = .next ((t.regsOf x (fun g =>
          (g.setS d (BitVec.ofNat 64 (co.statusWord co.stateCode))).setFlag .front 0#2 true)).retired x .front)) ∧
      (∀ s1, Issues s (.cclose a) x .front p → t.contributing p.ctx co.handle = false →
        let mine := fun (h : HeldChunk) => h.group == co.group && h.bucket == co.bucket
        let last : Coll := { co with dropped := co.dropped + (s.greenhouse.filter mine).length }
        (t.unitWrite co co.statusAddr (last.statusBlock 4) = (.wait, s1) →
          exec (.cclose a) s = .next (s1.waits x .front (.collective co.handle true))) ∧
        (t.unitWrite co co.statusAddr (last.statusBlock 4) = (.ok, s1) →
        exec (.cclose a) s = .next (flagged (({ s1 with
          colls := s1.colls.filter (fun y => !(y.ctx == p.ctx && y.handle == co.handle))
          greenhouse := s1.greenhouse.filter (fun h => !mine h) } : State).modGroup p.ctx co.group (fun g => g.setBucket co.bucket .closed)) true))) ∧
      (Issues s (.crepost a) x .front p → co.ended = false → exec (.crepost a) s = .next (flagged t false)) ∧
      (∀ g s4, Issues s (.crepost a) x .front p → co.ended = true → t.group? p.ctx co.group = some g →
        let mine := fun (h : HeldChunk) => h.group == co.group && h.bucket == co.bucket
        ((t.greenhouse.filter mine).foldl (fun s h => s.enterHeld g p.ctx co.handle h)
          (({ t with greenhouse := t.greenhouse.filter (fun h => !mine h) } : State).modColl p.ctx co.handle (fun co =>
            co.openStep (co.isHome g.own) (co.step + 1#64) t.unitCycles))).pumpColl p.ctx co.handle = .ok s4 →
        exec (.crepost a) s = .next (flagged s4 true)) ∧
      (∀ l, Issues s (.contrib d a b) x .front p → co.lastContrib = some l → (p.regs.s b).toNat ≤ l.toNat →
        exec (.contrib d a b) s = .next (flagged t false)) ∧
      (∀ comp, Issues s (.contrib d a b) x .front p → (∀ l, co.lastContrib = some l → l.toNat < (p.regs.s b).toNat) →
        p.regs.s d >>> 32 = 0#64 → t.completionOf p.counted ((p.regs.s d).setWidth 32) = some comp → (∀ o n, comp ≠ .ring o n) →
        t.linrOk p.counted none co.contribAddr (co.elems * co.esz) = true → p.drained .front = true →
        let f : FabJob := ⟨.contrib co.handle, co.group, [], 0#64, co.contribAddr, co.elems * co.esz, p.regs.s b⟩
        let locks := (t.eaRange p.counted none (some (co.contribAddr.toNat, co.contribAddr.toNat + co.elems * co.esz - 1))).map (fun r => (false, r))
        p.copies.length < 32 → t.lockRoom p.pav locks.length = true → t.freeTag.isSome = true →
        exec (.contrib d a b) s = .next (flagged ((t.copyIssued p.counted ⟨p.nextOp, .front, comp, .fab f, f.chunks, 0#5, 0, false, [], [], [], t.words⟩
          locks []).modColl p.ctx co.handle (fun co => { co with lastContrib := some (p.regs.s b) })) true)))

/-- R338, R339: the STEP words on a registered group whose own entry is m. SADV moves a LIVE entry to the next step and tells the members; a
LEFT entry does not move. SWAIT holds a LIVE member whose step exceeds m + L. SPEER, SMIN and SLEAD read the view. SABS moves the entry to
a step that is not below its own. The model's own reading of what the spec leaves open enters (log entry 83). -/
def Obligations.StepWords : Prop :=
  ∀ (s : State) (x : Issue) (p : Plot) (d a b : Reg) (g : Group) (m : Member), (p.regs.s a).toNat < 8 →
    s.group? p.ctx (p.regs.s a).toNat = some g → g.members[g.own]? = some m →
    let t := s.begun x
    let y := p.regs.s b
    let res := fun (s : State) (v : DWord) (ok : Bool) => (s.regsOf x (fun g => (g.setS d v).setFlag .front 0#2 ok)).retired x .front
    let ones := 0xFFFFFFFFFFFFFFFF#64
    (Issues s (.sadv d a) x .front p →
      (m.state = .left → exec (.sadv d a) s = .next (res t m.step false)) ∧
      (m.state = .absent → m.step.toNat + 1 + g.lead < g.m.toNat → exec (.sadv d a) s = .next (res t m.step false)) ∧
      ((m.state = .live ∨ (m.state = .absent ∧ g.m.toNat ≤ m.step.toNat + 1 + g.lead)) →
        let next := if m.step = ones - 1#64 then m.step else m.step + 1#64
        exec (.sadv d a) s = .next (res ((t.modGroup g.ctx g.num (fun g => g.moved next .live)).sendStep g next) next true))) ∧
    (Issues s (.swait d a) x .front p →
      (m.state = .live → g.m.toNat + g.lead < m.step.toNat → exec (.swait d a) s = .next (t.waits x .front (.lead g.num))) ∧
      (¬(m.state = .live ∧ g.m.toNat + g.lead < m.step.toNat) →
        exec (.swait d a) s = .next (res t g.minWord (decide (m.state = .live))))) ∧
    (Issues s (.speer d a b) x .front p →
      (∀ q, g.members[y.toNat]? = some q → exec (.speer d a b) s = .next (res t q.step (decide (q.state = .live)))) ∧
      (g.members[y.toNat]? = none → exec (.speer d a b) s = .next (s.traps x .front .illegal 11 y))) ∧
    (Issues s (.smin d a) x .front p → exec (.smin d a) s = .next (res t g.minWord g.min?.isSome)) ∧
    (Issues s (.sabs d a b) x .front p →
      ((m.state = .left ∨ y.toNat < m.step.toNat) → exec (.sabs d a b) s = .next (res t m.step (decide (m.state = .live)))) ∧
      (m.state ≠ .left → m.step.toNat ≤ y.toNat → y = ones → exec (.sabs d a b) s = .next
        (res ((t.modGroup g.ctx g.num (fun g => g.moved m.step .left)).sendStep g y) m.step false)) ∧
      (m.state = .live → m.step.toNat ≤ y.toNat → y ≠ ones → exec (.sabs d a b) s = .next
        (res ((t.modGroup g.ctx g.num (fun g => g.moved y .live)).sendStep g y) y true))) ∧
    (Issues s (.slead d a) x .front p →
      (g.min? = none → exec (.slead d a) s = .next (res t ones false)) ∧
      (∀ n, g.min? = some n → exec (.slead d a) s = .next (res t (BitVec.ofInt 64 ((n : Int) + g.lead - m.step.toNat))
        (decide (m.step.toNat ≤ n + g.lead)))))

/-- R328, R329, R332: a TRL word whose target names a stage of a live trellis of the context. EMIT of a record that there is room for is
accepted, and is a release at dev scope; EMIT at a full queue gives 0 in the flag, and EMITW with a limit waits. A target that is no stage
raises ILLEGAL, a record too deep DEPTH. A target whose tag is none that the word accepts raises FORMAT, whatever the limit of EMITW
holds. QSTAT and DEPTH read the stage. The model's own reading of what the spec leaves open enters (log entry 92). -/
def Obligations.TrellisWords : Prop :=
  ∀ (s : State) (x : Issue) (w : Who) (p : Plot) (d a b : Reg) (tr : Trellis) (k : Nat) (q : Stage),
    let t := s.begun x
    let u := (p.regs.zx w a).setWidth 32
    let depth := p.emitDepth tr w
    let barred := ∃ j qj, p.stageOf tr = some j ∧ tr.stage? j = some qj ∧ qj.succ.getLsbD k = false
    let flagged := fun (s : State) (ok : Bool) => (s.regsOf x (fun g => g.setFlag w 0#2 ok)).retired x w
    (∀ n, w = .strand n → indexAccepts (p.regs.v n a).tag = false →
      let e := s.traps x w .format 0 (BitVec.ofNat 64 (a.toNat + 256 * Tag.code (p.regs.v n a).tag))
      (Issues s (.emit a b) x w p → exec (.emit a b) s = .next e) ∧ (Issues s (.emitw d a b) x w p → exec (.emitw d a b) s = .next e)) ∧
    (tagsOk indexAccepts p.regs w [a] → p.regs.zx w a >>> 32 = 0#64 →
    (s.targetOf p.ctx u = none → Issues s (.emit a b) x w p → exec (.emit a b) s = .next (s.traps x w .illegal 11 (u.setWidth 64))) ∧
    (s.targetOf p.ctx u = some (tr, k) → tr.stage? k = some q →
      (∀ j, p.stageOf tr = some j → (tr.stage? j).isSome = true) →
      (¬barred → q.maxDepth < depth → Issues s (.emit a b) x w p →
        exec (.emit a b) s = .next (s.traps x w .depth 0 (BitVec.ofNat 64 (u.toNat + 2 ^ 32 * (depth % 32))))) ∧
      (¬barred → depth ≤ q.maxDepth → p.drained w = true →
        (Issues s (.emit a b) x w p →
          exec (.emit a b) s = .next (if tr.room k then flagged (t.emitFrom p.counted tr.id k depth (p.regs.recordWords w b)) true
            else flagged t false)) ∧
        (Issues s (.emitw d a b) x w p → tagsOk indexAccepts p.regs w [d] →
          let n := ((p.regs.zx w d).setWidth 32).toNat
          exec (.emitw d a b) s = .next (if tr.room k then flagged (t.emitFrom p.counted tr.id k depth (p.regs.recordWords w b)) true
            else if n = 0 then flagged t false else t.waits x w (.emitw a b n)))) ∧
      (Issues s (.qstat d a) x w p →
        exec (.qstat d a) s = .next ((t.regsOf x (fun g => (match w with
          | .front => g.setS d (BitVec.ofNat 64 (q.recs.length + 2 ^ 32 * (tr.pool - tr.held)))
          | .strand _ => g.setR w d .z32 (BitVec.ofNat 32 q.recs.length)).setFlag w 0#2 (tr.room k))).retired x w)) ∧
      (Issues s (.depth d a) x w p →
        let left := BitVec.ofInt 64 ((q.maxDepth : Int) - depth)
        exec (.depth d a) s = .next ((t.regsOf x (fun g => (match w with
          | .front => g.setS d left
          | .strand _ => g.setR w d .s32 (left.setWidth 32)).setFlag w 0#2 (decide (depth ≤ q.maxDepth)))).retired x w))))

/-- R343–R347, R353: what a packet at the head of its queue does when it is taken, and that the read index then goes on: NOP, SIGNAL, WAITSIG,
BUFDEP, RKINIT and REPAIR complete, each where its read-index word can be written. A WAITSIG whose word is still below holds its queue; an
opcode above 10 puts the queue in ERROR, reason 1. The model's own reading of what the spec leaves open enters (log entries 67, 94, 98). -/
def Obligations.PacketsTaken : Prop :=
  ∀ (s s1 : State) (k : Pk) (x : Queue),
    (Heads s k 0 x s1 → s1.canAdvance k → exec (.packetNop k.ctx k.q) s = .next (s1.advanced k)) ∧
    (∀ s2, Heads s k 3 x s1 → k.wide 8 % 8 = 0 → s1.signal k.ctx (k.va 8) (k.bits 4 0 1 == 0) (k.va 16) = (.ok, s2) → s2.canAdvance k →
      exec (.signal k.ctx k.q) s = .next (s2.advanced k)) ∧
    (∀ s2 l, Heads s k 4 x s1 → k.wide 8 % 8 = 0 → s1.gateRead k.ctx (k.va 8) 8 = (.ok, s2, l) →
      ((BitVec.ofNat 64 (leNat l) - k.va 16).msb = false → s2.canAdvance k →
        exec (.waitsig k.ctx k.q) s = .next (s2.advanced k) ∧ (x.waiting = true → exec (.waitsigPoll k.ctx k.q) s = .next (s2.advanced k))) ∧
      ((BitVec.ofNat 64 (leNat l) - k.va 16).msb = true →
        let held := s2.modQueue k.ctx k.q (fun x => { x with waiting := true })
        exec (.waitsig k.ctx k.q) s = .next held ∧ (x.waiting = true → exec (.waitsigPoll k.ctx k.q) s = .next held))) ∧
    (∀ c, Heads s k 5 x s1 → s1.ctx? k.ctx = some c →
      (let s2 := s1.modCtx k.ctx (fun c => { c with handles := c.handles.filter (fun y => y.num != k.bits 4 0 16) })
       k.bits 4 16 2 = 2 → s2.canAdvance k → exec (.bufdep k.ctx k.q) s = .next (s2.advanced k)) ∧
      (k.bits 4 16 2 < 2 → (∀ h, c.handle? (k.bits 4 0 16) = some h →
          s1.writerDone h = true ∧ (k.bits 4 16 2 = 0 ∨ s1.readersDone h = true)) → s1.invalidateAll.canAdvance k →
        exec (.bufdep k.ctx k.q) s = .next (s1.invalidateAll.advanced k))) ∧
    (let s2 := s1.modCtx k.ctx (fun c =>
       { c with rk := c.rk.mapFinIdx (fun i v _ => if Nat.testBit (k.bits 4 0 4) i then k.va (8 + 8 * i) else v) })
     Heads s k 9 x s1 → s2.canAdvance k → exec (.rkinit k.ctx k.q) s = .next (s2.advanced k)) ∧
    (∀ own y s2, Heads s k 10 x s1 → s1.queue? k.ctx k.q = some own → own.privq = true →
      s1.queue? (k.bits 4 0 6) (k.bits 4 6 4) = some y → k.va 16 = 0#64 →
      let rd := BitVec.ofNat 32 (k.word 8)
      let s3 := s2.modQueue (k.bits 4 0 6) (k.bits 4 6 4) (fun x => { x with rd := rd, error := false, waiting := false })
      (y.error = true → (y.wr - rd).toNat ≤ 2 ^ y.log2 → s1.gateWrite (k.bits 4 0 6) y.readWord (natBytes rd.toNat 4) = (.ok, s2) →
        s3.canAdvance k → exec (.repair k.ctx k.q) s = .next (s3.advanced k)) ∧
      (y.error = false → s1.canAdvance k → exec (.repair k.ctx k.q) s = .next (s1.advanced k))) ∧
    (∀ op, Heads s k op x s1 → 11 ≤ op →
      exec (.unknownOpPacket k.ctx k.q) s = .next (s1.queueError k.ctx k.q op 1 (BitVec.ofNat 32 (k.word 0)) 0))

/-- R189, R322, R324, R348–R350: LAUNCH and TRELLIS complete: a LAUNCH whose fields and argument block pass joins the order of placement,
after every L1 is invalidated where it names a handle of the table; a TRELLIS whose header, entries and seeds pass becomes live. A field
that breaks a limit puts the queue in ERROR with reason 3 and the field's offset. R192, R193, R202, R248, R334, R413: VIEWREG, VERREG and
COLLREG complete: they register a region or a group, or remove one. Before a view region is registered its dirty row-view sectors are
written back; no sector of its extent is left in the L2, and no line of it that was read by a column or tiled view in any L1. The model's
own reading of what the spec leaves open enters (log entries 94, 95, 96, 97). -/
def Obligations.LaunchesAndRegistrations : Prop :=
  (
    ∀ (s s1 s2 : State) (k : Pk) (x : Queue) (c : Context), s1.ctx? k.ctx = some c →
      (∀ args, Heads s k 1 x s1 → s1.launchLimit c k = none →
        let p := k.bits 44 0 6
        let h := k.bits 44 6 5
        let ws := (List.range h).map (fun i => leField args (8 * p + 4 * i) 4)
        let hs := ws.map handleEntry
        s1.gateRead k.ctx (k.va 48) (8 * p + 4 * h) = (.ok, s2, args) → (∀ w ∈ ws, w < 2 ^ 18) →
        c.handles.length + (c.newHandles hs).length ≤ 4096 → hs.all (s2.handleFree c) = true →
        let named := hs.any (fun e => (c.handle? e.1).isSome)
        let s3 := (if named then s2.invalidateAll else s2).addLaunch (s2.newLaunch c k args hs)
        s3.canAdvance k → exec (.launch k.ctx k.q) s = .next (s3.advanced k)) ∧
      (∀ off, Heads s k 1 x s1 → s1.launchLimit c k = some off →
        exec (.launch k.ctx k.q) s = .next (s1.queueError k.ctx k.q 1 3 (BitVec.ofNat 32 (k.word 0)) off)) ∧
      (∀ s3 s4 h e b seeds, Heads s k 2 x s1 → (k.va 8).toNat % 64 = 0 → s1.gateRead k.ctx (k.va 8) 64 = (.ok, s2, h) →
        trellisReserved h = none → s2.trellisLimit h = none →
        let n := leField h 0 2 % 128
        let entries := (List.range n).map (fun i => sliceBytes e i 64)
        let count := leField h 32 8 % 2 ^ 21
        s2.gateRead k.ctx (k.va 8 + 64#64) (64 * n) = (.ok, s3, e) → (∀ y ∈ entries, stageReserved y = none ∧ s3.stageLimit y = none) →
        s3.gateRead k.ctx (BitVec.ofNat 64 (leField h 24 8)) (64 * count) = (.ok, s4, b) →
        (List.range count).mapM (fun i => seedOf n (sliceBytes b i 64)) = some seeds →
        seedsFit (entries.map stageOf) (leField h 8 8 % 2 ^ 23) seeds = true →
        let s5 := s4.addTrellis c k h (entries.map stageOf) seeds
        s5.canAdvance k → exec (.trellis k.ctx k.q) s = .next (s5.advanced k))) ∧
  (
    ∀ (s s1 : State) (k : Pk) (x : Queue),
      (Heads s k 6 x s1 →
        (∀ v, k.bits 4 16 1 = 1 → s1.views.find? (fun r => r.num == k.bits 4 0 10) = some v →
          let s2 : State := { s1 with views := s1.views.map (fun r => if r.num == k.bits 4 0 10 then
            { r with removing := r.removing.or (some (s1.launches.map (fun l => l.id))) } else r) }
          s2.canAdvance k → exec (.viewreg k.ctx k.q) s = .next (s2.advanced k)) ∧
        (k.bits 4 16 1 = 0 →
          let r : ViewRegion := ⟨k.bits 4 0 10, k.wide 8, k.word 16, k.word 20, k.bits 24 0 3, none⟩
          let mine := fun (a : Nat) => r.base ≤ a % 2 ^ 50 ∧ a % 2 ^ 50 < r.base + r.extent
          let dirty := s1.mem.sectors.filter (fun y => decide (mine y.addr) && decide (y.addr < 2 ^ 50))
          let s2 := s1.clearView r
          s1.viewLimit r.num r = none →
          s2.mem.dev = (dirty.foldl State.writeBack s1).mem.dev ∧ (∀ y, y ∈ s2.mem.sectors ↔ y ∈ s1.mem.sectors ∧ ¬mine y.addr) ∧
          (∀ v ∈ s2.pavs, ∀ y ∈ v.l1, mine (128 * y.addr) → 128 * y.addr < 2 ^ 50) ∧
          (State.canAdvance { s2 with views := s2.views ++ [r] } k →
            exec (.viewreg k.ctx k.q) s = .next (State.advanced { s2 with views := s2.views ++ [r] } k)))) ∧
      (Heads s k 7 x s1 →
        (∀ r, k.bits 4 15 1 = 1 → s1.vregs.find? (fun r => r.num == k.bits 4 0 8 && r.ctx == k.ctx) = some r →
          let s2 := s1.writeEntries r r.entries
          let s3 : State := { s2 with vregs := s2.vregs.filter (fun y => y.num != k.bits 4 0 8) }
          s3.canAdvance k → exec (.verreg k.ctx k.q) s = .next (s3.advanced k)) ∧
        (k.bits 4 15 1 = 0 →
          let r : VRegion := ⟨k.bits 4 0 8, k.ctx, k.wide 16, k.bits 8 0 17, k.bits 4 8 4, k.wide 24, k.wide 32, k.wide 40, k.bits 4 12 3, []⟩
          let s2 := s1.writeEntries r ((List.range r.pages).map r.entry)
          let s3 : State := { s2 with vregs := s2.vregs ++ [r] }
          s1.versionLimit r = none → s3.canAdvance k → exec (.verreg k.ctx k.q) s = .next (s3.advanced k))) ∧
      (Heads s k 8 x s1 →
        (∀ g, k.bits 4 3 1 = 1 → s1.group? k.ctx (k.bits 4 0 3) = some g →
          let s2 : State := { s1 with groups := s1.groups.filter (fun g => g.num != k.bits 4 0 3) }
          s2.canAdvance k → exec (.collreg k.ctx k.q) s = .next (s2.advanced k)) ∧
        (∀ s2 l ms, k.bits 4 3 1 = 0 → s1.groupNum? (k.bits 4 0 3) = none → k.bits 4 4 3 ≤ 6 → 26 ≤ k.bits 4 7 6 → k.bits 4 7 6 ≤ 40 →
          1 ≤ k.bits 8 0 13 → k.bits 8 0 13 ≤ 4096 → k.bits 8 16 13 < k.bits 8 0 13 →
          s1.gateRead k.ctx (k.va 16) (16 * k.bits 8 0 13) = (.ok, s2, l) →
          (List.range (k.bits 8 0 13)).mapM (fun i => memberOf s2.unitCycles (sliceBytes l i 16)) = some ms →
          let s3 : State := { s2 with groups := s2.groups ++
            [⟨k.bits 4 0 3, k.ctx, k.bits 8 16 13, k.bits 4 4 3, 2 ^ k.bits 4 7 6, k.va 24, ms, 0#64, [], s2.unitCycles⟩] }
          s3.canAdvance k → exec (.collreg k.ctx k.q) s = .next (s3.advanced k))))

/-- R343, R193, R208, R327, R330, R354: a doorbell moves its queue's write index, and overrunning the queue is an error of reason 3; a view
removal takes effect when no launch that started before it lives; a budget refills at the limit set last when its period of its own clock
is over, and not before; the oldest record's age makes a queue LAUNCHABLE; EMITW ends with f0 clear at its limit, and a wait for a version
with STALE at the silence timer where it still lasts. The model's own reading of what the spec leaves open enters (log entries 41, 48, 97,
120). -/
def Obligations.LauncherEvents : Prop :=
  ∀ (s : State),
    (∀ ctx q wi x, s.queue? ctx q = some x → x.en = true →
      let s1 := s.modQueue ctx q (fun x => { x with wr := wi })
      ((x.error = true ∨ (wi - x.rd).toNat ≤ 2 ^ x.log2) → exec (.doorbell ctx q wi) s = .next s1) ∧
      (x.error = false → 2 ^ x.log2 < (wi - x.rd).toNat → exec (.doorbell ctx q wi) s = .next (s1.queueError ctx q 0 3 0#32 0))) ∧
    (∀ region r l, s.views.find? (fun r => r.num == region) = some r → r.removing = some l → (∀ id ∈ l, s.liveLaunch id = false) →
      exec (.viewRemoveEffect region) s = .next { s.syncViews with views := s.syncViews.views.filter (fun x => x.num != region) }) ∧
    (∀ i : Fin 6,
      let b := s.budgets[i]
      let now := if i = 4 then s.lodgeCycles s.mgmt.eastActive else s.dieCycles 0
      let full : Budget := ⟨b.nextLimit, b.nextLimit, [], b.throttle, [], now⟩
      exec (.budgetPeriod i) s =
        .next (if b.since + (if i = 4 then 1000 else 940) ≤ now then { s with budgets := s.budgets.set i full } else s)) ∧
    (∀ handle stage t q r rs, s.liveTrellis handle = some t → t.stage? stage = some q → q.state = .collecting → q.recs = r :: rs →
      q.timer ≤ s.leadCycles - r.at_ →
      exec (.queueAgeExpiry handle stage) s = .next (s.modTrellis t.id (fun t => t.modStage stage (fun q => { q with state := .launchable })))) ∧
    (∀ plot who p a, s.plot? plot = some p → p.agent? who = some a → a.phase = .blocked → p.run = .running → p.resident = true →
      (∀ x y n, a.wait = .emitw x y n → a.blockedAt + n ≤ s.cycles p.pav →
        exec (.emitwTimeout plot who) s =
          .next ((s.modPlot plot (fun p => p.modRegs (fun g => (g.setFlag who 0#2 false).retire who 4))).finish plot)) ∧
      (∀ name st o e n, a.wait = .version name st o e → s.silenceOf p name = some n → a.blockedAt + n ≤ s.cycles p.pav →
        exec (.versionWaitTimeout plot who) s = .next (if s.versionReady p name st o e then s
          else (s.recordTrap plot who ⟨.stale, 0, name, a.pc, true⟩).finish plot)))

/-- R295, R329–R331, R333, R348, R349, R351: the next plot of the launch in turn goes to a bed that it fits, or eight go to a grove; a
LAUNCHABLE queue in turn starts a group of its THR oldest records; a launch whose plots have all retired, and a trellis that nothing
feeds, leave the module after 1 is added to their signal word. The model's own reading of what the spec leaves open enters (log entries
93, 99, 122). -/
def Obligations.PlacementAndCompletion : Prop :=
  ∀ (s : State),
    (∀ l pav bed s1, s.placeable false (fun w => s.fits w pav bed && s.pavFree pav w.tiles) = some l →
      s.drawTokens (if l.tiles = 0 then 0 else 1) = (true, s1) →
      exec (.plotPlacement pav [bed]) s = .next (s1.placeNext l.id pav bed)) ∧
    (∀ l pav beds s1, beds.length = 8 → pav % 8 = 0 →
      let at_ := beds.zipIdx.map (fun x => (pav + x.2, x.1))
      s.placeable true (fun w => at_.all (fun x => s.fits w x.1 x.2 && s.pavFree x.1 w.tiles)) = some l →
      s.drawTokens (if l.tiles = 0 then 0 else 8) = (true, s1) →
      exec (.plotPlacement pav beds) s = .next (at_.foldl (fun s x => s.placeNext l.id x.1 x.2) s1)) ∧
    (∀ handle stage pav bed t l q s1, s.liveTrellis handle = some t → t.code = some l → t.stage? stage = some q →
      q.state = .launchable → s.liveGroups t < t.groups → s.fits (t.want l q) pav bed = true → s.pavFree pav q.tiles = true →
      s.inTurn (t.want l q) = true → s.stageBefore t l stage q = false →
      s.drawTokens (if q.tiles = 0 then 0 else 1) = (true, s1) →
      let recs := q.recs.take q.thr
      exec (.stageGroupStart handle stage pav bed) s =
        .next (((s1.takeRecords t stage recs.length q).install (t.groupPlot stage q recs) pav bed 1 q.tiles).serveWaiters t.id 8192)) ∧
    (∀ id l s1, s.launch? id = some l → l.retired = l.nx * l.ny * l.nz →
      (l.signal = 0#64 ∧ s1 = s.drainEverything ∨ l.signal ≠ 0#64 ∧ s.drainEverything.signal l.ctx l.signal true 1#64 = (.ok, s1)) →
      exec (.launchCompletion id) s = .next (s1.endLaunch l)) ∧
    (∀ handle t s1, s.liveTrellis handle = some t → s.trellisDone t = true →
      s.drainEverything.signal t.ctx t.signal true 1#64 = (.ok, s1) →
      exec (.trellisCompletion handle) s =
        .next (({ s1 with trellises := s1.trellises.filter (fun x => x.id != t.id) }.untake t.ctx t.queue t.id).endLdi t.id))

/-- R302, R382–R385, R387, R389, R392: run-ahead that has met an end rolls back to its checkpoint; a plot in ROLLBACK with nothing outstanding
is saved, parks, and asks for its pages in one group; the answer makes it RETURNABLE, or is held while its context is not resident; it
returns to a bed with room in its turn, and is HALTED where its record in the save area holds an uncorrectable error. RUNAHEAD_LIMIT,
PLOT_PARK, PAGE_REQUEST_RESPONSE and PLOT_RETURN complete. R359, R361–R363, R422: a translation's completion ends its request; a grant
fills the caches and a refusal is kept for the page, but one that an invalidation has overtaken does neither. An invalidation purges what
it names at once and overtakes the requests for it; its completion is sent when no access that it waits for is left, after the writes that
the pavilions have queued. Dies without power answer neither. ATS_TRANSLATION_COMPLETION, ATS_INVALIDATE_REQUEST and INVALIDATE_COMPLETION
complete. The model's own reading of what the spec leaves open enters (log entries 64, 65, 68, 69, 70, 71, 72, 137). -/
def Obligations.PlotStatesAndTranslations : Prop :=
  (
    ∀ (s : State) (plot : Nat) (p : Plot), s.plot? plot = some p →
      (p.run = .runahead → (p.aheadDone = true ∨ s.isResident p.ctx = false) → exec (.runaheadLimit plot) s = .next (s.setPlot p.rollback)) ∧
      (p.run = .rollback → p.regs.quiet = true →
        let park := fun (q : Plot) => { q with run := RunState.parked, batch := [], prg := some s.xl.nextGroup }
        exec (.plotPark plot) s = .next (((s.savePlot p).modPlot plot park).addGroup p.ctx p.batch (some plot) none)) ∧
      (∀ g, s.xl.groups.find? (fun x => x.id == g.id && x.pasid == g.pasid && x.sent) = some g → g.plot = some plot → g.copy = none →
        let s1 := { s with xl := { s.xl with groups := s.xl.groups.filter (fun h => h.id != g.id) } }
        let s2 := g.pages.foldl (fun s n => s.dropPage g.pasid n.page) s1
        let told := fun (s : State) (ok : Bool) (f : Plot → Plot) (q : Plot) => if q.prg = some g.id ∧ q.run = .parked then
            if s.isResident q.ctx then { f q with run := .returnable, prg := none, heldResponse := none }
            else { q with heldResponse := some (ok, g.pages), prg := none }
          else q
        let served := (s2.modPlot plot (told s2 true (fun q => { q with answered := q.answered ++ g.pages }))).sendGroups
        let refused := (s1.modPlot plot (told s1 false (fun q => { q with refused := (q.refused ++ g.pages.map PageNeed.page).take 64 }))).sendGroups
        (served.rests → exec (.pageRequestResponse g.pasid g.id .success) s = .next served) ∧
        (refused.rests → exec (.pageRequestResponse g.pasid g.id .invalid) s = .next refused) ∧
        (∀ t, served.goOn = .ok t → exec (.pageRequestResponse g.pasid g.id .success) s = .next t) ∧
        (∀ t, refused.goOn = .ok t → exec (.pageRequestResponse g.pasid g.id .invalid) s = .next t)) ∧
      (∀ bed, s.awaitsReturn p = true → s.returnFits p bed = true → s.tokenTurn p = true →
        (∀ l, s.spoiled p = some l → exec (.plotReturn plot bed) s = .next (s.failRestore p l)) ∧
        (∀ s1, s.spoiled p = none → s.drawTokens (if p.tiles.isEmpty || p.token then 0 else 1) = (true, s1) →
          let tiles := (s1.freeTiles p.pav).take p.tiles.length
          let q := { p with bed := bed, rows := (s1.freeRows p.pav bed).take p.rows.length, tiles := tiles, token := !tiles.isEmpty }
          exec (.plotReturn plot bed) s = .next ((((s1.restoreTiles p tiles).invalidateL1 p.pav).setPlot q.resume).finish plot)))) ∧
  (
    ∀ (s : State),
      (∀ (q : AtsReq), s.xl.reqs.find? (fun x => x.id == q.id) = some q →
        let s1 := { s with xl := { s.xl with reqs := s.xl.reqs.filter (fun x => x.id != q.id) } }
        let s2 := s1.dropPage q.pasid q.page
        let kept : State := { s2 with xl := { s2.xl with denied := s2.xl.denied ++ [⟨q.pasid, q.page⟩] } }
        (q.stale = true → ∀ r, exec (.atsTranslationCompletion q.id r) s = .next s1) ∧
        (∀ addr log2 rd wr, q.stale = false →
          let filled := s1.fillAtc q (grantEntry q addr log2 rd wr)
          (filled.rests → exec (.atsTranslationCompletion q.id (.grant addr log2 rd wr)) s = .next filled) ∧
          (∀ t, filled.goOn = .ok t → exec (.atsTranslationCompletion q.id (.grant addr log2 rd wr)) s = .next t)) ∧
        (∀ r, q.stale = false → r = .unsupported ∨ r = .abort →
          (kept.rests → exec (.atsTranslationCompletion q.id r) s = .next kept) ∧
          (∀ t, kept.goOn = .ok t → exec (.atsTranslationCompletion q.id r) s = .next t))) ∧
      (∀ itag pasid every va log2, s.mgmt.powered = true → ∃ t, exec (.atsInvalidateRequest itag pasid every va log2) s = .next t ∧
        let lo := va.toNat / 2 ^ log2 * 2 ^ log2
        let x : InvRange := ⟨pasid, every, lo, lo + 2 ^ log2⟩
        (∀ v ∈ t.pavs, ∀ e ∈ v.atc, x.hitsEntry e = false) ∧ (∀ g ∈ t.xl.grove, x.hitsEntry g.2 = false) ∧
        (∀ e ∈ t.xl.device, x.hitsEntry e = false) ∧ (∀ d ∈ t.xl.denied, x.hitsPage d.pasid d.page = false) ∧
        (∀ q ∈ t.xl.reqs, x.hitsPage q.pasid q.page = true → q.stale = true) ∧
        t.xl.invals = s.xl.invals ++ [⟨itag, 0, s.dieCycles 0⟩] ∧ t.mem = s.mem) ∧
      (∀ itag v, s.mgmt.powered = true → v ∈ s.xl.invals → v.itag = itag → s.waitsFor itag = false →
        let s1 := (s.pavs.map Pavilion.num).foldl State.drainAll s
        exec (.invalidateCompletion itag) s =
          .next (State.emit { s1 with xl := { s1.xl with invals := s1.xl.invals.filter (fun v => v.itag != itag) } } (.invalidateDone itag))) ∧
      (s.mgmt.powered = false → ∀ itag pasid every va log2, exec (.atsInvalidateRequest itag pasid every va log2) s = .next s ∧
        exec (.invalidateCompletion itag) s = .next s))

/-- R250–R251, R254, R256: a request of a group that this module belongs to is served, each RADD, RATOM and SEND once, and answered; a request
applied before is answered as before and does nothing else. An address refused by the host is answered as refused. The model's own reading
of what the spec leaves open enters (log entries 76, 77, 78, 80). -/
def Obligations.RequestsServed : Prop :=
  ∀ (s : State) (h : FabHdr) (g : Group), s.groupNum? h.group = some g →
    let seen := fun (t : State) => t.fab.applied.filter (fun x => !(x.src == h.src && x.tag == h.tag && x.gen == h.gen))
    let answered := fun (t : State) (r : ReplyBody) => t.sendOn h.src 1 (fun via => .reply h.src via h.tag h.gen r)
    let once := fun (t : State) (r : ReplyBody) => answered { t with fab := { t.fab with applied := ⟨h.src, h.tag, h.gen, r, t.unitCycles⟩ :: seen t } } r
    (∀ r, s.remembered h = some r → ∀ va data fmt n ch, exec (.rwriteRequest h va data) s = .next (answered s r) ∧
      exec (.mcastRequest h va data) s = .next (answered s r) ∧
      (∀ (op : BitVec 4) o m b c, atomOpOf op.toNat = some o → (FabOp.ratom o).widthOk m = true →
        exec (.ratomRequest h va op m b c) s = .next (answered s r)) ∧
      exec (.raddRequest h va fmt data) s = .next (answered s r) ∧
      exec (.rreadRequest h va n) s = .next (answered s r) ∧
      exec (.sendMessage h ch data) s = .next (answered s r)) ∧
    (s.remembered h = none →
      (∀ va data t, s.gateWrite g.ctx va data = (.ok, t) →
        exec (.rwriteRequest h va data) s = .next (answered t (.ack data.length)) ∧
        exec (.mcastRequest h va data) s = .next (answered t (.ack data.length))) ∧
      (∀ va data x t, s.gateWrite g.ctx va data = (.refused x, t) →
        exec (.rwriteRequest h va data) s = .next (answered t .refused)) ∧
      (∀ va n t l, s.gateRead g.ctx va n = (.ok, t, l) → exec (.rreadRequest h va n) s = .next (answered t (.data l))) ∧
      (∀ va (fmt : BitVec 4) data t l, fmt = 1#4 ∨ fmt = 3#4 ∨ fmt = 4#4 →
        s.gateUpdate g.ctx va data.length (raddBytes fmt.toNat data) = (.ok, t, l) →
        exec (.raddRequest h va fmt data) s = .next (once t (.ack data.length))) ∧
      (∀ va (op : BitVec 4) o n b c t l, atomOpOf op.toNat = some o → (FabOp.ratom o).widthOk n = true →
        (s.gateFind g.ctx va n true).parts.any (fun x => x.1.space == .host) = false →
        s.gateUpdate g.ctx va n (fun old => natBytes (atomNew o n (leNat old) b.toNat c.toNat) n) = (.ok, t, l) →
        exec (.ratomRequest h va op n b c) s = .next (once t (.data l))) ∧
      (∀ (ch : BitVec 6) data q p c f t parts, s.pruneFab.fab.posted.find? (fun x => x.is g.ctx ch.toNat g.num h.member) = some q →
        s.pruneFab.copy? q.plot q.copy = some (p, c) → c.job = .fab f → s.pruneFab.isResident p.ctx = true → data.length ≤ f.bytes →
        s.pruneFab.fabLocal p c f.lea data.length true = .ok (t, some parts) →
        exec (.sendMessage h ch data) s =
          .next (once (((t.engineWrites p.pav parts data).fabDone p.id c.id 0 data.length).finish p.id).pruneFab (.ack data.length))) ∧
      (∀ (ch : BitVec 6) data, s.pruneFab.fab.posted.find? (fun x => x.is g.ctx ch.toNat g.num h.member) = none →
        exec (.sendMessage h ch data) s = .next (s.pruneFab.sendOn h.src 1 (fun via => .notReady h.src via h.tag h.gen))))

/-- R245, R249–R251, R391, R421, R422: what answers, timers and ports do: FABRIC_REPLY, RECEIVER_NOT_READY_REPLY, CLOSED_REPLY, RESYNC_ANSWER,
BACKOFF_EXPIRY, REQUEST_RETRY_TIMEOUT, DEDUP_MEMORY_EXPIRY, RELAY_FORWARD and LINK_LEVEL_RETRY complete. The answer that matches a tag and
its generation settles its chunk and frees the tag under the next generation; any other is discarded and counted. Silence of 2^18 cycles
sends the request again, up to eight attempts; a receiver that is not ready makes it wait its backoff, which doubles up to 2^20 cycles;
what was applied is forgotten after 2^22, and nothing else with it. A relayed message goes on while the dies have power and its port
lives, and is lost where they have not; a link-level retry counts at a port that is wired, and nowhere else. The model's own reading of
what the spec leaves open enters (log entries 73, 74, 75, 82). -/
def Obligations.RequesterAndPorts : Prop :=
  ∀ (s : State) (tag : BitVec 12) (gen : BitVec 4),
    ((∀ t, s.tag? tag = some t → t.gen ≠ gen) →
      let s1 := { s with fab := { s.fab with staleReply := satInc s.fab.staleReply } }
      (∀ r, exec (.fabricReply tag gen r) s = .next s1) ∧ exec (.receiverNotReadyReply tag gen) s = .next s1 ∧
      exec (.closedReply tag gen) s = .next s1 ∧ exec (.resyncAnswer tag gen) s = .next s1) ∧
    (∀ t, s.tag? tag = some t → t.gen = gen → t.landing = none → t.tag = tag →
      (t.owner = .unit → (∀ r, exec (.fabricReply tag gen r) s = .next ((s.unitEnds t false).releaseTag tag)) ∧
        exec (.closedReply tag gen) s = .next ((s.unitEnds t false).releaseTag tag)) ∧
      (∀ plot copy chunk p c f, t.owner = .copy plot copy chunk → s.copy? plot copy = some (p, c) → c.job = .fab f → c.ended = false →
        (∀ n, exec (.fabricReply tag gen (.ack n)) s =
          .next ((((s.fabDone plot copy chunk n).releaseTag tag).finish plot).pruneFab)) ∧
        (exec (.fabricReply tag gen .errored) s = .next ((((s.endCopy p c stErrored).releaseTag tag).finish plot).pruneFab)) ∧
        (exec (.fabricReply tag gen .refused) s =
          .next ((((if f.op.mayPart then s.chunkDone plot copy chunk true else s.endCopy p c stErrored).releaseTag tag).finish plot).pruneFab)) ∧
        (exec (.closedReply tag gen) s = .next ((((s.endCopy p c stErrored).releaseTag tag).finish plot).pruneFab)) ∧
        (∀ d t1 parts, (s.pav p.pav).parts.contains p.ctx = true →
          s.fabLocal p c (f.lea + BitVec.ofNat 64 (f.cut chunk).1) d.length true = .ok (t1, some parts) →
          exec (.fabricReply tag gen (.data d)) s =
            .next (((((t1.engineWrites p.pav parts d).fabDone plot copy chunk d.length).releaseTag tag).finish plot).pruneFab))) ∧
      (t.waiting = false → exec (.receiverNotReadyReply tag gen) s =
        .next ((match t.owner with | .copy plot copy _ => s.faultedAt plot copy | .unit => s).modTag tag
          (fun t => { t with waiting := true, sentAt := s.unitCycles }))) ∧
      (t.waiting = true → t.sentAt + t.backoff ≤ s.unitCycles →
        let t1 := { t with waiting := false, sentAt := s.unitCycles, backoff := min (2 * t.backoff) (2 ^ 20), attempts := 1 }
        exec (.backoffExpiry tag) s = .next ((s.modTag tag (fun _ => t1)).transmit t1)) ∧
      (t.waiting = false → t.sentAt + 2 ^ 18 ≤ s.unitCycles → t.attempts < 8 →
        let t1 := { t with sentAt := s.unitCycles, attempts := t.attempts + 1 }
        exec (.requestRetryTimeout tag) s = .next ((s.modTag tag (fun _ => t1)).transmit t1))) ∧
    (∀ src, ∃ l, exec (.dedupMemoryExpiry src tag gen) s = .next { s with fab := { s.fab with applied := l } } ∧
      ∀ x, x ∈ l ↔ x ∈ s.fab.applied ∧ ¬(x.src = src ∧ x.tag = tag ∧ x.gen = gen ∧ x.at_ + 2 ^ 22 ≤ s.unitCycles)) ∧
    (∀ src dst msg, exec (.relayForward src dst msg) s =
      .next (if s.mgmt.powered = true ∧ s.portLive dst = true then s.emit (.forward dst src dst msg) else s)) ∧
    (∀ port, exec (.linkLevelRetry port) s =
      .next (if portWired port then s.modPort port (fun p => { p with retry := satInc p.retry }) else s))

/-- R335–R337, Table 13-9: what reaches a group's view. A step message raises its member's step and makes it LIVE, but one of an ABSENT member
whose step is below m − L is answered RESYNC; all ones makes it LEFT; a presence message only counts as heard; a LIVE member silent for
the silence timer is ABSENT; presence goes out every 2^24 cycles while a bound launch lives; RESYNC makes the own entry ABSENT. The
model's own reading of what the spec leaves open enters (log entry 83). -/
def Obligations.ProgressEvents : Prop :=
  ∀ (s : State) (h : FabHdr) (g : Group),
    (s.groupNum? h.group = some g → h.member < g.members.length → h.member ≠ g.own →
      let to_ := fun (g1 : Group) => s.modGroup g.ctx g.num (fun _ => g1)
      let answered := fun (s : State) => s.sendOn h.src 1 (fun via => .reply h.src via h.tag h.gen (.ack 0))
      let ack := fun (g1 : Group) => answered (to_ g1)
      (∀ m step, g.members[h.member]? = some m →
        (m.state ≠ .left → step = 0xFFFFFFFFFFFFFFFF#64 →
          exec (.stepMessage h step) s = .next (ack (g.modMember h.member (fun m => { m with state := .left })).settle)) ∧
        (m.state = .live ∨ (m.state = .absent ∧ g.m.toNat ≤ step.toNat + g.lead) → step ≠ 0xFFFFFFFFFFFFFFFF#64 → m.step.toNat < step.toNat →
          exec (.stepMessage h step) s =
            .next (ack (g.modMember h.member (fun m => { m with step := step, state := .live, heard := s.unitCycles })).settle)) ∧
        (m.state = .absent → step.toNat + g.lead < g.m.toNat → step ≠ 0xFFFFFFFFFFFFFFFF#64 → ∃ g1,
          (∃ x, g1.members[h.member]? = some x ∧ x.state = .absent) ∧
          exec (.stepMessage h step) s = .next ((to_ g1).sendOn h.src 1 (fun via => .resync h.src via h.tag h.gen))) ∧
        (m.state ≠ .left → exec (.presenceMessage h) s = .next (answered (s.modGroup g.ctx g.num (fun g => g.onPresence h.member s.unitCycles)))))) ∧
    (s.groupNum? h.group = some g →
      (∀ i m, g.members[i]? = some m → m.state = .live → m.heard + g.silence ≤ s.unitCycles →
        exec (.silenceTimerExpiry h.group i) s =
          .next (s.modGroup g.ctx g.num (fun g => (g.modMember i (fun m => { m with state := .absent })).settle))) ∧
      (s.bound g = true → g.sentAt + 2 ^ 24 ≤ s.unitCycles →
        let heard := fun (g : Group) => g.modMember g.own (fun m => { m with heard := s.unitCycles })
        exec (.presenceSend h.group) s =
          .next ((s.modGroup g.ctx g.num (fun g => { heard g with sentAt := s.unitCycles })).broadcast g .presence)) ∧
      (∀ t st, s.tag? h.tag = some t → t.gen = h.gen → t.body = .step st → t.group = h.group →
        exec (.resyncAnswer h.tag h.gen) s =
          .next ((s.modGroup g.ctx g.num (fun g => (g.modMember t.member (fun m => { m with failed := false })).selfAbsent)).releaseTag h.tag)))

/-- R258–R268: the reduction unit's events: CONTRIBUTION_CHUNK, IMAGE_CHUNK, SHORT_MESSAGE, QUORUM_TIMER_EXPIRY and COLL_EMIT_RETRY complete.
A chunk for an open tag enters the step it is for, once, and is acknowledged; one for the next step is held where there is room; one two
steps ahead is answered not-ready, one for a closed tag CLOSED. The timer closes a step that has its floor, or sends SHORT and starts
again. After each the unit goes on with the results, records and status it owes, where it owes any. The model's own reading of what the
spec leaves open enters (log entries 84, 85, 87, 89). -/
def Obligations.CollectiveEvents : Prop :=
  ∀ (s : State) (h : FabHdr) (g : Group), s.groupNum? h.group = some g →
    let told := fun (s : State) (m : Option Nat → Out) => s.sendOn h.src 1 m
    let ack := fun (n : Nat) (via : Option Nat) => Out.reply h.src via h.tag h.gen (.ack n)
    let ends := fun (i : Instr) (u : State) (bucket : Nat) =>
      ((∀ c ∈ u.colls, c.rests = true) → exec i s = .next u) ∧ ∀ t, u.pumpTag h.group bucket = .ok t → exec i s = .next t
    let pumps := fun (i : Instr) (u : State) (ctx handle : Nat) =>
      ((∀ c ∈ u.colls, c.rests = true) → exec i s = .next u) ∧ ∀ t, u.pumpColl ctx handle = .ok t → exec i s = .next t
    (∀ (x : ContribHdr) data,
      let i := Instr.contributionChunk h x data
      (g.bucketState x.bucket = .closed → ends i (told s (fun via => .closed h.src via h.tag h.gen)) x.bucket) ∧
      (∀ c, g.bucketState x.bucket = .opened → s.collOf g x.bucket = some c → c.agrees g.own x data.length = true → h.member < c.n →
        let chunk : HeldChunk := ⟨h.group, x.bucket, h.member, x.step, x.chunk, false, data⟩
        (s.knows c chunk = true → ends i (told s (ack data.length)) x.bucket) ∧
        (s.knows c chunk = false → x.step = c.step → c.closed = false → ends i (told (s.enterChunk g c chunk) (ack data.length)) x.bucket) ∧
        (s.knows c chunk = false → x.step.toNat = c.step.toNat + 1 → s.greenRoom h.group x.bucket data.length = true →
          ends i (told (s.hold chunk) (ack data.length)) x.bucket) ∧
        (s.knows c chunk = false → c.step.toNat + 1 < x.step.toNat → ends i (told s (fun via => .notReady h.src via h.tag h.gen)) x.bucket))) ∧
    (∀ bucket step msg c i recs, g.bucketState bucket = .opened → s.collOf g bucket = some c → c.readImage msg = some (i, recs) →
      s.knows c ⟨h.group, bucket, h.member, step, i.first / 64, true, msg⟩ = false → step = c.step →
      let put := (s.modColl c.ctx c.handle (fun c => (c.applyImage h.member i recs).mark ⟨h.member, i.first / 64, true, step⟩))
      ends (.imageChunk h bucket step msg) (told put (ack msg.length)) bucket) ∧
    (∀ bucket step, h.member < g.members.length → h.member ≠ g.own →
      ends (.shortMessage h bucket step) (told (s.takeShort h.group bucket step) (ack 0)) bucket) ∧
    (∀ ctx handle c, s.coll? ctx handle = some c → s.group? ctx c.group = some g → c.timer ≠ 0#64 → c.closed = false →
      c.timerAt + c.timer.toNat ≤ s.unitCycles →
      (c.floor ≤ c.wholes g.own → pumps (.quorumTimerExpiry ctx handle) (s.closeStep g c) ctx handle) ∧
      (c.wholes g.own < c.floor →
        let again := (s.modColl ctx handle (fun c => { c with timerAt := s.unitCycles })).broadcast g (.short c.bucket c.step)
        pumps (.quorumTimerExpiry ctx handle) (again.takeShort c.group c.bucket c.step) ctx handle)) ∧
    (∀ ctx handle, pumps (.collEmitRetry ctx handle) s ctx handle)

/-- R20, R364, R365, R372, R373, R396: a claim is the firmware's work. Of it and the claims of the same lodge cycle from masters that go
before its own, the first that names the nonce and passes the policy makes its sender the owner, where there is none, with its keys,
raises EPOCH and draws a nonce; with an owner, or with no such claim, nothing changes; during a takeover the answer is busy. The handover
with RESET ends with its successor as the owner, no context, and SPAD, CSP, tiles and translation caches empty. R354, R366, R374: a write
of OI_CMD by another master than the owner is refused, and counted as such; beside the firmware's work, which spends its budget and the
lodge's time, nothing else changes. R355, R366–R371, R374, R387–R389, R393, R395–R397: the owner's commands. With the owner's bits in
order and no update, handover or takeover under way, each is done and commits its version, OI_SEQ counts it and RESULT reads its code; a
statement, an image or an identity whose ECDSA or LMS signature fails is refused, with code 3, 4 or 5; one whose bytes have an
uncorrectable error is refused with code 2, and the error is logged. R395–R397: the switch of a live update. The active lodge commits a
final version, which holds all that the table records. Where the standby accepts the schema, it imports the table, the lodges change
places and the command ends with 0; where it does not, the active lodge stays and the command ends with 7. The model's own reading of what
the spec leaves open enters (log entries 17, 48, 109, 110, 111, 112, 113, 118, 139). -/
def Obligations.OwnershipAndUpdate : Prop :=
  (
    ∀ (s : State),
      (∀ m nonce ek lk, s.takingOver = false → ∃ t, exec (.claim m nonce ek lk) s = .next t ∧
        (let before := fun k => s.claimsNow.filter (fun c => masterCode c.m == k && decide (k < masterCode m))
         let first := (before 1 ++ before 2 ++ [Claim.mk m nonce ek lk]).find? (fun c => c.nonce == s.mgmt.nonce && s.mgmt.allows c.m)
         (∀ c, first = some c → s.mgmt.owner = none → s.mgmt.moving = none →
           t.mgmt.owner = some c.m ∧ t.mgmt.keys = some (c.ecdsa, c.lms) ∧ t.mgmt.epoch = s.mgmt.epoch + 1#8 ∧
           t.mgmt.nonce = Config.nonce s.free ∧ t.mgmt.version = s.mgmt.version + 1#64 ∧ t.mem = s.mem ∧ t.ctxs = s.ctxs ∧ t.plots = s.plots) ∧
         (first = none ∨ s.mgmt.owner ≠ none ∨ s.mgmt.moving ≠ none → t = s.worked))) ∧
      (∀ m nonce ek lk, s.takingOver = true → exec (.claim m nonce ek lk) s = .next (s.emit (.busy m))) ∧
      (∀ m ek lk, s.mgmt.moving = some (m, ek, lk) → ∃ t, exec .handoverResetComplete s = .next t ∧
        t.mgmt.owner = some m ∧ t.mgmt.keys = some (ek, lk) ∧ t.mgmt.moving = none ∧ t.mem.spad = [] ∧ t.mem.csp = [] ∧
        t.xl.grove = [] ∧ t.xl.device = [] ∧ (∀ v ∈ t.pavs, v.atc = [] ∧ v.tiles = [] ∧ v.parts = []))) ∧
  (
    ∀ (s : State) (m : Master) (cmd : Word) (i : Instr) (op : Nat),
      (i, op) ∈ [(Instr.ctxWrite m cmd, 1), (.ctxResident m cmd, 2), (.ctxFlags m cmd, 3), (.ctxRemove m cmd, 4), (.queueWrite m cmd, 5),
        (.imageLoad m cmd, 7), (.liveUpdate m cmd, 8), (.failover m cmd, 9), (.statement m cmd, 10)] →
      cmd.toNat / 2 ^ 24 = op → s.mgmt.owner ≠ some m → s.takingOver = false →
      let t := s.worked.refuse m 1 0x4000
      exec i s = .next t ∧ exec (.registerWrite m 0x4000 cmd) s = .next t ∧
      { t with mgmt := s.mgmt, clk := s.clk, budgets := s.budgets } = s ∧ t.clk.die = s.clk.die ∧ (∀ k : Fin 6, k ≠ 4 → t.budgets[k] = s.budgets[k]) ∧
      t.mgmt = { s.mgmt with
        status := BitVec.ofNat 32 (2 ^ 24 + masterCode m * 2 ^ 20 + 0x4000)
        refused := s.mgmt.refused.mapFinIdx (fun j v _ => if j + 1 = masterCode m then satInc v else v) }) ∧
  (
    ∀ (s : State) (m : Master) (cmd : Word), s.takingOver = false → s.mgmt.owner = some m → s.mgmt.switching = false → s.mgmt.moving = none →
      cmd.toNat / 2 ^ 10 % 2 ^ 14 = 0 →
      let w := s.worked
      let slot := cmd.toNat % 64
      let done := fun (t : State) => (w.commitTo t).endCommand m 0
      let op := cmd.toNat / 2 ^ 24
      let signed := fun (ecdsa lms : Bool) => if ecdsa && lms then 0 else if lms then 3 else if ecdsa then 4 else 5
      (∀ t, w.ctxWrite slot = .ok t → op = 1 → exec (.ctxWrite m cmd) s = .next (done t)) ∧
      (∀ code, w.ctxWrite slot = .error code → op = 1 → exec (.ctxWrite m cmd) s = .next (w.endCommand m code)) ∧
      (∀ c t, w.ctx? slot = some c → Nat.testBit (w.mgmt.argNum 0 4) 0 = true → w.makeResident c = .ok (.ok t) → op = 2 →
        exec (.ctxResident m cmd) s = .next (done t)) ∧
      (∀ c, w.ctx? slot = some c → Nat.testBit (w.mgmt.argNum 0 4) 0 = false → op = 2 →
        exec (.ctxResident m cmd) s = .next (done (w.modCtx slot (fun c => { c with resident := false })).quiesce)) ∧
      (∀ c, w.ctx? slot = some c → w.mgmt.argNum 0 4 < 2 ^ 14 → op = 3 →
        exec (.ctxFlags m cmd) s = .next (done (w.modCtx slot (fun c => { c with flags := BitVec.ofNat 32 (w.mgmt.argNum 0 4) })))) ∧
      (op = 4 → exec (.ctxRemove m cmd) s = .next (done (w.removeContext slot))) ∧
      (∀ t, w.queueWrite slot (cmd.toNat / 64 % 16) = .ok t → op = 5 → exec (.queueWrite m cmd) s = .next (done t)) ∧
      (∀ img, w.source = some img → w.sourceBad = none → op = 7 →
        exec (.imageLoad m cmd) s = .next (
          let code := signed (Config.waizelEcdsaOk img) (Config.waizelLmsOk img)
          if code ≠ 0 then w.endCommand m code
          else if (Config.imageVersion img).toNat < w.mgmt.fused.toNat then w.endCommand m 2
          else done (w.modMgmt (fun g => g.setStandby ⟨img, false⟩)).taken)) ∧
      (w.mgmt.standby.offline = false → op = 8 →
        exec (.liveUpdate m cmd) s = .next (w.modMgmt (fun g => { g with switching := true, switchAt := w.dieCycles 0 }))) ∧
      (w.mgmt.standby.offline = false → op = 9 → exec (.failover m cmd) s = .next (done w.takeover)) ∧
      (∀ b k, w.source = some b → w.sourceBad = none → w.mgmt.keys = some k → 272 ≤ b.length → op = 10 →
        let body := b.take 176
        exec (.statement m cmd) s = .next (
          let code := signed (Config.ecdsaOk k.1 body ((b.drop 176).take 96)) (Config.lmsOk k.2 body (b.drop 272))
          if code ≠ 0 then w.endCommand m code else if w.mgmt.bodyOk body = true then done (w.applyStatement body).taken else w.endCommand m 2)) ∧
      (∀ st, w.source = some st → w.sourceBad = none → op = 11 →
        exec (.identityLoad m cmd) s = .next (
          let code := signed (Config.waizelEcdsaOk st) (Config.waizelLmsOk st)
          if code = 0 then done (w.modMgmt (fun g => { g with identity := st, policy := some (Config.identityPolicy st) })).taken
          else (w.modMgmt (fun g => { g with policy := none })).endCommand m code)) ∧
      (∀ l, w.sourceBad = some l →
        (op = 7 → exec (.imageLoad m cmd) s = .next ((w.logError l 0).endCommand m 2)) ∧
        (op = 10 → exec (.statement m cmd) s = .next ((w.logError l 0).endCommand m 2)) ∧
        (op = 11 → exec (.identityLoad m cmd) s = .next ((w.logError l 0).endCommand m 2))) ∧
      (∀ n, w.mgmt.argNum 0 1 = n → 1 ≤ n → n ≤ 248 → w.mgmt.staging.length + n ≤ 4194304 → op = 12 →
        exec (.stage m cmd) s =
          .next (done (w.modMgmt (fun g => { g with staging := g.staging ++ (g.arg.toList.drop 8).take n }))))) ∧
  (
    ∀ (s : State), s.mgmt.switching = true → ∃ t, exec .liveUpdateSwitch s = .next t ∧ t.mgmt.switching = false ∧
      t.mgmt.seq = s.mgmt.seq + 1#32 ∧ t.mem = s.mem ∧ t.plots = s.plots ∧
      t.mgmt.eastActive = (if Config.imageAccepts s.mgmt.standby.image s.mgmt.schema then !s.mgmt.eastActive else s.mgmt.eastActive) ∧
      t.mgmt.result = (if Config.imageAccepts s.mgmt.standby.image s.mgmt.schema then 0#8 else 7#8) ∧
      (s.mgmt.powered = true → s.mgmt.version.toNat + 1 < 2 ^ 64 →
        (∀ c ∈ s.mgmt.table.toList, ∀ b ∈ c.toList, ∀ x, b = some x → x.version.toNat ≤ s.mgmt.version.toNat) →
        t.mgmt.version = s.mgmt.version + 1#64 ∧ t.mgmt.table.toList.any (fun c => c.toList.contains (some (s.bank t.mgmt.version))) = true ∧
        t.mgmt.owner = s.mgmt.owner ∧ t.mgmt.epoch = s.mgmt.epoch ∧ t.mgmt.nonce = s.mgmt.nonce ∧ t.mgmt.keys = s.mgmt.keys ∧
        t.mgmt.policy = s.mgmt.policy ∧ t.mgmt.cap = s.mgmt.cap))

/-- R354, R366, R396, R421, R423, R426, R427: writes of device-wide registers. Each is a request, answered busy during a takeover and else
work of the firmware. The owner's write of the power cap (1800 to 3000 W), of a budget within its range and of the training bit of a wired
port commits and takes effect; a port that is not wired stays idle; a value out of range is refused with code 2, another master with code
1, which is counted. A write of a read-only register, or of an offset that no register has, changes nothing. The model's own reading of
what the spec leaves open enters (log entries 48, 109, 117, 139). -/
def Obligations.RegisterWrites : Prop :=
  ∀ (s : State) (m : Master) (v : Word),
    (s.takingOver = true → exec (.powerCapWrite m v) s = .next (s.emit (.busy m)) ∧
      (∀ i, exec (.budgetWrite m i v) s = .next (s.emit (.busy m))) ∧ (∀ port, exec (.portRetrain m port v) s = .next (s.emit (.busy m)))) ∧
    (s.takingOver = false → s.mgmt.owner = some m →
      let w := s.worked
      (1800 ≤ v.toNat → v.toNat ≤ 3000 →
        exec (.powerCapWrite m v) s = .next (w.commitTo (w.modMgmt (fun g => { g with cap := v.toNat })))) ∧
      (v.toNat < 1800 ∨ 3000 < v.toNat → exec (.powerCapWrite m v) s = .next (w.refuse m 2 0x0100)) ∧
      (∀ i : Fin 6, (budgetRange i).1 ≤ v.toNat → v.toNat ≤ (budgetRange i).2 → ∃ t, exec (.budgetWrite m i v) s = .next t ∧
        t.budgets[i] = { w.budgets[i] with nextLimit := v.toNat } ∧ (∀ j : Fin 6, j ≠ i → t.budgets[j] = w.budgets[j]) ∧
        t.mgmt.version = s.mgmt.version + 1#64 ∧ t.mem = s.mem ∧ t.plots = s.plots) ∧
      (∀ port, port < 24 → v.getLsbD 0 = true →
        (portWired port = true → exec (.portRetrain m port v) s =
          .next (w.commitTo (w.modPort port (fun p => { p with training := true, event := none })))) ∧
        (portWired port = false → exec (.portRetrain m port v) s = .next (w.commitTo w)))) ∧
    (s.takingOver = false → s.mgmt.owner ≠ some m → ∃ t, exec (.powerCapWrite m v) s = .next t ∧ t.mgmt.cap = s.mgmt.cap ∧
      t.mgmt.status = BitVec.ofNat 32 (2 ^ 24 + masterCode m * 2 ^ 20 + 0x0100) ∧
      (∀ k : Fin 3, t.mgmt.refused[k] = if k.val + 1 = masterCode m then satInc s.mgmt.refused[k] else s.mgmt.refused[k])) ∧
    (∀ off, off ∈ [0x0000, 0x0010, 0x0018, 0x0020, 0x0108, 0x0110, 0x0300, 0x0400, 0x0800, 0x4004, 0x4008, 0x20000] ∨ off % 4 ≠ 0 →
      exec (.registerWrite m off v) s = .next s) ∧
    exec (.registerWrite m 0x0100 v) s = exec (.powerCapWrite m v) s ∧
    (∀ port, port < 24 → exec (.registerWrite m (0x0500 + 16 * port) v) s = exec (.portRetrain m port v) s) ∧
    (∀ ctx q, ctx < 64 → q < 16 → exec (.registerWrite .host (0x10000 + 128 * ctx + 8 * q) v) s = exec (.doorbell ctx q v) s)

/-- R19, R245, R391, R393, R395, R396, R419, R421, R422, R424, R426, R427: what the ports, the lodges, the sensors, the scrubber and power do.
A port that is not wired, or whose die is held in reset, does nothing. R373, R396, R425: each request for attestation is answered, once,
as work of the firmware, or busy during a takeover; a measurement reads the state at that instant; FINISH and END_SESSION need the session
that KEY_EXCHANGE began, and a FINISH whose verify data does not fit it ends it; sensor 1 is the hottest die's. The model's own reading of
what the spec leaves open enters (log entries 18, 19, 48, 111, 115, 116, 117, 119, 139). -/
def Obligations.ManagementEvents : Prop :=
  (
    ∀ (s : State),
      (∀ port : Fin 24,
        (s.fab.ports[port].failed = false → portWired port = true → s.mgmt.powered = true → exec (.portFailure port) s =
          .next ((s.commitTo (s.modPort port (fun p => { p with failed := true, fail := satInc p.fail }))).portEvent port)) ∧
        (portWired port = false ∨ s.mgmt.powered = false → exec (.portFailure port) s = .next s) ∧
        (∀ t, s.fab.ports[port].event = some t → t + 2 ^ 20 ≤ s.activeCycles →
          exec (.portEventResend port) s = .next (s.worked.portEvent port)) ∧
        (s.fab.ports[port].training = true → s.mgmt.powered = true → exec (.portTrainingComplete port) s =
          .next (s.commitTo (s.modPort port (fun p => { p with training := false, failed := false }))))) ∧
      (s.mgmt.lastBeat + 2 ^ 20 ≤ s.activeCycles → ∃ t, exec .heartbeat s = .next t ∧ t.mgmt.heartbeat = s.mgmt.heartbeat + 1#64 ∧
        t.mgmt.version = s.mgmt.version + 1#64 ∧ t.mgmt.eastActive = s.mgmt.eastActive) ∧
      (s.mgmt.beatSeen = s.mgmt.heartbeat → s.mgmt.beatAt + 2 ^ 24 ≤ s.standbyCycles → exec .takeoverTimeout s = .next s.takeover) ∧
      (s.mgmt.standby.offline = false → ∃ t, exec .lodgeFailureReport s = .next t ∧ t.mgmt.eastActive = !s.mgmt.eastActive ∧
        t.mgmt.standby.offline = true ∧ t.mgmt.sessions = [] ∧ t.mgmt.tookOver = some s.standbyCycles ∧ t.mem = s.mem ∧ t.plots = s.plots) ∧
      (∀ tenths, s.mgmt.sampledAt + 2 ^ 20 ≤ s.activeCycles →
        (tenths < 1100 → ∃ t, exec (.thermalSample tenths) s = .next t ∧ t.mgmt.temp = BitVec.ofNat 16 tenths ∧
          (1000 ≤ tenths → t.mgmt.thermal = max 1800 (min s.mgmt.cap s.mgmt.thermal - 150)) ∧ t.mem = s.mem ∧ t.plots = s.plots) ∧
        (1100 ≤ tenths → ∃ t, exec (.thermalSample tenths) s = .next t ∧ t.mgmt.trip = s.mgmt.powered ∧ t.mgmt.owner = none ∧ t.plots = [] ∧
          t.mem.dev = [] ∧ t.mgmt.fused = s.mgmt.fused)) ∧
      (∀ stack pa n found s1, s.mgmt.powered = true → s.spend 3 stack n = (true, s1) → ∃ t, exec (.scrub stack pa n found) s = .next t ∧
        ∀ a ∈ found, pa ≤ a → a < pa + n → (Config.stackOf a).val = stack → ⟨.dev, a⟩ ∈ t.mem.bad) ∧
      (∃ t, exec .moduleReset s = .next t ∧ t.mgmt.owner = none ∧ t.mgmt.epoch = 0#8 ∧ t.mgmt.nonce = Config.nonce s.free ∧
        t.mgmt.identity = s.mgmt.identity ∧ t.mgmt.policy = s.mgmt.policy ∧ t.mgmt.fused = s.mgmt.fused ∧ t.ctxs = [] ∧ t.plots = [] ∧
        t.mem.host = s.mem.host) ∧
      (∃ t, exec .standbyPower s = .next t ∧ t.mgmt.powered = false ∧ t.mgmt.owner = s.mgmt.owner ∧ t.plots = [] ∧ t.mem.host = s.mem.host) ∧
      (s.mgmt.powered = false → exec .mainPowerOn s = .next (s.modMgmt (fun g => { g with powered := true, trip := false }))) ∧
      (∀ off n l data, s.mgmt.powered = true → off + n ≤ 2 ^ 52 → s.place (s.bar2 + off) n = .at l →
        exec (.deviceMemoryBarAccess off n (some data)) s = .next (s.engineWrite 320 l (data.take n)) ∧
        (s.firstBad l n = none → exec (.deviceMemoryBarAccess off n none) s =
          .next ((s.engineRead 320 l n).1.emit (.barData (s.engineRead 320 l n).2))))) ∧
  (
    ∀ (s : State) (m : Master),
      (s.takingOver = true → ∀ i ∈ [Instr.getVersion m, .getCapabilities m, .negotiateAlgorithms m true, .getDigests m, .getCertificate m 0,
        .endSession m, .pldmSensorRequest m 1], exec i s = .next (s.emit (.busy m))) ∧
      (s.takingOver = false →
        let answers := fun (g : Mgmt) (code : Nat) (x : BitVec 384) =>
          State.emit { s.worked with mgmt := { g with answers := s.mgmt.answers + 1 } } (.attest m code x)
        let gives := fun (i : Instr) (request arg code : Nat) =>
          exec i s = .next (answers s.mgmt code (Config.spdmAnswer request arg s.mgmt.answers))
        let errs := fun (i : Instr) (why : Nat) => exec i s = .next (answers s.mgmt 0x7F (BitVec.ofNat 384 why))
        gives (.getVersion m) 0x84 0 0x04 ∧ gives (.getCapabilities m) 0xE1 0 0x61 ∧ gives (.negotiateAlgorithms m true) 0xE3 0 0x63 ∧
        errs (.negotiateAlgorithms m false) 1 ∧ gives (.getDigests m) 0x81 0 0x01 ∧ gives (.getCertificate m 0) 0x82 0 0x02 ∧
        (∀ n, gives (.challenge m 0 n) 0x83 n 0x03) ∧ (∀ k n, k ≠ 0 → errs (.getCertificate m k) 1 ∧ errs (.challenge m k n) 1) ∧
        (∀ k x, s.mgmt.measurement k = some x → exec (.getMeasurements m k) s = .next (answers s.mgmt 0x60 x)) ∧
        s.mgmt.measurement 2 = some (Config.sha384 s.mgmt.active.image) ∧ s.mgmt.measurement 4 = some (Config.sha384 s.mgmt.identity) ∧
        (∀ x, exec (.keyExchange m x) s =
          .next (answers (s.mgmt.setSession m (some ⟨masterCode m, x, false⟩)) 0x64 (Config.spdmAnswer 0xE4 x s.mgmt.answers))) ∧
        (∀ c x v, s.mgmt.session m = some ⟨c, x, false⟩ →
          (Config.finishOk x v = true → exec (.finish m v) s =
            .next (answers (s.mgmt.setSession m (some ⟨masterCode m, x, true⟩)) 0x65 (Config.spdmAnswer 0xE5 v s.mgmt.answers))) ∧
          (Config.finishOk x v = false → exec (.finish m v) s = .next (answers (s.mgmt.setSession m none) 0x7F (BitVec.ofNat 384 6)))) ∧
        (∀ c x, s.mgmt.session m = some ⟨c, x, true⟩ →
          exec (.endSession m) s = .next (answers (s.mgmt.setSession m none) 0x6C (Config.spdmAnswer 0xEC 0 s.mgmt.answers))) ∧
        (s.mgmt.session m = none → errs (.endSession m) 1 ∧ ∀ x, errs (.finish m x) 1) ∧
        (∀ code, errs (.spdmUnsupportedRequest m code) 7) ∧
        exec (.pldmSensorRequest m 1) s = .next (s.worked.emit (.sensor m 1 (s.mgmt.temp.setWidth 32)))))
end

