-- ==== Sys2Proof/Laws/Word.lean ====
section
/-! SUPPORT. What issuing one word for one agent comes to: one lemma for each way its meaning can answer. -/

namespace Sys2Proof.Machine

theorem find_modifyWhere {α : Type} (c : α → Bool) (f : α → α) (hf : ∀ x, c (f x) = c x) (l : List α) :
    (modifyWhere c f l).find? c = (l.find? c).map f := by
  induction l with
  | nil => rfl
  | cons y l ih =>
    simp only [modifyWhere, List.map_cons] at *
    by_cases h : c y
    · simp [h, hf]
    · simp [h, ih]

theorem plot?_modPlot (s : State) (id : Nat) (f : Plot → Plot) (hf : ∀ p, (f p).id = p.id) :
    (s.modPlot id f).plot? id = (s.plot? id).map f :=
  find_modifyWhere (fun q : Plot => q.id == id) f (fun q => by simp [hf]) s.plots

theorem begun_plot? {s : State} {x : Issue} {p : Plot} (h : s.plot? x.plot = some p) :
    (s.begun x).plot? x.plot = some p.counted := by
  have h' : ({ s with issue := none, words := s.words + 1 } : State).plot? x.plot = some p := h
  exact (plot?_modPlot _ x.plot (fun p => { p with arrivals := p.arrivals + 1 }) (fun _ => rfl)).trans (by rw [h']; rfl)

theorem guarded_pass {s : State} {i : Instr} {x : Issue} {w : Who} {p : Plot} (h : Issues s i x w p) (f : WordFn) :
    guarded i f (x.cx w) (s.begun x) = f (x.cx w) (s.begun x) := by
  obtain ⟨a, ha, hb⟩ := h.agent
  have hp : (s.begun x).plot? (x.cx w).plot = _ := begun_plot? h.plot
  have hs : wf (streamOf (x.cx w).who) i = true := h.shape
  have ha' : p.counted.agent? (x.cx w).who = some a := ha
  simp only [guarded, hs, if_true, hp, ha', hb]
  rfl

theorem leads_one (i : Instr) (w : Who) : leads i [w] = ([w], []) := by
  unfold leads; split <;> rename_i h <;> cases h; split <;> rfl

/-- What the agent's word makes of the answer of its meaning, and what follows for its members together. -/
theorem runWordThen_serve {s : State} {i : Instr} {x : Issue} {w : Who} {p : Plot} (h : Issues s i x w p) (f : WordFn)
    (post : Nat → List Who → State → State) :
    runWordThen i f post s =
      (let y := serve f (x.cx w) false ⟨s.begun x, []⟩
       if y.holds = [] then .next ((post x.plot [w] y.s).finish x.plot) else (s.begun x).held x.plot y.holds) := by
  have hg : serve (guarded i f) (x.cx w) false ⟨s.begun x, []⟩ = serve f (x.cx w) false ⟨s.begun x, []⟩ := by
    unfold serve; simp only [guarded_pass h f]
  have ha : x.again = false := by rcases h.first with e | e <;> simp [Issue.again, e]
  have hr : (s.begun x).retried x = s.begun x := by rcases h.first with e | e <;> simp [State.retried, e]
  simp only [runWordThen, h.issue, h.plot, h.alone, leads_one, List.all_cons, List.all_nil, h.clear, h.running, runPlain,
    ha, hr, List.foldl_cons, List.foldl_nil, hg, State.passed, Bool.and_self, Bool.not_true, if_true]
  rfl

theorem runWord_serve {s : State} {i : Instr} {x : Issue} {w : Who} {p : Plot} (h : Issues s i x w p) (f : WordFn) :
    runWord i f s =
      (let y := serve f (x.cx w) false ⟨s.begun x, []⟩
       if y.holds = [] then .next (y.s.finish x.plot) else (s.begun x).held x.plot y.holds) :=
  runWordThen_serve h f _

/-- A meaning that is done: its state, with the word retired. -/
theorem runWord_done {s : State} {i : Instr} {x : Issue} {w : Who} {p : Plot} (h : Issues s i x w p) {f : WordFn} {t : State}
    (hf : f (x.cx w) (s.begun x) = (t, .done)) : runWord i f s = .next (t.retired x w) := by
  rw [runWord_serve h]; simp only [serve, hf]; rfl

/-- A meaning that transfers control. -/
theorem runWord_jump {s : State} {i : Instr} {x : Issue} {w : Who} {p : Plot} (h : Issues s i x w p) {f : WordFn} {t : State}
    {o : Word} (hf : f (x.cx w) (s.begun x) = (t, .jump o)) :
    runWord i f s = .next ((t.modPlot x.plot (fun p => p.modRegs (fun g => g.jump w o))).finish x.plot) := by
  rw [runWord_serve h]; simp only [serve, hf]; rfl

/-- A meaning that has seen to its agent itself. -/
theorem runWord_left {s : State} {i : Instr} {x : Issue} {w : Who} {p : Plot} (h : Issues s i x w p) {f : WordFn} {t : State}
    (hf : f (x.cx w) (s.begun x) = (t, .left)) : runWord i f s = .next (t.finish x.plot) := by
  rw [runWord_serve h]; simp only [serve, hf]; rfl

/-- A meaning that blocks its agent. -/
theorem runWord_block {s : State} {i : Instr} {x : Issue} {w : Who} {p : Plot} (h : Issues s i x w p) {f : WordFn} {t : State}
    {k : Wait} (hf : f (x.cx w) (s.begun x) = (t, .block k)) :
    runWord i f s =
      .next ((t.modPlot x.plot (fun p => p.modRegs (fun g => g.blockAt w k t.words (t.cyclesOf x.plot)))).finish x.plot) := by
  rw [runWord_serve h]; simp only [serve, hf]; rfl

/-- A meaning that raises a trap: nothing of it is kept, and the trap is recorded at the word. -/
theorem runWord_trap {s : State} {i : Instr} {x : Issue} {w : Who} {p : Plot} (h : Issues s i x w p) {f : WordFn} {t : State}
    {c : TrapClass} {d : Nat} {v : DWord} (hf : f (x.cx w) (s.begun x) = (t, .trap c d v)) :
    runWord i f s = .next (((s.begun x).recordTrap x.plot w ⟨c, d, v, x.pc, false⟩).finish x.plot) := by
  rw [runWord_serve h]; simp only [serve, hf]; rfl

/-- A meaning that waits: nothing of it is kept but the requests it sends. -/
theorem runWord_hold {s : State} {i : Instr} {x : Issue} {w : Who} {p : Plot} (h : Issues s i x w p) {f : WordFn} {t : State}
    {k : Hold} (hf : f (x.cx w) (s.begun x) = (t, .hold k)) : runWord i f s = (s.begun x).held x.plot [k] := by
  rw [runWord_serve h]; simp only [serve, hf]; rfl

theorem modifyWhere_twice {α : Type} (c : α → Bool) (f g : α → α) (hf : ∀ x, c (f x) = c x) (l : List α) :
    modifyWhere c g (modifyWhere c f l) = modifyWhere c (fun x => g (f x)) l := by
  simp only [modifyWhere, List.map_map]
  congr 1; funext x
  by_cases h : c x <;> simp [h, hf]

theorem modPlot_twice (s : State) (id : Nat) (f g : Plot → Plot) (hf : ∀ p, (f p).id = p.id) :
    (s.modPlot id f).modPlot id g = s.modPlot id (fun p => g (f p)) := by
  simp only [State.modPlot]
  rw [modifyWhere_twice _ _ _ (fun p => by simp [hf])]

theorem modAgent_twice (g : Regs) (w : Who) (f h : Agent → Agent) :
    (g.modAgent w f).modAgent w h = g.modAgent w (fun a => h (f a)) := by
  cases w with
  | front => rfl
  | strand k =>
    simp only [Regs.modAgent, Regs.modStrand]
    rw [modifyWhere_twice _ _ _ (fun _ => by simp)]

theorem agent?_modAgent (g : Regs) (w : Who) (f : Agent → Agent) : (g.modAgent w f).agent? w = (g.agent? w).map f := by
  cases w with
  | front => rfl
  | strand k =>
    have e := find_modifyWhere (fun st : Strand => st.key == k) (fun st => { st with ag := f st.ag }) (fun _ => rfl) g.strands
    show ((modifyWhere _ _ g.strands).find? _).map _ = _
    rw [e]; simp [Regs.agent?, Regs.strand?, Option.map_map, Function.comp_def]

theorem modAgent_none {g : Regs} {w : Who} (h : g.agent? w = none) (f : Agent → Agent) : g.modAgent w f = g := by
  cases w with
  | front => simp [Regs.agent?] at h
  | strand k =>
    simp only [Regs.agent?, Regs.strand?, Option.map_eq_none_iff, List.find?_eq_none] at h
    have e : modifyWhere (fun st : Strand => st.key == k) (fun st => { st with ag := f st.ag }) g.strands = g.strands := by
      simp only [modifyWhere]
      conv => rhs; rw [← List.map_id g.strands]
      exact List.map_congr_left (fun st hs => by simp [h st hs])
    simp only [Regs.modAgent, Regs.modStrand, e]

/-- A jump forgets the phase and the offset its agent had. -/
theorem jump_modAgent (g : Regs) (w : Who) (t q : Word) (ph : Phase) :
    (g.modAgent w (fun a => { a with phase := ph, pc := q })).jump w t = g.jump w t := by
  cases ha : g.agent? w with
  | none => rw [modAgent_none ha]
  | some a =>
    have e := agent?_modAgent g w (fun a => { a with phase := ph, pc := q })
    rw [ha] at e
    simp only [Regs.jump, e, ha, Option.map_some, Regs.boundary, modAgent_twice]
    rfl

/-- A meaning on the plot alone sees the plot of the word. -/
theorem onPlot_begun {s : State} {i : Instr} {x : Issue} {w : Who} {p : Plot} (h : Issues s i x w p) (f : Cx → Plot → Plot × Res) :
    onPlot f (x.cx w) (s.begun x) = ((s.begun x).setPlot (f (x.cx w) p.counted).1, (f (x.cx w) p.counted).2) := by
  have hp : (s.begun x).plot? (x.cx w).plot = some p.counted := begun_plot? h.plot
  simp only [onPlot, hp]

/-- A meaning on the plot alone that is done. -/
theorem runWord_onPlot {s : State} {i : Instr} {x : Issue} {w : Who} {p q : Plot} (h : Issues s i x w p)
    {f : Cx → Plot → Plot × Res} (hf : f (x.cx w) p.counted = (q, .done)) : runWord i (onPlot f) s = .next (s.wroteP x w q) := by
  refine runWord_done h ?_
  have hp : (s.begun x).plot? (x.cx w).plot = some p.counted := begun_plot? h.plot
  simp only [onPlot, hp, hf]

/-- A meaning on the plot alone that raises a trap. -/
theorem runWord_onPlot_trap {s : State} {i : Instr} {x : Issue} {w : Who} {p q : Plot} (h : Issues s i x w p)
    {f : Cx → Plot → Plot × Res} {c : TrapClass} {d : Nat} {v : DWord} (hf : f (x.cx w) p.counted = (q, .trap c d v)) :
    runWord i (onPlot f) s = .next (((s.begun x).recordTrap x.plot w ⟨c, d, v, x.pc, false⟩).finish x.plot) := by
  have hp : (s.begun x).plot? (x.cx w).plot = some p.counted := begun_plot? h.plot
  exact runWord_trap (t := (s.begun x).setPlot q) h (by simp only [onPlot, hp, hf])

/-- What the plot of the word is, for a meaning given the plot as well as the state. -/
theorem withPlot_begun {s : State} {i : Instr} {x : Issue} {w : Who} {p : Plot} (h : Issues s i x w p)
    (f : Cx → Plot → State → State × Res) : withPlot f (x.cx w) (s.begun x) = f (x.cx w) p.counted (s.begun x) := by
  have hp : (s.begun x).plot? (x.cx w).plot = some p.counted := begun_plot? h.plot
  simp only [withPlot, hp]

end Sys2Proof.Machine
end

