-- ==== Sys2Proof/Laws/Agents.lean ====
section
/-! SUPPORT. How the agents of a plot change: one agent apart from the others, and where an agent comes to wait. -/

namespace Sys2Proof.Machine

/-- Joining an entry changes no agent but, where the strand comes to the overflow queue, by the yield that it keeps. -/
theorem join_fields (g : Regs) (k : Nat) (y : Bool) :
    ∃ h : Regs, (h = g ∨ h = g.modAgent (.strand k) (fun a => { a with yieldNext := y })) ∧ (g.join k y).strands = h.strands ∧
      (g.join k y).front = h.front ∧ (g.join k y).banks = h.banks ∧ (g.join k y).fpf = h.fpf := by
  unfold Regs.join
  simp only
  split
  · exact ⟨g, .inl rfl, rfl, rfl, rfl, rfl⟩
  · split
    · exact ⟨g, .inl rfl, rfl, rfl, rfl, rfl⟩
    · split
      · exact ⟨g, .inl rfl, rfl, rfl, rfl, rfl⟩
      · exact ⟨_, .inr rfl, rfl, rfl, rfl, rfl⟩

theorem find_modifyWhere_ne {α : Type} (c e : α → Bool) (f : α → α) (hf : ∀ x, e (f x) = e x) (hd : ∀ x, c x = true → e x = false)
    (l : List α) : (modifyWhere c f l).find? e = l.find? e := by
  induction l with
  | nil => rfl
  | cons y l ih =>
    simp only [modifyWhere, List.map_cons] at *
    by_cases h : c y
    · simp [h, hf, hd y h, ih]
    · simp [h, List.find?_cons, ih]

theorem agent?_modAgent_ne (g : Regs) (w v : Who) (f : Agent → Agent) (h : v ≠ w) : (g.modAgent w f).agent? v = g.agent? v := by
  cases w with
  | front => cases v with
    | front => exact absurd rfl h
    | strand k => rfl
  | strand k => cases v with
    | front => rfl
    | strand j =>
      have hj : j ≠ k := fun e => h (by rw [e])
      have e := find_modifyWhere_ne (fun st : Strand => st.key == k) (fun st => st.key == j) (fun st => { st with ag := f st.ag }) (fun _ => rfl)
        (fun x hx => by simp at hx ⊢; omega) g.strands
      simp only [Regs.agent?, Regs.strand?, Regs.modAgent, Regs.modStrand, e]

/-- An agent after its strand has joined an entry. -/
theorem agent?_join (g : Regs) (k : Nat) (y : Bool) (w : Who) :
    ∃ f : Agent → Agent, (∀ a, f a = a ∨ f a = { a with yieldNext := y }) ∧ (g.join k y).agent? w = (g.agent? w).map f := by
  obtain ⟨h, hh, h1, h2, -, -⟩ := join_fields g k y
  have e : (g.join k y).agent? w = h.agent? w := by
    cases w with
    | front => simp only [Regs.agent?, h2]
    | strand j => simp only [Regs.agent?, Regs.strand?, h1]
  rcases hh with rfl | rfl
  · exact ⟨id, fun _ => .inl rfl, by rw [e]; simp⟩
  · by_cases hw : w = .strand k
    · subst hw; exact ⟨_, fun _ => .inr rfl, e.trans (agent?_modAgent ..)⟩
    · exact ⟨id, fun _ => .inl rfl, by rw [e, agent?_modAgent_ne _ _ _ _ hw]; simp⟩

/-- The phase of an agent is its phase after its strand has joined an entry. -/
theorem phase_join {g : Regs} {k : Nat} {w : Who} {a : Agent} (h : g.agent? w = some a) (y : Bool) :
    ∃ b, (g.join k y).agent? w = some b ∧ b.phase = a.phase := by
  obtain ⟨f, hf, e⟩ := agent?_join g k y w
  exact ⟨f a, by rw [e, h]; rfl, by rcases hf a with e | e <;> rw [e]⟩

/-- An agent that comes to wait by an entry waits. -/
theorem waits_join {g : Regs} {k : Nat} {a : Agent} (h : g.agent? (.strand k) = some a) (f : Agent → Agent) (hf : (f a).phase = .waiting)
    (y : Bool) : ∃ b, ((g.modAgent (.strand k) f).join k y).agent? (.strand k) = some b ∧ b.phase ≠ .exited := by
  obtain ⟨b, hb, hp⟩ := phase_join (g := g.modAgent (.strand k) f) (k := k) (w := .strand k) (a := f a) (by rw [agent?_modAgent, h]; rfl) y
  exact ⟨b, hb, by rw [hp, hf]; decide⟩

/-- An agent that comes to wait has not exited. -/
theorem boundary_live {g : Regs} {w : Who} {a : Agent} (h : g.agent? w = some a) (pc : Word) (y : Bool) :
    ∃ b, (g.boundary w pc y).agent? w = some b ∧ b.phase ≠ .exited := by
  cases w with
  | front => exact ⟨_, rfl, by show Phase.waiting ≠ .exited; decide⟩
  | strand k => exact waits_join h _ rfl y

theorem reenterAs_live {g : Regs} {w : Who} {a : Agent} (h : g.agent? w = some a) (pc : Word) (y : Bool) :
    ∃ b, (g.reenterAs w pc y).agent? w = some b ∧ b.phase ≠ .exited := by
  cases w with
  | front => exact ⟨_, rfl, by show Phase.waiting ≠ .exited; decide⟩
  | strand k => exact waits_join h _ rfl y

theorem modAgent_rest (g : Regs) (w : Who) (f : Agent → Agent) :
    (g.modAgent w f).strands.map (fun st => (st.key, st.sid, st.row, st.lane, st.cohort, st.regs, st.flags)) =
      g.strands.map (fun st => (st.key, st.sid, st.row, st.lane, st.cohort, st.regs, st.flags)) ∧
    (g.modAgent w f).front.regs = g.front.regs ∧ (g.modAgent w f).front.flags = g.front.flags ∧ (g.modAgent w f).banks = g.banks ∧
    (g.modAgent w f).fpf = g.fpf := by
  cases w with
  | front => exact ⟨rfl, rfl, rfl, rfl, rfl⟩
  | strand k =>
    refine ⟨?_, rfl, rfl, rfl, rfl⟩
    simp only [Regs.modAgent, Regs.modStrand, modifyWhere, List.map_map]
    apply List.map_congr_left
    intro st _
    simp only [Function.comp]; split <;> rfl

/-- The agent that retires a word has not exited. -/
theorem retire_live {g : Regs} {w : Who} {a : Agent} (h : g.agent? w = some a) (n : Nat) :
    ∃ b, (g.retire w n).agent? w = some b ∧ b.phase ≠ .exited := by
  unfold Regs.retire
  rw [h]
  simp only
  split
  · exact boundary_live h ..
  · split
    · exact boundary_live h ..
    · split
      · rename_i hi
        rw [agent?_modAgent, h]
        exact ⟨_, rfl, by simp [hi]⟩
      · exact reenterAs_live h ..

/-- The agent that holds a trap has not exited. -/
theorem holdTrap_live {g : Regs} {w : Who} {a : Agent} (h : g.agent? w = some a) (t : Trap) :
    ∃ b, (g.holdTrap w t).agent? w = some b ∧ b.phase ≠ .exited := by
  have h1 : (g.modAgent w (fun a => { a with trap := some t })).agent? w = some { a with trap := some t } := by
    rw [agent?_modAgent, h]; rfl
  unfold Regs.holdTrap
  simp only [h]
  split
  · rename_i hi
    exact ⟨_, h1, by simp [hi.1]⟩
  · exact reenterAs_live h1 ..

/-- Changing an agent to one that is not gathered leaves no strand gathered. -/
theorem gathered_modAgent {g : Regs} {w : Who} {f : Agent → Agent} (hf : ∀ a, a.phase ≠ .gathered → (f a).phase ≠ .gathered)
    (hg : ∀ st ∈ g.strands, st.ag.phase ≠ .gathered) : ∀ st ∈ (g.modAgent w f).strands, st.ag.phase ≠ .gathered := by
  cases w with
  | front => exact hg
  | strand k =>
    intro st hst
    simp only [Regs.modAgent, Regs.modStrand, modifyWhere, List.mem_map] at hst
    obtain ⟨y, hy, rfl⟩ := hst
    split
    · exact hf _ (hg y hy)
    · exact hg y hy

theorem gathered_join {g : Regs} (k : Nat) (y : Bool) (hg : ∀ st ∈ g.strands, st.ag.phase ≠ .gathered) :
    ∀ st ∈ (g.join k y).strands, st.ag.phase ≠ .gathered := by
  obtain ⟨h, hh, h1, -⟩ := join_fields g k y
  rw [h1]
  rcases hh with rfl | rfl
  · exact hg
  · exact gathered_modAgent (fun _ h => h) hg

theorem gathered_boundary {g : Regs} (w : Who) (pc : Word) (y : Bool) (hg : ∀ st ∈ g.strands, st.ag.phase ≠ .gathered) :
    ∀ st ∈ (g.boundary w pc y).strands, st.ag.phase ≠ .gathered := by
  cases w with
  | front => exact hg
  | strand k => exact gathered_join k y (gathered_modAgent (fun _ _ => by show Phase.waiting ≠ .gathered; decide) hg)

theorem gathered_reenterAs {g : Regs} (w : Who) (pc : Word) (y : Bool) (hg : ∀ st ∈ g.strands, st.ag.phase ≠ .gathered) :
    ∀ st ∈ (g.reenterAs w pc y).strands, st.ag.phase ≠ .gathered := by
  cases w with
  | front => exact hg
  | strand k => exact gathered_join k y (gathered_modAgent (fun _ _ => by show Phase.waiting ≠ .gathered; decide) hg)

theorem gathered_retire {g : Regs} (w : Who) (n : Nat) (hg : ∀ st ∈ g.strands, st.ag.phase ≠ .gathered) :
    ∀ st ∈ (g.retire w n).strands, st.ag.phase ≠ .gathered := by
  unfold Regs.retire
  split
  · exact hg
  · simp only
    split
    · exact gathered_boundary _ _ _ hg
    · split
      · exact gathered_boundary _ _ _ hg
      · split
        · exact gathered_modAgent (fun _ h => h) hg
        · exact gathered_reenterAs _ _ _ hg

theorem gathered_holdTrap {g : Regs} (w : Who) (t : Trap) (hg : ∀ st ∈ g.strands, st.ag.phase ≠ .gathered) :
    ∀ st ∈ (g.holdTrap w t).strands, st.ag.phase ≠ .gathered := by
  have h := gathered_modAgent (g := g) (w := w) (f := fun a => { a with trap := some t }) (fun _ h => h) hg
  unfold Regs.holdTrap
  simp only
  split
  · split
    · exact h
    · exact gathered_reenterAs _ _ _ h
  · exact h

end Sys2Proof.Machine
end

