-- ==== Sys2Proof/Laws/Mem.lean ====
section
/-! SUPPORT. Memory: every operation keeps the canonical form, a read after a write gives what was written, and a write leaves every other
byte alone. -/

namespace Sys2Proof.Machine

theorem cellsWf_cons {a : Nat} {b : Byte} {l : List Host.Cell} {lo : Option Nat} :
    cellsWf ((a, b) :: l) lo = true ↔ (∀ y, lo = some y → y < a) ∧ b ≠ unlisted ∧ cellsWf l (some a) = true := by
  cases lo <;> simp [cellsWf, and_assoc]

/-- In canonical form every address of the list lies above the bound. -/
theorem cellsWf_mono {m : List Host.Cell} {x : Nat} (h : cellsWf m (some x) = true) : ∀ c ∈ m, x < c.1 := by
  induction m generalizing x with
  | nil => intro c hc; cases hc
  | cons y l ih =>
    obtain ⟨u, v⟩ := y
    simp only [cellsWf, Bool.and_eq_true, decide_eq_true_eq] at h
    intro c hc
    rcases List.mem_cons.1 hc with rfl | hc
    · exact h.1.1
    · exact lt_trans h.1.1 (ih h.2 c hc)

theorem cellsWf_bound {m : List Host.Cell} {x : Nat} {lo : Option Nat} (h : cellsWf m (some x) = true)
    (hl : ∀ y, lo = some y → y ≤ x) : cellsWf m lo = true := by
  cases m with
  | nil => rfl
  | cons y l =>
    obtain ⟨u, v⟩ := y
    simp only [cellsWf, Bool.and_eq_true, decide_eq_true_eq] at h ⊢
    refine ⟨⟨?_, h.1.2⟩, h.2⟩
    cases lo with
    | none => rfl
    | some z => simpa using lt_of_le_of_lt (hl z rfl) h.1.1

theorem cellGet_above {m : List Host.Cell} {a : Nat} (h : ∀ c ∈ m, a < c.1) : cellGet m a = unlisted := by
  induction m with
  | nil => rfl
  | cons y l ih =>
    obtain ⟨u, v⟩ := y
    have hu : a < u := h (u, v) (by simp)
    rw [cellGet, if_neg (by omega)]
    exact ih (fun c hc => h c (by simp [hc]))

/-- A byte written keeps the canonical form. -/
theorem cellsWf_cellSet {m : List Host.Cell} {lo : Option Nat} {a : Nat} (b : Byte) (h : cellsWf m lo = true)
    (ha : ∀ y, lo = some y → y < a) : cellsWf (cellSet m a b) lo = true := by
  induction m generalizing lo with
  | nil =>
    unfold cellSet
    split
    · rfl
    · rename_i hb
      exact cellsWf_cons.2 ⟨ha, hb, rfl⟩
  | cons y l ih =>
    obtain ⟨u, v⟩ := y
    obtain ⟨h1, h2, h3⟩ := cellsWf_cons.1 h
    unfold cellSet
    split
    · rename_i hau
      split
      · exact h
      · rename_i hb
        exact cellsWf_cons.2 ⟨ha, hb, cellsWf_cons.2 ⟨fun y hy => by cases hy; exact hau, h2, h3⟩⟩
    · split
      · rename_i hau
        subst hau
        split
        · exact cellsWf_bound h3 (fun y hy => le_of_lt (ha y hy))
        · rename_i hb
          exact cellsWf_cons.2 ⟨ha, hb, h3⟩
      · exact cellsWf_cons.2 ⟨h1, h2, ih h3 (fun y hy => by cases hy; omega)⟩

/-- A read after a write: the byte written, and every other byte as before. -/
theorem cellGet_cellSet {m : List Host.Cell} {lo : Option Nat} (a : Nat) (b : Byte) (c : Nat) (h : cellsWf m lo = true) :
    cellGet (cellSet m a b) c = if c = a then b else cellGet m c := by
  induction m generalizing lo with
  | nil =>
    unfold cellSet
    split
    · rename_i hb
      subst hb
      split <;> rfl
    · by_cases e : c = a
      · subst e; simp [cellGet]
      · simp [cellGet, e]; intro z; exact absurd z.symm e
  | cons y l ih =>
    obtain ⟨u, v⟩ := y
    simp only [cellsWf, Bool.and_eq_true] at h
    have hm := cellsWf_mono h.2
    unfold cellSet
    split
    · rename_i hau
      split
      · rename_i hb
        subst hb
        split
        · rename_i e
          subst e
          exact cellGet_above (fun x hx => by
            rcases List.mem_cons.1 hx with rfl | hx
            · exact hau
            · exact lt_trans hau (hm x hx))
        · rfl
      · by_cases e : c = a
        · subst e; simp [cellGet]
        · have : ¬a = c := fun z => e z.symm
          rw [cellGet, if_neg this, if_neg e]
    · split
      · rename_i hau
        subst hau
        split
        · rename_i hb
          subst hb
          split
          · rename_i e
            subst e
            exact cellGet_above hm
          · rename_i e
            have : ¬a = c := fun z => e z.symm
            rw [cellGet, if_neg this]
        · by_cases e : c = a
          · subst e; simp [cellGet]
          · have : ¬a = c := fun z => e z.symm
            simp [cellGet, this, e]
      · rename_i h1 h2
        rw [cellGet]
        split
        · rename_i e
          subst e
          have : ¬u = a := fun z => h2 z.symm
          simp [cellGet, this]
        · rename_i e
          rw [ih h.2]
          simp [cellGet, e]

theorem cellsWf_cellsSet {m : List Host.Cell} (a : Nat) (l : List Byte) (h : Memory.wf m = true) : Memory.wf (cellsSet m a l) = true := by
  induction l generalizing m a with
  | nil => exact h
  | cons b l ih => exact ih (a + 1) (cellsWf_cellSet b h (fun y hy => by cases hy))

/-- Bytes written from an address up, read back. -/
theorem cellGet_cellsSet {m : List Host.Cell} (a : Nat) (l : List Byte) (c : Nat) (h : Memory.wf m = true) :
    cellGet (cellsSet m a l) c = if a ≤ c ∧ c < a + l.length then l.getD (c - a) unlisted else cellGet m c := by
  induction l generalizing m a with
  | nil => rw [cellsSet, if_neg (by simp)]
  | cons b l ih =>
    rw [cellsSet, ih (a + 1) (cellsWf_cellSet b h (fun y hy => by cases hy)), cellGet_cellSet a b c h]
    simp only [List.length_cons]
    by_cases h1 : c = a
    · subst h1
      rw [if_neg (by omega), if_pos rfl, if_pos (by omega)]
      simp
    · by_cases h2 : a + 1 ≤ c ∧ c < a + 1 + l.length
      · rw [if_pos h2, if_pos (by omega)]
        obtain ⟨k, rfl⟩ : ∃ k, c = a + 1 + k := ⟨c - (a + 1), by omega⟩
        have e1 : a + 1 + k - (a + 1) = k := by omega
        have e2 : a + 1 + k - a = k + 1 := by omega
        rw [e1, e2]; rfl
      · rw [if_neg h2, if_neg h1, if_neg (by omega)]

theorem cellsWf_filter {m : List Host.Cell} {lo : Option Nat} (p : Host.Cell → Bool) (h : cellsWf m lo = true) :
    cellsWf (m.filter p) lo = true := by
  induction m generalizing lo with
  | nil => rfl
  | cons y l ih =>
    obtain ⟨u, v⟩ := y
    simp only [cellsWf, Bool.and_eq_true] at h
    rw [List.filter_cons]
    split
    · simp only [cellsWf, Bool.and_eq_true]
      exact ⟨h.1, ih h.2⟩
    · refine cellsWf_bound (ih h.2) (fun y hy => ?_)
      subst hy
      have : y < u := by simpa using h.1.1
      omega

theorem wf_cellsClear {m : List Host.Cell} (lo hi : Nat) (h : Memory.wf m = true) : Memory.wf (cellsClear m lo hi) = true :=
  cellsWf_filter _ h

/-- Bytes cleared read as an unlisted byte does, and every other byte as before. -/
theorem cellGet_cellsClear (m : List Host.Cell) (lo hi c : Nat) :
    cellGet (cellsClear m lo hi) c = if lo ≤ c ∧ c < hi then unlisted else cellGet m c := by
  unfold cellsClear
  induction m with
  | nil => simp [cellGet]
  | cons y l ih =>
    obtain ⟨u, v⟩ := y
    rw [List.filter_cons]
    by_cases hin : lo ≤ u ∧ u < hi
    · rw [if_neg (by simp [hin]), ih]
      split
      · rfl
      · rename_i hc
        have : ¬u = c := fun z => hc (z ▸ hin)
        rw [cellGet, if_neg this]
    · rw [if_pos (by simp; omega), cellGet, ih, cellGet]
      by_cases e : u = c
      · subst e; rw [if_pos rfl, if_neg hin, if_pos rfl]
      · rw [if_neg e, if_neg e]

/-- PRIV bytes and bytes past the L1 lie in device memory, not in spaces of their own. -/
theorem cells_setCells (m : Store) (sp sp' : Space) (l : List Host.Cell) (hp : sp ≠ .priv ∧ sp ≠ .path) :
    (m.setCells sp l).cells sp' = if sp' = sp then l else m.cells sp' := by
  cases sp <;> cases sp' <;> first | rfl | exact absurd rfl hp.1 | exact absurd rfl hp.2

end Sys2Proof.Machine
end

