-- ==== Sys2Proof/Laws/Cache.lean ====
section
/-! SUPPORT. Bytes of device memory through the L2: what a fill, a read and a write do to each (08_views_versions.md R198, R199). -/

namespace Sys2Proof.Machine

theorem byteRun_length (f : Nat → Byte) (a n : Nat) : (byteRun f a n).length = n := by
  induction n generalizing a with
  | zero => rfl
  | succ n ih => simp [byteRun, ih]

theorem byteRun_getD (f : Nat → Byte) (a n i : Nat) (h : i < n) (d : Byte) : (byteRun f a n).getD i d = f (a + i) := by
  induction n generalizing a i with
  | zero => omega
  | succ n ih =>
    cases i with
    | zero => rfl
    | succ i =>
      show (byteRun f (a + 1) n).getD i d = _
      rw [ih (a + 1) i (by omega)]
      congr 1; omega

/-- Fetching a sector changes no byte. -/
theorem l2Byte_l2Fill (s : State) (pa q : Nat) : (s.l2Fill pa).l2Byte q = s.l2Byte q := by
  unfold State.l2Fill
  split
  · rename_i r hr hs
    split
    · simp only [State.l2Byte, State.sector?, State.hbmByte] at *
      rw [List.find?_append]
      by_cases h : sectorBase q = sectorBase pa
      · rw [h, hs]
        simp only [List.find?_cons, beq_self_eq_true, Option.none_or]
        have e : sectorBase pa + q % 128 = q := by
          rw [← h]; unfold sectorBase; omega
        rw [byteRun_getD _ _ _ _ (Nat.mod_lt _ (by decide)), e]
        rfl
      · have e : (sectorBase pa == sectorBase q) = false := by simp; omega
        simp only [List.find?_cons, e, List.find?_nil, Option.or_none]
        rfl
    · rfl
  · rfl

theorem l2Byte_l2Read (s : State) (pa n q : Nat) : (s.l2Read pa n).1.l2Byte q = s.l2Byte q := by
  induction n generalizing s pa with
  | zero => rfl
  | succ n ih => exact (ih (s.l2Fill pa) (pa + 1)).trans (l2Byte_l2Fill s pa q)

/-- What is read is each byte as it stands. -/
theorem l2Read_bytes (s : State) (pa n : Nat) : (s.l2Read pa n).2 = byteRun s.l2Byte pa n := by
  induction n generalizing s pa with
  | zero => rfl
  | succ n ih =>
    have e : (s.l2Fill pa).l2Byte = s.l2Byte := funext (fun q => l2Byte_l2Fill s pa q)
    show (s.l2Fill pa).l2Byte pa :: ((s.l2Fill pa).l2Read (pa + 1) n).2 = _
    rw [ih, e]; rfl

/-- A fill changes the L2 alone. -/
theorem l2Fill_rest (s : State) (pa : Nat) :
    ∃ l, s.l2Fill pa = { s with mem := { s.mem with sectors := l } } ∧ (s.sound → ∀ y ∈ l, y.data.length = 128) := by
  unfold State.l2Fill
  split
  · split
    · refine ⟨_, rfl, fun h y hy => ?_⟩
      rcases List.mem_append.1 hy with hy | hy
      · exact h.2 y hy
      · simp only [List.mem_singleton] at hy
        subst hy; exact byteRun_length ..
    · exact ⟨_, rfl, fun h => h.2⟩
  · exact ⟨_, rfl, fun h => h.2⟩

theorem sound_l2Fill {s : State} (h : s.sound) (pa : Nat) : (s.l2Fill pa).sound := by
  obtain ⟨l, e, hl⟩ := l2Fill_rest s pa
  rw [e]; exact ⟨h.1, hl h⟩

/-- An address of the canonical view: a byte of it written, and read back. -/
theorem l2Byte_l2SetByte {s : State} (h : s.sound) {pa a : Nat} (b : Byte) (hp : pa < 2 ^ 50) (ha : a < 2 ^ 50) :
    (s.l2SetByte pa b).l2Byte a = if a = pa then b else s.l2Byte a := by
  have hs := sound_l2Fill h pa
  have hb : (s.l2Fill pa).l2Byte a = s.l2Byte a := l2Byte_l2Fill s pa a
  unfold State.l2SetByte
  simp only
  generalize s.l2Fill pa = s1 at *
  split
  · rename_i x hx
    rw [← hb]
    simp only [State.l2Byte, State.sector?, State.hbmByte] at *
    by_cases e : sectorBase a = sectorBase pa
    · rw [e]
      have hf := find_modifyWhere (fun x : Sector => x.addr == sectorBase pa)
        (fun x => { x with data := x.data.set (pa % 128) b, dirty := true }) (fun _ => rfl) s1.mem.sectors
      rw [hf, hx]
      have hl : x.data.length = 128 := hs.2 x (List.mem_of_find?_eq_some hx)
      simp only [Option.map_some]
      by_cases e2 : a = pa
      · subst e2
        rw [if_pos rfl]
        have : a % 128 < x.data.length := by rw [hl]; exact Nat.mod_lt _ (by decide)
        simp [List.getD_eq_getElem?_getD, this]
      · rw [if_neg e2]
        have : ¬pa % 128 = a % 128 := by unfold sectorBase at e; omega
        simp [List.getD_eq_getElem?_getD, this]
    · have e2 : ¬a = pa := fun z => e (by rw [z])
      rw [if_neg e2]
      have hf := find_modifyWhere_ne (fun x : Sector => x.addr == sectorBase pa) (fun x => x.addr == sectorBase a)
        (fun x => { x with data := x.data.set (pa % 128) b, dirty := true }) (fun _ => rfl)
        (fun x hx => by simp at hx ⊢; omega) s1.mem.sectors
      rw [hf]
      rfl
  · rename_i hx
    have hc : ∀ q, q < 2 ^ 50 → s1.canonOf q = some q := by
      intro q hq
      have : apertureOf q = 0 := by unfold apertureOf; omega
      unfold State.canonOf
      simp only [this, if_pos]
      congr 1; omega
    rw [hc pa hp]
    simp only
    rw [← hb]
    simp only [State.l2Byte, State.sector?, State.hbmByte] at *
    have hw : Memory.wf s1.mem.dev = true := by
      have := hs.1
      simp only [Store.wf, Bool.and_eq_true] at this
      exact this.1.1.1
    have hc' : ({ s1 with mem := { s1.mem with dev := cellSet s1.mem.dev pa b } } : State).canonOf a = some a := hc a ha
    rw [hc a ha, hc']
    by_cases e : a = pa
    · subst e
      rw [hx]
      simp only [if_true]
      exact (cellGet_cellSet a b a hw).trans (if_pos rfl)
    · rw [if_neg e]
      split
      · rfl
      · exact (cellGet_cellSet pa b a hw).trans (if_neg e)

theorem sound_l2SetByte {s : State} (h : s.sound) (pa : Nat) (b : Byte) : (s.l2SetByte pa b).sound := by
  have hs := sound_l2Fill h pa
  unfold State.l2SetByte
  simp only
  generalize s.l2Fill pa = s1 at *
  split
  · refine ⟨hs.1, fun y hy => ?_⟩
    simp only [modifyWhere, List.mem_map] at hy
    obtain ⟨z, hz, rfl⟩ := hy
    split
    · simpa using hs.2 z hz
    · exact hs.2 z hz
  · split
    · refine ⟨?_, hs.2⟩
      have := hs.1
      simp only [Store.wf, Bool.and_eq_true] at this ⊢
      exact ⟨⟨⟨cellsWf_cellSet b this.1.1.1 (fun y hy => by cases hy), this.1.1.2⟩, this.1.2⟩, this.2⟩
    · exact hs

theorem l2SetByte_rest (s : State) (pa : Nat) (b : Byte) : ∃ d l, s.l2SetByte pa b = { s with mem := { s.mem with dev := d, sectors := l } } := by
  obtain ⟨l, e, -⟩ := l2Fill_rest s pa
  unfold State.l2SetByte
  simp only
  rw [e]
  split
  · exact ⟨_, _, rfl⟩
  · split <;> exact ⟨_, _, rfl⟩

theorem l2Write_rest (s : State) (pa : Nat) (data : List Byte) :
    ∃ d l b, s.l2Write pa data = { s with mem := { s.mem with dev := d, sectors := l, bad := b } } := by
  have h : ∀ (data : List Byte) (s : State) (pa : Nat), ∃ d l, s.l2SetBytes pa data = { s with mem := { s.mem with dev := d, sectors := l } } := by
    intro data
    induction data with
    | nil => intro s pa; exact ⟨_, _, rfl⟩
    | cons b data ih =>
      intro s pa
      obtain ⟨d, l, e⟩ := l2SetByte_rest s pa b
      obtain ⟨d2, l2, e2⟩ := ih (s.l2SetByte pa b) (pa + 1)
      exact ⟨d2, l2, by rw [State.l2SetBytes, e2, e]⟩
  obtain ⟨d, l, e⟩ := h data s pa
  unfold State.l2Write State.heal
  rw [e]
  exact ⟨_, _, _, rfl⟩

theorem sound_l2Write {s : State} (h : s.sound) (pa : Nat) (data : List Byte) : (s.l2Write pa data).sound := by
  have hb : (s.l2SetBytes pa data).sound := by
    induction data generalizing s pa with
    | nil => exact h
    | cons b data ih => exact ih (sound_l2SetByte h pa b) (pa + 1)
  exact hb

/-- Bytes of the canonical view written at the L2, read back. -/
theorem l2Byte_l2Write {s : State} (h : s.sound) (pa : Nat) (data : List Byte) (a : Nat) (hp : pa + data.length ≤ 2 ^ 50) (ha : a < 2 ^ 50) :
    (s.l2Write pa data).l2Byte a = if pa ≤ a ∧ a < pa + data.length then data.getD (a - pa) unlisted else s.l2Byte a := by
  have hh : ∀ (t : State) w, (t.heal w).l2Byte a = t.l2Byte a := fun _ _ => rfl
  rw [State.l2Write, hh]
  induction data generalizing s pa with
  | nil => rw [State.l2SetBytes, if_neg (by simp)]
  | cons b data ih =>
    simp only [List.length_cons] at hp ⊢
    rw [State.l2SetBytes, ih (sound_l2SetByte h pa b) (pa + 1) (by omega), l2Byte_l2SetByte h b (by omega) ha]
    by_cases h1 : a = pa
    · subst h1
      rw [if_neg (by omega), if_pos rfl, if_pos (by omega)]
      simp
    · by_cases h2 : pa + 1 ≤ a ∧ a < pa + 1 + data.length
      · rw [if_pos h2, if_pos (by omega)]
        obtain ⟨k, rfl⟩ : ∃ k, a = pa + 1 + k := ⟨a - (pa + 1), by omega⟩
        have e1 : pa + 1 + k - (pa + 1) = k := by omega
        have e2 : pa + 1 + k - pa = k + 1 := by omega
        rw [e1, e2]; rfl
      · rw [if_neg h2, if_neg h1, if_neg (by omega)]

theorem l2Read_rest (s : State) (pa n : Nat) : ∃ l, (s.l2Read pa n).1 = { s with mem := { s.mem with sectors := l } } := by
  induction n generalizing s pa with
  | zero => exact ⟨_, rfl⟩
  | succ n ih =>
    obtain ⟨l, e, -⟩ := l2Fill_rest s pa
    obtain ⟨l2, e2⟩ := ih (s.l2Fill pa) (pa + 1)
    exact ⟨l2, by show ((s.l2Fill pa).l2Read (pa + 1) n).1 = _; rw [e2, e]⟩

theorem sound_l2Read {s : State} (h : s.sound) (pa n : Nat) : (s.l2Read pa n).1.sound := by
  induction n generalizing s pa with
  | zero => exact h
  | succ n ih => exact ih (sound_l2Fill h pa) (pa + 1)

/-! ### The pavilions' own part -/

theorem modPav_rest (s : State) (n : Nat) (f : Pavilion → Pavilion) : ∃ l, s.modPav n f = { s with pavs := l } := by
  unfold State.modPav State.setPav
  split
  · exact ⟨_, rfl⟩
  · split <;> exact ⟨_, rfl⟩

theorem l2Byte_pavs (s : State) (l : List Pavilion) (a : Nat) : ({ s with pavs := l } : State).l2Byte a = s.l2Byte a := rfl

theorem pav_num (s : State) (n : Nat) : (s.pav n).num = n := by
  unfold State.pav
  cases h : s.pavs.find? (fun p => p.num == n) with
  | none => rfl
  | some v => simpa using List.find?_some h

/-- A pavilion of the module, changed, is as changed. -/
theorem pav_modPav (s : State) {n : Nat} (f : Pavilion → Pavilion) (hf : ∀ v, (f v).num = v.num) (hn : n < 320) :
    (s.modPav n f).pav n = f (s.pav n) := by
  have hnum : (f (s.pav n)).num = n := (hf _).trans (pav_num s n)
  unfold State.modPav State.setPav
  rw [hnum, if_neg (by omega)]
  generalize f (s.pav n) = v at *
  split
  · rename_i h
    simp only [State.pav]
    obtain ⟨y, hy, hyn⟩ := List.any_eq_true.1 h
    have : ∃ z, s.pavs.find? (fun p => p.num == n) = some z := by
      cases e : s.pavs.find? (fun p => p.num == n) with
      | some z => exact ⟨z, rfl⟩
      | none => exact absurd hyn (by simpa using List.find?_eq_none.1 e y hy)
    obtain ⟨z, hz⟩ := this
    have : (modifyWhere (fun q : Pavilion => q.num == n) (fun _ => v) s.pavs).find? (fun p => p.num == n) = some v := by
      clear h hy
      generalize s.pavs = l at hz
      induction l with
      | nil => cases hz
      | cons y l ih =>
        simp only [modifyWhere, List.map_cons, List.find?_cons] at *
        by_cases e : y.num == n
        · simp [e, hnum]
        · simp only [e, Bool.false_eq_true, if_false] at *
          exact ih hz
    rw [this]; rfl
  · rename_i h
    simp only [State.pav, List.find?_append]
    have : s.pavs.find? (fun p => p.num == n) = none := by
      rw [List.find?_eq_none]
      intro y hy hyn
      exact h (List.any_eq_true.2 ⟨y, hy, hyn⟩)
    rw [this]
    simp [hnum]

/-- With no queued writes, draining a pavilion's queue changes nothing but how its pavilion is listed. -/
theorem drainWhere_empty {s : State} {n : Nat} (h : (s.pav n).wtq = []) (p : WtEntry → Bool) :
    ∃ l, s.drainWhere n p = { s with pavs := l } ∧ (({ s with pavs := l } : State).pav n).wtq = [] := by
  obtain ⟨l, e⟩ := modPav_rest s n (fun v => { v with wtq := v.wtq.filter (fun e => !p e) })
  refine ⟨l, ?_, ?_⟩
  · unfold State.drainWhere
    simp only [h, List.filter_nil, List.foldl_nil]
    exact e
  · rw [← e]
    by_cases hn : n < 320
    · rw [pav_modPav s (fun v => { v with wtq := v.wtq.filter (fun e => !p e) }) (fun _ => rfl) hn]
      simp [h]
    · have : s.modPav n (fun v => { v with wtq := v.wtq.filter (fun e => !p e) }) = s := by
        unfold State.modPav State.setPav
        refine if_pos ?_
        show 320 ≤ (s.pav n).num
        rw [pav_num]; omega
      rw [this]; exact h

end Sys2Proof.Machine
end

