-- ==== Sys2Proof/Laws/Encoding.lean ====
section
/-! SUPPORT. The fields of a word that the encoder has built, read back, and the decoder on the bytes of one word
(02_clauses_encoding.md R45, R46). -/

namespace Sys2Proof

@[simp] theorem fmtA_maj (m : BitVec 6) (d : BitVec 6) (a : BitVec 6) (b : BitVec 6) (f : BitVec 8) : majOf (fmtA m d a b f) = m := by
  apply BitVec.eq_of_getLsbD_eq; intro i hi
  simp only [majOf, fmtA, BitVec.getLsbD_extractLsb', BitVec.getLsbD_append]
  split_ifs <;> first | omega | simp [*, show 26 + i - 8 - 6 - 6 - 6 = i by omega]

@[simp] theorem fmtA_d (m : BitVec 6) (d : BitVec 6) (a : BitVec 6) (b : BitVec 6) (f : BitVec 8) : dOf (fmtA m d a b f) = d := by
  apply BitVec.eq_of_getLsbD_eq; intro i hi
  simp only [dOf, fmtA, BitVec.getLsbD_extractLsb', BitVec.getLsbD_append]
  split_ifs <;> first | omega | simp [*, show 20 + i - 8 - 6 - 6 = i by omega]

@[simp] theorem fmtA_a (m : BitVec 6) (d : BitVec 6) (a : BitVec 6) (b : BitVec 6) (f : BitVec 8) : aOf (fmtA m d a b f) = a := by
  apply BitVec.eq_of_getLsbD_eq; intro i hi
  simp only [aOf, fmtA, BitVec.getLsbD_extractLsb', BitVec.getLsbD_append]
  split_ifs <;> first | omega | simp [*, show 14 + i - 8 - 6 = i by omega]

@[simp] theorem fmtA_b (m : BitVec 6) (d : BitVec 6) (a : BitVec 6) (b : BitVec 6) (f : BitVec 8) : bOf (fmtA m d a b f) = b := by
  apply BitVec.eq_of_getLsbD_eq; intro i hi
  simp only [bOf, fmtA, BitVec.getLsbD_extractLsb', BitVec.getLsbD_append]
  split_ifs <;> first | omega | simp [*, show 8 + i - 8 = i by omega]

@[simp] theorem fmtA_fn (m : BitVec 6) (d : BitVec 6) (a : BitVec 6) (b : BitVec 6) (f : BitVec 8) : fnOf (fmtA m d a b f) = f := by
  apply BitVec.eq_of_getLsbD_eq; intro i hi
  simp only [fnOf, fmtA, BitVec.getLsbD_extractLsb', BitVec.getLsbD_append]
  split_ifs <;> first | omega | simp [*]

@[simp] theorem fmtI_maj (m : BitVec 6) (d : BitVec 6) (a : BitVec 6) (n : BitVec 14) : majOf (fmtI m d a n) = m := by
  apply BitVec.eq_of_getLsbD_eq; intro i hi
  simp only [majOf, fmtI, BitVec.getLsbD_extractLsb', BitVec.getLsbD_append]
  split_ifs <;> first | omega | simp [*, show 26 + i - 14 - 6 - 6 = i by omega]

@[simp] theorem fmtI_d (m : BitVec 6) (d : BitVec 6) (a : BitVec 6) (n : BitVec 14) : dOf (fmtI m d a n) = d := by
  apply BitVec.eq_of_getLsbD_eq; intro i hi
  simp only [dOf, fmtI, BitVec.getLsbD_extractLsb', BitVec.getLsbD_append]
  split_ifs <;> first | omega | simp [*, show 20 + i - 14 - 6 = i by omega]

@[simp] theorem fmtI_a (m : BitVec 6) (d : BitVec 6) (a : BitVec 6) (n : BitVec 14) : aOf (fmtI m d a n) = a := by
  apply BitVec.eq_of_getLsbD_eq; intro i hi
  simp only [aOf, fmtI, BitVec.getLsbD_extractLsb', BitVec.getLsbD_append]
  split_ifs <;> first | omega | simp [*, show 14 + i - 14 = i by omega]

@[simp] theorem fmtI_imm (m : BitVec 6) (d : BitVec 6) (a : BitVec 6) (n : BitVec 14) : immOf (fmtI m d a n) = n := by
  apply BitVec.eq_of_getLsbD_eq; intro i hi
  simp only [immOf, fmtI, BitVec.getLsbD_extractLsb', BitVec.getLsbD_append]
  split_ifs <;> first | omega | simp [*]

@[simp] theorem fmtW_maj (m : BitVec 6) (d : BitVec 6) (n : BitVec 20) : majOf (fmtW m d n) = m := by
  apply BitVec.eq_of_getLsbD_eq; intro i hi
  simp only [majOf, fmtW, BitVec.getLsbD_extractLsb', BitVec.getLsbD_append]
  split_ifs <;> first | omega | simp [*, show 26 + i - 20 - 6 = i by omega]

@[simp] theorem fmtW_d (m : BitVec 6) (d : BitVec 6) (n : BitVec 20) : dOf (fmtW m d n) = d := by
  apply BitVec.eq_of_getLsbD_eq; intro i hi
  simp only [dOf, fmtW, BitVec.getLsbD_extractLsb', BitVec.getLsbD_append]
  split_ifs <;> first | omega | simp [*, show 20 + i - 20 = i by omega]

@[simp] theorem fmtW_imm (m : BitVec 6) (d : BitVec 6) (n : BitVec 20) : (fmtW m d n).extractLsb' 0 20 = n := by
  apply BitVec.eq_of_getLsbD_eq; intro i hi
  simp only [fmtW, BitVec.getLsbD_extractLsb', BitVec.getLsbD_append]
  split_ifs <;> first | omega | simp [*]

@[simp] theorem fmtM_maj (m : BitVec 6) (d : BitVec 6) (a : BitVec 6) (z : BitVec 2) (w : BitVec 3) (s : BitVec 3) (o : BitVec 6) : majOf (fmtM m d a z w s o) = m := by
  apply BitVec.eq_of_getLsbD_eq; intro i hi
  simp only [majOf, fmtM, BitVec.getLsbD_extractLsb', BitVec.getLsbD_append]
  split_ifs <;> first | omega | simp [*, show 26 + i - 6 - 3 - 3 - 2 - 6 - 6 = i by omega]

@[simp] theorem fmtM_d (m : BitVec 6) (d : BitVec 6) (a : BitVec 6) (z : BitVec 2) (w : BitVec 3) (s : BitVec 3) (o : BitVec 6) : dOf (fmtM m d a z w s o) = d := by
  apply BitVec.eq_of_getLsbD_eq; intro i hi
  simp only [dOf, fmtM, BitVec.getLsbD_extractLsb', BitVec.getLsbD_append]
  split_ifs <;> first | omega | simp [*, show 20 + i - 6 - 3 - 3 - 2 - 6 = i by omega]

@[simp] theorem fmtM_a (m : BitVec 6) (d : BitVec 6) (a : BitVec 6) (z : BitVec 2) (w : BitVec 3) (s : BitVec 3) (o : BitVec 6) : aOf (fmtM m d a z w s o) = a := by
  apply BitVec.eq_of_getLsbD_eq; intro i hi
  simp only [aOf, fmtM, BitVec.getLsbD_extractLsb', BitVec.getLsbD_append]
  split_ifs <;> first | omega | simp [*, show 14 + i - 6 - 3 - 3 - 2 = i by omega]

@[simp] theorem fmtM_z (m : BitVec 6) (d : BitVec 6) (a : BitVec 6) (z : BitVec 2) (w : BitVec 3) (s : BitVec 3) (o : BitVec 6) : (fmtM m d a z w s o).extractLsb' 12 2 = z := by
  apply BitVec.eq_of_getLsbD_eq; intro i hi
  simp only [fmtM, BitVec.getLsbD_extractLsb', BitVec.getLsbD_append]
  split_ifs <;> first | omega | simp [*, show 12 + i - 6 - 3 - 3 = i by omega]

@[simp] theorem fmtM_w (m : BitVec 6) (d : BitVec 6) (a : BitVec 6) (z : BitVec 2) (w : BitVec 3) (s : BitVec 3) (o : BitVec 6) : (fmtM m d a z w s o).extractLsb' 9 3 = w := by
  apply BitVec.eq_of_getLsbD_eq; intro i hi
  simp only [fmtM, BitVec.getLsbD_extractLsb', BitVec.getLsbD_append]
  split_ifs <;> first | omega | simp [*, show 9 + i - 6 - 3 = i by omega]

@[simp] theorem fmtM_s (m : BitVec 6) (d : BitVec 6) (a : BitVec 6) (z : BitVec 2) (w : BitVec 3) (s : BitVec 3) (o : BitVec 6) : (fmtM m d a z w s o).extractLsb' 6 3 = s := by
  apply BitVec.eq_of_getLsbD_eq; intro i hi
  simp only [fmtM, BitVec.getLsbD_extractLsb', BitVec.getLsbD_append]
  split_ifs <;> first | omega | simp [*, show 6 + i - 6 = i by omega]

@[simp] theorem fmtM_o (m : BitVec 6) (d : BitVec 6) (a : BitVec 6) (z : BitVec 2) (w : BitVec 3) (s : BitVec 3) (o : BitVec 6) : (fmtM m d a z w s o).extractLsb' 0 6 = o := by
  apply BitVec.eq_of_getLsbD_eq; intro i hi
  simp only [fmtM, BitVec.getLsbD_extractLsb', BitVec.getLsbD_append]
  split_ifs <;> first | omega | simp [*]

@[simp] theorem fmtT_maj (m : BitVec 6) (p : BitVec 4) (q : BitVec 4) (r : BitVec 4) (t : BitVec 4) : majOf (fmtT m p q r t) = m := by
  apply BitVec.eq_of_getLsbD_eq; intro i hi
  simp only [majOf, fmtT, BitVec.getLsbD_extractLsb', BitVec.getLsbD_append]
  split_ifs <;> first | omega | simp [*, show 26 + i - 10 - 4 - 4 - 4 - 4 = i by omega]

@[simp] theorem fmtT_ld (m : BitVec 6) (p : BitVec 4) (q : BitVec 4) (r : BitVec 4) (t : BitVec 4) : (fmtT m p q r t).extractLsb' 22 4 = p := by
  apply BitVec.eq_of_getLsbD_eq; intro i hi
  simp only [fmtT, BitVec.getLsbD_extractLsb', BitVec.getLsbD_append]
  split_ifs <;> first | omega | simp [*, show 22 + i - 10 - 4 - 4 - 4 = i by omega]

@[simp] theorem fmtT_st (m : BitVec 6) (p : BitVec 4) (q : BitVec 4) (r : BitVec 4) (t : BitVec 4) : (fmtT m p q r t).extractLsb' 18 4 = q := by
  apply BitVec.eq_of_getLsbD_eq; intro i hi
  simp only [fmtT, BitVec.getLsbD_extractLsb', BitVec.getLsbD_append]
  split_ifs <;> first | omega | simp [*, show 18 + i - 10 - 4 - 4 = i by omega]

@[simp] theorem fmtT_cp (m : BitVec 6) (p : BitVec 4) (q : BitVec 4) (r : BitVec 4) (t : BitVec 4) : (fmtT m p q r t).extractLsb' 14 4 = r := by
  apply BitVec.eq_of_getLsbD_eq; intro i hi
  simp only [fmtT, BitVec.getLsbD_extractLsb', BitVec.getLsbD_append]
  split_ifs <;> first | omega | simp [*, show 14 + i - 10 - 4 = i by omega]

@[simp] theorem fmtT_tl (m : BitVec 6) (p : BitVec 4) (q : BitVec 4) (r : BitVec 4) (t : BitVec 4) : (fmtT m p q r t).extractLsb' 10 4 = t := by
  apply BitVec.eq_of_getLsbD_eq; intro i hi
  simp only [fmtT, BitVec.getLsbD_extractLsb', BitVec.getLsbD_append]
  split_ifs <;> first | omega | simp [*, show 10 + i - 10 = i by omega]

@[simp] theorem fmtT_zero (m : BitVec 6) (p : BitVec 4) (q : BitVec 4) (r : BitVec 4) (t : BitVec 4) : (fmtT m p q r t).extractLsb' 0 10 = 0#10 := by
  apply BitVec.eq_of_getLsbD_eq; intro i hi
  simp only [fmtT, BitVec.getLsbD_extractLsb', BitVec.getLsbD_append]
  split_ifs <;> first | omega | simp [*]

@[simp] theorem fmtB_maj (m : BitVec 6) (c : BitVec 4) (o : BitVec 22) : majOf (fmtB m c o) = m := by
  apply BitVec.eq_of_getLsbD_eq; intro i hi
  simp only [majOf, fmtB, BitVec.getLsbD_extractLsb', BitVec.getLsbD_append]
  split_ifs <;> first | omega | simp [*, show 26 + i - 22 - 4 = i by omega]

@[simp] theorem fmtB_off (m : BitVec 6) (c : BitVec 4) (o : BitVec 22) : (fmtB m c o).extractLsb' 0 22 = o := by
  apply BitVec.eq_of_getLsbD_eq; intro i hi
  simp only [fmtB, BitVec.getLsbD_extractLsb', BitVec.getLsbD_append]
  split_ifs <;> first | omega | simp [*]

@[simp] theorem fmtB_cond (m : BitVec 6) (x y : BitVec 2) (o : BitVec 22) : (fmtB m (x ++ y) o).extractLsb' 24 2 = x := by
  apply BitVec.eq_of_getLsbD_eq; intro i hi
  simp only [fmtB, BitVec.getLsbD_extractLsb', BitVec.getLsbD_append]
  split_ifs <;> first | omega | simp [*, show 24 + i - 22 - 2 = i by omega]

@[simp] theorem fmtB_flag (m : BitVec 6) (x y : BitVec 2) (o : BitVec 22) : (fmtB m (x ++ y) o).extractLsb' 22 2 = y := by
  apply BitVec.eq_of_getLsbD_eq; intro i hi
  simp only [fmtB, BitVec.getLsbD_extractLsb', BitVec.getLsbD_append]
  split_ifs <;> first | omega | simp [*, show 22 + i - 22 = i by omega]

@[simp] theorem high_6_2 (x : BitVec 6) (y : BitVec 2) : (x ++ y).extractLsb' 2 6 = x := by
  apply BitVec.eq_of_getLsbD_eq; intro i hi
  simp only [BitVec.getLsbD_extractLsb', BitVec.getLsbD_append]
  split_ifs <;> first | omega | simp [*, show 2 + i - 2 = i by omega]

@[simp] theorem low_6_2 (x : BitVec 6) (y : BitVec 2) : (x ++ y).extractLsb' 0 2 = y := by
  apply BitVec.eq_of_getLsbD_eq; intro i hi
  simp only [BitVec.getLsbD_extractLsb', BitVec.getLsbD_append]
  split_ifs <;> first | omega | simp [*]

@[simp] theorem high_4_4 (x : BitVec 4) (y : BitVec 4) : (x ++ y).extractLsb' 4 4 = x := by
  apply BitVec.eq_of_getLsbD_eq; intro i hi
  simp only [BitVec.getLsbD_extractLsb', BitVec.getLsbD_append]
  split_ifs <;> first | omega | simp [*, show 4 + i - 4 = i by omega]

@[simp] theorem low_4_4 (x : BitVec 4) (y : BitVec 4) : (x ++ y).extractLsb' 0 4 = y := by
  apply BitVec.eq_of_getLsbD_eq; intro i hi
  simp only [BitVec.getLsbD_extractLsb', BitVec.getLsbD_append]
  split_ifs <;> first | omega | simp [*]

@[simp] theorem high_5_3 (x : BitVec 5) (y : BitVec 3) : (x ++ y).extractLsb' 3 5 = x := by
  apply BitVec.eq_of_getLsbD_eq; intro i hi
  simp only [BitVec.getLsbD_extractLsb', BitVec.getLsbD_append]
  split_ifs <;> first | omega | simp [*, show 3 + i - 3 = i by omega]

@[simp] theorem low_5_3 (x : BitVec 5) (y : BitVec 3) : (x ++ y).extractLsb' 0 3 = y := by
  apply BitVec.eq_of_getLsbD_eq; intro i hi
  simp only [BitVec.getLsbD_extractLsb', BitVec.getLsbD_append]
  split_ifs <;> first | omega | simp [*]

@[simp] theorem high_4_2 (x : BitVec 4) (y : BitVec 2) : (x ++ y).extractLsb' 2 4 = x := by
  apply BitVec.eq_of_getLsbD_eq; intro i hi
  simp only [BitVec.getLsbD_extractLsb', BitVec.getLsbD_append]
  split_ifs <;> first | omega | simp [*, show 2 + i - 2 = i by omega]

@[simp] theorem low_4_2 (x : BitVec 4) (y : BitVec 2) : (x ++ y).extractLsb' 0 2 = y := by
  apply BitVec.eq_of_getLsbD_eq; intro i hi
  simp only [BitVec.getLsbD_extractLsb', BitVec.getLsbD_append]
  split_ifs <;> first | omega | simp [*]

@[simp] theorem high_3_11 (x : BitVec 3) (y : BitVec 11) : (x ++ y).extractLsb' 11 3 = x := by
  apply BitVec.eq_of_getLsbD_eq; intro i hi
  simp only [BitVec.getLsbD_extractLsb', BitVec.getLsbD_append]
  split_ifs <;> first | omega | simp [*, show 11 + i - 11 = i by omega]

@[simp] theorem low_3_11 (x : BitVec 3) (y : BitVec 11) : (x ++ y).extractLsb' 0 11 = y := by
  apply BitVec.eq_of_getLsbD_eq; intro i hi
  simp only [BitVec.getLsbD_extractLsb', BitVec.getLsbD_append]
  split_ifs <;> first | omega | simp [*]

@[simp] theorem high_1_5 (x : BitVec 1) (y : BitVec 5) : (x ++ y).extractLsb' 5 1 = x := by
  apply BitVec.eq_of_getLsbD_eq; intro i hi
  simp only [BitVec.getLsbD_extractLsb', BitVec.getLsbD_append]
  split_ifs <;> first | omega | simp [*, show 5 + i - 5 = i by omega]

@[simp] theorem low_1_5 (x : BitVec 1) (y : BitVec 5) : (x ++ y).extractLsb' 0 5 = y := by
  apply BitVec.eq_of_getLsbD_eq; intro i hi
  simp only [BitVec.getLsbD_extractLsb', BitVec.getLsbD_append]
  split_ifs <;> first | omega | simp [*]

@[simp] theorem high_2_4 (x : BitVec 2) (y : BitVec 4) : (x ++ y).extractLsb' 4 2 = x := by
  apply BitVec.eq_of_getLsbD_eq; intro i hi
  simp only [BitVec.getLsbD_extractLsb', BitVec.getLsbD_append]
  split_ifs <;> first | omega | simp [*, show 4 + i - 4 = i by omega]

@[simp] theorem low_2_4 (x : BitVec 2) (y : BitVec 4) : (x ++ y).extractLsb' 0 4 = y := by
  apply BitVec.eq_of_getLsbD_eq; intro i hi
  simp only [BitVec.getLsbD_extractLsb', BitVec.getLsbD_append]
  split_ifs <;> first | omega | simp [*]

@[simp] theorem shfi_hi (x : BitVec 6) (y : BitVec 2) (z : BitVec 6) : (x ++ y ++ z).extractLsb' 8 6 = x := by
  apply BitVec.eq_of_getLsbD_eq; intro i hi
  simp only [BitVec.getLsbD_extractLsb', BitVec.getLsbD_append]
  split_ifs <;> first | omega | simp [*, show 8 + i - 6 - 2 = i by omega]

@[simp] theorem shfi_mid (x : BitVec 6) (y : BitVec 2) (z : BitVec 6) : (x ++ y ++ z).extractLsb' 6 2 = y := by
  apply BitVec.eq_of_getLsbD_eq; intro i hi
  simp only [BitVec.getLsbD_extractLsb', BitVec.getLsbD_append]
  split_ifs <;> first | omega | simp [*, show 6 + i - 6 = i by omega]

@[simp] theorem shfi_low (x : BitVec 6) (y : BitVec 2) (z : BitVec 6) : (x ++ y ++ z).extractLsb' 0 6 = z := by
  apply BitVec.eq_of_getLsbD_eq; intro i hi
  simp only [BitVec.getLsbD_extractLsb', BitVec.getLsbD_append]
  split_ifs <;> first | omega | simp [*]

theorem bytes_word (w : Word) :
    wordOfBytes (w.extractLsb' 0 8) (w.extractLsb' 8 8) (w.extractLsb' 16 8) (w.extractLsb' 24 8) = w := by
  apply BitVec.eq_of_getLsbD_eq; intro i hi
  simp only [wordOfBytes, BitVec.getLsbD_extractLsb', BitVec.getLsbD_append]
  split_ifs <;> (rw [decide_eq_true (by omega), Bool.true_and]; congr 1; omega)

@[simp] theorem flagField_enc (f : BitVec 2) : flagField (0#4 ++ f) = f := low_4_2 _ _

@[simp] theorem flagZero_enc (f : BitVec 2) : flagZero (0#4 ++ f) = true := by
  unfold flagZero; rw [high_4_2]; rfl

theorem bcast_top (l : BitVec 5) : (0#1 ++ l).getLsbD 5 = false := by
  rw [BitVec.getLsbD_append]; simp

theorem decode_01 {w : Word} {l : Option Word} (h : majOf w = 0x01#6) : decodeWord w l = decodeIop (dOf w) (aOf w) (bOf w) (fnOf w) := by
  unfold decodeWord; rw [h]; rfl

theorem decode_02 {w : Word} {l : Option Word} (h : majOf w = 0x02#6) : decodeWord w l = .ok (.addi (dOf w) (aOf w) (immOf w)) := by
  unfold decodeWord; rw [h]; rfl

theorem decode_03 {w : Word} {l : Option Word} (h : majOf w = 0x03#6) : decodeWord w l = .ok (.andi (dOf w) (aOf w) (immOf w)) := by
  unfold decodeWord; rw [h]; rfl

theorem decode_04 {w : Word} {l : Option Word} (h : majOf w = 0x04#6) : decodeWord w l = .ok (.ori (dOf w) (aOf w) (immOf w)) := by
  unfold decodeWord; rw [h]; rfl

theorem decode_05 {w : Word} {l : Option Word} (h : majOf w = 0x05#6) : decodeWord w l = .ok (.xori (dOf w) (aOf w) (immOf w)) := by
  unfold decodeWord; rw [h]; rfl

theorem decode_06 {w : Word} {l : Option Word} (h : majOf w = 0x06#6) : decodeWord w l = decodeShfi (dOf w) (aOf w) (immOf w) := by
  unfold decodeWord; rw [h]; rfl

theorem decode_07 {w : Word} {l : Option Word} (h : majOf w = 0x07#6) : decodeWord w l = .ok (.movh (dOf w) (w.extractLsb' 0 20)) := by
  unfold decodeWord; rw [h]; rfl

theorem decode_09 {w : Word} {l : Option Word} (h : majOf w = 0x09#6) : decodeWord w l = decodeIcmp (dOf w) (aOf w) (bOf w) (fnOf w) := by
  unfold decodeWord; rw [h]; rfl

theorem decode_0A {w : Word} {l : Option Word} (h : majOf w = 0x0A#6) : decodeWord w l = decodeIcmpi (dOf w) (aOf w) (immOf w) := by
  unfold decodeWord; rw [h]; rfl

theorem decode_0B {w : Word} {l : Option Word} (h : majOf w = 0x0B#6) : decodeWord w l = decodeFop (dOf w) (aOf w) (bOf w) (fnOf w) := by
  unfold decodeWord; rw [h]; rfl

theorem decode_0C {w : Word} {l : Option Word} (h : majOf w = 0x0C#6) : decodeWord w l = .ok (.fma (dOf w) (aOf w) (bOf w) ((fnOf w).extractLsb' 2 6) (rmOf ((fnOf w).extractLsb' 0 2))) := by
  unfold decodeWord; rw [h]; rfl

theorem decode_0D {w : Word} {l : Option Word} (h : majOf w = 0x0D#6) : decodeWord w l = .ok (.fms (dOf w) (aOf w) (bOf w) ((fnOf w).extractLsb' 2 6) (rmOf ((fnOf w).extractLsb' 0 2))) := by
  unfold decodeWord; rw [h]; rfl

theorem decode_0E {w : Word} {l : Option Word} (h : majOf w = 0x0E#6) : decodeWord w l = .ok (.fnma (dOf w) (aOf w) (bOf w) ((fnOf w).extractLsb' 2 6) (rmOf ((fnOf w).extractLsb' 0 2))) := by
  unfold decodeWord; rw [h]; rfl

theorem decode_0F {w : Word} {l : Option Word} (h : majOf w = 0x0F#6) : decodeWord w l = .ok (.fmaX2 (dOf w) (aOf w) (bOf w) ((fnOf w).extractLsb' 2 6) (rmOf ((fnOf w).extractLsb' 0 2))) := by
  unfold decodeWord; rw [h]; rfl

theorem decode_10 {w : Word} {l : Option Word} (h : majOf w = 0x10#6) : decodeWord w l = .ok (.fmaP2 (dOf w) (aOf w) (bOf w) ((fnOf w).extractLsb' 2 6) (rmOf ((fnOf w).extractLsb' 0 2))) := by
  unfold decodeWord; rw [h]; rfl

theorem decode_11 {w : Word} {l : Option Word} (h : majOf w = 0x11#6) : decodeWord w l = decodeFcmp (dOf w) (aOf w) (bOf w) (fnOf w) := by
  unfold decodeWord; rw [h]; rfl

theorem decode_12 {w : Word} {l : Option Word} (h : majOf w = 0x12#6) : decodeWord w l = decodeCvt (dOf w) (aOf w) (bOf w) (fnOf w) := by
  unfold decodeWord; rw [h]; rfl

theorem decode_13 {w : Word} {l : Option Word} (h : majOf w = 0x13#6) : decodeWord w l = decodeTag (dOf w) (aOf w) (bOf w) (fnOf w) := by
  unfold decodeWord; rw [h]; rfl

theorem decode_14 {w : Word} {l : Option Word} (h : majOf w = 0x14#6) : decodeWord w l = decodeXln (dOf w) (aOf w) (bOf w) (fnOf w) := by
  unfold decodeWord; rw [h]; rfl

theorem decode_15 {w : Word} {l : Option Word} (h : majOf w = 0x15#6) : decodeWord w l = decodeMem w .ld := by
  unfold decodeWord; rw [h]; rfl

theorem decode_16 {w : Word} {l : Option Word} (h : majOf w = 0x16#6) : decodeWord w l = decodeMem w .lda := by
  unfold decodeWord; rw [h]; rfl

theorem decode_17 {w : Word} {l : Option Word} (h : majOf w = 0x17#6) : decodeWord w l = decodeMem w .ldi := by
  unfold decodeWord; rw [h]; rfl

theorem decode_18 {w : Word} {l : Option Word} (h : majOf w = 0x18#6) : decodeWord w l = decodeMem w .st := by
  unfold decodeWord; rw [h]; rfl

theorem decode_19 {w : Word} {l : Option Word} (h : majOf w = 0x19#6) : decodeWord w l = decodeMem w .stl := by
  unfold decodeWord; rw [h]; rfl

theorem decode_1A {w : Word} {l : Option Word} (h : majOf w = 0x1A#6) : decodeWord w l = decodeLdv (dOf w) (aOf w) (bOf w) (fnOf w) := by
  unfold decodeWord; rw [h]; rfl

theorem decode_1B {w : Word} {l : Option Word} (h : majOf w = 0x1B#6) : decodeWord w l = decodeAtom (dOf w) (aOf w) (bOf w) (fnOf w) := by
  unfold decodeWord; rw [h]; rfl

theorem decode_1C {w : Word} {l : Option Word} (h : majOf w = 0x1C#6) : decodeWord w l = decodeFence (dOf w) (aOf w) (bOf w) (fnOf w) := by
  unfold decodeWord; rw [h]; rfl

theorem decode_1D {w : Word} {l : Option Word} (h : majOf w = 0x1D#6) : decodeWord w l = decodeStmx (dOf w) (aOf w) (bOf w) (fnOf w) := by
  unfold decodeWord; rw [h]; rfl

theorem decode_1E {w : Word} {l : Option Word} (h : majOf w = 0x1E#6) : decodeWord w l = decodePf (dOf w) (aOf w) (bOf w) (fnOf w) := by
  unfold decodeWord; rw [h]; rfl

theorem decode_1F {w : Word} {l : Option Word} (h : majOf w = 0x1F#6) : decodeWord w l = decodeVer (dOf w) (aOf w) (bOf w) (fnOf w) := by
  unfold decodeWord; rw [h]; rfl

theorem decode_20 {w : Word} {l : Option Word} (h : majOf w = 0x20#6) : decodeWord w l = decodeBranch w .br := by
  unfold decodeWord; rw [h]; rfl

theorem decode_21 {w : Word} {l : Option Word} (h : majOf w = 0x21#6) : decodeWord w l = decodeBranch w .brx := by
  unfold decodeWord; rw [h]; rfl

theorem decode_22 {w : Word} {l : Option Word} (h : majOf w = 0x22#6) : decodeWord w l = decodeBranch w .call := by
  unfold decodeWord; rw [h]; rfl

theorem decode_23 {w : Word} {l : Option Word} (h : majOf w = 0x23#6) : decodeWord w l = decodeJr (dOf w) (aOf w) (bOf w) (fnOf w) := by
  unfold decodeWord; rw [h]; rfl

theorem decode_24 {w : Word} {l : Option Word} (h : majOf w = 0x24#6) : decodeWord w l = decodeWait w := by
  unfold decodeWord; rw [h]; rfl

theorem decode_25 {w : Word} {l : Option Word} (h : majOf w = 0x25#6) : decodeWord w l = decodeCtl (dOf w) (aOf w) (bOf w) (fnOf w) := by
  unfold decodeWord; rw [h]; rfl

theorem decode_26 {w : Word} {l : Option Word} (h : majOf w = 0x26#6) : decodeWord w l = decodeBar (dOf w) (aOf w) (bOf w) (fnOf w) := by
  unfold decodeWord; rw [h]; rfl

theorem decode_27 {w : Word} {l : Option Word} (h : majOf w = 0x27#6) : decodeWord w l = decodeAwt (dOf w) (aOf w) (bOf w) (fnOf w) := by
  unfold decodeWord; rw [h]; rfl

theorem decode_28 {w : Word} {l : Option Word} (h : majOf w = 0x28#6) : decodeWord w l = decodeSysi (dOf w) (aOf w) (bOf w) (fnOf w) := by
  unfold decodeWord; rw [h]; rfl

theorem decode_30 {w : Word} {l : Option Word} (h : majOf w = 0x30#6) : decodeWord w l = decodeMma (fnOf w) (.mma (dOf w) (aOf w) (bOf w)) := by
  unfold decodeWord; rw [h]; rfl

theorem decode_31 {w : Word} {l : Option Word} (h : majOf w = 0x31#6) : decodeWord w l = decodeMma (fnOf w) (.mmag (dOf w) (aOf w) (bOf w)) := by
  unfold decodeWord; rw [h]; rfl

theorem decode_32 {w : Word} {l : Option Word} (h : majOf w = 0x32#6) : decodeWord w l = decodeMtl (dOf w) (aOf w) (bOf w) (fnOf w) := by
  unfold decodeWord; rw [h]; rfl

theorem decode_33 {w : Word} {l : Option Word} (h : majOf w = 0x33#6) : decodeWord w l = decodeDrain (dOf w) (aOf w) (bOf w) (fnOf w) := by
  unfold decodeWord; rw [h]; rfl

theorem decode_34 {w : Word} {l : Option Word} (h : majOf w = 0x34#6) : decodeWord w l = decodeCpy (dOf w) (aOf w) (bOf w) (fnOf w) := by
  unfold decodeWord; rw [h]; rfl

theorem decode_35 {w : Word} {l : Option Word} (h : majOf w = 0x35#6) : decodeWord w l = decodeFab (dOf w) (aOf w) (bOf w) (fnOf w) := by
  unfold decodeWord; rw [h]; rfl

theorem decode_36 {w : Word} {l : Option Word} (h : majOf w = 0x36#6) : decodeWord w l = decodeColl (dOf w) (aOf w) (bOf w) (fnOf w) := by
  unfold decodeWord; rw [h]; rfl

theorem decode_37 {w : Word} {l : Option Word} (h : majOf w = 0x37#6) : decodeWord w l = decodeStep (dOf w) (aOf w) (bOf w) (fnOf w) := by
  unfold decodeWord; rw [h]; rfl

theorem decode_38 {w : Word} {l : Option Word} (h : majOf w = 0x38#6) : decodeWord w l = decodeTrl (dOf w) (aOf w) (bOf w) (fnOf w) := by
  unfold decodeWord; rw [h]; rfl

/-- The decoder on the bytes of one word, where its major takes no literal. -/
theorem decode_one {w : Word} {i : Instr} {rest : List Byte} (hl : takesLiteral w = false) (h : decodeWord w none = .ok i) :
    decode (bytesOfWord w ++ rest) = .ok (i, rest) := by
  simp only [bytesOfWord, List.cons_append, List.nil_append, decode, bytes_word, hl, h, Bool.false_eq_true, if_false]

/-- The decoder on the bytes of a word and its literal. -/
theorem decode_two {w l : Word} {i : Instr} {rest : List Byte} (hl : takesLiteral w = true) (h : decodeWord w (some l) = .ok i) :
    decode (bytesOfWord w ++ bytesOfWord l ++ rest) = .ok (i, rest) := by
  simp only [bytesOfWord, List.cons_append, List.nil_append, decode, bytes_word, hl, h, if_true]

end Sys2Proof
end

