-- ==== Sys2Proof/Laws/Finish.lean ====
section
/-! SUPPORT. What the end of a word does, where no MCHK waits and no REORDER completes: it moves the bookkeeping of its plot on, and
changes nothing else. -/

namespace Sys2Proof.Machine

@[simp] theorem body_body (a : Agent) : a.body.body = a.body := rfl

/-- Changing where an agent stands changes no body. -/
theorem body_modAgent {g : Regs} {w : Who} {f : Agent → Agent} (hf : ∀ a, (f a).body = a.body) : (g.modAgent w f).body = g.body := by
  cases w with
  | front => simp [Regs.modAgent, Regs.body, hf]
  | strand k =>
    simp only [Regs.modAgent, Regs.modStrand, Regs.body, modifyWhere, List.map_map]
    congr 1
    refine List.map_congr_left (fun st _ => ?_)
    simp only [Function.comp_apply]
    split <;> simp [Strand.body, hf]

theorem body_join (g : Regs) (k : Nat) (y : Bool) : (g.join k y).body = g.body := by
  obtain ⟨h, hh, h1, h2, h3, h4⟩ := join_fields g k y
  have e : (g.join k y).body = h.body := by simp only [Regs.body, h1, h2, h3, h4]
  rcases hh with rfl | rfl
  · exact e
  · exact e.trans (body_modAgent (fun _ => rfl))

theorem body_boundary (g : Regs) (w : Who) (pc : Word) (y : Bool) : (g.boundary w pc y).body = g.body := by
  unfold Regs.boundary
  cases w with
  | front => exact body_modAgent (fun _ => rfl)
  | strand k => exact (body_join _ k y).trans (body_modAgent (fun _ => rfl))

theorem body_reenterAs (g : Regs) (w : Who) (pc : Word) (y : Bool) : (g.reenterAs w pc y).body = g.body := by
  cases w with
  | front => exact body_modAgent (fun _ => rfl)
  | strand k => exact (body_join _ k y).trans (body_modAgent (fun _ => rfl))

theorem body_retire (g : Regs) (w : Who) (n : Nat) : (g.retire w n).body = g.body := by
  unfold Regs.retire
  split
  · rfl
  · simp only
    split
    · exact body_boundary ..
    · split
      · exact body_boundary ..
      · split
        · exact body_modAgent (fun _ => rfl)
        · exact body_reenterAs ..

theorem body_jump (g : Regs) (w : Who) (t : Word) : (g.jump w t).body = g.body := by
  unfold Regs.jump
  split
  · rfl
  · exact body_boundary ..

theorem body_blockAt (g : Regs) (w : Who) (k : Wait) (m n : Nat) : (g.blockAt w k m n).body = g.body :=
  body_modAgent (fun _ => rfl)

theorem body_holdTrap (g : Regs) (w : Who) (t : Trap) : (g.holdTrap w t).body = g.body := by
  have h : (g.modAgent w (fun a => { a with trap := some t })).body = g.body := body_modAgent (fun _ => rfl)
  unfold Regs.holdTrap
  simp only
  split
  · split
    · exact h
    · exact (body_reenterAs ..).trans h
  · exact h

/-- The strand that comes up from the overflow queue, and those at its address, keep their bodies. -/
theorem body_admitFirst (g : Regs) : g.admitFirst.body = g.body := by
  unfold Regs.admitFirst
  split
  · rfl
  · split
    · rfl
    · simp only [Regs.body, modifyWhere, List.map_map]
      congr 1
      refine List.map_congr_left (fun st _ => ?_)
      simp only [Function.comp_apply]
      split <;> rfl

theorem body_admitAll (g : Regs) (n : Nat) : (g.admitAll n).body = g.body := by
  induction n generalizing g with
  | zero => rfl
  | succ n ih =>
    unfold Regs.admitAll
    split
    · rw [ih, body_admitFirst]
    · rfl

theorem body_settle (g : Regs) : g.settle.body = g.body := (body_admitAll ..).trans rfl

/-- What of a plot its bodies tell: a change of the registers that keeps their body keeps the plot's. -/
theorem body_modRegs {p : Plot} {f : Regs → Regs} (h : (f p.regs).body = p.regs.body) : (p.modRegs f).body = p.body := by
  simp [Plot.modRegs, Plot.body, h]

theorem body_stamp (p : Plot) : p.stamp.body = p.body := by
  have hf : ∀ a : Agent, (if a.phase = .waiting ∧ a.since = 0 then { a with since := p.arrivals + 1 } else a).body = a.body := by
    intro a; split <;> rfl
  simp only [Plot.stamp, Plot.body, Regs.body, List.map_map, hf]
  congr 2
  exact List.map_congr_left (fun st _ => by simp [Strand.body, hf])

theorem body_trimBundle (p : Plot) : p.trimBundle.body = p.body := by
  unfold Plot.trimBundle
  split <;> rfl

theorem body_dropRows (p : Plot) : p.dropRows.body = p.body := by
  unfold Plot.dropRows
  simp only
  split
  · rfl
  · simp only [Plot.body, Plot.modRegs, Regs.body, List.map_map]
    congr 2

theorem gatherDone_eq {p : Plot} (h : ∀ st ∈ p.regs.strands, st.ag.phase ≠ .gathered) : p.gatherDone = p := by
  unfold Plot.gatherDone
  simp only
  split
  · rfl
  · rename_i y l he
    have hy : y ∈ p.regs.strands := List.mem_of_mem_filter (by rw [he]; exact List.mem_cons_self ..)
    refine if_neg ?_
    simp [he, h y hy]

/-- The bookkeeping of a plot at the end of a word. -/
def Plot.ended (p : Plot) : Plot := (p.gatherDone.trimBundle.dropRows.modRegs Regs.settle).stamp

theorem body_ended {p : Plot} (h : ∀ st ∈ p.regs.strands, st.ag.phase ≠ .gathered) : p.ended.body = p.body := by
  unfold Plot.ended
  rw [gatherDone_eq h, body_stamp, body_modRegs (body_settle _), body_dropRows, body_trimBundle]

theorem id_ended (p : Plot) : p.ended.id = p.id := by
  have e : ∀ q r : Plot, q.body = r.body → q.id = r.id := fun q r h => (congrArg Plot.id h : q.body.id = r.body.id)
  unfold Plot.ended
  rw [e _ _ (body_stamp _)]
  show (p.gatherDone.trimBundle.dropRows).id = _
  rw [e _ _ (body_dropRows _), e _ _ (body_trimBundle _)]
  unfold Plot.gatherDone
  simp only
  split
  · rfl
  · split <;> rfl

theorem strand?_body (g : Regs) (k : Nat) : g.body.strand? k = (g.strand? k).map Strand.body := by
  simp only [Regs.strand?, Regs.body, List.find?_map]
  rfl

theorem v_body (g : Regs) (k : Nat) (r : Reg) : g.body.v k r = g.v k r := by
  simp only [Regs.v, strand?_body]
  cases g.strand? k <;> rfl

theorem s_body (g : Regs) (r : Reg) : g.body.s r = g.s r := rfl

theorem flag_body (g : Regs) (w : Who) (f : BitVec 2) : g.body.flag w f = g.flag w f := by
  cases w with
  | front => rfl
  | strand k =>
    simp only [Regs.flag, strand?_body]
    cases g.strand? k <;> rfl

theorem agent?_body (g : Regs) (w : Who) : g.body.agent? w = (g.agent? w).map Agent.body := by
  cases w with
  | front => rfl
  | strand k =>
    simp only [Regs.agent?, strand?_body]
    cases g.strand? k <;> rfl

theorem mem_agents_of {g : Regs} {w : Who} {a : Agent} (h : g.agent? w = some a) : (w, a) ∈ g.agents := by
  cases w with
  | front =>
    simp only [Regs.agent?, Option.some.injEq] at h
    subst h
    exact List.mem_cons_self ..
  | strand k =>
    simp only [Regs.agent?, Regs.strand?, Option.map_eq_some_iff] at h
    obtain ⟨st, hst, rfl⟩ := h
    refine List.mem_cons_of_mem _ (List.mem_map.2 ⟨st, List.mem_of_find?_eq_some hst, ?_⟩)
    have := List.find?_some hst
    simp at this; simp [this]

/-- Who the agents are, and whether each has exited: what ending a plot's word turns on. -/
def Regs.turns (g : Regs) : List (Who × Phase) := g.agents.map (fun y => (y.1, y.2.phase))

theorem turns_admitAll (g : Regs) (n : Nat) : (g.admitAll n).turns = g.turns := by
  induction n generalizing g with
  | zero => rfl
  | succ n ih =>
    unfold Regs.admitAll
    split
    · rw [ih]
      unfold Regs.admitFirst
      split
      · rfl
      · split
        · rfl
        · simp only [Regs.turns, Regs.agents, modifyWhere, List.map_cons, List.map_map]
          congr 1
          refine List.map_congr_left (fun st _ => ?_)
          simp only [Function.comp_apply]
          split <;> rfl
    · rfl

theorem turns_ended {p : Plot} (h : ∀ st ∈ p.regs.strands, st.ag.phase ≠ .gathered) : p.ended.regs.turns = p.regs.turns := by
  have hs : ∀ q : Plot, q.stamp.regs.turns = q.regs.turns := by
    intro q
    have hf : ∀ a : Agent, (if a.phase = .waiting ∧ a.since = 0 then { a with since := q.arrivals + 1 } else a).phase = a.phase := by
      intro a; split <;> rfl
    simp [Plot.stamp, Regs.turns, Regs.agents, hf, Function.comp_def]
  have hd : ∀ q : Plot, q.dropRows.regs.turns = q.regs.turns := by
    intro q
    unfold Plot.dropRows
    simp only
    split
    · rfl
    · simp [Plot.modRegs, Regs.turns, Regs.agents, Function.comp_def]
  have ht : ∀ q : Plot, q.trimBundle.regs = q.regs := by
    intro q; unfold Plot.trimBundle; split <;> rfl
  unfold Plot.ended
  rw [gatherDone_eq h, hs]
  exact (turns_admitAll ..).trans ((hd _).trans (by rw [ht]))

theorem mchk_ended {p : Plot} (hq : Quiet p) (w : Who) (a : Agent) (ha : p.ended.agent? w = some a) : a.mchk = [] ∧ a.later = [] := by
  have e : (p.ended.regs.agent? w).map Agent.body = (p.regs.agent? w).map Agent.body := by
    have h := congrArg (fun q : Plot => q.regs.agent? w) (body_ended hq.gathered)
    rw [← agent?_body, ← agent?_body]
    exact h
  generalize p.ended = r at *
  rw [show r.regs.agent? w = some a from ha] at e
  cases hb : p.regs.agent? w with
  | none => rw [hb] at e; cases e
  | some b =>
    rw [hb] at e
    have e2 : a.body = b.body := Option.some.inj e
    exact ⟨(congrArg Agent.mchk e2).trans (hq.mchk w b hb).1, (congrArg Agent.later e2).trans (hq.mchk w b hb).2⟩

theorem sweep_eq {s : State} {id : Nat} {p : Plot} (hp : s.plot? id = some p)
    (hm : ∀ w a, p.agent? w = some a → a.mchk = [] ∧ a.later = []) :
    s.sweep id = s := by
  have h1 : ∀ w, s.sweepOne id w = s := by
    intro w
    unfold State.sweepOne
    rw [hp]
    simp only
    cases ha : p.agent? w with
    | none => rfl
    | some a => simp only [(hm w a ha).1, (hm w a ha).2, List.append_nil]
  unfold State.sweep
  rw [hp]
  simp only
  generalize p.regs.agents = l
  induction l with
  | nil => rfl
  | cons y l ih => rw [List.foldl_cons, h1]; exact ih

theorem retirable_of_turns {p q : Plot} (ht : q.regs.turns = p.regs.turns) (he : ∃ y ∈ p.regs.agents, y.2.phase ≠ .exited) :
    q.retirable = false := by
  obtain ⟨y, hy, hn⟩ := he
  have : (y.1, y.2.phase) ∈ q.regs.turns := ht ▸ List.mem_map.2 ⟨y, hy, rfl⟩
  obtain ⟨z, hz, e⟩ := List.mem_map.1 this
  have e2 : z.2.phase = y.2.phase := congrArg (fun u => u.2) e
  have hz2 : z.2.phase ≠ .exited := e2 ▸ hn
  have : q.regs.retirable = false := by
    simp only [Regs.retirable, List.all_eq_false]
    exact ⟨z, hz, by simp [hz2]⟩
  simp [Plot.retirable, this]

/-- The end of a word, where nothing else of the plot takes effect, is the plot's own bookkeeping. -/
theorem finish_eq {s : State} {id : Nat} {p : Plot} (hp : s.plot? id = some p) (hq : Quiet p)
    (he : ∃ y ∈ p.regs.agents, y.2.phase ≠ .exited) :
    s.finish id = s.modPlot id Plot.ended ∧ (s.finish id).plot? id = some p.ended := by
  have hpl : (s.modPlot id Plot.ended).plot? id = some p.ended := by
    rw [plot?_modPlot _ _ _ id_ended, hp]; rfl
  have e : s.finish id = ((s.modPlot id Plot.ended).sweep id).tryRetire id := rfl
  have h2 : (s.modPlot id Plot.ended).sweep id = s.modPlot id Plot.ended := sweep_eq hpl (mchk_ended hq)
  have h3 : p.ended.retirable = false := retirable_of_turns (turns_ended hq.gathered) he
  have h4 : (s.modPlot id Plot.ended).tryRetire id = s.modPlot id Plot.ended := by
    unfold State.tryRetire
    rw [hpl]
    simp only [h3]
    rfl
  rw [e, h2, h4]
  exact ⟨rfl, hpl⟩

end Sys2Proof.Machine
end

