-- ==== Sys2Proof/Laws/Frame.lean ====
section
/-! SUPPORT. Frames of the words that write registers only: what one write changes, and what a word made of such writes changes. -/

namespace Sys2Proof.Machine

/-- What `SameBut` says turns on the body of the registers alone. -/
theorem SameBut.of_body {g h h' : Regs} {w : Who} {ds : List Reg} {fs : List (BitVec 2)} (k : SameBut g h w ds fs) (e : h'.body = h.body) :
    SameBut g h' w ds fs where
  v a n hn := by rw [← v_body h', e, v_body]; exact k.v a n hn
  s n hn := by rw [← s_body h', e, s_body]; exact k.s n hn
  flag u n hn := by rw [← flag_body h', e, flag_body]; exact k.flag u n hn
  banks := (congrArg Regs.banks e : h'.body.banks = h.body.banks).trans k.banks
  ids := by
    refine Eq.trans ?_ k.ids
    have := congrArg (fun z : Regs => z.strands.map (fun st => (st.key, st.sid, st.lane, st.cohort, st.spawned, st.spawns, st.depth))) e
    simpa [Regs.body, Function.comp_def, Strand.body] using this
  agents u := by rw [← agent?_body h', e, agent?_body]; exact k.agents u

theorem SameBut.refl (g : Regs) (w : Who) (ds : List Reg) (fs : List (BitVec 2)) : SameBut g g w ds fs :=
  ⟨fun _ _ _ => rfl, fun _ _ => rfl, fun _ _ _ => rfl, rfl, rfl, fun _ => rfl⟩

theorem SameBut.trans {g h k : Regs} {w : Who} {ds : List Reg} {fs : List (BitVec 2)} (a : SameBut g h w ds fs) (b : SameBut h k w ds fs) :
    SameBut g k w ds fs :=
  ⟨fun i n hn => (b.v i n hn).trans (a.v i n hn), fun n hn => (b.s n hn).trans (a.s n hn),
    fun u n hn => (b.flag u n hn).trans (a.flag u n hn), b.banks.trans a.banks, b.ids.trans a.ids, fun u => (b.agents u).trans (a.agents u)⟩

/-- A change of one strand that keeps its key: what a strand's key finds. -/
theorem strand?_modStrand (g : Regs) (j k : Nat) (f : Strand → Strand) (hf : ∀ st, (f st).key = st.key) :
    (g.modStrand j f).strand? k = if k = j then (g.strand? k).map f else g.strand? k := by
  by_cases h : k = j
  · subst h
    rw [if_pos rfl]
    exact find_modifyWhere (fun st : Strand => st.key == k) f (fun st => by simp [hf]) g.strands
  · rw [if_neg h]
    simp only [Regs.strand?, Regs.modStrand, modifyWhere]
    induction g.strands with
    | nil => rfl
    | cons y l ih =>
      simp only [List.map_cons, List.find?_cons]
      have e : ((if (y.key == j) = true then f y else y).key == k) = (y.key == k) := by split <;> simp [hf]
      rw [e, ih]
      by_cases hk : y.key = k
      · have : ¬y.key = j := fun z => h (hk.symm.trans z)
        simp [this]
      · have : (y.key == k) = false := by simp [hk]
        rw [this]

theorem SameBut.plain {g h : Regs} {w u : Who} {ds : List Reg} {fs : List (BitVec 2)} (k : SameBut g h w ds fs) (hp : g.plain u) :
    h.plain u := by
  intro a ha
  have e := k.agents u
  rw [ha] at e
  cases hg : g.agent? u with
  | none => rw [hg] at e; simp at e
  | some b =>
    rw [hg] at e
    have e2 : a.body = b.body := by simpa using e
    exact (congrArg Agent.handler e2 : a.body.handler = b.body.handler).trans (hp b hg)

/-- A change of a strand's registers and flags that the list names. -/
theorem sameBut_modStrand {g : Regs} {j : Nat} {f : Strand → Strand} {ds : List Reg} {fs : List (BitVec 2)}
    (hf : ∀ st, (f st).key = st.key ∧ (f st).sid = st.sid ∧ (f st).lane = st.lane ∧ (f st).cohort = st.cohort ∧
      (f st).spawned = st.spawned ∧ (f st).spawns = st.spawns ∧ (f st).depth = st.depth ∧ (f st).ag = st.ag)
    (hr : ∀ st (n : Reg), n ∉ ds → (f st).regs[n.toNat]'n.isLt = st.regs[n.toNat]'n.isLt)
    (hl : ∀ st (n : BitVec 2), n ∉ fs → (f st).flags[n.toNat]'n.isLt = st.flags[n.toNat]'n.isLt) :
    SameBut g (g.modStrand j f) (.strand j) ds fs where
  v k n hn := by
    simp only [Regs.v, strand?_modStrand g j k f (fun st => (hf st).1)]
    by_cases h : k = j
    · subst h
      rw [if_pos rfl]
      cases g.strand? k with
      | none => rfl
      | some st =>
        simp only [Option.map_some, (hf st).2.2.2.2.2.2.2]
        split
        · rfl
        · exact hr st n (fun z => hn ⟨rfl, z⟩)
    · rw [if_neg h]; rfl
  s n _ := rfl
  flag u n hn := by
    cases u with
    | front => rfl
    | strand k =>
      simp only [Regs.flag, strand?_modStrand g j k f (fun st => (hf st).1)]
      by_cases h : k = j
      · subst h
        rw [if_pos rfl]
        cases g.strand? k with
        | none => rfl
        | some st =>
          simp only [Option.map_some, (hf st).2.2.2.2.2.2.2]
          split
          · rfl
          · exact hl st n (fun z => hn ⟨rfl, z⟩)
      · rw [if_neg h]; rfl
  banks := rfl
  ids := by
    simp only [Regs.modStrand, modifyWhere, List.map_map]
    refine List.map_congr_left (fun st _ => ?_)
    simp only [Function.comp_apply]
    split
    · obtain ⟨h1, h2, h3, h4, h5, h6, h7, _⟩ := hf st
      rw [h1, h2, h3, h4, h5, h6, h7]
    · rfl
  agents u := by
    cases u with
    | front => rfl
    | strand k =>
      simp only [Regs.agent?, strand?_modStrand g j k f (fun st => (hf st).1)]
      split
      · cases g.strand? k with
        | none => rfl
        | some st => simp [(hf st).2.2.2.2.2.2.2]
      · rfl

theorem sameBut_setV {g : Regs} {j : Nat} {d : Reg} (y : VReg) {ds : List Reg} {fs : List (BitVec 2)} (hd : d ∈ ds) (hp : g.plain (.strand j)) :
    SameBut g (g.setV j d y) (.strand j) ds fs := by
  unfold Regs.setV
  split
  · rename_i st hst
    have hh : st.ag.handler = false := hp st.ag (by simp [Regs.agent?, hst])
    simp only [banked, hh, Bool.false_and]
    unfold Regs.setVAt
    rw [if_neg (by simp)]
    refine sameBut_modStrand (fun st => ⟨rfl, rfl, rfl, rfl, rfl, rfl, rfl, rfl⟩) (fun st n hn => ?_) (fun _ _ _ => rfl)
    have hne : d.toNat ≠ n.toNat := fun z => hn (BitVec.eq_of_toNat_eq z ▸ hd)
    simp [hne]
  · exact .refl ..

theorem sameBut_setS {g : Regs} {d : Reg} (y : DWord) {ds : List Reg} {fs : List (BitVec 2)} (hd : d ∈ ds) (hp : g.plain .front) :
    SameBut g (g.setS d y) .front ds fs := by
  have hh : g.front.ag.handler = false := hp _ rfl
  unfold Regs.setS Regs.setSAt
  simp only [banked, hh, Bool.false_and]
  split
  · exact .refl ..
  · rw [if_neg (by simp)]
    refine ⟨fun _ _ _ => rfl, fun n hn => ?_, fun u _ _ => by cases u <;> rfl, rfl, rfl, fun u => by cases u <;> rfl⟩
    have hne : d.toNat ≠ n.toNat := fun z => hn ⟨rfl, BitVec.eq_of_toNat_eq z ▸ hd⟩
    simp [Regs.s, hh, banked, hne]

theorem sameBut_setFlag {g : Regs} {w : Who} {f : BitVec 2} (y : Bool) {ds : List Reg} {fs : List (BitVec 2)} (hd : f ∈ fs) (hp : g.plain w) :
    SameBut g (g.setFlag w f y) w ds fs := by
  unfold Regs.setFlag
  cases w with
  | front =>
    have hh : g.front.ag.handler = false := hp _ rfl
    simp only [hh]
    rw [if_neg (by simp)]
    refine ⟨fun _ _ _ => rfl, fun n _ => rfl, fun u n hn => ?_, rfl, rfl, fun u => by cases u <;> rfl⟩
    cases u with
    | strand k => rfl
    | front =>
      have hne : f.toNat ≠ n.toNat := fun z => hn ⟨rfl, BitVec.eq_of_toNat_eq z ▸ hd⟩
      simp [Regs.flag, hh, hne]
  | strand j =>
    simp only
    split
    · rename_i st hst
      have hh : st.ag.handler = false := hp st.ag (by simp [Regs.agent?, hst])
      rw [hh, if_neg (by simp)]
      refine sameBut_modStrand (fun st => ⟨rfl, rfl, rfl, rfl, rfl, rfl, rfl, rfl⟩) (fun _ _ _ => rfl) (fun st n hn => ?_)
      have hne : f.toNat ≠ n.toNat := fun z => hn (BitVec.eq_of_toNat_eq z ▸ hd)
      simp [hne]
    · exact .refl ..

theorem sameBut_orFpf (g : Regs) (fl : BitVec 5) (w : Who) (ds : List Reg) (fs : List (BitVec 2)) : SameBut g (g.orFpf fl) w ds fs :=
  ⟨fun _ _ _ => rfl, fun _ _ => rfl, fun u _ _ => by cases u <;> rfl, rfl, rfl, fun u => by cases u <;> rfl⟩

/-! ### Words -/

theorem plot?_modPlot_ne (s : State) {id j : Nat} (f : Plot → Plot) (hf : ∀ p, (f p).id = p.id) (h : j ≠ id) :
    (s.modPlot id f).plot? j = s.plot? j :=
  find_modifyWhere_ne (fun q : Plot => q.id == id) (fun q => q.id == j) f (fun q => by simp [hf])
    (fun q hq => by simp at hq ⊢; omega) s.plots

/-- Every word numbered and its plot changed: nothing else is. -/
theorem onlyPlot_modPlot (s : State) (x : Issue) {f : Plot → Plot} (hf : ∀ p, (f p).id = p.id) :
    OnlyPlot s ((s.begun x).modPlot x.plot f) x.plot where
  rest := rfl
  plots j hj := by
    rw [plot?_modPlot_ne _ _ hf hj]
    exact plot?_modPlot_ne ({ s with issue := none, words := s.words + 1 } : State) (fun p => { p with arrivals := p.arrivals + 1 }) (fun _ => rfl) hj

/-- The end of a word in a plot that is quiet: the plot keeps its body, and nothing else changes. -/
theorem finish_frame {s t0 : State} {x : Issue} {q0 : Plot} (h1 : OnlyPlot s t0 x.plot) (hq : t0.plot? x.plot = some q0) (hz : Quiet q0)
    (he : ∃ y ∈ q0.regs.agents, y.2.phase ≠ .exited) :
    OnlyPlot s (t0.finish x.plot) x.plot ∧ ∃ q, (t0.finish x.plot).plot? x.plot = some q ∧ q.body = q0.body := by
  obtain ⟨e, ep⟩ := finish_eq hq hz he
  refine ⟨⟨?_, fun j hj => ?_⟩, _, ep, body_ended hz.gathered⟩
  · rw [e]; exact h1.rest
  · rw [e, plot?_modPlot_ne _ _ id_ended hj]; exact h1.plots j hj

theorem Quiet.of_same {p q : Plot} (hp : Quiet p) {w : Who} {ds : List Reg} {fs : List (BitVec 2)} (k : SameBut p.regs q.regs w ds fs)
    (hg : ∀ st ∈ q.regs.strands, st.ag.phase ≠ .gathered) : Quiet q where
  gathered := hg
  mchk u a ha := by
    have e := k.agents u
    rw [show q.regs.agent? u = some a from ha] at e
    cases hb : p.regs.agent? u with
    | none => rw [hb] at e; cases e
    | some b =>
      rw [hb] at e
      have e2 : a.body = b.body := Option.some.inj e
      exact ⟨(congrArg Agent.mchk e2).trans (hp.mchk u b hb).1, (congrArg Agent.later e2).trans (hp.mchk u b hb).2⟩

theorem setPlot_self {s : State} {q p : Plot} (h : s.plot? q.id = some p) : (s.setPlot q).plot? q.id = some q := by
  simp only [State.plot?, State.setPlot] at *
  generalize s.plots = l at *
  induction l with
  | nil => cases h
  | cons y l ih =>
    simp only [modifyWhere, List.map_cons, List.find?_cons] at *
    by_cases e : y.id == q.id
    · simp [e]
    · simp only [e, Bool.false_eq_true, if_false] at *
      exact ih h

theorem setPlot_ne {s : State} {q : Plot} {j : Nat} (h : j ≠ q.id) : (s.setPlot q).plot? j = s.plot? j := by
  simp only [State.plot?, State.setPlot]
  induction s.plots with
  | nil => rfl
  | cons y l ih =>
    simp only [modifyWhere, List.map_cons, List.find?_cons] at *
    by_cases e : y.id == q.id
    · have e1 : (q.id == j) = false := by simp; omega
      have e2 : (y.id == j) = false := by simp at e ⊢; omega
      simp only [e, e1, e2, if_true, ih]
    · simp only [e, Bool.false_eq_true, if_false, ih]

/-- A word of a plot whose registers change as `SameBut` says, and which retires. -/
theorem wroteP_frame {s : State} {i : Instr} {x : Issue} {w : Who} {p q : Plot} {ds : List Reg} {fs : List (BitVec 2)} {fp : Bool}
    (h : Issues s i x w p) (hz : Quiet p) (hb : q = ({ p.counted with regs := q.regs } : Plot)) (k : SameBut p.regs q.regs w ds fs)
    (hg : ∀ st ∈ q.regs.strands, st.ag.phase ≠ .gathered) (hf : fp = false → q.regs.fpf = p.regs.fpf)
    (ho : p.regs.fpf ||| q.regs.fpf = q.regs.fpf) : Frames s (s.wroteP x w q) x p w ds fs fp := by
  have hid : q.id = p.id := by have e := congrArg Plot.id hb; exact e
  have hpx : p.id = x.plot := by simpa using List.find?_some h.plot
  have hqx : q.id = x.plot := hid.trans hpx
  have h0 : ((s.begun x).setPlot q).plot? x.plot = some q := by
    have := setPlot_self (s := s.begun x) (q := q) (p := p.counted) (by rw [hqx]; exact begun_plot? h.plot)
    rwa [hqx] at this
  have hr : (((s.begun x).setPlot q).modPlot x.plot (fun p => p.modRegs (fun g => g.retire w x.len))).plot? x.plot =
      some (q.modRegs (fun g => g.retire w x.len)) := by
    rw [plot?_modPlot _ _ (fun p => p.modRegs (fun g => g.retire w x.len)) (fun _ => rfl), h0]; rfl
  have h1 : OnlyPlot s (((s.begun x).setPlot q).modPlot x.plot (fun p => p.modRegs (fun g => g.retire w x.len))) x.plot := by
    refine ⟨rfl, fun j hj => ?_⟩
    rw [plot?_modPlot_ne _ (fun p => p.modRegs (fun g => g.retire w x.len)) (fun _ => rfl) hj, setPlot_ne (by rw [hqx]; exact hj)]
    exact plot?_modPlot_ne ({ s with issue := none, words := s.words + 1 } : State) (fun p => { p with arrivals := p.arrivals + 1 }) (fun _ => rfl) hj
  have k2 : SameBut p.regs (q.modRegs (fun g => g.retire w x.len)).regs w ds fs := k.of_body (body_retire ..)
  obtain ⟨a, ha, -⟩ := h.agent
  have hqa : ∃ b, q.regs.agent? w = some b := by
    have e := k.agents w
    rw [show p.regs.agent? w = some a from ha] at e
    cases hb : q.regs.agent? w with
    | none => rw [hb] at e; cases e
    | some b => exact ⟨b, rfl⟩
  obtain ⟨b, hb2⟩ := hqa
  obtain ⟨c, hc, hce⟩ := retire_live hb2 x.len
  obtain ⟨f1, r, hr2, hrb⟩ := finish_frame h1 hr (hz.of_same k2 (gathered_retire _ _ hg)) ⟨_, mem_agents_of hc, hce⟩
  have e1 : r.regs.body = q.regs.body := by
    have := congrArg (fun z : Plot => z.regs) hrb
    exact this.trans (body_retire ..)
  have e2 : r.regs.fpf = q.regs.fpf := by have e := congrArg Regs.fpf e1; exact e
  refine ⟨f1, r, hr2, ?_, k.of_body e1, ?_, ?_⟩
  · have e3 : ({ r with regs := p.regs } : Plot).body = ({ q with regs := p.regs } : Plot).body := by
      have := congrArg (fun z : Plot => { z with regs := p.regs.body }) hrb
      exact this
    rw [e3]
    have e4 := congrArg (fun z : Plot => ({ z with regs := p.regs } : Plot).body) hb
    exact e4
  · rw [e2]; exact hf
  · rw [e2]; exact ho

/-- A word that raises a trap out of handler mode. -/
theorem trap_frame {s : State} {i : Instr} {x : Issue} {w : Who} {p : Plot} (h : Issues s i x w p) (hz : Quiet p) (hh : p.regs.plain w)
    (t : Trap) (ds : List Reg) (fs : List (BitVec 2)) (fp : Bool) :
    Frames s (((s.begun x).recordTrap x.plot w t).finish x.plot) x p w ds fs fp := by
  obtain ⟨a, ha, -⟩ := h.agent
  have hb := begun_plot? h.plot
  have e : (s.begun x).recordTrap x.plot w t = (s.begun x).modPlot x.plot (fun p => p.modRegs (fun g => g.holdTrap w t)) := by
    unfold State.recordTrap
    rw [hb]
    simp only
    rw [show p.counted.agent? w = some a from ha]
    simp only [hh a ha]
    rfl
  rw [e]
  have hr : ((s.begun x).modPlot x.plot (fun p => p.modRegs (fun g => g.holdTrap w t))).plot? x.plot =
      some (p.counted.modRegs (fun g => g.holdTrap w t)) := by
    rw [plot?_modPlot _ _ (fun p => p.modRegs (fun g => g.holdTrap w t)) (fun _ => rfl), hb]; rfl
  have k2 : SameBut p.regs (p.counted.modRegs (fun g => g.holdTrap w t)).regs w ds fs := (SameBut.refl ..).of_body (body_holdTrap ..)
  obtain ⟨c, hc, hce⟩ := holdTrap_live (show p.regs.agent? w = some a from ha) t
  obtain ⟨f1, r, hr2, hrb⟩ := finish_frame (onlyPlot_modPlot s x (f := fun p => p.modRegs (fun g => g.holdTrap w t)) (fun _ => rfl)) hr (hz.of_same k2 (gathered_holdTrap _ _ hz.gathered))
    ⟨_, mem_agents_of hc, hce⟩
  have e1 : r.regs.body = p.regs.body := by
    have := congrArg (fun z : Plot => z.regs) hrb
    exact this.trans (body_holdTrap ..)
  have e2 : r.regs.fpf = p.regs.fpf := by have e := congrArg Regs.fpf e1; exact e
  refine ⟨f1, r, hr2, ?_, (SameBut.refl ..).of_body e1, fun _ => e2, by rw [e2]; simp⟩
  have := congrArg (fun z : Plot => { z with regs := p.regs.body }) hrb
  exact this

end Sys2Proof.Machine
end

