-- ==== Sys2Proof/Laws/Fits.lean ====
section
/-! SUPPORT. Frames of words that write registers and flags only, as one property of a meaning that each kind of word has. -/

namespace Sys2Proof.Machine
open Sys2Proof

/-- A meaning on the plot alone either traps or writes what the frame allows. -/
def Fits (p : Plot) (w : Who) (ds : List Reg) (fs : List (BitVec 2)) (fp : Bool) (y : Plot × Res) : Prop :=
  (∃ g : Regs, y = (({ p with regs := g } : Plot), Res.done) ∧ SameBut p.regs g w ds fs ∧
    g.strands.map (fun st => st.ag.phase) = p.regs.strands.map (fun st => st.ag.phase) ∧
    (fp = false → g.fpf = p.regs.fpf) ∧ p.regs.fpf ||| g.fpf = g.fpf) ∨
  ∃ q c n v, y = (q, Res.trap c n v)

theorem gathered_phases {g h : Regs} (e : h.strands.map (fun st => st.ag.phase) = g.strands.map (fun st => st.ag.phase))
    (hg : ∀ st ∈ g.strands, st.ag.phase ≠ .gathered) : ∀ st ∈ h.strands, st.ag.phase ≠ .gathered := by
  intro st hst
  have : st.ag.phase ∈ g.strands.map (fun st => st.ag.phase) := e ▸ List.mem_map.2 ⟨st, hst, rfl⟩
  obtain ⟨y, hy, e2⟩ := List.mem_map.1 this
  rw [← e2]; exact hg y hy

theorem onPlot_frame {s t : State} {i : Instr} {x : Issue} {w : Who} {p : Plot} {ds : List Reg} {fs : List (BitVec 2)} {fp : Bool}
    {f : Cx → Plot → Plot × Res} (h : Issues s i x w p) (hz : Quiet p) (hh : p.regs.plain w) (he : exec i s = runWord i (onPlot f) s)
    (ht : exec i s = .next t) (hf : Fits p.counted w ds fs fp (f (x.cx w) p.counted)) : Frames s t x p w ds fs fp := by
  rw [he] at ht
  obtain ⟨g, e, k, hp, h1, h2⟩ | ⟨q, c, n, v, e⟩ := hf
  · rw [runWord_onPlot h e] at ht
    cases ht
    exact wroteP_frame (q := ({ p.counted with regs := g } : Plot)) h hz rfl k (gathered_phases hp hz.gathered) h1 h2
  · rw [runWord_onPlot_trap h e] at ht
    cases ht
    exact trap_frame h hz hh _ ds fs fp

theorem phases_setV (g : Regs) (k : Nat) (d : Reg) (y : VReg) :
    (g.setV k d y).strands.map (fun st => st.ag.phase) = g.strands.map (fun st => st.ag.phase) := by
  unfold Regs.setV
  split
  · unfold Regs.setVAt
    split
    · rfl
    · simp only [Regs.modStrand, modifyWhere, List.map_map]
      refine List.map_congr_left (fun st _ => ?_)
      simp only [Function.comp_apply]; split <;> rfl
  · rfl

theorem phases_setS (g : Regs) (d : Reg) (y : DWord) :
    (g.setS d y).strands.map (fun st => st.ag.phase) = g.strands.map (fun st => st.ag.phase) := by
  unfold Regs.setS Regs.setSAt
  split
  · rfl
  · split <;> rfl

theorem phases_setFlag (g : Regs) (w : Who) (f : BitVec 2) (y : Bool) :
    (g.setFlag w f y).strands.map (fun st => st.ag.phase) = g.strands.map (fun st => st.ag.phase) := by
  unfold Regs.setFlag
  cases w with
  | front => simp only; split <;> rfl
  | strand k =>
    simp only
    split
    · split
      · rfl
      · simp only [Regs.modStrand, modifyWhere, List.map_map]
        refine List.map_congr_left (fun st _ => ?_)
        simp only [Function.comp_apply]; split <;> rfl
    · rfl

theorem fpf_setV (g : Regs) (k : Nat) (d : Reg) (y : VReg) : (g.setV k d y).fpf = g.fpf := by
  unfold Regs.setV
  split
  · unfold Regs.setVAt; split <;> rfl
  · rfl

theorem fpf_setS (g : Regs) (d : Reg) (y : DWord) : (g.setS d y).fpf = g.fpf := by
  unfold Regs.setS Regs.setSAt
  split
  · rfl
  · split <;> rfl

theorem fpf_setFlag (g : Regs) (w : Who) (f : BitVec 2) (y : Bool) : (g.setFlag w f y).fpf = g.fpf := by
  unfold Regs.setFlag
  cases w with
  | front => simp only; split <;> rfl
  | strand k =>
    simp only
    split
    · split <;> rfl
    · rfl

theorem fits_setV {p : Plot} {k : Nat} (d : Reg) (y : VReg) (hh : p.regs.plain (.strand k)) :
    Fits p (.strand k) [d] [] false (({ p with regs := p.regs.setV k d y } : Plot), Res.done) :=
  .inl ⟨_, rfl, sameBut_setV y (by simp) hh, phases_setV .., fun _ => fpf_setV .., by rw [fpf_setV]; simp⟩

theorem fits_setS {p : Plot} (d : Reg) (y : DWord) (hh : p.regs.plain .front) :
    Fits p .front [d] [] false (({ p with regs := p.regs.setS d y } : Plot), Res.done) :=
  .inl ⟨_, rfl, sameBut_setS y (by simp) hh, phases_setS .., fun _ => fpf_setS .., by rw [fpf_setS]; simp⟩

theorem fits_setFlag {p : Plot} {w : Who} (f : BitVec 2) (y : Bool) (hh : p.regs.plain w) :
    Fits p w [] [f] false (({ p with regs := p.regs.setFlag w f y } : Plot), Res.done) :=
  .inl ⟨_, rfl, sameBut_setFlag y (by simp) hh, phases_setFlag .., fun _ => fpf_setFlag .., by rw [fpf_setFlag]; simp⟩

theorem tagFault_trap {acc : Tag → Bool} {l : List (Reg × Tag)} {r : Res} (h : tagFault acc l = some r) : ∃ c n v, r = .trap c n v := by
  induction l with
  | nil => cases h
  | cons a l ih =>
    obtain ⟨u, v⟩ := a
    unfold tagFault at h
    split at h
    · exact ih h
    · cases h; exact ⟨_, _, _, rfl⟩

theorem fits_tag {p q : Plot} {w : Who} {ds : List Reg} {fs : List (BitVec 2)} {fp : Bool} {acc : Tag → Bool} {l : List (Reg × Tag)} {y : Plot × Res}
    (h : Fits p w ds fs fp y) : Fits p w ds fs fp (match tagFault acc l with | some r => (q, r) | none => y) := by
  cases e : tagFault acc l with
  | none => exact h
  | some r =>
    obtain ⟨c, n, v, rfl⟩ := tagFault_trap e
    exact .inr ⟨_, _, _, _, rfl⟩

theorem fits_int3 {p : Plot} {x : Issue} {w : Who} (k : Kept) (op : BinOp) (d a b : Reg) (hh : p.regs.plain w) :
    Fits p w [d] [] false (int3 k op d a b (x.cx w) p) := by
  cases w with
  | front => exact fits_setS _ _ hh
  | strand n => exact fits_tag (fits_setV _ _ hh)

theorem fits_int2 {p : Plot} {x : Issue} {w : Who} (t : Tag → Tag) (op : UnOp) (d a : Reg) (hh : p.regs.plain w) :
    Fits p w [d] [] false (int2 t op d a (x.cx w) p) := by
  cases w with
  | front => exact fits_setS _ _ hh
  | strand n => exact fits_tag (fits_setV _ _ hh)

theorem fits_bfi {p : Plot} {x : Issue} {w : Who} (d a b : Reg) (hh : p.regs.plain w) :
    Fits p w [d] [] false (intBfi d a b (x.cx w) p) := by
  cases w with
  | front => exact fits_setS _ _ hh
  | strand n => exact fits_tag (fits_setV _ _ hh)

theorem fits_const {p : Plot} {x : Issue} {w : Who} (d : Reg) (y : Word) (hh : p.regs.plain w) :
    Fits p w [d] [] false (intConst d y (x.cx w) p) := by
  cases w with
  | front => exact fits_setS _ _ hh
  | strand n => exact fits_setV _ _ hh

theorem fits_cmp {p : Plot} {x : Issue} {w : Who} (f : BitVec 2) (k : ICond) (a b : Reg) (hh : p.regs.plain w) :
    Fits p w [] [f] false (intCmp f k a b (x.cx w) p) := by
  cases w with
  | front => exact fits_setFlag _ _ hh
  | strand n => exact fits_tag (fits_setFlag _ _ hh)

theorem fits_cmpi {p : Plot} {x : Issue} {w : Who} (f : BitVec 2) (k : ICond) (a : Reg) (i : BitVec 11) (hh : p.regs.plain w) :
    Fits p w [] [f] false (intCmpi f k a i (x.cx w) p) := by
  cases w with
  | front => exact fits_setFlag _ _ hh
  | strand n => exact fits_tag (fits_setFlag _ _ hh)

theorem or_or_self (a b : Word) : a ||| (a ||| b) = a ||| b := by rw [← BitVec.or_assoc, BitVec.or_self]

/-- Writing several registers of a strand. -/
theorem setVs {g : Regs} {k : Nat} {ds : List Reg} (ws : List (Reg × VReg)) (hd : ∀ y ∈ ws, y.1 ∈ ds) (hh : g.plain (.strand k)) :
    SameBut g (ws.foldl (fun g y => g.setV k y.1 y.2) g) (.strand k) ds [] ∧
    (ws.foldl (fun g y => g.setV k y.1 y.2) g).strands.map (fun st => st.ag.phase) = g.strands.map (fun st => st.ag.phase) ∧
    (ws.foldl (fun g y => g.setV k y.1 y.2) g).fpf = g.fpf := by
  induction ws generalizing g with
  | nil => exact ⟨.refl .., rfl, rfl⟩
  | cons y l ih =>
    have h1 : SameBut g (g.setV k y.1 y.2) (.strand k) ds [] := sameBut_setV y.2 (hd y (by simp)) hh
    obtain ⟨a, b, c⟩ := ih (g := g.setV k y.1 y.2) (fun z hz => hd z (by simp [hz])) (h1.plain hh)
    exact ⟨h1.trans a, b.trans (phases_setV ..), c.trans (fpf_setV ..)⟩

theorem fits_write {p : Plot} {k : Nat} {ds : List Reg} (ws : List (Reg × VReg)) (fl : Fl) (hd : ∀ y ∈ ws, y.1 ∈ ds)
    (hh : p.regs.plain (.strand k)) : Fits p (.strand k) ds [] true (fpWrite k ws fl p) := by
  unfold fpWrite
  split
  · exact .inr ⟨_, _, _, _, rfl⟩
  · obtain ⟨a, b, c⟩ := setVs ws hd hh
    refine .inl ⟨_, rfl, a.trans (sameBut_orFpf ..), b, (by intro h; cases h), ?_⟩
    have e : ((ws.foldl (fun g w => g.setV k w.1 w.2) p.regs).orFpf fl).fpf = p.regs.fpf ||| fl.setWidth 32 := by
      show (ws.foldl (fun g w => g.setV k w.1 w.2) p.regs).fpf ||| _ = _
      rw [c]
    rw [e]; exact or_or_self ..

theorem fits_flag {p : Plot} {k : Nat} (f : BitVec 2) (b : Bool) (fl : Fl) (hh : p.regs.plain (.strand k)) :
    Fits p (.strand k) [] [f] true (fpFlag k f b fl p) := by
  unfold fpFlag
  split
  · exact .inr ⟨_, _, _, _, rfl⟩
  · refine .inl ⟨_, rfl, (sameBut_setFlag b (by simp) hh).trans (sameBut_orFpf ..), phases_setFlag .., (by intro h; cases h), ?_⟩
    show p.regs.fpf ||| ((p.regs.setFlag (.strand k) f b).fpf ||| _) = (p.regs.setFlag (.strand k) f b).fpf ||| _
    rw [fpf_setFlag]; exact or_or_self ..

theorem fits_fpOp {p : Plot} {x : Issue} {w : Who} (acc : Tag → Bool) (t : Tag) (srcs : List Reg) (d : Reg)
    (op : (Reg → Word) → Word × Fl) (hh : p.regs.plain w) : Fits p w [d] [] true (fpOp acc t srcs d op (x.cx w) p) := by
  cases w with
  | front => exact .inr ⟨_, _, _, _, rfl⟩
  | strand n => exact fits_tag (fits_write _ _ (by simp) hh)

theorem fits_fpPair {p : Plot} {x : Issue} {w : Who} (acc : Tag → Bool) (t : Tag) (srcs : List Reg) (d : Reg)
    (op : (Reg → Word) → Word × Word × Fl) (hh : p.regs.plain w) : Fits p w [d, regPlus d 1] [] true (fpPair acc t srcs d op (x.cx w) p) := by
  cases w with
  | front => exact .inr ⟨_, _, _, _, rfl⟩
  | strand n => exact fits_tag (fits_write _ _ (by simp) hh)

theorem packRun_length (dst : Tag) (n k : Nat) (l : List Nat) : (packRun dst n k l).length = k := by
  induction k generalizing l with
  | zero => rfl
  | succ k ih => simp [packRun, ih]

theorem cvtCheck_length {g : Regs} {n : Nat} {d a b : Reg} {dst : Tag} {sr : Bool} {l : List (Tag × Word)}
    (h : cvtCheck g n d a b dst sr = .ok l) : l.length ≤ 8 := by
  have hc : ∀ t : Tag, 1 ≤ Tag.count t ∧ Tag.count t ≤ 8 := by intro t; cases t <;> decide
  have h1 := hc (g.v n a).tag
  have h2 := hc dst
  have hl : ∀ k, (cvtRun g n a k).length = k := by intro k; simp [cvtRun]
  have hk : (max (Tag.count (g.v n a).tag) (Tag.count dst) + Tag.count (g.v n a).tag - 1) / Tag.count (g.v n a).tag ≤ 8 := by
    have h3 : max (Tag.count (g.v n a).tag) (Tag.count dst) ≤ 8 := by omega
    generalize Tag.count (g.v n a).tag = m at *
    generalize max m (Tag.count dst) = q at *
    have : q + m - 1 ≤ 8 + m - 1 := by omega
    refine (Nat.div_le_div_right this).trans ?_
    obtain ⟨ha, hb⟩ := ‹1 ≤ m ∧ m ≤ 8›
    interval_cases m <;> decide
  unfold cvtCheck at h
  simp only at h
  split at h
  · split at h
    · cases h
    · split at h
      · cases h
      · split at h
        · cases h
        · cases h; simp [hl]; omega
  · split at h
    · cases h
    · split at h
      · cases h
      · split at h
        · cases h
        · split at h
          · cases h
          · split at h
            · cases h
            · cases h; simp only [List.length_map, hl]; exact hk

theorem scalarFault_trap {dst : Tag} {l : List (Reg × VReg)} {r : Res} (h : scalarFault dst l = some r) : ∃ c n v, r = .trap c n v := by
  induction l with
  | nil => cases h
  | cons a l ih =>
    obtain ⟨u, v⟩ := a
    unfold scalarFault at h
    split at h
    · exact ih h
    · cases h; exact ⟨_, _, _, rfl⟩

theorem cvtCheck_error {g : Regs} {n : Nat} {d a b : Reg} {dst : Tag} {sr : Bool} {r : Res}
    (h : cvtCheck g n d a b dst sr = .error r) : ∃ c m v, r = .trap c m v := by
  unfold cvtCheck at h
  simp only at h
  split at h
  · split at h
    · cases h; exact ⟨_, _, _, rfl⟩
    · split at h
      · rename_i hs
        cases h; exact scalarFault_trap hs
      · split at h <;> cases h
        exact ⟨_, _, _, rfl⟩
  · split at h
    · cases h; exact ⟨_, _, _, rfl⟩
    · split at h
      · cases h; exact ⟨_, _, _, rfl⟩
      · split at h
        · cases h; exact ⟨_, _, _, rfl⟩
        · split at h
          · cases h; exact ⟨_, _, _, rfl⟩
          · split at h <;> cases h
            exact ⟨_, _, _, rfl⟩

theorem cvtWords_length (dst src : Tag) (m : Mode) (sf : Bool) (r : Nat → Word) (l : List (Tag × Word)) (hl : l.length ≤ 8) :
    (cvtWords dst src m sf r l).1.length ≤ 8 := by
  have hc : ∀ t : Tag, 1 ≤ Tag.count t ∧ Tag.count t ≤ 8 := by intro t; cases t <;> decide
  have hk : (max (Tag.count src) (Tag.count dst) + Tag.count dst - 1) / Tag.count dst ≤ 8 := by
    have h1 := hc src
    have h2 := hc dst
    have h3 : max (Tag.count src) (Tag.count dst) ≤ 8 := by omega
    generalize Tag.count dst = m at *
    generalize max (Tag.count src) m = q at *
    have : q + m - 1 ≤ 8 + m - 1 := by omega
    refine (Nat.div_le_div_right this).trans ?_
    obtain ⟨ha, hb⟩ := ‹1 ≤ m ∧ m ≤ 8›
    interval_cases m <;> decide
  unfold cvtWords
  simp only
  split
  · simpa using hl
  · simp
  · simp only [packRun_length]; exact hk

theorem fits_cvt {s t : State} {x : Issue} {w : Who} {p : Plot} {d a b : Reg} {tg : Tag} {cr : CvtRnd} {sf : Bool}
    (h : Issues s (.cvt d a b tg cr sf) x w p) (hz : Quiet p) (hh : p.regs.plain w) (ht : exec (.cvt d a b tg cr sf) s = .next t) :
    Frames s t x p w ((List.range 8).map (regPlus d)) [] true := by
  have e : exec (.cvt d a b tg cr sf) s = runWord (.cvt d a b tg cr sf) (cvtWord d a b tg cr sf) s := rfl
  rw [e] at ht
  have hw : cvtWord d a b tg cr sf (x.cx w) (s.begun x) = _ := withPlot_begun h _
  cases w with
  | front =>
    rw [runWord_trap h hw] at ht
    cases ht
    exact trap_frame h hz hh _ _ _ _
  | strand n =>
    simp only [Issue.cx] at hw
    cases hc : cvtCheck p.counted.regs n d a b tg (cr == .sr) with
    | error r =>
      obtain ⟨c, m, v, rfl⟩ := cvtCheck_error hc
      have hx : ∃ u y, cvtWord d a b tg cr sf (x.cx (.strand n)) (s.begun x) = (u, y) ∧ ∃ c m v, y = Res.trap c m v := by
        rw [show cvtWord d a b tg cr sf (x.cx (.strand n)) (s.begun x) = _ from hw, hc]
        by_cases hi : c = .illegal
        · subst hi; exact ⟨_, _, rfl, _, _, _, rfl⟩
        · cases c <;> first | exact absurd rfl hi | exact ⟨_, _, rfl, _, _, _, rfl⟩
      obtain ⟨u, y, e1, c, m, v, rfl⟩ := hx
      rw [runWord_trap h e1] at ht
      cases ht
      exact trap_frame h hz hh _ _ _ _
    | ok srcs =>
      rw [hc] at hw
      simp only at hw
      have hl := cvtWords_length tg (p.counted.regs.v n a).tag (Mode.ofCvt cr) sf
        (saltWord ((s.begun x).keysOf p.counted)[0] (p.counted.regs.v n b).val
          (match p.counted.regs.strand? n with | some st => elemIndex p.counted st | none => 0#64)) srcs (cvtCheck_length hc)
      generalize cvtWords tg (p.counted.regs.v n a).tag (Mode.ofCvt cr) sf
        (saltWord ((s.begun x).keysOf p.counted)[0] (p.counted.regs.v n b).val
          (match p.counted.regs.strand? n with | some st => elemIndex p.counted st | none => 0#64)) srcs = y at hw hl
      have hf : Fits p.counted (.strand n) ((List.range 8).map (regPlus d)) [] true
          (fpWrite n (y.1.zipIdx.map (fun x => (regPlus d x.2, ⟨x.1, tg⟩))) y.2 p.counted) := by
        refine fits_write _ _ (fun z hz => ?_) hh
        obtain ⟨u, hu, rfl⟩ := List.mem_map.1 hz
        have := (List.mem_zipIdx hu).2.1
        exact List.mem_map.2 ⟨u.2, by simp; omega, rfl⟩
      generalize fpWrite n (y.1.zipIdx.map (fun x => (regPlus d x.2, ⟨x.1, tg⟩))) y.2 p.counted = r at hw hf
      obtain ⟨g, rfl, k, hp, h1, h2⟩ | ⟨q, c, m, v, rfl⟩ := hf
      · rw [runWord_done h hw] at ht
        cases ht
        exact wroteP_frame (q := ({ p.counted with regs := g } : Plot)) h hz rfl k (gathered_phases hp hz.gathered) h1 h2
      · rw [runWord_trap h hw] at ht
        cases ht
        exact trap_frame h hz hh _ _ _ _

end Sys2Proof.Machine
end

