-- ==== Sys2Proof/Laws/PerInstr.lean ====
section
/-! SUPPORT. The encoder and the decoder agree, instruction by instruction (02_clauses_encoding.md R45, R46, R51–R54): the bytes of a
well-formed instruction that has words decode to it and leave what follows; an event has no words. -/

namespace Sys2Proof.Laws.RoundTrip

def Statement (i : Instr) : Prop :=
  ∀ (st : Stream) (rest : List Byte), wf st i = true → encode i ≠ [] → decode (encodeBytes i ++ rest) = .ok (i, rest)

theorem pairOf_enc (p : Pair) : pairOf (BitVec.ofNat 4 p.val) = some p := by
  obtain ⟨n, h⟩ := p
  interval_cases n <;> rfl

theorem add (d : Reg) (a : Reg) (b : Reg) : Statement (.add d a b) := by
  intro sm rest hw _
  refine decode_one (w := fmtA 0x01#6 d a b 0x00#8) (by unfold takesLiteral; rw [fmtA_maj]; rfl) ((decode_01 (fmtA_maj ..)).trans ?_)
  rw [fmtA_d, fmtA_a, fmtA_b, fmtA_fn]; rfl

theorem sub (d : Reg) (a : Reg) (b : Reg) : Statement (.sub d a b) := by
  intro sm rest hw _
  refine decode_one (w := fmtA 0x01#6 d a b 0x01#8) (by unfold takesLiteral; rw [fmtA_maj]; rfl) ((decode_01 (fmtA_maj ..)).trans ?_)
  rw [fmtA_d, fmtA_a, fmtA_b, fmtA_fn]; rfl

theorem mul (d : Reg) (a : Reg) (b : Reg) : Statement (.mul d a b) := by
  intro sm rest hw _
  refine decode_one (w := fmtA 0x01#6 d a b 0x02#8) (by unfold takesLiteral; rw [fmtA_maj]; rfl) ((decode_01 (fmtA_maj ..)).trans ?_)
  rw [fmtA_d, fmtA_a, fmtA_b, fmtA_fn]; rfl

theorem mulhs (d : Reg) (a : Reg) (b : Reg) : Statement (.mulhs d a b) := by
  intro sm rest hw _
  refine decode_one (w := fmtA 0x01#6 d a b 0x03#8) (by unfold takesLiteral; rw [fmtA_maj]; rfl) ((decode_01 (fmtA_maj ..)).trans ?_)
  rw [fmtA_d, fmtA_a, fmtA_b, fmtA_fn]; rfl

theorem mulhz (d : Reg) (a : Reg) (b : Reg) : Statement (.mulhz d a b) := by
  intro sm rest hw _
  refine decode_one (w := fmtA 0x01#6 d a b 0x04#8) (by unfold takesLiteral; rw [fmtA_maj]; rfl) ((decode_01 (fmtA_maj ..)).trans ?_)
  rw [fmtA_d, fmtA_a, fmtA_b, fmtA_fn]; rfl

theorem andR (d : Reg) (a : Reg) (b : Reg) : Statement (.andR d a b) := by
  intro sm rest hw _
  refine decode_one (w := fmtA 0x01#6 d a b 0x05#8) (by unfold takesLiteral; rw [fmtA_maj]; rfl) ((decode_01 (fmtA_maj ..)).trans ?_)
  rw [fmtA_d, fmtA_a, fmtA_b, fmtA_fn]; rfl

theorem orR (d : Reg) (a : Reg) (b : Reg) : Statement (.orR d a b) := by
  intro sm rest hw _
  refine decode_one (w := fmtA 0x01#6 d a b 0x06#8) (by unfold takesLiteral; rw [fmtA_maj]; rfl) ((decode_01 (fmtA_maj ..)).trans ?_)
  rw [fmtA_d, fmtA_a, fmtA_b, fmtA_fn]; rfl

theorem xorR (d : Reg) (a : Reg) (b : Reg) : Statement (.xorR d a b) := by
  intro sm rest hw _
  refine decode_one (w := fmtA 0x01#6 d a b 0x07#8) (by unfold takesLiteral; rw [fmtA_maj]; rfl) ((decode_01 (fmtA_maj ..)).trans ?_)
  rw [fmtA_d, fmtA_a, fmtA_b, fmtA_fn]; rfl

theorem andn (d : Reg) (a : Reg) (b : Reg) : Statement (.andn d a b) := by
  intro sm rest hw _
  refine decode_one (w := fmtA 0x01#6 d a b 0x08#8) (by unfold takesLiteral; rw [fmtA_maj]; rfl) ((decode_01 (fmtA_maj ..)).trans ?_)
  rw [fmtA_d, fmtA_a, fmtA_b, fmtA_fn]; rfl

theorem shl (d : Reg) (a : Reg) (b : Reg) : Statement (.shl d a b) := by
  intro sm rest hw _
  refine decode_one (w := fmtA 0x01#6 d a b 0x09#8) (by unfold takesLiteral; rw [fmtA_maj]; rfl) ((decode_01 (fmtA_maj ..)).trans ?_)
  rw [fmtA_d, fmtA_a, fmtA_b, fmtA_fn]; rfl

theorem shr (d : Reg) (a : Reg) (b : Reg) : Statement (.shr d a b) := by
  intro sm rest hw _
  refine decode_one (w := fmtA 0x01#6 d a b 0x0A#8) (by unfold takesLiteral; rw [fmtA_maj]; rfl) ((decode_01 (fmtA_maj ..)).trans ?_)
  rw [fmtA_d, fmtA_a, fmtA_b, fmtA_fn]; rfl

theorem sra (d : Reg) (a : Reg) (b : Reg) : Statement (.sra d a b) := by
  intro sm rest hw _
  refine decode_one (w := fmtA 0x01#6 d a b 0x0B#8) (by unfold takesLiteral; rw [fmtA_maj]; rfl) ((decode_01 (fmtA_maj ..)).trans ?_)
  rw [fmtA_d, fmtA_a, fmtA_b, fmtA_fn]; rfl

theorem rol (d : Reg) (a : Reg) (b : Reg) : Statement (.rol d a b) := by
  intro sm rest hw _
  refine decode_one (w := fmtA 0x01#6 d a b 0x0C#8) (by unfold takesLiteral; rw [fmtA_maj]; rfl) ((decode_01 (fmtA_maj ..)).trans ?_)
  rw [fmtA_d, fmtA_a, fmtA_b, fmtA_fn]; rfl

theorem mins (d : Reg) (a : Reg) (b : Reg) : Statement (.mins d a b) := by
  intro sm rest hw _
  refine decode_one (w := fmtA 0x01#6 d a b 0x0D#8) (by unfold takesLiteral; rw [fmtA_maj]; rfl) ((decode_01 (fmtA_maj ..)).trans ?_)
  rw [fmtA_d, fmtA_a, fmtA_b, fmtA_fn]; rfl

theorem maxs (d : Reg) (a : Reg) (b : Reg) : Statement (.maxs d a b) := by
  intro sm rest hw _
  refine decode_one (w := fmtA 0x01#6 d a b 0x0E#8) (by unfold takesLiteral; rw [fmtA_maj]; rfl) ((decode_01 (fmtA_maj ..)).trans ?_)
  rw [fmtA_d, fmtA_a, fmtA_b, fmtA_fn]; rfl

theorem minz (d : Reg) (a : Reg) (b : Reg) : Statement (.minz d a b) := by
  intro sm rest hw _
  refine decode_one (w := fmtA 0x01#6 d a b 0x0F#8) (by unfold takesLiteral; rw [fmtA_maj]; rfl) ((decode_01 (fmtA_maj ..)).trans ?_)
  rw [fmtA_d, fmtA_a, fmtA_b, fmtA_fn]; rfl

theorem maxz (d : Reg) (a : Reg) (b : Reg) : Statement (.maxz d a b) := by
  intro sm rest hw _
  refine decode_one (w := fmtA 0x01#6 d a b 0x10#8) (by unfold takesLiteral; rw [fmtA_maj]; rfl) ((decode_01 (fmtA_maj ..)).trans ?_)
  rw [fmtA_d, fmtA_a, fmtA_b, fmtA_fn]; rfl

theorem absd (d : Reg) (a : Reg) (b : Reg) : Statement (.absd d a b) := by
  intro sm rest hw _
  refine decode_one (w := fmtA 0x01#6 d a b 0x11#8) (by unfold takesLiteral; rw [fmtA_maj]; rfl) ((decode_01 (fmtA_maj ..)).trans ?_)
  rw [fmtA_d, fmtA_a, fmtA_b, fmtA_fn]; rfl

theorem popc (d : Reg) (a : Reg) : Statement (.popc d a) := by
  intro sm rest hw _
  refine decode_one (w := fmtA 0x01#6 d a 0#6 0x12#8) (by unfold takesLiteral; rw [fmtA_maj]; rfl) ((decode_01 (fmtA_maj ..)).trans ?_)
  rw [fmtA_d, fmtA_a, fmtA_b, fmtA_fn]; rfl

theorem clz (d : Reg) (a : Reg) : Statement (.clz d a) := by
  intro sm rest hw _
  refine decode_one (w := fmtA 0x01#6 d a 0#6 0x13#8) (by unfold takesLiteral; rw [fmtA_maj]; rfl) ((decode_01 (fmtA_maj ..)).trans ?_)
  rw [fmtA_d, fmtA_a, fmtA_b, fmtA_fn]; rfl

theorem brev (d : Reg) (a : Reg) : Statement (.brev d a) := by
  intro sm rest hw _
  refine decode_one (w := fmtA 0x01#6 d a 0#6 0x14#8) (by unfold takesLiteral; rw [fmtA_maj]; rfl) ((decode_01 (fmtA_maj ..)).trans ?_)
  rw [fmtA_d, fmtA_a, fmtA_b, fmtA_fn]; rfl

theorem addsat (d : Reg) (a : Reg) (b : Reg) : Statement (.addsat d a b) := by
  intro sm rest hw _
  refine decode_one (w := fmtA 0x01#6 d a b 0x15#8) (by unfold takesLiteral; rw [fmtA_maj]; rfl) ((decode_01 (fmtA_maj ..)).trans ?_)
  rw [fmtA_d, fmtA_a, fmtA_b, fmtA_fn]; rfl

theorem subsat (d : Reg) (a : Reg) (b : Reg) : Statement (.subsat d a b) := by
  intro sm rest hw _
  refine decode_one (w := fmtA 0x01#6 d a b 0x16#8) (by unfold takesLiteral; rw [fmtA_maj]; rfl) ((decode_01 (fmtA_maj ..)).trans ?_)
  rw [fmtA_d, fmtA_a, fmtA_b, fmtA_fn]; rfl

theorem bfx (d : Reg) (a : Reg) (b : Reg) : Statement (.bfx d a b) := by
  intro sm rest hw _
  refine decode_one (w := fmtA 0x01#6 d a b 0x17#8) (by unfold takesLiteral; rw [fmtA_maj]; rfl) ((decode_01 (fmtA_maj ..)).trans ?_)
  rw [fmtA_d, fmtA_a, fmtA_b, fmtA_fn]; rfl

theorem bfi (d : Reg) (a : Reg) (b : Reg) : Statement (.bfi d a b) := by
  intro sm rest hw _
  refine decode_one (w := fmtA 0x01#6 d a b 0x18#8) (by unfold takesLiteral; rw [fmtA_maj]; rfl) ((decode_01 (fmtA_maj ..)).trans ?_)
  rw [fmtA_d, fmtA_a, fmtA_b, fmtA_fn]; rfl

theorem selF0 (d : Reg) (a : Reg) (b : Reg) : Statement (.selF0 d a b) := by
  intro sm rest hw _
  refine decode_one (w := fmtA 0x01#6 d a b 0x19#8) (by unfold takesLiteral; rw [fmtA_maj]; rfl) ((decode_01 (fmtA_maj ..)).trans ?_)
  rw [fmtA_d, fmtA_a, fmtA_b, fmtA_fn]; rfl

theorem selF1 (d : Reg) (a : Reg) (b : Reg) : Statement (.selF1 d a b) := by
  intro sm rest hw _
  refine decode_one (w := fmtA 0x01#6 d a b 0x1A#8) (by unfold takesLiteral; rw [fmtA_maj]; rfl) ((decode_01 (fmtA_maj ..)).trans ?_)
  rw [fmtA_d, fmtA_a, fmtA_b, fmtA_fn]; rfl

theorem selF2 (d : Reg) (a : Reg) (b : Reg) : Statement (.selF2 d a b) := by
  intro sm rest hw _
  refine decode_one (w := fmtA 0x01#6 d a b 0x1B#8) (by unfold takesLiteral; rw [fmtA_maj]; rfl) ((decode_01 (fmtA_maj ..)).trans ?_)
  rw [fmtA_d, fmtA_a, fmtA_b, fmtA_fn]; rfl

theorem selF3 (d : Reg) (a : Reg) (b : Reg) : Statement (.selF3 d a b) := by
  intro sm rest hw _
  refine decode_one (w := fmtA 0x01#6 d a b 0x1C#8) (by unfold takesLiteral; rw [fmtA_maj]; rfl) ((decode_01 (fmtA_maj ..)).trans ?_)
  rw [fmtA_d, fmtA_a, fmtA_b, fmtA_fn]; rfl

theorem addi (d : Reg) (a : Reg) (i : BitVec 14) : Statement (.addi d a i) := by
  intro sm rest hw _
  refine decode_one (w := fmtI 0x02#6 d a i) (by unfold takesLiteral; rw [fmtI_maj]; rfl) ((decode_02 (fmtI_maj ..)).trans ?_)
  rw [fmtI_d, fmtI_a, fmtI_imm]

theorem andi (d : Reg) (a : Reg) (i : BitVec 14) : Statement (.andi d a i) := by
  intro sm rest hw _
  refine decode_one (w := fmtI 0x03#6 d a i) (by unfold takesLiteral; rw [fmtI_maj]; rfl) ((decode_03 (fmtI_maj ..)).trans ?_)
  rw [fmtI_d, fmtI_a, fmtI_imm]

theorem ori (d : Reg) (a : Reg) (i : BitVec 14) : Statement (.ori d a i) := by
  intro sm rest hw _
  refine decode_one (w := fmtI 0x04#6 d a i) (by unfold takesLiteral; rw [fmtI_maj]; rfl) ((decode_04 (fmtI_maj ..)).trans ?_)
  rw [fmtI_d, fmtI_a, fmtI_imm]

theorem xori (d : Reg) (a : Reg) (i : BitVec 14) : Statement (.xori d a i) := by
  intro sm rest hw _
  refine decode_one (w := fmtI 0x05#6 d a i) (by unfold takesLiteral; rw [fmtI_maj]; rfl) ((decode_05 (fmtI_maj ..)).trans ?_)
  rw [fmtI_d, fmtI_a, fmtI_imm]

theorem shfiShl (d : Reg) (a : Reg) (n : BitVec 6) : Statement (.shfiShl d a n) := by
  intro sm rest hw _
  refine decode_one (w := fmtI 0x06#6 d a (0#6 ++ 0#2 ++ n)) (by unfold takesLiteral; rw [fmtI_maj]; rfl) ((decode_06 (fmtI_maj ..)).trans ?_)
  rw [fmtI_d, fmtI_a, fmtI_imm]; unfold decodeShfi; rw [shfi_low, shfi_mid, shfi_hi]; rfl

theorem shfiShr (d : Reg) (a : Reg) (n : BitVec 6) : Statement (.shfiShr d a n) := by
  intro sm rest hw _
  refine decode_one (w := fmtI 0x06#6 d a (0#6 ++ 1#2 ++ n)) (by unfold takesLiteral; rw [fmtI_maj]; rfl) ((decode_06 (fmtI_maj ..)).trans ?_)
  rw [fmtI_d, fmtI_a, fmtI_imm]; unfold decodeShfi; rw [shfi_low, shfi_mid, shfi_hi]; rfl

theorem shfiSra (d : Reg) (a : Reg) (n : BitVec 6) : Statement (.shfiSra d a n) := by
  intro sm rest hw _
  refine decode_one (w := fmtI 0x06#6 d a (0#6 ++ 2#2 ++ n)) (by unfold takesLiteral; rw [fmtI_maj]; rfl) ((decode_06 (fmtI_maj ..)).trans ?_)
  rw [fmtI_d, fmtI_a, fmtI_imm]; unfold decodeShfi; rw [shfi_low, shfi_mid, shfi_hi]; rfl

theorem shfiRol (d : Reg) (a : Reg) (n : BitVec 6) : Statement (.shfiRol d a n) := by
  intro sm rest hw _
  refine decode_one (w := fmtI 0x06#6 d a (0#6 ++ 3#2 ++ n)) (by unfold takesLiteral; rw [fmtI_maj]; rfl) ((decode_06 (fmtI_maj ..)).trans ?_)
  rw [fmtI_d, fmtI_a, fmtI_imm]; unfold decodeShfi; rw [shfi_low, shfi_mid, shfi_hi]; rfl

theorem movh (d : Reg) (i : BitVec 20) : Statement (.movh d i) := by
  intro sm rest hw _
  refine decode_one (w := fmtW 0x07#6 d i) (by unfold takesLiteral; rw [fmtW_maj]; rfl) ((decode_07 (fmtW_maj ..)).trans ?_)
  rw [fmtW_d, fmtW_imm]

theorem movw (d : Reg) (lit : Word) : Statement (.movw d lit) := by
  intro sm rest _ _
  exact decode_two (w := fmtI 0x08#6 d 0#6 0#14) (by simp [takesLiteral]) (by simp [decodeWord])

theorem icmp (f : BitVec 2) (c : ICond) (a : Reg) (b : Reg) : Statement (.icmp f c a b) := by
  intro sm rest hw _
  refine decode_one (w := fmtA 0x09#6 (0#4 ++ f) a b (0#5 ++ icondCode c)) (by unfold takesLiteral; rw [fmtA_maj]; rfl) ((decode_09 (fmtA_maj ..)).trans ?_)
  rw [fmtA_d, fmtA_a, fmtA_b, fmtA_fn]; unfold decodeIcmp; rw [high_5_3, low_5_3, flagField_enc, flagZero_enc]; cases c <;> rfl

theorem icmpi (f : BitVec 2) (c : ICond) (a : Reg) (i : BitVec 11) : Statement (.icmpi f c a i) := by
  intro sm rest hw _
  refine decode_one (w := fmtI 0x0A#6 (0#4 ++ f) a (icondCode c ++ i)) (by unfold takesLiteral; rw [fmtI_maj]; rfl) ((decode_0A (fmtI_maj ..)).trans ?_)
  rw [fmtI_d, fmtI_a, fmtI_imm]; unfold decodeIcmpi; rw [high_3_11, low_3_11, flagField_enc, flagZero_enc]; cases c <;> rfl

theorem fadd (d : Reg) (a : Reg) (b : Reg) (r : Rm) : Statement (.fadd d a b r) := by
  intro sm rest hw _
  refine decode_one (w := fmtA 0x0B#6 d a b (0#6 ++ rmCode r)) (by unfold takesLiteral; rw [fmtA_maj]; rfl) ((decode_0B (fmtA_maj ..)).trans ?_)
  rw [fmtA_d, fmtA_a, fmtA_b, fmtA_fn]; cases r <;> rfl

theorem fsub (d : Reg) (a : Reg) (b : Reg) (r : Rm) : Statement (.fsub d a b r) := by
  intro sm rest hw _
  refine decode_one (w := fmtA 0x0B#6 d a b (1#6 ++ rmCode r)) (by unfold takesLiteral; rw [fmtA_maj]; rfl) ((decode_0B (fmtA_maj ..)).trans ?_)
  rw [fmtA_d, fmtA_a, fmtA_b, fmtA_fn]; cases r <;> rfl

theorem fmul (d : Reg) (a : Reg) (b : Reg) (r : Rm) : Statement (.fmul d a b r) := by
  intro sm rest hw _
  refine decode_one (w := fmtA 0x0B#6 d a b (2#6 ++ rmCode r)) (by unfold takesLiteral; rw [fmtA_maj]; rfl) ((decode_0B (fmtA_maj ..)).trans ?_)
  rw [fmtA_d, fmtA_a, fmtA_b, fmtA_fn]; cases r <;> rfl

theorem fmin (d : Reg) (a : Reg) (b : Reg) : Statement (.fmin d a b) := by
  intro sm rest hw _
  refine decode_one (w := fmtA 0x0B#6 d a b (3#6 ++ 0#2)) (by unfold takesLiteral; rw [fmtA_maj]; rfl) ((decode_0B (fmtA_maj ..)).trans ?_)
  rw [fmtA_d, fmtA_a, fmtA_b, fmtA_fn]; rfl

theorem fmax (d : Reg) (a : Reg) (b : Reg) : Statement (.fmax d a b) := by
  intro sm rest hw _
  refine decode_one (w := fmtA 0x0B#6 d a b (4#6 ++ 0#2)) (by unfold takesLiteral; rw [fmtA_maj]; rfl) ((decode_0B (fmtA_maj ..)).trans ?_)
  rw [fmtA_d, fmtA_a, fmtA_b, fmtA_fn]; rfl

theorem fminn (d : Reg) (a : Reg) (b : Reg) : Statement (.fminn d a b) := by
  intro sm rest hw _
  refine decode_one (w := fmtA 0x0B#6 d a b (5#6 ++ 0#2)) (by unfold takesLiteral; rw [fmtA_maj]; rfl) ((decode_0B (fmtA_maj ..)).trans ?_)
  rw [fmtA_d, fmtA_a, fmtA_b, fmtA_fn]; rfl

theorem fmaxn (d : Reg) (a : Reg) (b : Reg) : Statement (.fmaxn d a b) := by
  intro sm rest hw _
  refine decode_one (w := fmtA 0x0B#6 d a b (6#6 ++ 0#2)) (by unfold takesLiteral; rw [fmtA_maj]; rfl) ((decode_0B (fmtA_maj ..)).trans ?_)
  rw [fmtA_d, fmtA_a, fmtA_b, fmtA_fn]; rfl

theorem fabs (d : Reg) (a : Reg) : Statement (.fabs d a) := by
  intro sm rest hw _
  refine decode_one (w := fmtA 0x0B#6 d a 0#6 (7#6 ++ 0#2)) (by unfold takesLiteral; rw [fmtA_maj]; rfl) ((decode_0B (fmtA_maj ..)).trans ?_)
  rw [fmtA_d, fmtA_a, fmtA_b, fmtA_fn]; rfl

theorem fneg (d : Reg) (a : Reg) : Statement (.fneg d a) := by
  intro sm rest hw _
  refine decode_one (w := fmtA 0x0B#6 d a 0#6 (8#6 ++ 0#2)) (by unfold takesLiteral; rw [fmtA_maj]; rfl) ((decode_0B (fmtA_maj ..)).trans ?_)
  rw [fmtA_d, fmtA_a, fmtA_b, fmtA_fn]; rfl

theorem fcpys (d : Reg) (a : Reg) (b : Reg) : Statement (.fcpys d a b) := by
  intro sm rest hw _
  refine decode_one (w := fmtA 0x0B#6 d a b (9#6 ++ 0#2)) (by unfold takesLiteral; rw [fmtA_maj]; rfl) ((decode_0B (fmtA_maj ..)).trans ?_)
  rw [fmtA_d, fmtA_a, fmtA_b, fmtA_fn]; rfl

theorem fsqrt (d : Reg) (a : Reg) (r : Rm) : Statement (.fsqrt d a r) := by
  intro sm rest hw _
  refine decode_one (w := fmtA 0x0B#6 d a 0#6 (10#6 ++ rmCode r)) (by unfold takesLiteral; rw [fmtA_maj]; rfl) ((decode_0B (fmtA_maj ..)).trans ?_)
  rw [fmtA_d, fmtA_a, fmtA_b, fmtA_fn]; cases r <;> rfl

theorem frcp (d : Reg) (a : Reg) (r : Rm) : Statement (.frcp d a r) := by
  intro sm rest hw _
  refine decode_one (w := fmtA 0x0B#6 d a 0#6 (11#6 ++ rmCode r)) (by unfold takesLiteral; rw [fmtA_maj]; rfl) ((decode_0B (fmtA_maj ..)).trans ?_)
  rw [fmtA_d, fmtA_a, fmtA_b, fmtA_fn]; cases r <;> rfl

theorem frsq (d : Reg) (a : Reg) (r : Rm) : Statement (.frsq d a r) := by
  intro sm rest hw _
  refine decode_one (w := fmtA 0x0B#6 d a 0#6 (12#6 ++ rmCode r)) (by unfold takesLiteral; rw [fmtA_maj]; rfl) ((decode_0B (fmtA_maj ..)).trans ?_)
  rw [fmtA_d, fmtA_a, fmtA_b, fmtA_fn]; cases r <;> rfl

theorem fexp2 (d : Reg) (a : Reg) (r : Rm) : Statement (.fexp2 d a r) := by
  intro sm rest hw _
  refine decode_one (w := fmtA 0x0B#6 d a 0#6 (13#6 ++ rmCode r)) (by unfold takesLiteral; rw [fmtA_maj]; rfl) ((decode_0B (fmtA_maj ..)).trans ?_)
  rw [fmtA_d, fmtA_a, fmtA_b, fmtA_fn]; cases r <;> rfl

theorem flog2 (d : Reg) (a : Reg) (r : Rm) : Statement (.flog2 d a r) := by
  intro sm rest hw _
  refine decode_one (w := fmtA 0x0B#6 d a 0#6 (14#6 ++ rmCode r)) (by unfold takesLiteral; rw [fmtA_maj]; rfl) ((decode_0B (fmtA_maj ..)).trans ?_)
  rw [fmtA_d, fmtA_a, fmtA_b, fmtA_fn]; cases r <;> rfl

theorem faddX2 (d : Reg) (a : Reg) (b : Reg) (r : Rm) : Statement (.faddX2 d a b r) := by
  intro sm rest hw _
  refine decode_one (w := fmtA 0x0B#6 d a b (15#6 ++ rmCode r)) (by unfold takesLiteral; rw [fmtA_maj]; rfl) ((decode_0B (fmtA_maj ..)).trans ?_)
  rw [fmtA_d, fmtA_a, fmtA_b, fmtA_fn]; cases r <;> rfl

theorem fmulX2 (d : Reg) (a : Reg) (b : Reg) (r : Rm) : Statement (.fmulX2 d a b r) := by
  intro sm rest hw _
  refine decode_one (w := fmtA 0x0B#6 d a b (16#6 ++ rmCode r)) (by unfold takesLiteral; rw [fmtA_maj]; rfl) ((decode_0B (fmtA_maj ..)).trans ?_)
  rw [fmtA_d, fmtA_a, fmtA_b, fmtA_fn]; cases r <;> rfl

theorem faddP2 (d : Reg) (a : Reg) (b : Reg) (r : Rm) : Statement (.faddP2 d a b r) := by
  intro sm rest hw _
  refine decode_one (w := fmtA 0x0B#6 d a b (17#6 ++ rmCode r)) (by unfold takesLiteral; rw [fmtA_maj]; rfl) ((decode_0B (fmtA_maj ..)).trans ?_)
  rw [fmtA_d, fmtA_a, fmtA_b, fmtA_fn]; cases r <;> rfl

theorem fmulP2 (d : Reg) (a : Reg) (b : Reg) (r : Rm) : Statement (.fmulP2 d a b r) := by
  intro sm rest hw _
  refine decode_one (w := fmtA 0x0B#6 d a b (18#6 ++ rmCode r)) (by unfold takesLiteral; rw [fmtA_maj]; rfl) ((decode_0B (fmtA_maj ..)).trans ?_)
  rw [fmtA_d, fmtA_a, fmtA_b, fmtA_fn]; cases r <;> rfl

theorem fclass (d : Reg) (a : Reg) : Statement (.fclass d a) := by
  intro sm rest hw _
  refine decode_one (w := fmtA 0x0B#6 d a 0#6 (19#6 ++ 0#2)) (by unfold takesLiteral; rw [fmtA_maj]; rfl) ((decode_0B (fmtA_maj ..)).trans ?_)
  rw [fmtA_d, fmtA_a, fmtA_b, fmtA_fn]; rfl

theorem fma (d : Reg) (a : Reg) (b : Reg) (c : Reg) (r : Rm) : Statement (.fma d a b c r) := by
  intro sm rest hw _
  refine decode_one (w := fmtA 0x0C#6 d a b (c ++ rmCode r)) (by unfold takesLiteral; rw [fmtA_maj]; rfl) ((decode_0C (fmtA_maj ..)).trans ?_)
  rw [fmtA_d, fmtA_a, fmtA_b, fmtA_fn, high_6_2, low_6_2]; cases r <;> rfl

theorem fms (d : Reg) (a : Reg) (b : Reg) (c : Reg) (r : Rm) : Statement (.fms d a b c r) := by
  intro sm rest hw _
  refine decode_one (w := fmtA 0x0D#6 d a b (c ++ rmCode r)) (by unfold takesLiteral; rw [fmtA_maj]; rfl) ((decode_0D (fmtA_maj ..)).trans ?_)
  rw [fmtA_d, fmtA_a, fmtA_b, fmtA_fn, high_6_2, low_6_2]; cases r <;> rfl

theorem fnma (d : Reg) (a : Reg) (b : Reg) (c : Reg) (r : Rm) : Statement (.fnma d a b c r) := by
  intro sm rest hw _
  refine decode_one (w := fmtA 0x0E#6 d a b (c ++ rmCode r)) (by unfold takesLiteral; rw [fmtA_maj]; rfl) ((decode_0E (fmtA_maj ..)).trans ?_)
  rw [fmtA_d, fmtA_a, fmtA_b, fmtA_fn, high_6_2, low_6_2]; cases r <;> rfl

theorem fmaX2 (d : Reg) (a : Reg) (b : Reg) (c : Reg) (r : Rm) : Statement (.fmaX2 d a b c r) := by
  intro sm rest hw _
  refine decode_one (w := fmtA 0x0F#6 d a b (c ++ rmCode r)) (by unfold takesLiteral; rw [fmtA_maj]; rfl) ((decode_0F (fmtA_maj ..)).trans ?_)
  rw [fmtA_d, fmtA_a, fmtA_b, fmtA_fn, high_6_2, low_6_2]; cases r <;> rfl

theorem fmaP2 (d : Reg) (a : Reg) (b : Reg) (c : Reg) (r : Rm) : Statement (.fmaP2 d a b c r) := by
  intro sm rest hw _
  refine decode_one (w := fmtA 0x10#6 d a b (c ++ rmCode r)) (by unfold takesLiteral; rw [fmtA_maj]; rfl) ((decode_10 (fmtA_maj ..)).trans ?_)
  rw [fmtA_d, fmtA_a, fmtA_b, fmtA_fn, high_6_2, low_6_2]; cases r <;> rfl

theorem fcmp (f : BitVec 2) (c : FCond) (a : Reg) (b : Reg) : Statement (.fcmp f c a b) := by
  intro sm rest hw _
  refine decode_one (w := fmtA 0x11#6 (0#4 ++ f) a b (0#5 ++ fcondCode c)) (by unfold takesLiteral; rw [fmtA_maj]; rfl) ((decode_11 (fmtA_maj ..)).trans ?_)
  rw [fmtA_d, fmtA_a, fmtA_b, fmtA_fn]; unfold decodeFcmp; rw [high_5_3, low_5_3, flagField_enc, flagZero_enc]; cases c <;> rfl

theorem cvt (d : Reg) (a : Reg) (b : Reg) (t : Tag) (r : CvtRnd) (s : Bool) : Statement (.cvt d a b t r s) := by
  intro sm rest hw _
  refine decode_one (w := fmtA 0x12#6 d a b (tagBits t ++ cvtCode r ++ 0#1 ++ boolBit s)) (by unfold takesLiteral; rw [fmtA_maj]; rfl) ((decode_12 (fmtA_maj ..)).trans ?_)
  rw [fmtA_d, fmtA_a, fmtA_b, fmtA_fn]; have hb : (t == .raw) = false ∧ (r = .sr ∨ b = 0#6) := by
    simp only [wf, Bool.and_eq_true, bne_iff_ne, Bool.or_eq_true, beq_iff_eq] at hw; exact ⟨by simpa using hw.2, hw.1.2⟩
  obtain ⟨h1, h2⟩ := hb
  rcases h2 with h2 | h2 <;> subst h2 <;> cases t <;> (try cases r) <;> cases s <;> first | rfl | cases h1

theorem tagset (d : Reg) (a : Reg) (c : Tag) : Statement (.tagset d a c) := by
  intro sm rest hw _
  refine decode_one (w := fmtA 0x13#6 d a 0#6 (0#4 ++ tagBits c)) (by unfold takesLiteral; rw [fmtA_maj]; rfl) ((decode_13 (fmtA_maj ..)).trans ?_)
  rw [fmtA_d, fmtA_a, fmtA_b, fmtA_fn]; cases c <;> rfl

theorem tagget (d : Reg) (a : Reg) : Statement (.tagget d a) := by
  intro sm rest hw _
  refine decode_one (w := fmtA 0x13#6 d a 0#6 0x10#8) (by unfold takesLiteral; rw [fmtA_maj]; rfl) ((decode_13 (fmtA_maj ..)).trans ?_)
  rw [fmtA_d, fmtA_a, fmtA_b, fmtA_fn]; rfl

theorem tagchk (a : Reg) (c : Tag) : Statement (.tagchk a c) := by
  intro sm rest hw _
  refine decode_one (w := fmtA 0x13#6 0#6 a 0#6 (2#4 ++ tagBits c)) (by unfold takesLiteral; rw [fmtA_maj]; rfl) ((decode_13 (fmtA_maj ..)).trans ?_)
  rw [fmtA_d, fmtA_a, fmtA_b, fmtA_fn]; cases c <;> rfl

theorem shfl (d : Reg) (a : Reg) (b : Reg) : Statement (.shfl d a b) := by
  intro sm rest hw _
  refine decode_one (w := fmtA 0x14#6 d a b 0x00#8) (by unfold takesLiteral; rw [fmtA_maj]; rfl) ((decode_14 (fmtA_maj ..)).trans ?_)
  rw [fmtA_d, fmtA_a, fmtA_b, fmtA_fn]; rfl

theorem shflx (d : Reg) (a : Reg) (b : Reg) : Statement (.shflx d a b) := by
  intro sm rest hw _
  refine decode_one (w := fmtA 0x14#6 d a b 0x01#8) (by unfold takesLiteral; rw [fmtA_maj]; rfl) ((decode_14 (fmtA_maj ..)).trans ?_)
  rw [fmtA_d, fmtA_a, fmtA_b, fmtA_fn]; rfl

theorem shflu (d : Reg) (a : Reg) (b : Reg) : Statement (.shflu d a b) := by
  intro sm rest hw _
  refine decode_one (w := fmtA 0x14#6 d a b 0x02#8) (by unfold takesLiteral; rw [fmtA_maj]; rfl) ((decode_14 (fmtA_maj ..)).trans ?_)
  rw [fmtA_d, fmtA_a, fmtA_b, fmtA_fn]; rfl

theorem shfld (d : Reg) (a : Reg) (b : Reg) : Statement (.shfld d a b) := by
  intro sm rest hw _
  refine decode_one (w := fmtA 0x14#6 d a b 0x03#8) (by unfold takesLiteral; rw [fmtA_maj]; rfl) ((decode_14 (fmtA_maj ..)).trans ?_)
  rw [fmtA_d, fmtA_a, fmtA_b, fmtA_fn]; rfl

theorem ballot (d : Reg) (f : BitVec 2) : Statement (.ballot d f) := by
  intro sm rest hw _
  refine decode_one (w := fmtA 0x14#6 d (0#4 ++ f) 0#6 0x04#8) (by unfold takesLiteral; rw [fmtA_maj]; rfl) ((decode_14 (fmtA_maj ..)).trans ?_)
  rw [fmtA_d, fmtA_a, fmtA_b, fmtA_fn]; unfold decodeXln; simp only [flagField_enc, flagZero_enc]; rfl

theorem anyF (g : BitVec 2) (f : BitVec 2) : Statement (.anyF g f) := by
  intro sm rest hw _
  refine decode_one (w := fmtA 0x14#6 (0#4 ++ g) (0#4 ++ f) 0#6 0x05#8) (by unfold takesLiteral; rw [fmtA_maj]; rfl) ((decode_14 (fmtA_maj ..)).trans ?_)
  rw [fmtA_d, fmtA_a, fmtA_b, fmtA_fn]; unfold decodeXln; simp only [flagField_enc, flagZero_enc]; rfl

theorem allF (g : BitVec 2) (f : BitVec 2) : Statement (.allF g f) := by
  intro sm rest hw _
  refine decode_one (w := fmtA 0x14#6 (0#4 ++ g) (0#4 ++ f) 0#6 0x06#8) (by unfold takesLiteral; rw [fmtA_maj]; rfl) ((decode_14 (fmtA_maj ..)).trans ?_)
  rw [fmtA_d, fmtA_a, fmtA_b, fmtA_fn]; unfold decodeXln; simp only [flagField_enc, flagZero_enc]; rfl

theorem redadd (d : Reg) (a : Reg) : Statement (.redadd d a) := by
  intro sm rest hw _
  refine decode_one (w := fmtA 0x14#6 d a 0#6 0x07#8) (by unfold takesLiteral; rw [fmtA_maj]; rfl) ((decode_14 (fmtA_maj ..)).trans ?_)
  rw [fmtA_d, fmtA_a, fmtA_b, fmtA_fn]; rfl

theorem redmaxs (d : Reg) (a : Reg) : Statement (.redmaxs d a) := by
  intro sm rest hw _
  refine decode_one (w := fmtA 0x14#6 d a 0#6 0x08#8) (by unfold takesLiteral; rw [fmtA_maj]; rfl) ((decode_14 (fmtA_maj ..)).trans ?_)
  rw [fmtA_d, fmtA_a, fmtA_b, fmtA_fn]; rfl

theorem redfadd (d : Reg) (a : Reg) : Statement (.redfadd d a) := by
  intro sm rest hw _
  refine decode_one (w := fmtA 0x14#6 d a 0#6 0x09#8) (by unfold takesLiteral; rw [fmtA_maj]; rfl) ((decode_14 (fmtA_maj ..)).trans ?_)
  rw [fmtA_d, fmtA_a, fmtA_b, fmtA_fn]; rfl

theorem scanadd (d : Reg) (a : Reg) : Statement (.scanadd d a) := by
  intro sm rest hw _
  refine decode_one (w := fmtA 0x14#6 d a 0#6 0x0A#8) (by unfold takesLiteral; rw [fmtA_maj]; rfl) ((decode_14 (fmtA_maj ..)).trans ?_)
  rw [fmtA_d, fmtA_a, fmtA_b, fmtA_fn]; rfl

theorem mxqE2m1 (d : Reg) (a : Reg) (b : Reg) : Statement (.mxqE2m1 d a b) := by
  intro sm rest hw _
  refine decode_one (w := fmtA 0x14#6 d a b 0x0B#8) (by unfold takesLiteral; rw [fmtA_maj]; rfl) ((decode_14 (fmtA_maj ..)).trans ?_)
  rw [fmtA_d, fmtA_a, fmtA_b, fmtA_fn]; rfl

theorem mxqE4m3 (d : Reg) (a : Reg) (b : Reg) : Statement (.mxqE4m3 d a b) := by
  intro sm rest hw _
  refine decode_one (w := fmtA 0x14#6 d a b 0x0C#8) (by unfold takesLiteral; rw [fmtA_maj]; rfl) ((decode_14 (fmtA_maj ..)).trans ?_)
  rw [fmtA_d, fmtA_a, fmtA_b, fmtA_fn]; rfl

theorem mxqE5m2 (d : Reg) (a : Reg) (b : Reg) : Statement (.mxqE5m2 d a b) := by
  intro sm rest hw _
  refine decode_one (w := fmtA 0x14#6 d a b 0x0D#8) (by unfold takesLiteral; rw [fmtA_maj]; rfl) ((decode_14 (fmtA_maj ..)).trans ?_)
  rw [fmtA_d, fmtA_a, fmtA_b, fmtA_fn]; rfl

theorem mxdq (d : Reg) (a : Reg) (b : Reg) : Statement (.mxdq d a b) := by
  intro sm rest hw _
  refine decode_one (w := fmtA 0x14#6 d a b 0x0E#8) (by unfold takesLiteral; rw [fmtA_maj]; rfl) ((decode_14 (fmtA_maj ..)).trans ?_)
  rw [fmtA_d, fmtA_a, fmtA_b, fmtA_fn]; rfl

theorem bcast (d : Reg) (a : Reg) (l : BitVec 5) : Statement (.bcast d a l) := by
  intro sm rest hw _
  refine decode_one (w := fmtA 0x14#6 d a (0#1 ++ l) 0x0F#8) (by unfold takesLiteral; rw [fmtA_maj]; rfl) ((decode_14 (fmtA_maj ..)).trans ?_)
  rw [fmtA_d, fmtA_a, fmtA_b, fmtA_fn]; unfold decodeXln; rw [low_1_5, bcast_top]; rfl

theorem ld (d : Reg) (a : Reg) (z : Size) (w : Win) (s : Scope) (o : BitVec 6) : Statement (.ld d a z w s o) := by
  intro sm rest hw _
  refine decode_one (w := fmtM 0x15#6 d a (sizeCode z) (winCode w) (scopeCode s) o) (by unfold takesLiteral; rw [fmtM_maj]; rfl) ((decode_15 (fmtM_maj ..)).trans ?_)
  unfold decodeMem; rw [fmtM_w, fmtM_s, fmtM_d, fmtM_a, fmtM_z, fmtM_o]; cases z <;> cases w <;> cases s <;> rfl

theorem lda (d : Reg) (a : Reg) (z : Size) (w : Win) (s : Scope) (o : BitVec 6) : Statement (.lda d a z w s o) := by
  intro sm rest hw _
  refine decode_one (w := fmtM 0x16#6 d a (sizeCode z) (winCode w) (scopeCode s) o) (by unfold takesLiteral; rw [fmtM_maj]; rfl) ((decode_16 (fmtM_maj ..)).trans ?_)
  unfold decodeMem; rw [fmtM_w, fmtM_s, fmtM_d, fmtM_a, fmtM_z, fmtM_o]; cases z <;> cases w <;> cases s <;> rfl

theorem ldi (d : Reg) (a : Reg) (z : Size) (w : Win) (s : Scope) (o : BitVec 6) : Statement (.ldi d a z w s o) := by
  intro sm rest hw _
  refine decode_one (w := fmtM 0x17#6 d a (sizeCode z) (winCode w) (scopeCode s) o) (by unfold takesLiteral; rw [fmtM_maj]; rfl) ((decode_17 (fmtM_maj ..)).trans ?_)
  unfold decodeMem; rw [fmtM_w, fmtM_s, fmtM_d, fmtM_a, fmtM_z, fmtM_o]; cases z <;> cases w <;> cases s <;> rfl

theorem st (d : Reg) (a : Reg) (z : Size) (w : Win) (s : Scope) (o : BitVec 6) : Statement (.st d a z w s o) := by
  intro sm rest hw _
  refine decode_one (w := fmtM 0x18#6 d a (sizeCode z) (winCode w) (scopeCode s) o) (by unfold takesLiteral; rw [fmtM_maj]; rfl) ((decode_18 (fmtM_maj ..)).trans ?_)
  unfold decodeMem; rw [fmtM_w, fmtM_s, fmtM_d, fmtM_a, fmtM_z, fmtM_o]; cases z <;> cases w <;> cases s <;> rfl

theorem stl (d : Reg) (a : Reg) (z : Size) (w : Win) (s : Scope) (o : BitVec 6) : Statement (.stl d a z w s o) := by
  intro sm rest hw _
  refine decode_one (w := fmtM 0x19#6 d a (sizeCode z) (winCode w) (scopeCode s) o) (by unfold takesLiteral; rw [fmtM_maj]; rfl) ((decode_19 (fmtM_maj ..)).trans ?_)
  unfold decodeMem; rw [fmtM_w, fmtM_s, fmtM_d, fmtM_a, fmtM_z, fmtM_o]; cases z <;> cases w <;> cases s <;> rfl

theorem ldv (d : Reg) (a : Reg) (b : Reg) (z : Size) (s : Scope) (m : LdvMode) : Statement (.ldv d a b z s m) := by
  intro sm rest hw _
  refine decode_one (w := fmtA 0x1A#6 d a b (sizeCode z ++ scopeCode s ++ ldvCode m)) (by unfold takesLiteral; rw [fmtA_maj]; rfl) ((decode_1A (fmtA_maj ..)).trans ?_)
  rw [fmtA_d, fmtA_a, fmtA_b, fmtA_fn]; cases z <;> cases s <;> cases m <;> rfl

theorem atomAdd (d : Reg) (a : Reg) (b : Reg) (o : Bool) (s : Scope) : Statement (.atomAdd d a b o s) := by
  intro sm rest hw _
  refine decode_one (w := fmtA 0x1B#6 d a b (0#4 ++ boolBit o ++ scopeCode s)) (by unfold takesLiteral; rw [fmtA_maj]; rfl) ((decode_1B (fmtA_maj ..)).trans ?_)
  rw [fmtA_d, fmtA_a, fmtA_b, fmtA_fn]; cases o <;> cases s <;> rfl

theorem atomAnd (d : Reg) (a : Reg) (b : Reg) (o : Bool) (s : Scope) : Statement (.atomAnd d a b o s) := by
  intro sm rest hw _
  refine decode_one (w := fmtA 0x1B#6 d a b (1#4 ++ boolBit o ++ scopeCode s)) (by unfold takesLiteral; rw [fmtA_maj]; rfl) ((decode_1B (fmtA_maj ..)).trans ?_)
  rw [fmtA_d, fmtA_a, fmtA_b, fmtA_fn]; cases o <;> cases s <;> rfl

theorem atomOr (d : Reg) (a : Reg) (b : Reg) (o : Bool) (s : Scope) : Statement (.atomOr d a b o s) := by
  intro sm rest hw _
  refine decode_one (w := fmtA 0x1B#6 d a b (2#4 ++ boolBit o ++ scopeCode s)) (by unfold takesLiteral; rw [fmtA_maj]; rfl) ((decode_1B (fmtA_maj ..)).trans ?_)
  rw [fmtA_d, fmtA_a, fmtA_b, fmtA_fn]; cases o <;> cases s <;> rfl

theorem atomXor (d : Reg) (a : Reg) (b : Reg) (o : Bool) (s : Scope) : Statement (.atomXor d a b o s) := by
  intro sm rest hw _
  refine decode_one (w := fmtA 0x1B#6 d a b (3#4 ++ boolBit o ++ scopeCode s)) (by unfold takesLiteral; rw [fmtA_maj]; rfl) ((decode_1B (fmtA_maj ..)).trans ?_)
  rw [fmtA_d, fmtA_a, fmtA_b, fmtA_fn]; cases o <;> cases s <;> rfl

theorem atomMins (d : Reg) (a : Reg) (b : Reg) (o : Bool) (s : Scope) : Statement (.atomMins d a b o s) := by
  intro sm rest hw _
  refine decode_one (w := fmtA 0x1B#6 d a b (4#4 ++ boolBit o ++ scopeCode s)) (by unfold takesLiteral; rw [fmtA_maj]; rfl) ((decode_1B (fmtA_maj ..)).trans ?_)
  rw [fmtA_d, fmtA_a, fmtA_b, fmtA_fn]; cases o <;> cases s <;> rfl

theorem atomMaxs (d : Reg) (a : Reg) (b : Reg) (o : Bool) (s : Scope) : Statement (.atomMaxs d a b o s) := by
  intro sm rest hw _
  refine decode_one (w := fmtA 0x1B#6 d a b (5#4 ++ boolBit o ++ scopeCode s)) (by unfold takesLiteral; rw [fmtA_maj]; rfl) ((decode_1B (fmtA_maj ..)).trans ?_)
  rw [fmtA_d, fmtA_a, fmtA_b, fmtA_fn]; cases o <;> cases s <;> rfl

theorem atomMinz (d : Reg) (a : Reg) (b : Reg) (o : Bool) (s : Scope) : Statement (.atomMinz d a b o s) := by
  intro sm rest hw _
  refine decode_one (w := fmtA 0x1B#6 d a b (6#4 ++ boolBit o ++ scopeCode s)) (by unfold takesLiteral; rw [fmtA_maj]; rfl) ((decode_1B (fmtA_maj ..)).trans ?_)
  rw [fmtA_d, fmtA_a, fmtA_b, fmtA_fn]; cases o <;> cases s <;> rfl

theorem atomMaxz (d : Reg) (a : Reg) (b : Reg) (o : Bool) (s : Scope) : Statement (.atomMaxz d a b o s) := by
  intro sm rest hw _
  refine decode_one (w := fmtA 0x1B#6 d a b (7#4 ++ boolBit o ++ scopeCode s)) (by unfold takesLiteral; rw [fmtA_maj]; rfl) ((decode_1B (fmtA_maj ..)).trans ?_)
  rw [fmtA_d, fmtA_a, fmtA_b, fmtA_fn]; cases o <;> cases s <;> rfl

theorem atomXchg (d : Reg) (a : Reg) (b : Reg) (o : Bool) (s : Scope) : Statement (.atomXchg d a b o s) := by
  intro sm rest hw _
  refine decode_one (w := fmtA 0x1B#6 d a b (8#4 ++ boolBit o ++ scopeCode s)) (by unfold takesLiteral; rw [fmtA_maj]; rfl) ((decode_1B (fmtA_maj ..)).trans ?_)
  rw [fmtA_d, fmtA_a, fmtA_b, fmtA_fn]; cases o <;> cases s <;> rfl

theorem atomCas (d : Reg) (a : Reg) (b : Reg) (o : Bool) (s : Scope) : Statement (.atomCas d a b o s) := by
  intro sm rest hw _
  refine decode_one (w := fmtA 0x1B#6 d a b (9#4 ++ boolBit o ++ scopeCode s)) (by unfold takesLiteral; rw [fmtA_maj]; rfl) ((decode_1B (fmtA_maj ..)).trans ?_)
  rw [fmtA_d, fmtA_a, fmtA_b, fmtA_fn]; cases o <;> cases s <;> rfl

theorem atomFadd (d : Reg) (a : Reg) (b : Reg) (o : Bool) (s : Scope) : Statement (.atomFadd d a b o s) := by
  intro sm rest hw _
  refine decode_one (w := fmtA 0x1B#6 d a b (10#4 ++ boolBit o ++ scopeCode s)) (by unfold takesLiteral; rw [fmtA_maj]; rfl) ((decode_1B (fmtA_maj ..)).trans ?_)
  rw [fmtA_d, fmtA_a, fmtA_b, fmtA_fn]; cases o <;> cases s <;> rfl

theorem atomIncw (d : Reg) (a : Reg) (b : Reg) (o : Bool) (s : Scope) : Statement (.atomIncw d a b o s) := by
  intro sm rest hw _
  refine decode_one (w := fmtA 0x1B#6 d a b (11#4 ++ boolBit o ++ scopeCode s)) (by unfold takesLiteral; rw [fmtA_maj]; rfl) ((decode_1B (fmtA_maj ..)).trans ?_)
  rw [fmtA_d, fmtA_a, fmtA_b, fmtA_fn]; cases o <;> cases s <;> rfl

theorem fenceFull (s : Scope) : Statement (.fenceFull s) := by
  intro sm rest hw _
  refine decode_one (w := fmtA 0x1C#6 0#6 0#6 0#6 (0#3 ++ 0#2 ++ scopeCode s)) (by unfold takesLiteral; rw [fmtA_maj]; rfl) ((decode_1C (fmtA_maj ..)).trans ?_)
  rw [fmtA_d, fmtA_a, fmtA_b, fmtA_fn]; cases s <;> rfl

theorem fenceAcq (s : Scope) : Statement (.fenceAcq s) := by
  intro sm rest hw _
  refine decode_one (w := fmtA 0x1C#6 0#6 0#6 0#6 (0#3 ++ 1#2 ++ scopeCode s)) (by unfold takesLiteral; rw [fmtA_maj]; rfl) ((decode_1C (fmtA_maj ..)).trans ?_)
  rw [fmtA_d, fmtA_a, fmtA_b, fmtA_fn]; cases s <;> rfl

theorem fenceRel (s : Scope) : Statement (.fenceRel s) := by
  intro sm rest hw _
  refine decode_one (w := fmtA 0x1C#6 0#6 0#6 0#6 (0#3 ++ 2#2 ++ scopeCode s)) (by unfold takesLiteral; rw [fmtA_maj]; rfl) ((decode_1C (fmtA_maj ..)).trans ?_)
  rw [fmtA_d, fmtA_a, fmtA_b, fmtA_fn]; cases s <;> rfl

theorem fenceView (s : Scope) : Statement (.fenceView s) := by
  intro sm rest hw _
  refine decode_one (w := fmtA 0x1C#6 0#6 0#6 0#6 (0#3 ++ 3#2 ++ scopeCode s)) (by unfold takesLiteral; rw [fmtA_maj]; rfl) ((decode_1C (fmtA_maj ..)).trans ?_)
  rw [fmtA_d, fmtA_a, fmtA_b, fmtA_fn]; cases s <;> rfl

theorem stmx (d : Reg) (a : Reg) (b : Reg) (s : Scope) : Statement (.stmx d a b s) := by
  intro sm rest hw _
  refine decode_one (w := fmtA 0x1D#6 d a b (0#5 ++ scopeCode s)) (by unfold takesLiteral; rw [fmtA_maj]; rfl) ((decode_1D (fmtA_maj ..)).trans ?_)
  rw [fmtA_d, fmtA_a, fmtA_b, fmtA_fn]; cases s <;> rfl

theorem pf (a : Reg) (l : Bool) : Statement (.pf a l) := by
  intro sm rest hw _
  refine decode_one (w := fmtA 0x1E#6 0#6 a 0#6 (0#7 ++ boolBit l)) (by unfold takesLiteral; rw [fmtA_maj]; rfl) ((decode_1E (fmtA_maj ..)).trans ?_)
  rw [fmtA_d, fmtA_a, fmtA_b, fmtA_fn]; cases l <;> rfl

theorem vopen (d : Reg) (a : Reg) (b : Reg) : Statement (.vopen d a b) := by
  intro sm rest hw _
  refine decode_one (w := fmtA 0x1F#6 d a b 0x00#8) (by unfold takesLiteral; rw [fmtA_maj]; rfl) ((decode_1F (fmtA_maj ..)).trans ?_)
  rw [fmtA_d, fmtA_a, fmtA_b, fmtA_fn]; rfl

theorem vcommit (a : Reg) (b : Reg) (s : Scope) : Statement (.vcommit a b s) := by
  intro sm rest hw _
  refine decode_one (w := fmtA 0x1F#6 0#6 a b (0#3 ++ scopeCode s ++ 1#2)) (by unfold takesLiteral; rw [fmtA_maj]; rfl) ((decode_1F (fmtA_maj ..)).trans ?_)
  rw [fmtA_d, fmtA_a, fmtA_b, fmtA_fn]; cases s <;> rfl

theorem vquery (d : Reg) (a : Reg) : Statement (.vquery d a) := by
  intro sm rest hw _
  refine decode_one (w := fmtA 0x1F#6 d a 0#6 0x02#8) (by unfold takesLiteral; rw [fmtA_maj]; rfl) ((decode_1F (fmtA_maj ..)).trans ?_)
  rw [fmtA_d, fmtA_a, fmtA_b, fmtA_fn]; rfl

theorem vretire (a : Reg) (b : Reg) : Statement (.vretire a b) := by
  intro sm rest hw _
  refine decode_one (w := fmtA 0x1F#6 0#6 a b 0x03#8) (by unfold takesLiteral; rw [fmtA_maj]; rfl) ((decode_1F (fmtA_maj ..)).trans ?_)
  rw [fmtA_d, fmtA_a, fmtA_b, fmtA_fn]; rfl

theorem br (c : Cond) (o : BitVec 22) : Statement (.br c o) := by
  intro sm rest hw _
  refine decode_one (w := fmtB 0x20#6 (condBits c) o) (by unfold takesLiteral; rw [fmtB_maj]; rfl) ((decode_20 (fmtB_maj ..)).trans ?_)
  unfold decodeBranch; rw [fmtB_off]; cases c with
  | always => rw [show condBits .always = 0#2 ++ 0#2 from rfl, fmtB_cond, fmtB_flag]; rfl
  | ifSet f => rw [show condBits (.ifSet f) = 1#2 ++ f from rfl, fmtB_cond, fmtB_flag]; rfl
  | ifClear f => rw [show condBits (.ifClear f) = 2#2 ++ f from rfl, fmtB_cond, fmtB_flag]; rfl

theorem brx (c : Cond) (o : BitVec 22) : Statement (.brx c o) := by
  intro sm rest hw _
  refine decode_one (w := fmtB 0x21#6 (condBits c) o) (by unfold takesLiteral; rw [fmtB_maj]; rfl) ((decode_21 (fmtB_maj ..)).trans ?_)
  unfold decodeBranch; rw [fmtB_off]; cases c with
  | always => rw [show condBits .always = 0#2 ++ 0#2 from rfl, fmtB_cond, fmtB_flag]; rfl
  | ifSet f => rw [show condBits (.ifSet f) = 1#2 ++ f from rfl, fmtB_cond, fmtB_flag]; rfl
  | ifClear f => rw [show condBits (.ifClear f) = 2#2 ++ f from rfl, fmtB_cond, fmtB_flag]; rfl

theorem call (c : Cond) (o : BitVec 22) : Statement (.call c o) := by
  intro sm rest hw _
  refine decode_one (w := fmtB 0x22#6 (condBits c) o) (by unfold takesLiteral; rw [fmtB_maj]; rfl) ((decode_22 (fmtB_maj ..)).trans ?_)
  unfold decodeBranch; rw [fmtB_off]; cases c with
  | always => rw [show condBits .always = 0#2 ++ 0#2 from rfl, fmtB_cond, fmtB_flag]; rfl
  | ifSet f => rw [show condBits (.ifSet f) = 1#2 ++ f from rfl, fmtB_cond, fmtB_flag]; rfl
  | ifClear f => rw [show condBits (.ifClear f) = 2#2 ++ f from rfl, fmtB_cond, fmtB_flag]; rfl

theorem jr (a : Reg) : Statement (.jr a) := by
  intro sm rest hw _
  refine decode_one (w := fmtA 0x23#6 0#6 a 0#6 0x00#8) (by unfold takesLiteral; rw [fmtA_maj]; rfl) ((decode_23 (fmtA_maj ..)).trans ?_)
  rw [fmtA_d, fmtA_a, fmtA_b, fmtA_fn]; rfl

theorem ret : Statement .ret := by
  intro sm rest hw _
  refine decode_one (w := fmtA 0x23#6 0#6 0#6 0#6 0x01#8) (by unfold takesLiteral; rw [fmtA_maj]; rfl) ((decode_23 (fmtA_maj ..)).trans ?_)
  rw [fmtA_d, fmtA_a, fmtA_b, fmtA_fn]; rfl

theorem callr (a : Reg) : Statement (.callr a) := by
  intro sm rest hw _
  refine decode_one (w := fmtA 0x23#6 0#6 a 0#6 0x02#8) (by unfold takesLiteral; rw [fmtA_maj]; rfl) ((decode_23 (fmtA_maj ..)).trans ?_)
  rw [fmtA_d, fmtA_a, fmtA_b, fmtA_fn]; rfl

theorem wait (ld : BitVec 4) (sx : BitVec 4) (cp : BitVec 4) (tl : BitVec 4) : Statement (.wait ld sx cp tl) := by
  intro sm rest hw _
  refine decode_one (w := fmtT 0x24#6 ld sx cp tl) (by unfold takesLiteral; rw [fmtT_maj]; rfl) ((decode_24 (fmtT_maj ..)).trans ?_)
  unfold decodeWait; rw [fmtT_ld, fmtT_st, fmtT_cp, fmtT_tl, fmtT_zero]; rfl

theorem yield : Statement .yield := by
  intro sm rest hw _
  refine decode_one (w := fmtA 0x25#6 0#6 0#6 0#6 0x00#8) (by unfold takesLiteral; rw [fmtA_maj]; rfl) ((decode_25 (fmtA_maj ..)).trans ?_)
  rw [fmtA_d, fmtA_a, fmtA_b, fmtA_fn]; rfl

theorem exit : Statement .exit := by
  intro sm rest hw _
  refine decode_one (w := fmtA 0x25#6 0#6 0#6 0#6 0x01#8) (by unfold takesLiteral; rw [fmtA_maj]; rfl) ((decode_25 (fmtA_maj ..)).trans ?_)
  rw [fmtA_d, fmtA_a, fmtA_b, fmtA_fn]; rfl

theorem join (c : BitVec 4) : Statement (.join c) := by
  intro sm rest hw _
  refine decode_one (w := fmtA 0x25#6 0#6 0#6 (0#2 ++ c) 0x02#8) (by unfold takesLiteral; rw [fmtA_maj]; rfl) ((decode_25 (fmtA_maj ..)).trans ?_)
  rw [fmtA_d, fmtA_a, fmtA_b, fmtA_fn]; unfold decodeCtl; rw [low_2_4, high_2_4]; rfl

theorem leave : Statement .leave := by
  intro sm rest hw _
  refine decode_one (w := fmtA 0x25#6 0#6 0#6 0#6 0x03#8) (by unfold takesLiteral; rw [fmtA_maj]; rfl) ((decode_25 (fmtA_maj ..)).trans ?_)
  rw [fmtA_d, fmtA_a, fmtA_b, fmtA_fn]; rfl

theorem rdv : Statement .rdv := by
  intro sm rest hw _
  refine decode_one (w := fmtA 0x25#6 0#6 0#6 0#6 0x04#8) (by unfold takesLiteral; rw [fmtA_maj]; rfl) ((decode_25 (fmtA_maj ..)).trans ?_)
  rw [fmtA_d, fmtA_a, fmtA_b, fmtA_fn]; rfl

theorem spawn (a : Reg) : Statement (.spawn a) := by
  intro sm rest hw _
  refine decode_one (w := fmtA 0x25#6 0#6 a 0#6 0x05#8) (by unfold takesLiteral; rw [fmtA_maj]; rfl) ((decode_25 (fmtA_maj ..)).trans ?_)
  rw [fmtA_d, fmtA_a, fmtA_b, fmtA_fn]; rfl

theorem reorder (a : Reg) (k : BitVec 6) : Statement (.reorder a k) := by
  intro sm rest hw _
  refine decode_one (w := fmtA 0x25#6 0#6 a k 0x06#8) (by unfold takesLiteral; rw [fmtA_maj]; rfl) ((decode_25 (fmtA_maj ..)).trans ?_)
  rw [fmtA_d, fmtA_a, fmtA_b, fmtA_fn]; rfl

theorem popq (d : Reg) : Statement (.popq d) := by
  intro sm rest hw _
  refine decode_one (w := fmtA 0x25#6 d 0#6 0#6 0x07#8) (by unfold takesLiteral; rw [fmtA_maj]; rfl) ((decode_25 (fmtA_maj ..)).trans ?_)
  rw [fmtA_d, fmtA_a, fmtA_b, fmtA_fn]; rfl

theorem peekq (d : Reg) : Statement (.peekq d) := by
  intro sm rest hw _
  refine decode_one (w := fmtA 0x25#6 d 0#6 0#6 0x08#8) (by unfold takesLiteral; rw [fmtA_maj]; rfl) ((decode_25 (fmtA_maj ..)).trans ?_)
  rw [fmtA_d, fmtA_a, fmtA_b, fmtA_fn]; rfl

theorem pushq (a : Reg) : Statement (.pushq a) := by
  intro sm rest hw _
  refine decode_one (w := fmtA 0x25#6 0#6 a 0#6 0x09#8) (by unfold takesLiteral; rw [fmtA_maj]; rfl) ((decode_25 (fmtA_maj ..)).trans ?_)
  rw [fmtA_d, fmtA_a, fmtA_b, fmtA_fn]; rfl

theorem movsr (d : Reg) (n : BitVec 6) : Statement (.movsr d n) := by
  intro sm rest hw _
  refine decode_one (w := fmtA 0x25#6 d 0#6 n 0x0A#8) (by unfold takesLiteral; rw [fmtA_maj]; rfl) ((decode_25 (fmtA_maj ..)).trans ?_)
  rw [fmtA_d, fmtA_a, fmtA_b, fmtA_fn]; rfl

theorem movrs (a : Reg) (n : BitVec 6) : Statement (.movrs a n) := by
  intro sm rest hw _
  refine decode_one (w := fmtA 0x25#6 0#6 a n 0x0B#8) (by unfold takesLiteral; rw [fmtA_maj]; rfl) ((decode_25 (fmtA_maj ..)).trans ?_)
  rw [fmtA_d, fmtA_a, fmtA_b, fmtA_fn]; rfl

theorem nop : Statement .nop := by
  intro sm rest hw _
  refine decode_one (w := fmtA 0x25#6 0#6 0#6 0#6 0x0C#8) (by unfold takesLiteral; rw [fmtA_maj]; rfl) ((decode_25 (fmtA_maj ..)).trans ?_)
  rw [fmtA_d, fmtA_a, fmtA_b, fmtA_fn]; rfl

theorem barInit (a : Reg) (n : BitVec 4) : Statement (.barInit a n) := by
  intro sm rest hw _
  refine decode_one (w := fmtA 0x26#6 0#6 a 0#6 (0#4 ++ n)) (by unfold takesLiteral; rw [fmtA_maj]; rfl) ((decode_26 (fmtA_maj ..)).trans ?_)
  rw [fmtA_d, fmtA_a, fmtA_b, fmtA_fn]; unfold decodeBar; rw [low_4_4, high_4_4]; rfl

theorem barArrive (d : Reg) (n : BitVec 4) : Statement (.barArrive d n) := by
  intro sm rest hw _
  refine decode_one (w := fmtA 0x26#6 d 0#6 0#6 (1#4 ++ n)) (by unfold takesLiteral; rw [fmtA_maj]; rfl) ((decode_26 (fmtA_maj ..)).trans ?_)
  rw [fmtA_d, fmtA_a, fmtA_b, fmtA_fn]; unfold decodeBar; rw [low_4_4, high_4_4]; rfl

theorem barWait (d : Reg) (n : BitVec 4) : Statement (.barWait d n) := by
  intro sm rest hw _
  refine decode_one (w := fmtA 0x26#6 d 0#6 0#6 (2#4 ++ n)) (by unfold takesLiteral; rw [fmtA_maj]; rfl) ((decode_26 (fmtA_maj ..)).trans ?_)
  rw [fmtA_d, fmtA_a, fmtA_b, fmtA_fn]; unfold decodeBar; rw [low_4_4, high_4_4]; rfl

theorem barSync (d : Reg) (n : BitVec 4) : Statement (.barSync d n) := by
  intro sm rest hw _
  refine decode_one (w := fmtA 0x26#6 d 0#6 0#6 (3#4 ++ n)) (by unfold takesLiteral; rw [fmtA_maj]; rfl) ((decode_26 (fmtA_maj ..)).trans ?_)
  rw [fmtA_d, fmtA_a, fmtA_b, fmtA_fn]; unfold decodeBar; rw [low_4_4, high_4_4]; rfl

theorem barInval (n : BitVec 4) : Statement (.barInval n) := by
  intro sm rest hw _
  refine decode_one (w := fmtA 0x26#6 0#6 0#6 0#6 (4#4 ++ n)) (by unfold takesLiteral; rw [fmtA_maj]; rfl) ((decode_26 (fmtA_maj ..)).trans ?_)
  rw [fmtA_d, fmtA_a, fmtA_b, fmtA_fn]; unfold decodeBar; rw [low_4_4, high_4_4]; rfl

theorem barQuery (d : Reg) (n : BitVec 4) : Statement (.barQuery d n) := by
  intro sm rest hw _
  refine decode_one (w := fmtA 0x26#6 d 0#6 0#6 (5#4 ++ n)) (by unfold takesLiteral; rw [fmtA_maj]; rfl) ((decode_26 (fmtA_maj ..)).trans ?_)
  rw [fmtA_d, fmtA_a, fmtA_b, fmtA_fn]; unfold decodeBar; rw [low_4_4, high_4_4]; rfl

theorem ainit (a : Reg) (b : Reg) : Statement (.ainit a b) := by
  intro sm rest hw _
  refine decode_one (w := fmtA 0x27#6 0#6 a b 0x00#8) (by unfold takesLiteral; rw [fmtA_maj]; rfl) ((decode_27 (fmtA_maj ..)).trans ?_)
  rw [fmtA_d, fmtA_a, fmtA_b, fmtA_fn]; rfl

theorem await (d : Reg) (a : Reg) (b : Reg) : Statement (.await d a b) := by
  intro sm rest hw _
  refine decode_one (w := fmtA 0x27#6 d a b 0x01#8) (by unfold takesLiteral; rw [fmtA_maj]; rfl) ((decode_27 (fmtA_maj ..)).trans ?_)
  rw [fmtA_d, fmtA_a, fmtA_b, fmtA_fn]; rfl

theorem aadd (a : Reg) (b : Reg) : Statement (.aadd a b) := by
  intro sm rest hw _
  refine decode_one (w := fmtA 0x27#6 0#6 a b 0x02#8) (by unfold takesLiteral; rw [fmtA_maj]; rfl) ((decode_27 (fmtA_maj ..)).trans ?_)
  rw [fmtA_d, fmtA_a, fmtA_b, fmtA_fn]; rfl

theorem rinit (d : Reg) (a : Reg) : Statement (.rinit d a) := by
  intro sm rest hw _
  refine decode_one (w := fmtA 0x27#6 d a 0#6 0x03#8) (by unfold takesLiteral; rw [fmtA_maj]; rfl) ((decode_27 (fmtA_maj ..)).trans ?_)
  rw [fmtA_d, fmtA_a, fmtA_b, fmtA_fn]; rfl

theorem rwaitf (d : Reg) (a : Reg) : Statement (.rwaitf d a) := by
  intro sm rest hw _
  refine decode_one (w := fmtA 0x27#6 d a 0#6 0x04#8) (by unfold takesLiteral; rw [fmtA_maj]; rfl) ((decode_27 (fmtA_maj ..)).trans ?_)
  rw [fmtA_d, fmtA_a, fmtA_b, fmtA_fn]; rfl

theorem rrel (a : Reg) : Statement (.rrel a) := by
  intro sm rest hw _
  refine decode_one (w := fmtA 0x27#6 0#6 a 0#6 0x05#8) (by unfold takesLiteral; rw [fmtA_maj]; rfl) ((decode_27 (fmtA_maj ..)).trans ?_)
  rw [fmtA_d, fmtA_a, fmtA_b, fmtA_fn]; rfl

theorem rstat (d : Reg) (a : Reg) : Statement (.rstat d a) := by
  intro sm rest hw _
  refine decode_one (w := fmtA 0x27#6 d a 0#6 0x06#8) (by unfold takesLiteral; rw [fmtA_maj]; rfl) ((decode_27 (fmtA_maj ..)).trans ?_)
  rw [fmtA_d, fmtA_a, fmtA_b, fmtA_fn]; rfl

theorem trap (n : BitVec 6) : Statement (.trap n) := by
  intro sm rest hw _
  refine decode_one (w := fmtA 0x28#6 0#6 0#6 n 0x00#8) (by unfold takesLiteral; rw [fmtA_maj]; rfl) ((decode_28 (fmtA_maj ..)).trans ?_)
  rw [fmtA_d, fmtA_a, fmtA_b, fmtA_fn]; rfl

theorem brk (n : BitVec 6) : Statement (.brk n) := by
  intro sm rest hw _
  refine decode_one (w := fmtA 0x28#6 0#6 0#6 n 0x01#8) (by unfold takesLiteral; rw [fmtA_maj]; rfl) ((decode_28 (fmtA_maj ..)).trans ?_)
  rw [fmtA_d, fmtA_a, fmtA_b, fmtA_fn]; rfl

theorem eret : Statement .eret := by
  intro sm rest hw _
  refine decode_one (w := fmtA 0x28#6 0#6 0#6 0#6 0x02#8) (by unfold takesLiteral; rw [fmtA_maj]; rfl) ((decode_28 (fmtA_maj ..)).trans ?_)
  rw [fmtA_d, fmtA_a, fmtA_b, fmtA_fn]; rfl

theorem rkset (a : Reg) (i : BitVec 2) : Statement (.rkset a i) := by
  intro sm rest hw _
  refine decode_one (w := fmtA 0x28#6 0#6 a (0#4 ++ i) 0x03#8) (by unfold takesLiteral; rw [fmtA_maj]; rfl) ((decode_28 (fmtA_maj ..)).trans ?_)
  rw [fmtA_d, fmtA_a, fmtA_b, fmtA_fn]; unfold decodeSysi; rw [flagField_enc, flagZero_enc]; rfl

theorem ud : Statement .ud := by
  intro sm rest hw _
  refine decode_one (w := fmtA 0x28#6 0#6 0#6 0#6 0x04#8) (by unfold takesLiteral; rw [fmtA_maj]; rfl) ((decode_28 (fmtA_maj ..)).trans ?_)
  rw [fmtA_d, fmtA_a, fmtA_b, fmtA_fn]; rfl

theorem mma (d : Reg) (a : Reg) (b : Reg) (p : Pair) (k : BitVec 4) : Statement (.mma d a b p k) := by
  intro sm rest hw _
  refine decode_one (w := fmtA 0x30#6 d a b (BitVec.ofNat 4 p.val ++ k)) (by unfold takesLiteral; rw [fmtA_maj]; rfl) ((decode_30 (fmtA_maj ..)).trans ?_)
  rw [fmtA_d, fmtA_a, fmtA_b, fmtA_fn]; unfold decodeMma; rw [low_4_4, high_4_4, pairOf_enc]

theorem mmag (d : Reg) (a : Reg) (b : Reg) (p : Pair) (k : BitVec 4) : Statement (.mmag d a b p k) := by
  intro sm rest hw _
  refine decode_one (w := fmtA 0x31#6 d a b (BitVec.ofNat 4 p.val ++ k)) (by unfold takesLiteral; rw [fmtA_maj]; rfl) ((decode_31 (fmtA_maj ..)).trans ?_)
  rw [fmtA_d, fmtA_a, fmtA_b, fmtA_fn]; unfold decodeMma; rw [low_4_4, high_4_4, pairOf_enc]

theorem tzero (d : Reg) (f : Bool) : Statement (.tzero d f) := by
  intro sm rest hw _
  refine decode_one (w := fmtA 0x32#6 d 0#6 (mtlFmt f) 0x00#8) (by unfold takesLiteral; rw [fmtA_maj]; rfl) ((decode_32 (fmtA_maj ..)).trans ?_)
  rw [fmtA_d, fmtA_a, fmtA_b, fmtA_fn]; cases f <;> rfl

theorem tld (d : Reg) (a : Reg) (f : Bool) : Statement (.tld d a f) := by
  intro sm rest hw _
  refine decode_one (w := fmtA 0x32#6 d a (mtlFmt f) 0x01#8) (by unfold takesLiteral; rw [fmtA_maj]; rfl) ((decode_32 (fmtA_maj ..)).trans ?_)
  rw [fmtA_d, fmtA_a, fmtA_b, fmtA_fn]; cases f <;> rfl

theorem tst (d : Reg) (a : Reg) : Statement (.tst d a) := by
  intro sm rest hw _
  refine decode_one (w := fmtA 0x32#6 d a 0#6 0x02#8) (by unfold takesLiteral; rw [fmtA_maj]; rfl) ((decode_32 (fmtA_maj ..)).trans ?_)
  rw [fmtA_d, fmtA_a, fmtA_b, fmtA_fn]; rfl

theorem tscal (d : Reg) (a : Reg) : Statement (.tscal d a) := by
  intro sm rest hw _
  refine decode_one (w := fmtA 0x32#6 d a 0#6 0x03#8) (by unfold takesLiteral; rw [fmtA_maj]; rfl) ((decode_32 (fmtA_maj ..)).trans ?_)
  rw [fmtA_d, fmtA_a, fmtA_b, fmtA_fn]; rfl

theorem tadd (d : Reg) (a : Reg) (b : Reg) : Statement (.tadd d a b) := by
  intro sm rest hw _
  refine decode_one (w := fmtA 0x32#6 d a b 0x04#8) (by unfold takesLiteral; rw [fmtA_maj]; rfl) ((decode_32 (fmtA_maj ..)).trans ?_)
  rw [fmtA_d, fmtA_a, fmtA_b, fmtA_fn]; rfl

theorem drain (d : Reg) (a : Reg) (b : Reg) (m : DrainMode) (r : DrainRnd) (t : DrainDst) : Statement (.drain d a b m r t) := by
  intro sm rest hw _
  refine decode_one (w := fmtA 0x33#6 d a b (drainModeCode m ++ drainRndCode r ++ drainDstCode t)) (by unfold takesLiteral; rw [fmtA_maj]; rfl) ((decode_33 (fmtA_maj ..)).trans ?_)
  rw [fmtA_d, fmtA_a, fmtA_b, fmtA_fn]; cases m <;> cases r <;> cases t <;> rfl

theorem cpyTload (d : Reg) (a : Reg) (b : Reg) (l : Bool) (s : Scope) : Statement (.cpyTload d a b l s) := by
  intro sm rest hw _
  refine decode_one (w := fmtA 0x34#6 d a b (0#4 ++ boolBit l ++ scopeCode s)) (by unfold takesLiteral; rw [fmtA_maj]; rfl) ((decode_34 (fmtA_maj ..)).trans ?_)
  rw [fmtA_d, fmtA_a, fmtA_b, fmtA_fn]; cases l <;> cases s <;> rfl

theorem cpyTstore (d : Reg) (a : Reg) (b : Reg) (l : Bool) (s : Scope) : Statement (.cpyTstore d a b l s) := by
  intro sm rest hw _
  refine decode_one (w := fmtA 0x34#6 d a b (1#4 ++ boolBit l ++ scopeCode s)) (by unfold takesLiteral; rw [fmtA_maj]; rfl) ((decode_34 (fmtA_maj ..)).trans ?_)
  rw [fmtA_d, fmtA_a, fmtA_b, fmtA_fn]; cases l <;> cases s <;> rfl

theorem cpyTaddf (d : Reg) (a : Reg) (b : Reg) (l : Bool) (s : Scope) : Statement (.cpyTaddf d a b l s) := by
  intro sm rest hw _
  refine decode_one (w := fmtA 0x34#6 d a b (2#4 ++ boolBit l ++ scopeCode s)) (by unfold takesLiteral; rw [fmtA_maj]; rfl) ((decode_34 (fmtA_maj ..)).trans ?_)
  rw [fmtA_d, fmtA_a, fmtA_b, fmtA_fn]; cases l <;> cases s <;> rfl

theorem cpyLinr (d : Reg) (a : Reg) (b : Reg) (l : Bool) (s : Scope) : Statement (.cpyLinr d a b l s) := by
  intro sm rest hw _
  refine decode_one (w := fmtA 0x34#6 d a b (3#4 ++ boolBit l ++ scopeCode s)) (by unfold takesLiteral; rw [fmtA_maj]; rfl) ((decode_34 (fmtA_maj ..)).trans ?_)
  rw [fmtA_d, fmtA_a, fmtA_b, fmtA_fn]; cases l <;> cases s <;> rfl

theorem cpyGather (d : Reg) (a : Reg) (b : Reg) (l : Bool) (s : Scope) : Statement (.cpyGather d a b l s) := by
  intro sm rest hw _
  refine decode_one (w := fmtA 0x34#6 d a b (4#4 ++ boolBit l ++ scopeCode s)) (by unfold takesLiteral; rw [fmtA_maj]; rfl) ((decode_34 (fmtA_maj ..)).trans ?_)
  rw [fmtA_d, fmtA_a, fmtA_b, fmtA_fn]; cases l <;> cases s <;> rfl

theorem cpyPubl (d : Reg) (a : Reg) (b : Reg) (l : Bool) (s : Scope) : Statement (.cpyPubl d a b l s) := by
  intro sm rest hw _
  refine decode_one (w := fmtA 0x34#6 d a b (5#4 ++ boolBit l ++ scopeCode s)) (by unfold takesLiteral; rw [fmtA_maj]; rfl) ((decode_34 (fmtA_maj ..)).trans ?_)
  rw [fmtA_d, fmtA_a, fmtA_b, fmtA_fn]; cases l <;> cases s <;> rfl

theorem cpyPull (d : Reg) (a : Reg) (b : Reg) (l : Bool) (s : Scope) : Statement (.cpyPull d a b l s) := by
  intro sm rest hw _
  refine decode_one (w := fmtA 0x34#6 d a b (6#4 ++ boolBit l ++ scopeCode s)) (by unfold takesLiteral; rw [fmtA_maj]; rfl) ((decode_34 (fmtA_maj ..)).trans ?_)
  rw [fmtA_d, fmtA_a, fmtA_b, fmtA_fn]; cases l <;> cases s <;> rfl

theorem fabRwrite (d : Reg) (a : Reg) (l : Bool) : Statement (.fabRwrite d a l) := by
  intro sm rest hw _
  refine decode_one (w := fmtA 0x35#6 d a 0#6 (0#4 ++ boolBit l ++ 0#3)) (by unfold takesLiteral; rw [fmtA_maj]; rfl) ((decode_35 (fmtA_maj ..)).trans ?_)
  rw [fmtA_d, fmtA_a, fmtA_b, fmtA_fn]; cases l <;> rfl

theorem fabRread (d : Reg) (a : Reg) (l : Bool) : Statement (.fabRread d a l) := by
  intro sm rest hw _
  refine decode_one (w := fmtA 0x35#6 d a 0#6 (1#4 ++ boolBit l ++ 0#3)) (by unfold takesLiteral; rw [fmtA_maj]; rfl) ((decode_35 (fmtA_maj ..)).trans ?_)
  rw [fmtA_d, fmtA_a, fmtA_b, fmtA_fn]; cases l <;> rfl

theorem fabRadd (d : Reg) (a : Reg) (l : Bool) : Statement (.fabRadd d a l) := by
  intro sm rest hw _
  refine decode_one (w := fmtA 0x35#6 d a 0#6 (2#4 ++ boolBit l ++ 0#3)) (by unfold takesLiteral; rw [fmtA_maj]; rfl) ((decode_35 (fmtA_maj ..)).trans ?_)
  rw [fmtA_d, fmtA_a, fmtA_b, fmtA_fn]; cases l <;> rfl

theorem fabRatom (d : Reg) (a : Reg) (l : Bool) : Statement (.fabRatom d a l) := by
  intro sm rest hw _
  refine decode_one (w := fmtA 0x35#6 d a 0#6 (3#4 ++ boolBit l ++ 0#3)) (by unfold takesLiteral; rw [fmtA_maj]; rfl) ((decode_35 (fmtA_maj ..)).trans ?_)
  rw [fmtA_d, fmtA_a, fmtA_b, fmtA_fn]; cases l <;> rfl

theorem fabMcast (d : Reg) (a : Reg) (l : Bool) : Statement (.fabMcast d a l) := by
  intro sm rest hw _
  refine decode_one (w := fmtA 0x35#6 d a 0#6 (4#4 ++ boolBit l ++ 0#3)) (by unfold takesLiteral; rw [fmtA_maj]; rfl) ((decode_35 (fmtA_maj ..)).trans ?_)
  rw [fmtA_d, fmtA_a, fmtA_b, fmtA_fn]; cases l <;> rfl

theorem fabSend (d : Reg) (a : Reg) (ch : BitVec 6) (l : Bool) : Statement (.fabSend d a ch l) := by
  intro sm rest hw _
  refine decode_one (w := fmtA 0x35#6 d a ch (5#4 ++ boolBit l ++ 0#3)) (by unfold takesLiteral; rw [fmtA_maj]; rfl) ((decode_35 (fmtA_maj ..)).trans ?_)
  rw [fmtA_d, fmtA_a, fmtA_b, fmtA_fn]; cases l <;> rfl

theorem fabRecv (d : Reg) (a : Reg) (ch : BitVec 6) (l : Bool) : Statement (.fabRecv d a ch l) := by
  intro sm rest hw _
  refine decode_one (w := fmtA 0x35#6 d a ch (6#4 ++ boolBit l ++ 0#3)) (by unfold takesLiteral; rw [fmtA_maj]; rfl) ((decode_35 (fmtA_maj ..)).trans ?_)
  rw [fmtA_d, fmtA_a, fmtA_b, fmtA_fn]; cases l <;> rfl

theorem fabRfence (l : Bool) : Statement (.fabRfence l) := by
  intro sm rest hw _
  refine decode_one (w := fmtA 0x35#6 0#6 0#6 0#6 (7#4 ++ boolBit l ++ 0#3)) (by unfold takesLiteral; rw [fmtA_maj]; rfl) ((decode_35 (fmtA_maj ..)).trans ?_)
  rw [fmtA_d, fmtA_a, fmtA_b, fmtA_fn]; cases l <;> rfl

theorem copen (d : Reg) (a : Reg) (b : Reg) : Statement (.copen d a b) := by
  intro sm rest hw _
  refine decode_one (w := fmtA 0x36#6 d a b 0x00#8) (by unfold takesLiteral; rw [fmtA_maj]; rfl) ((decode_36 (fmtA_maj ..)).trans ?_)
  rw [fmtA_d, fmtA_a, fmtA_b, fmtA_fn]; rfl

theorem contrib (d : Reg) (a : Reg) (b : Reg) : Statement (.contrib d a b) := by
  intro sm rest hw _
  refine decode_one (w := fmtA 0x36#6 d a b 0x01#8) (by unfold takesLiteral; rw [fmtA_maj]; rfl) ((decode_36 (fmtA_maj ..)).trans ?_)
  rw [fmtA_d, fmtA_a, fmtA_b, fmtA_fn]; rfl

theorem cwait (d : Reg) (a : Reg) : Statement (.cwait d a) := by
  intro sm rest hw _
  refine decode_one (w := fmtA 0x36#6 d a 0#6 0x02#8) (by unfold takesLiteral; rw [fmtA_maj]; rfl) ((decode_36 (fmtA_maj ..)).trans ?_)
  rw [fmtA_d, fmtA_a, fmtA_b, fmtA_fn]; rfl

theorem cstat (d : Reg) (a : Reg) : Statement (.cstat d a) := by
  intro sm rest hw _
  refine decode_one (w := fmtA 0x36#6 d a 0#6 0x03#8) (by unfold takesLiteral; rw [fmtA_maj]; rfl) ((decode_36 (fmtA_maj ..)).trans ?_)
  rw [fmtA_d, fmtA_a, fmtA_b, fmtA_fn]; rfl

theorem cclose (a : Reg) : Statement (.cclose a) := by
  intro sm rest hw _
  refine decode_one (w := fmtA 0x36#6 0#6 a 0#6 0x04#8) (by unfold takesLiteral; rw [fmtA_maj]; rfl) ((decode_36 (fmtA_maj ..)).trans ?_)
  rw [fmtA_d, fmtA_a, fmtA_b, fmtA_fn]; rfl

theorem crepost (a : Reg) : Statement (.crepost a) := by
  intro sm rest hw _
  refine decode_one (w := fmtA 0x36#6 0#6 a 0#6 0x05#8) (by unfold takesLiteral; rw [fmtA_maj]; rfl) ((decode_36 (fmtA_maj ..)).trans ?_)
  rw [fmtA_d, fmtA_a, fmtA_b, fmtA_fn]; rfl

theorem sadv (d : Reg) (a : Reg) : Statement (.sadv d a) := by
  intro sm rest hw _
  refine decode_one (w := fmtA 0x37#6 d a 0#6 0x00#8) (by unfold takesLiteral; rw [fmtA_maj]; rfl) ((decode_37 (fmtA_maj ..)).trans ?_)
  rw [fmtA_d, fmtA_a, fmtA_b, fmtA_fn]; rfl

theorem swait (d : Reg) (a : Reg) : Statement (.swait d a) := by
  intro sm rest hw _
  refine decode_one (w := fmtA 0x37#6 d a 0#6 0x01#8) (by unfold takesLiteral; rw [fmtA_maj]; rfl) ((decode_37 (fmtA_maj ..)).trans ?_)
  rw [fmtA_d, fmtA_a, fmtA_b, fmtA_fn]; rfl

theorem speer (d : Reg) (a : Reg) (b : Reg) : Statement (.speer d a b) := by
  intro sm rest hw _
  refine decode_one (w := fmtA 0x37#6 d a b 0x02#8) (by unfold takesLiteral; rw [fmtA_maj]; rfl) ((decode_37 (fmtA_maj ..)).trans ?_)
  rw [fmtA_d, fmtA_a, fmtA_b, fmtA_fn]; rfl

theorem smin (d : Reg) (a : Reg) : Statement (.smin d a) := by
  intro sm rest hw _
  refine decode_one (w := fmtA 0x37#6 d a 0#6 0x03#8) (by unfold takesLiteral; rw [fmtA_maj]; rfl) ((decode_37 (fmtA_maj ..)).trans ?_)
  rw [fmtA_d, fmtA_a, fmtA_b, fmtA_fn]; rfl

theorem sabs (d : Reg) (a : Reg) (b : Reg) : Statement (.sabs d a b) := by
  intro sm rest hw _
  refine decode_one (w := fmtA 0x37#6 d a b 0x04#8) (by unfold takesLiteral; rw [fmtA_maj]; rfl) ((decode_37 (fmtA_maj ..)).trans ?_)
  rw [fmtA_d, fmtA_a, fmtA_b, fmtA_fn]; rfl

theorem slead (d : Reg) (a : Reg) : Statement (.slead d a) := by
  intro sm rest hw _
  refine decode_one (w := fmtA 0x37#6 d a 0#6 0x05#8) (by unfold takesLiteral; rw [fmtA_maj]; rfl) ((decode_37 (fmtA_maj ..)).trans ?_)
  rw [fmtA_d, fmtA_a, fmtA_b, fmtA_fn]; rfl

theorem emit (a : Reg) (b : Reg) : Statement (.emit a b) := by
  intro sm rest hw _
  refine decode_one (w := fmtA 0x38#6 0#6 a b 0x00#8) (by unfold takesLiteral; rw [fmtA_maj]; rfl) ((decode_38 (fmtA_maj ..)).trans ?_)
  rw [fmtA_d, fmtA_a, fmtA_b, fmtA_fn]; rfl

theorem emitw (d : Reg) (a : Reg) (b : Reg) : Statement (.emitw d a b) := by
  intro sm rest hw _
  refine decode_one (w := fmtA 0x38#6 d a b 0x01#8) (by unfold takesLiteral; rw [fmtA_maj]; rfl) ((decode_38 (fmtA_maj ..)).trans ?_)
  rw [fmtA_d, fmtA_a, fmtA_b, fmtA_fn]; rfl

theorem qstat (d : Reg) (a : Reg) : Statement (.qstat d a) := by
  intro sm rest hw _
  refine decode_one (w := fmtA 0x38#6 d a 0#6 0x02#8) (by unfold takesLiteral; rw [fmtA_maj]; rfl) ((decode_38 (fmtA_maj ..)).trans ?_)
  rw [fmtA_d, fmtA_a, fmtA_b, fmtA_fn]; rfl

theorem depth (d : Reg) (a : Reg) : Statement (.depth d a) := by
  intro sm rest hw _
  refine decode_one (w := fmtA 0x38#6 d a 0#6 0x03#8) (by unfold takesLiteral; rw [fmtA_maj]; rfl) ((decode_38 (fmtA_maj ..)).trans ?_)
  rw [fmtA_d, fmtA_a, fmtA_b, fmtA_fn]; rfl

theorem bundleFormation (plot : Nat) : Statement (.bundleFormation plot) := fun _ _ _ h => absurd rfl h

theorem agePromotion (plot : Nat) (addr : Word) : Statement (.agePromotion plot addr) := fun _ _ _ h => absurd rfl h

theorem loadDataLands (plot : Nat) (who : Who) (i : Nat) : Statement (.loadDataLands plot who i) := fun _ _ _ h => absurd rfl h

theorem storePerformed (plot : Nat) (who : Who) (i : Nat) : Statement (.storePerformed plot who i) := fun _ _ _ h => absurd rfl h

theorem rendezvousTimeout (plot : Nat) (cohort : BitVec 4) : Statement (.rendezvousTimeout plot cohort) := fun _ _ _ h => absurd rfl h

theorem regrouperRelease (plot : Nat) (addr : Word) : Statement (.regrouperRelease plot addr) := fun _ _ _ h => absurd rfl h

theorem exileWaitExpiry (plot : Nat) (addr : Word) : Statement (.exileWaitExpiry plot addr) := fun _ _ _ h => absurd rfl h

theorem regrouperMove (plot : Nat) : Statement (.regrouperMove plot) := fun _ _ _ h => absurd rfl h

theorem reorderTimeout (plot : Nat) : Statement (.reorderTimeout plot) := fun _ _ _ h => absurd rfl h

theorem trapDelivery (plot : Nat) (uni : Bool) : Statement (.trapDelivery plot uni) := fun _ _ _ h => absurd rfl h

theorem launchCompletion (launch : Nat) : Statement (.launchCompletion launch) := fun _ _ _ h => absurd rfl h

theorem plotPlacement (pav : Nat) (beds : List Nat) : Statement (.plotPlacement pav beds) := fun _ _ _ h => absurd rfl h

theorem doorbell (ctx q : Nat) (wi : Word) : Statement (.doorbell ctx q wi) := fun _ _ _ h => absurd rfl h

theorem packetNop (ctx q : Nat) : Statement (.packetNop ctx q) := fun _ _ _ h => absurd rfl h

theorem launch (ctx q : Nat) : Statement (.launch ctx q) := fun _ _ _ h => absurd rfl h

theorem trellis (ctx q : Nat) : Statement (.trellis ctx q) := fun _ _ _ h => absurd rfl h

theorem signal (ctx q : Nat) : Statement (.signal ctx q) := fun _ _ _ h => absurd rfl h

theorem waitsig (ctx q : Nat) : Statement (.waitsig ctx q) := fun _ _ _ h => absurd rfl h

theorem waitsigPoll (ctx q : Nat) : Statement (.waitsigPoll ctx q) := fun _ _ _ h => absurd rfl h

theorem bufdep (ctx q : Nat) : Statement (.bufdep ctx q) := fun _ _ _ h => absurd rfl h

theorem viewreg (ctx q : Nat) : Statement (.viewreg ctx q) := fun _ _ _ h => absurd rfl h

theorem viewRemoveEffect (region : Nat) : Statement (.viewRemoveEffect region) := fun _ _ _ h => absurd rfl h

theorem verreg (ctx q : Nat) : Statement (.verreg ctx q) := fun _ _ _ h => absurd rfl h

theorem collreg (ctx q : Nat) : Statement (.collreg ctx q) := fun _ _ _ h => absurd rfl h

theorem rkinit (ctx q : Nat) : Statement (.rkinit ctx q) := fun _ _ _ h => absurd rfl h

theorem repair (ctx q : Nat) : Statement (.repair ctx q) := fun _ _ _ h => absurd rfl h

theorem budgetPeriod (activity : Nat) : Statement (.budgetPeriod activity) := fun _ _ _ h => absurd rfl h

theorem queueAgeExpiry (handle stage : Nat) : Statement (.queueAgeExpiry handle stage) := fun _ _ _ h => absurd rfl h

theorem stageGroupStart (handle stage pav bed : Nat) : Statement (.stageGroupStart handle stage pav bed) := fun _ _ _ h => absurd rfl h

theorem emitwTimeout (plot : Nat) (who : Who) : Statement (.emitwTimeout plot who) := fun _ _ _ h => absurd rfl h

theorem trellisCompletion (handle : Nat) : Statement (.trellisCompletion handle) := fun _ _ _ h => absurd rfl h

theorem runaheadLimit (plot : Nat) : Statement (.runaheadLimit plot) := fun _ _ _ h => absurd rfl h

theorem plotPark (plot : Nat) : Statement (.plotPark plot) := fun _ _ _ h => absurd rfl h

theorem pageRequestResponse (pasid group : Nat) (r : PrgResponse) : Statement (.pageRequestResponse pasid group r) := fun _ _ _ h => absurd rfl h

theorem plotReturn (plot bed : Nat) : Statement (.plotReturn plot bed) := fun _ _ _ h => absurd rfl h

theorem atsTranslationCompletion (req : Nat) (r : AtsResult) : Statement (.atsTranslationCompletion req r) := fun _ _ _ h => absurd rfl h

theorem atsInvalidateRequest (itag pasid : Nat) (everyPasid : Bool) (va : DWord) (log2 : Nat) : Statement (.atsInvalidateRequest itag pasid everyPasid va log2) := fun _ _ _ h => absurd rfl h

theorem invalidateCompletion (itag : Nat) : Statement (.invalidateCompletion itag) := fun _ _ _ h => absurd rfl h

theorem copyChunkDelivered (plot op chunk : Nat) : Statement (.copyChunkDelivered plot op chunk) := fun _ _ _ h => absurd rfl h

theorem matrixOpComplete (plot : Nat) : Statement (.matrixOpComplete plot) := fun _ _ _ h => absurd rfl h

theorem rwriteRequest (h : FabHdr) (addr : DWord) (data : List Byte) : Statement (.rwriteRequest h addr data) := fun _ _ _ h => absurd rfl h

theorem rreadRequest (h : FabHdr) (addr : DWord) (n : Nat) : Statement (.rreadRequest h addr n) := fun _ _ _ h => absurd rfl h

theorem raddRequest (h : FabHdr) (addr : DWord) (fmt : BitVec 4) (data : List Byte) : Statement (.raddRequest h addr fmt data) := fun _ _ _ h => absurd rfl h

theorem ratomRequest (h : FabHdr) (addr : DWord) (op : BitVec 4) (n : Nat) (b c : DWord) : Statement (.ratomRequest h addr op n b c) := fun _ _ _ h => absurd rfl h

theorem mcastRequest (h : FabHdr) (addr : DWord) (data : List Byte) : Statement (.mcastRequest h addr data) := fun _ _ _ h => absurd rfl h

theorem sendMessage (h : FabHdr) (ch : BitVec 6) (data : List Byte) : Statement (.sendMessage h ch data) := fun _ _ _ h => absurd rfl h

theorem relayForward (src dst : Nat) (msg : List Byte) : Statement (.relayForward src dst msg) := fun _ _ _ h => absurd rfl h

theorem fabricReply (tag : BitVec 12) (gen : BitVec 4) (r : ReplyBody) : Statement (.fabricReply tag gen r) := fun _ _ _ h => absurd rfl h

theorem receiverNotReadyReply (tag : BitVec 12) (gen : BitVec 4) : Statement (.receiverNotReadyReply tag gen) := fun _ _ _ h => absurd rfl h

theorem closedReply (tag : BitVec 12) (gen : BitVec 4) : Statement (.closedReply tag gen) := fun _ _ _ h => absurd rfl h

theorem requestRetryTimeout (tag : BitVec 12) : Statement (.requestRetryTimeout tag) := fun _ _ _ h => absurd rfl h

theorem backoffExpiry (tag : BitVec 12) : Statement (.backoffExpiry tag) := fun _ _ _ h => absurd rfl h

theorem dedupMemoryExpiry (src : Nat) (tag : BitVec 12) (gen : BitVec 4) : Statement (.dedupMemoryExpiry src tag gen) := fun _ _ _ h => absurd rfl h

theorem contributionChunk (h : FabHdr) (c : ContribHdr) (data : List Byte) : Statement (.contributionChunk h c data) := fun _ _ _ h => absurd rfl h

theorem quorumTimerExpiry (ctx handle : Nat) : Statement (.quorumTimerExpiry ctx handle) := fun _ _ _ h => absurd rfl h

theorem imageChunk (h : FabHdr) (bucket : Nat) (step : DWord) (msg : List Byte) : Statement (.imageChunk h bucket step msg) := fun _ _ _ h => absurd rfl h

theorem shortMessage (h : FabHdr) (bucket : Nat) (step : DWord) : Statement (.shortMessage h bucket step) := fun _ _ _ h => absurd rfl h

theorem collEmitRetry (ctx handle : Nat) : Statement (.collEmitRetry ctx handle) := fun _ _ _ h => absurd rfl h

theorem linkLevelRetry (port : Nat) : Statement (.linkLevelRetry port) := fun _ _ _ h => absurd rfl h

theorem portFailure (port : Nat) : Statement (.portFailure port) := fun _ _ _ h => absurd rfl h

theorem stepMessage (h : FabHdr) (step : DWord) : Statement (.stepMessage h step) := fun _ _ _ h => absurd rfl h

theorem presenceSend (group : Nat) : Statement (.presenceSend group) := fun _ _ _ h => absurd rfl h

theorem presenceMessage (h : FabHdr) : Statement (.presenceMessage h) := fun _ _ _ h => absurd rfl h

theorem silenceTimerExpiry (group member : Nat) : Statement (.silenceTimerExpiry group member) := fun _ _ _ h => absurd rfl h

theorem resyncAnswer (tag : BitVec 12) (gen : BitVec 4) : Statement (.resyncAnswer tag gen) := fun _ _ _ h => absurd rfl h

theorem versionWaitTimeout (plot : Nat) (who : Who) : Statement (.versionWaitTimeout plot who) := fun _ _ _ h => absurd rfl h

theorem claim (m : Master) (nonce : DWord) (ecdsa lms : Nat) : Statement (.claim m nonce ecdsa lms) := fun _ _ _ h => absurd rfl h

theorem ctxWrite (m : Master) (cmd : Word) : Statement (.ctxWrite m cmd) := fun _ _ _ h => absurd rfl h

theorem ctxResident (m : Master) (cmd : Word) : Statement (.ctxResident m cmd) := fun _ _ _ h => absurd rfl h

theorem ctxFlags (m : Master) (cmd : Word) : Statement (.ctxFlags m cmd) := fun _ _ _ h => absurd rfl h

theorem ctxRemove (m : Master) (cmd : Word) : Statement (.ctxRemove m cmd) := fun _ _ _ h => absurd rfl h

theorem queueWrite (m : Master) (cmd : Word) : Statement (.queueWrite m cmd) := fun _ _ _ h => absurd rfl h

theorem imageLoad (m : Master) (cmd : Word) : Statement (.imageLoad m cmd) := fun _ _ _ h => absurd rfl h

theorem liveUpdate (m : Master) (cmd : Word) : Statement (.liveUpdate m cmd) := fun _ _ _ h => absurd rfl h

theorem liveUpdateSwitch : Statement .liveUpdateSwitch := fun _ _ _ h => absurd rfl h

theorem failover (m : Master) (cmd : Word) : Statement (.failover m cmd) := fun _ _ _ h => absurd rfl h

theorem statement (m : Master) (cmd : Word) : Statement (.statement m cmd) := fun _ _ _ h => absurd rfl h

theorem handoverResetComplete : Statement .handoverResetComplete := fun _ _ _ h => absurd rfl h

theorem identityLoad (m : Master) (cmd : Word) : Statement (.identityLoad m cmd) := fun _ _ _ h => absurd rfl h

theorem stage (m : Master) (cmd : Word) : Statement (.stage m cmd) := fun _ _ _ h => absurd rfl h

theorem heartbeat : Statement .heartbeat := fun _ _ _ h => absurd rfl h

theorem takeoverTimeout : Statement .takeoverTimeout := fun _ _ _ h => absurd rfl h

theorem lodgeFailureReport : Statement .lodgeFailureReport := fun _ _ _ h => absurd rfl h

theorem powerCapWrite (m : Master) (v : Word) : Statement (.powerCapWrite m v) := fun _ _ _ h => absurd rfl h

theorem budgetWrite (m : Master) (i : Fin 6) (v : Word) : Statement (.budgetWrite m i v) := fun _ _ _ h => absurd rfl h

theorem portRetrain (m : Master) (port : Nat) (v : Word) : Statement (.portRetrain m port v) := fun _ _ _ h => absurd rfl h

theorem registerWrite (m : Master) (off : Nat) (v : Word) : Statement (.registerWrite m off v) := fun _ _ _ h => absurd rfl h

theorem thermalSample (tenths : Nat) : Statement (.thermalSample tenths) := fun _ _ _ h => absurd rfl h

theorem portEventResend (port : Nat) : Statement (.portEventResend port) := fun _ _ _ h => absurd rfl h

theorem scrub (stack pa n : Nat) (found : List Nat) : Statement (.scrub stack pa n found) := fun _ _ _ h => absurd rfl h

theorem moduleReset : Statement .moduleReset := fun _ _ _ h => absurd rfl h

theorem standbyPower : Statement .standbyPower := fun _ _ _ h => absurd rfl h

theorem getVersion (m : Master) : Statement (.getVersion m) := fun _ _ _ h => absurd rfl h

theorem getCapabilities (m : Master) : Statement (.getCapabilities m) := fun _ _ _ h => absurd rfl h

theorem negotiateAlgorithms (m : Master) (supported : Bool) : Statement (.negotiateAlgorithms m supported) := fun _ _ _ h => absurd rfl h

theorem getDigests (m : Master) : Statement (.getDigests m) := fun _ _ _ h => absurd rfl h

theorem getCertificate (m : Master) (slot : Nat) : Statement (.getCertificate m slot) := fun _ _ _ h => absurd rfl h

theorem challenge (m : Master) (slot nonce : Nat) : Statement (.challenge m slot nonce) := fun _ _ _ h => absurd rfl h

theorem getMeasurements (m : Master) (index : Nat) : Statement (.getMeasurements m index) := fun _ _ _ h => absurd rfl h

theorem keyExchange (m : Master) (exchange : Nat) : Statement (.keyExchange m exchange) := fun _ _ _ h => absurd rfl h

theorem finish (m : Master) (verify : Nat) : Statement (.finish m verify) := fun _ _ _ h => absurd rfl h

theorem endSession (m : Master) : Statement (.endSession m) := fun _ _ _ h => absurd rfl h

theorem spdmUnsupportedRequest (m : Master) (code : Nat) : Statement (.spdmUnsupportedRequest m code) := fun _ _ _ h => absurd rfl h

theorem pldmSensorRequest (m : Master) (sensor : Nat) : Statement (.pldmSensorRequest m sensor) := fun _ _ _ h => absurd rfl h

theorem illegalEncoding (row : Nat) (w : Word) : Statement (.illegalEncoding row w) := fun _ _ _ h => absurd rfl h

theorem unknownOpPacket (ctx q : Nat) : Statement (.unknownOpPacket ctx q) := fun _ _ _ h => absurd rfl h

theorem deviceMemoryBarAccess (off : Nat) (n : Nat) (write : Option (List Byte)) : Statement (.deviceMemoryBarAccess off n write) := fun _ _ _ h => absurd rfl h

theorem portTrainingComplete (port : Nat) : Statement (.portTrainingComplete port) := fun _ _ _ h => absurd rfl h

theorem mainPowerOn : Statement .mainPowerOn := fun _ _ _ h => absurd rfl h

end Sys2Proof.Laws.RoundTrip
end

