-- ==== Sys2Proof/Laws/Reads.lean ====
section
/-! SUPPORT. What an access leaves of every byte that it does not write: fills, drains, landing loads and performing stores. -/

namespace Sys2Proof.Machine
open Sys2Proof

theorem modPav_wtq {s : State} {n : Nat} {f : Pavilion → Pavilion} (hf : ∀ v, (f v).num = v.num) (hw : ∀ v, (f v).wtq = v.wtq) :
    ((s.modPav n f).pav n).wtq = (s.pav n).wtq := by
  by_cases hn : n < 320
  · rw [pav_modPav s f hf hn, hw]
  · have : s.modPav n f = s := by
      unfold State.modPav State.setPav
      refine if_pos ?_
      rw [hf, pav_num]; omega
    rw [this]

theorem l1Update_wtq (s : State) (pav pa : Nat) (data : List Byte) : ((s.l1Update pav pa data).pav pav).wtq = (s.pav pav).wtq :=
  modPav_wtq (f := fun v =>
    { v with l1 := v.l1.map (fun x => { x with data := (overlay (x.addr * 128) x.data (WtEntry.mk pa data)).take 128 }) })
    (fun _ => rfl) (fun _ => rfl)

/-- Two drains of an empty queue. -/
theorem drains_empty {s : State} {n : Nat} (h : (s.pav n).wtq = []) (a b : Nat) :
    ∃ l, (s.drainLine n a).drainLine n b = { s with pavs := l } ∧ (({ s with pavs := l } : State).pav n).wtq = [] := by
  obtain ⟨l, e, hl⟩ := drainWhere_empty h (fun e => e.meets a)
  obtain ⟨l2, e2, hl2⟩ := drainWhere_empty hl (fun e => e.meets b)
  refine ⟨l2, ?_, hl2⟩
  unfold State.drainLine
  rw [e, e2]

theorem writeDev_far {s : State} {pav pa : Nat} {data : List Byte} {sc : Scope} (hs : s.sound) (hn : nearScope sc = false)
    (hq : (s.pav pav).wtq = []) (hp : pa + data.length ≤ 2 ^ 50) :
    ∃ l m, s.writeDev pav pa data sc = { s with pavs := l, mem := m } ∧ (∀ sp, sp ≠ .dev → m.cells sp = s.mem.cells sp) ∧
      ((s.writeDev pav pa data sc).pav pav).wtq = [] ∧ (s.writeDev pav pa data sc).sound ∧
      ∀ a, a < 2 ^ 50 → (s.writeDev pav pa data sc).l2Byte a =
        if pa ≤ a ∧ a < pa + data.length then data.getD (a - pa) 0#8 else s.l2Byte a := by
  obtain ⟨l, e, hl⟩ := drains_empty hq (pa / 128) ((pa + data.length - 1) / 128)
  have hw : s.writeDev pav pa data sc = (({ s with pavs := l } : State).l2Write pa data).l1Update pav pa data := by
    unfold State.writeDev
    rw [hn, if_neg (by simp), e]
  have hs1 : ({ s with pavs := l } : State).sound := hs
  obtain ⟨d, x, b, e2⟩ := l2Write_rest ({ s with pavs := l } : State) pa data
  have hb := l2Byte_l2Write hs1 pa data
  have hso := sound_l2Write hs1 pa data
  rw [hw]
  have hq2 : ((({ s with pavs := l } : State).l2Write pa data).pav pav).wtq = [] := by rw [e2]; exact hl
  obtain ⟨l3, e3⟩ := modPav_rest (({ s with pavs := l } : State).l2Write pa data) pav (fun v =>
    { v with l1 := v.l1.map (fun x => { x with data := (overlay (x.addr * 128) x.data (WtEntry.mk pa data)).take 128 }) })
  have e3' : (({ s with pavs := l } : State).l2Write pa data).l1Update pav pa data =
    { (({ s with pavs := l } : State).l2Write pa data) with pavs := l3 } := e3
  refine ⟨l3, (({ s with pavs := l } : State).l2Write pa data).mem, ?_, ?_, ?_, ?_, ?_⟩
  · rw [e3', e2]
  · intro sp hsp
    rw [e2]
    cases sp <;> first | exact absurd rfl hsp | rfl
  · exact (l1Update_wtq ..).trans hq2
  · rw [e3']; exact hso
  · intro a ha
    rw [e3', l2Byte_pavs]
    exact hb a hp ha

theorem writeDev_near {s : State} {pav pa : Nat} {data : List Byte} {sc : Scope} (hn : nearScope sc = true) :
    ∃ l, s.writeDev pav pa data sc = { s with pavs := l } ∧
      (pav < 320 → ((s.writeDev pav pa data sc).pav pav).wtq = (s.pav pav).wtq ++ [⟨pa, data⟩]) := by
  obtain ⟨l, e⟩ := modPav_rest s pav (fun v => { v with wtq := v.wtq ++ [WtEntry.mk pa data] })
  obtain ⟨l2, e2⟩ := modPav_rest ({ s with pavs := l } : State) pav (fun v =>
    { v with l1 := v.l1.map (fun x => { x with data := (overlay (x.addr * 128) x.data (WtEntry.mk pa data)).take 128 }) })
  have hw : s.writeDev pav pa data sc = (s.modPav pav (fun v => { v with wtq := v.wtq ++ [WtEntry.mk pa data] })).l1Update pav pa data := by
    unfold State.writeDev
    rw [hn, if_pos rfl]
  refine ⟨l2, ?_, fun hp => ?_⟩
  · rw [hw, e]
    exact e2
  · rw [hw]
    refine (l1Update_wtq ..).trans ?_
    rw [pav_modPav s (fun v => { v with wtq := v.wtq ++ [WtEntry.mk pa data] }) (fun _ => rfl) hp]

/-- What a step of a pavilion's caches that changes no byte leaves. -/
def Byteless (pav : Nat) (s t : State) : Prop :=
  (∃ l x, t = { s with pavs := l, mem := { s.mem with sectors := x } }) ∧ (∀ a, t.l2Byte a = s.l2Byte a) ∧
  ((s.pav pav).wtq = [] → (t.pav pav).wtq = [])

theorem Byteless.refl (pav : Nat) (s : State) : Byteless pav s s := ⟨⟨_, _, rfl⟩, fun _ => rfl, fun h => h⟩

theorem Byteless.trans {pav : Nat} {s t u : State} (a : Byteless pav s t) (b : Byteless pav t u) : Byteless pav s u := by
  obtain ⟨⟨l, x, rfl⟩, h, h1⟩ := a
  obtain ⟨⟨l2, x2, rfl⟩, h2, h3⟩ := b
  exact ⟨⟨_, _, rfl⟩, fun q => (h2 q).trans (h q), fun z => h3 (h1 z)⟩

/-- The same, but for what the module notes of the reads of LDI. -/
def Noted (pav : Nat) (s t : State) : Prop :=
  (∃ l x f i, t = { s with pavs := l, free := f, mem := { s.mem with sectors := x, invs := i } }) ∧ (∀ a, t.l2Byte a = s.l2Byte a) ∧
  ((s.pav pav).wtq = [] → (t.pav pav).wtq = [])

theorem Byteless.noted {pav : Nat} {s t : State} (h : Byteless pav s t) : Noted pav s t := by
  obtain ⟨⟨l, x, e⟩, h1, h2⟩ := h
  exact ⟨⟨l, x, s.free, s.mem.invs, e⟩, h1, h2⟩

theorem Noted.trans {pav : Nat} {s t u : State} (a : Noted pav s t) (b : Noted pav t u) : Noted pav s u := by
  obtain ⟨⟨l, x, f, i, rfl⟩, h, h1⟩ := a
  obtain ⟨⟨l2, x2, f2, i2, rfl⟩, h2, h3⟩ := b
  exact ⟨⟨_, _, _, _, rfl⟩, fun q => (h2 q).trans (h q), fun z => h3 (h1 z)⟩

theorem noted_of (pav : Nat) (s : State) (f : Nat) (i : List Invariant) :
    Noted pav s { s with free := f, mem := { s.mem with invs := i } } := ⟨⟨_, _, _, _, rfl⟩, fun _ => rfl, fun h => h⟩

theorem Noted.refl (pav : Nat) (s : State) : Noted pav s s := noted_of pav s s.free s.mem.invs

theorem noted_stale (pav : Nat) (s : State) (k : Nat) (l : Loc) (d : List Byte) : Noted pav s (s.stale k l d).1 := by
  unfold State.stale
  simp only
  split
  · exact .refl ..
  · exact noted_of pav s _ s.mem.invs

theorem noted_staleParts (pav : Nat) (k : Nat) (l : List (Loc × Nat)) : ∀ (s : State) (d : List Byte),
    Noted pav s (s.staleParts k l d).1 := by
  induction l with
  | nil => intro s d; exact .refl ..
  | cons z l ih =>
    intro s d
    refine Noted.trans (t := (if s.mem.invs.isEmpty then (s, d.take z.2) else s.stale k z.1 (d.take z.2)).1) ?_ (ih _ _)
    split
    · exact .refl ..
    · exact noted_stale pav s k z.1 _

theorem noted_noteLdi (pav : Nat) (k : Nat) (l : List (Loc × Nat)) : ∀ (s : State) (d : List Byte), Noted pav s (s.noteLdi k l d) := by
  induction l with
  | nil => intro s d; exact .refl ..
  | cons z l ih =>
    intro s d
    refine Noted.trans (t := if _ then _ else _) ?_ (ih _ _)
    split
    · exact noted_of pav s s.free _
    · exact .refl ..

theorem byteless_l2Read (pav : Nat) (s : State) (pa n : Nat) : Byteless pav s (s.l2Read pa n).1 := by
  obtain ⟨l, e⟩ := l2Read_rest s pa n
  refine ⟨⟨s.pavs, l, e⟩, l2Byte_l2Read s pa n, fun h => ?_⟩
  rw [e]; exact h

theorem byteless_modPav (s : State) (n : Nat) (f : Pavilion → Pavilion) (hf : ∀ v, (f v).num = v.num) (hw : ∀ v, (f v).wtq = v.wtq) :
    Byteless n s (s.modPav n f) := by
  have h := modPav_wtq (s := s) (n := n) hf hw
  obtain ⟨l, e⟩ := modPav_rest s n f
  rw [e] at h ⊢
  exact ⟨⟨l, s.mem.sectors, rfl⟩, fun _ => rfl, fun z => h.trans z⟩

theorem byteless_l1Fill (s : State) (pav line : Nat) : Byteless pav s (s.l1Fill pav line) := by
  have h := byteless_l2Read pav s (line * 128) 128
  unfold State.l1Fill
  generalize s.l2Read (line * 128) 128 = r at *
  exact h.trans (byteless_modPav _ _ _ (fun _ => rfl) (fun _ => rfl))

theorem byteless_l1Need (s : State) (pav line : Nat) : Byteless pav s (s.l1Need pav line) := by
  unfold State.l1Need
  split
  · exact .refl pav s
  · exact byteless_l1Fill ..

theorem byteless_readAt {s : State} {pav : Nat} {l : Loc} {n : Nat} {sc : Scope}
    (h : l.space = .dev → nearScope sc = true ∨ (s.pav pav).wtq = []) : Byteless pav s (s.readAt pav l n sc).1 := by
  unfold State.readAt
  split
  · rename_i hd
    unfold State.readDev
    by_cases hn : nearScope sc = true
    · rw [if_pos hn]
      exact (byteless_l1Need ..).trans (byteless_l1Need ..)
    · rw [if_neg hn]
      have hq := (h hd).resolve_left hn
      obtain ⟨l2, e, hl⟩ := drains_empty hq (l.addr / 128) ((l.addr + n - 1) / 128)
      have hb : Byteless pav s ((s.drainLine pav (l.addr / 128)).drainLine pav ((l.addr + n - 1) / 128)) := by
        rw [e]; exact ⟨⟨l2, s.mem.sectors, rfl⟩, fun _ => rfl, fun _ => hl⟩
      have h1 := byteless_l2Read pav ((s.drainLine pav (l.addr / 128)).drainLine pav ((l.addr + n - 1) / 128)) l.addr n
      simp only
      generalize ((s.drainLine pav (l.addr / 128)).drainLine pav ((l.addr + n - 1) / 128)).l2Read l.addr n = r at *
      exact ((hb.trans h1).trans (byteless_l1Fill ..)).trans (byteless_l1Fill ..)
  · exact byteless_l2Read ..
  · exact .refl pav s

/-- A write to a space with a memory of its own. -/
theorem writeAt_own {s : State} {pav : Nat} {l : Loc} {data : List Byte} {sc : Scope} (h : l.space ≠ .dev ∧ l.space ≠ .path) :
    s.writeAt pav l data sc =
      ({ s with mem := s.mem.setCells l.space (cellsSet (s.mem.cells l.space) l.addr data) } : State).heal [(l, data.length)] := by
  unfold State.writeAt
  split
  · rename_i e; exact absurd e h.1
  · rename_i e; exact absurd e h.2
  · rfl

/-- What healing leaves: everything but the marks of bad bytes. -/
theorem cells_heal (s : State) (w : List (Loc × Nat)) (sp : Space) : (s.heal w).mem.cells sp = s.mem.cells sp := by
  cases sp <;> rfl

theorem owns {sp : Space} (h : sp = .host ∨ sp = .spad ∨ sp = .csp) : sp ≠ .dev ∧ sp ≠ .path ∧ sp ≠ .priv := by
  rcases h with rfl | rfl | rfl <;> decide

/-- Reads of an agent that changes but in no handler bit. -/
theorem reads_modAgent (g : Regs) (w : Who) (f : Agent → Agent) (hf : ∀ a, (f a).handler = a.handler) :
    (∀ k r, (g.modAgent w f).v k r = g.v k r) ∧ (∀ r, (g.modAgent w f).s r = g.s r) ∧ (∀ u x, (g.modAgent w f).flag u x = g.flag u x) ∧
    (g.modAgent w f).fpf = g.fpf := by
  cases w with
  | front =>
    refine ⟨fun _ _ => rfl, fun r => ?_, fun u x => ?_, rfl⟩
    · simp only [Regs.modAgent, Regs.s, hf]
    · cases u with
      | front => simp only [Regs.modAgent, Regs.flag, hf]
      | strand k => rfl
  | strand j =>
    refine ⟨fun k r => ?_, fun _ => rfl, fun u x => ?_, rfl⟩
    · simp only [Regs.modAgent, Regs.v, strand?_modStrand g j k (fun st => { st with ag := f st.ag }) (fun _ => rfl)]
      by_cases h : k = j
      · rw [if_pos h]
        cases g.strand? k with
        | none => rfl
        | some st => simp only [Option.map_some, hf]; rfl
      · rw [if_neg h]; rfl
    · cases u with
      | front => rfl
      | strand k =>
        simp only [Regs.modAgent, Regs.flag, strand?_modStrand g j k (fun st => { st with ag := f st.ag }) (fun _ => rfl)]
        by_cases h : k = j
        · rw [if_pos h]
          cases g.strand? k with
          | none => rfl
          | some st => simp only [Option.map_some, hf]; rfl
        · rw [if_neg h]; rfl

theorem reads_body {g h : Regs} (e : g.body = h.body) :
    (∀ k r, g.v k r = h.v k r) ∧ (∀ r, g.s r = h.s r) ∧ (∀ u x, g.flag u x = h.flag u x) ∧ g.fpf = h.fpf :=
  ⟨fun k r => by rw [← v_body g, e, v_body], fun r => by rw [← s_body g, e, s_body], fun u x => by rw [← flag_body g, e, flag_body],
    by have := congrArg Regs.fpf e; exact this⟩

/-- A write of host memory, SPAD or CSP changes the bytes it covers and nothing else. -/
theorem writeAt_other {s : State} {l : Loc} (pav : Nat) (data : List Byte) (sc : Scope) (hs : s.sound) (hd : l.space = .host ∨ l.space = .spad ∨ l.space = .csp) :
    let t := s.writeAt pav l data sc
    ({ t with mem := s.mem } : State) = s ∧ ∀ sp a, cellGet (t.mem.cells sp) a =
      if sp = l.space ∧ l.addr ≤ a ∧ a < l.addr + data.length then data.getD (a - l.addr) 0#8 else cellGet (s.mem.cells sp) a := by
  obtain ⟨n1, n2, n3⟩ := owns hd
  have e := writeAt_own (s := s) (pav := pav) (data := data) (sc := sc) ⟨n1, n2⟩
  intro t
  refine ⟨by show ({ (s.writeAt pav l data sc) with mem := s.mem } : State) = s; rw [e]; rfl, fun sp a => ?_⟩
  show cellGet ((s.writeAt pav l data sc).mem.cells sp) a = _
  rw [e, cells_heal]
  show cellGet ((s.mem.setCells l.space (cellsSet (s.mem.cells l.space) l.addr data)).cells sp) a = _
  rw [cells_setCells _ _ _ _ ⟨n3, n2⟩]
  by_cases h : sp = l.space
  · subst h
    rw [if_pos rfl]
    have hw : Memory.wf (s.mem.cells l.space) = true := by
      have := hs.1
      simp only [Store.wf, Bool.and_eq_true] at this
      rcases hd with h | h | h <;> rw [h]
      · exact this.1.1.2
      · exact this.1.2
      · exact this.2
    rw [cellGet_cellsSet _ _ _ hw]
    simp [unlisted]
  · rw [if_neg h, if_neg (by tauto)]

/-- What writing the parts of a store leaves. -/
theorem writeParts_frame {s : State} {pav : Nat} {sc : Scope} {l : List (Loc × List Byte)} (hs : s.sound)
    (hq : nearScope sc = true ∨ (s.pav pav).wtq = []) (hp : ∀ z ∈ l, z.1.addr + z.2.length ≤ 2 ^ 50) :
    (∃ x m, s.writeParts pav sc l = { s with pavs := x, mem := m }) ∧
    (∀ sp b, sp ≠ .dev → (∀ z ∈ l, ¬(z.1.space = sp ∧ z.1.addr ≤ b ∧ b < z.1.addr + z.2.length)) →
      cellGet ((s.writeParts pav sc l).mem.cells sp) b = cellGet (s.mem.cells sp) b) ∧
    (∀ b, b < 2 ^ 50 → (∀ z ∈ l, ¬((z.1.space = .dev ∨ z.1.space = .path) ∧ z.1.addr ≤ b ∧ b < z.1.addr + z.2.length)) →
      (s.writeParts pav sc l).l2Byte b = s.l2Byte b) := by
  induction l generalizing s with
  | nil => exact ⟨⟨_, _, rfl⟩, fun _ _ _ _ => rfl, fun _ _ _ => rfl⟩
  | cons z l ih =>
    obtain ⟨lo, data⟩ := z
    have hone : (∃ x m, s.writeAt pav lo data sc = { s with pavs := x, mem := m }) ∧ (s.writeAt pav lo data sc).sound ∧
        (nearScope sc = true ∨ ((s.writeAt pav lo data sc).pav pav).wtq = []) ∧
        (∀ sp b, sp ≠ .dev → ¬(lo.space = sp ∧ lo.addr ≤ b ∧ b < lo.addr + data.length) →
          cellGet ((s.writeAt pav lo data sc).mem.cells sp) b = cellGet (s.mem.cells sp) b) ∧
        (∀ b, b < 2 ^ 50 → ¬((lo.space = .dev ∨ lo.space = .path) ∧ lo.addr ≤ b ∧ b < lo.addr + data.length) →
          (s.writeAt pav lo data sc).l2Byte b = s.l2Byte b) := by
      by_cases hd : lo.space = .dev
      · have et : s.writeAt pav lo data sc = s.writeDev pav lo.addr data sc := by unfold State.writeAt; rw [hd]
        rw [et]
        by_cases hn : nearScope sc = true
        · obtain ⟨x, e, -⟩ := writeDev_near (s := s) (pav := pav) (pa := lo.addr) (data := data) hn
          rw [e]
          exact ⟨⟨_, _, rfl⟩, hs, .inl hn, fun _ _ _ _ => rfl, fun _ _ _ => rfl⟩
        · obtain ⟨x, m, e, h1, h2, h3, h4⟩ := writeDev_far hs (by simpa using hn) (hq.resolve_left hn) (hp (lo, data) (by simp))
          refine ⟨⟨x, m, e⟩, h3, .inr h2, fun sp b hsp _ => ?_, fun b hb hz => ?_⟩
          · rw [e]; exact congrArg (fun l => cellGet l b) (h1 sp hsp)
          · rw [h4 b hb, if_neg (fun h => hz ⟨.inl hd, h⟩)]
      · by_cases hpa : lo.space = .path
        · have et : s.writeAt pav lo data sc = s.l2Write lo.addr data := by unfold State.writeAt; rw [hpa]
          rw [et]
          obtain ⟨d, x, b, e2⟩ := l2Write_rest s lo.addr data
          have hb := l2Byte_l2Write hs lo.addr data
          refine ⟨⟨s.pavs, (s.l2Write lo.addr data).mem, by rw [e2]⟩, sound_l2Write hs lo.addr data, by rw [e2]; exact hq,
            fun sp b hsp _ => ?_, fun b hb2 hz => ?_⟩
          · rw [e2]; cases sp <;> first | exact absurd rfl hsp | rfl
          · rw [hb b (hp (lo, data) (by simp)) hb2, if_neg (fun h => hz ⟨.inr hpa, h⟩)]
        · have e := writeAt_own (s := s) (pav := pav) (data := data) (sc := sc) ⟨hd, hpa⟩
          have hsec : (s.mem.setCells lo.space (cellsSet (s.mem.cells lo.space) lo.addr data)).sectors = s.mem.sectors ∧
              (s.mem.setCells lo.space (cellsSet (s.mem.cells lo.space) lo.addr data)).dev = s.mem.dev := by
            cases hsp : lo.space <;> first | exact absurd hsp hd | exact ⟨rfl, rfl⟩
          refine ⟨⟨s.pavs, _, e⟩, ?_, ?_, fun sp b hsp hz => ?_, fun b hb _ => ?_⟩
          · rw [e]
            refine ⟨?_, ?_⟩
            · have := hs.1
              show Store.wf { (s.mem.setCells lo.space (cellsSet (s.mem.cells lo.space) lo.addr data)) with bad := _ } = true
              simp only [Store.wf, Bool.and_eq_true] at this ⊢
              obtain ⟨⟨⟨a1, a2⟩, a3⟩, a4⟩ := this
              cases hsp : lo.space <;> simp only [Store.setCells, Store.cells]
              · exact ⟨⟨⟨cellsWf_cellsSet _ _ a1, a2⟩, a3⟩, a4⟩
              · exact ⟨⟨⟨a1, cellsWf_cellsSet _ _ a2⟩, a3⟩, a4⟩
              · exact ⟨⟨⟨a1, a2⟩, cellsWf_cellsSet _ _ a3⟩, a4⟩
              · exact ⟨⟨⟨a1, a2⟩, a3⟩, cellsWf_cellsSet _ _ a4⟩
              · exact ⟨⟨⟨a1, a2⟩, a3⟩, a4⟩
              · exact ⟨⟨⟨a1, a2⟩, a3⟩, a4⟩
            · show ∀ y ∈ (s.mem.setCells lo.space (cellsSet (s.mem.cells lo.space) lo.addr data)).sectors, _
              rw [hsec.1]; exact hs.2
          · rw [e]; exact hq
          · rw [e, cells_heal]
            show cellGet ((s.mem.setCells lo.space (cellsSet (s.mem.cells lo.space) lo.addr data)).cells sp) b = _
            by_cases hpr : lo.space = .priv
            · rw [hpr]; rfl
            · rw [cells_setCells _ _ _ _ ⟨hpr, hpa⟩]
              by_cases h : sp = lo.space
              · rw [if_pos h]
                have hw : Memory.wf (s.mem.cells lo.space) = true := by
                  have := hs.1
                  simp only [Store.wf, Bool.and_eq_true] at this
                  cases hsp : lo.space
                  · exact absurd hsp hd
                  · exact this.1.1.2
                  · exact this.1.2
                  · exact this.2
                  · exact absurd hsp hpr
                  · exact absurd hsp hpa
                rw [cellGet_cellsSet _ _ _ hw, if_neg (fun z => hz ⟨h.symm, z⟩), h]
              · rw [if_neg h]
          · rw [e]
            have h3 : ∀ w : List (Loc × Nat), ((({ s with mem := s.mem.setCells lo.space (cellsSet (s.mem.cells lo.space) lo.addr data) } : State).heal w).l2Byte b) = s.l2Byte b := by
              intro w
              have : ({ s with mem := s.mem.setCells lo.space (cellsSet (s.mem.cells lo.space) lo.addr data) } : State).l2Byte b = s.l2Byte b := by
                simp only [State.l2Byte, State.sector?, State.hbmByte, hsec.1, hsec.2]
                rfl
              exact this
            exact h3 _
    obtain ⟨⟨x, m, e⟩, h1, h2, h3, h4⟩ := hone
    obtain ⟨⟨y, n, e2⟩, h5, h6⟩ := ih h1 h2 (fun z hz => hp z (by simp [hz]))
    refine ⟨⟨y, n, ?_⟩, fun sp b hsp hz => ?_, fun b hb hz => ?_⟩
    · show (s.writeAt pav lo data sc).writeParts pav sc l = _
      rw [e2, e]
    · show cellGet (((s.writeAt pav lo data sc).writeParts pav sc l).mem.cells sp) b = _
      rw [h5 sp b hsp (fun z hz' => hz z (by simp [hz'])), h3 sp b hsp (hz (lo, data) (by simp))]
    · show ((s.writeAt pav lo data sc).writeParts pav sc l).l2Byte b = _
      rw [h6 b hb (fun z hz' => hz z (by simp [hz'])), h4 b hb (hz (lo, data) (by simp))]

theorem spend_rest (s : State) (i : Fin 6) (k n : Nat) : ∃ b, (s.spend i k n).2 = { s with budgets := b } := by
  unfold State.spend
  simp only
  split <;> exact ⟨_, rfl⟩

theorem dma_rest {s s1 : State} {wr ok : Bool} {l : List (Loc × Nat)} (h : s.dma wr l = (ok, s1)) : ∃ b, s1 = { s with budgets := b } := by
  have e : s1 = (s.dma wr l).2 := by rw [h]
  rw [e]
  unfold State.dma
  simp only
  by_cases hn : (l.filter (fun x => x.1.space == .host)).foldl (fun n x => n + x.2) 0 = 0
  · rw [if_pos hn]; exact ⟨s.budgets, rfl⟩
  · rw [if_neg hn]; exact spend_rest ..

theorem quiet_modAgent {p : Plot} {w : Who} {f : Agent → Agent} (hz : Quiet p) (hm : ∀ a, (f a).mchk = a.mchk ∧ (f a).later = a.later)
    (hp : ∀ a, (f a).phase = a.phase) : Quiet (p.modRegs (fun g => g.modAgent w f)) where
  mchk u a ha := by
    by_cases h : u = w
    · subst h
      rw [show (p.modRegs (fun g => g.modAgent u f)).agent? u = _ from agent?_modAgent p.regs u f] at ha
      obtain ⟨b, hb, rfl⟩ := Option.map_eq_some_iff.1 ha
      rw [(hm b).1, (hm b).2]; exact hz.mchk u b hb
    · rw [show (p.modRegs (fun g => g.modAgent w f)).agent? u = _ from agent?_modAgent_ne p.regs w u f h] at ha
      exact hz.mchk u a ha
  gathered := gathered_modAgent (fun a h => by rw [hp]; exact h) hz.gathered

theorem front_modAgent {g : Regs} {w : Who} {f : Agent → Agent} (hp : ∀ a, (f a).phase = a.phase) :
    (g.modAgent w f).front.ag.phase = g.front.ag.phase := by
  cases w with
  | front => exact hp _
  | strand k => rfl

theorem reads_setVAt (g : Regs) (k : Nat) (d : Reg) (y : VReg) :
    (∀ j r, ¬(j = k ∧ r = d) → (g.setVAt k false d y).v j r = g.v j r) ∧ (∀ r, (g.setVAt k false d y).s r = g.s r) ∧
    (∀ u x, (g.setVAt k false d y).flag u x = g.flag u x) ∧ (g.setVAt k false d y).fpf = g.fpf := by
  have e : g.setVAt k false d y = g.modStrand k (fun st => { st with regs := st.regs.set d.toNat y d.isLt }) := by
    unfold Regs.setVAt; rw [if_neg (by simp)]
  have k1 : SameBut g (g.modStrand k (fun st => { st with regs := st.regs.set d.toNat y d.isLt })) (.strand k) [d] [] := by
    refine sameBut_modStrand (fun st => ⟨rfl, rfl, rfl, rfl, rfl, rfl, rfl, rfl⟩) (fun st n hn => ?_) (fun _ _ _ => rfl)
    have hne : d.toNat ≠ n.toNat := fun z => hn (by rw [BitVec.eq_of_toNat_eq z]; simp)
    simp [hne]
  rw [e]
  refine ⟨fun j r h => k1.v j r (fun z => h ⟨by cases z.1; rfl, by simpa using z.2⟩), fun r => k1.s r (by simp), fun u x => k1.flag u x (by simp), rfl⟩

theorem reads_setSAt (g : Regs) (d : Reg) (y : DWord) :
    (∀ j r, (g.setSAt false d y).v j r = g.v j r) ∧ (∀ r, r ≠ d → (g.setSAt false d y).s r = g.s r) ∧
    (∀ u x, (g.setSAt false d y).flag u x = g.flag u x) ∧ (g.setSAt false d y).fpf = g.fpf := by
  unfold Regs.setSAt
  split
  · exact ⟨fun _ _ => rfl, fun _ _ => rfl, fun _ _ => rfl, rfl⟩
  · rw [if_neg (by simp)]
    refine ⟨fun _ _ => rfl, fun r hr => ?_, fun u _ => by cases u <;> rfl, rfl⟩
    have hne : ¬d.toNat = r.toNat := fun z => hr (BitVec.eq_of_toNat_eq z).symm
    simp only [Regs.s]
    split
    · rfl
    · split
      · rfl
      · simp [hne]

theorem landed_cases (g : Regs) (w : Who) (l : PLoad) (v : Nat) : ∃ b : Bool, g.landed w l v false =
    if b = true then g.modAgent w (fun a => { a with loads := a.loads.filter (fun y => y.seq != l.seq) })
    else (g.modAgent w (fun a => { a with loads := a.loads.filter (fun y => y.seq != l.seq) })).writeLoaded w l.handler l.dst l.pair v :=
  ⟨_, rfl⟩

/-- What landing a load out of handler mode writes. -/
theorem reads_landed (g : Regs) (w : Who) (l : PLoad) (v : Nat) (hh : l.handler = false) :
    (∀ k r, ¬(w = .strand k ∧ (r = l.dst ∨ (l.pair = true ∧ r = regPlus l.dst 1))) → (g.landed w l v false).v k r = g.v k r) ∧
    (∀ r, ¬(w = .front ∧ r = l.dst) → (g.landed w l v false).s r = g.s r) ∧
    (∀ u f, (g.landed w l v false).flag u f = g.flag u f) ∧ (g.landed w l v false).fpf = g.fpf := by
  obtain ⟨q1, q2, q3, q4⟩ := reads_modAgent g w (fun a => { a with loads := a.loads.filter (fun y => y.seq != l.seq) }) (fun _ => rfl)
  obtain ⟨b, eb⟩ := landed_cases g w l v
  rw [eb]
  generalize g.modAgent w (fun a => { a with loads := a.loads.filter (fun y => y.seq != l.seq) }) = h at *
  split
  · exact ⟨fun k r _ => q1 k r, fun r _ => q2 r, q3, q4⟩
  · unfold Regs.writeLoaded
    have hb : ∀ d, banked l.handler d = false := by intro d; simp [banked, hh]
    cases w with
    | front =>
      obtain ⟨r1, r2, r3, r4⟩ := reads_setSAt h l.dst (BitVec.ofNat 64 v)
      simp only [hb]
      exact ⟨fun k r _ => (r1 k r).trans (q1 k r), fun r hr => (r2 r (fun z => hr ⟨by trivial, z⟩)).trans (q2 r), fun u f => (r3 u f).trans (q3 u f), r4.trans q4⟩
    | strand k =>
      obtain ⟨r1, r2, r3, r4⟩ := reads_setVAt h k l.dst ⟨BitVec.ofNat 32 v, .raw⟩
      simp only [hb]
      cases hp : l.pair with
      | false =>
        simp only [Bool.false_eq_true, if_false]
        refine ⟨fun j r hr => (r1 j r (fun z => hr ⟨by rw [z.1], .inl z.2⟩)).trans (q1 j r), fun r _ => (r2 r).trans (q2 r), fun u f => (r3 u f).trans (q3 u f), r4.trans q4⟩
      | true =>
        simp only [if_true]
        obtain ⟨z1, z2, z3, z4⟩ := reads_setVAt (h.setVAt k false l.dst ⟨BitVec.ofNat 32 v, .raw⟩) k (regPlus l.dst 1) ⟨BitVec.ofNat 32 (v / 2 ^ 32), .raw⟩
        refine ⟨fun j r hr => ?_, fun r _ => (z2 r).trans ((r2 r).trans (q2 r)), fun u f => (z3 u f).trans ((r3 u f).trans (q3 u f)), z4.trans (r4.trans q4)⟩
        exact (z1 j r (fun z => hr ⟨by rw [z.1], .inr ⟨by trivial, z.2⟩⟩)).trans ((r1 j r (fun z => hr ⟨by rw [z.1], .inl z.2⟩)).trans (q1 j r))

/-- The reads of the parts of a load change no byte. -/
theorem readParts_frame {s : State} {pav : Nat} {sc : Scope} {l : List (Loc × Nat)} (hq : (s.pav pav).wtq = []) :
    Byteless pav s (s.readParts pav sc l).1 := by
  induction l generalizing s with
  | nil => exact .refl pav s
  | cons z l ih =>
    obtain ⟨lo, n⟩ := z
    have h := byteless_readAt (s := s) (pav := pav) (l := lo) (n := n) (sc := sc) (fun _ => .inr hq)
    exact h.trans (ih (h.2.2 hq))

theorem agents_setVAt (g : Regs) (k : Nat) (b : Bool) (d : Reg) (y : VReg) :
    (∀ u, (g.setVAt k b d y).agent? u = g.agent? u) ∧ (g.setVAt k b d y).front = g.front ∧
    (g.setVAt k b d y).strands.map (fun st => st.ag) = g.strands.map (fun st => st.ag) := by
  unfold Regs.setVAt
  split
  · exact ⟨fun u => by cases u <;> rfl, rfl, rfl⟩
  · refine ⟨fun u => ?_, rfl, ?_⟩
    · cases u with
      | front => rfl
      | strand j =>
        simp only [Regs.agent?, strand?_modStrand g k j (fun st => { st with regs := st.regs.set d.toNat y d.isLt }) (fun _ => rfl)]
        split
        · cases g.strand? j <;> rfl
        · rfl
    · simp only [Regs.modStrand, modifyWhere, List.map_map]
      refine List.map_congr_left (fun st _ => ?_)
      simp only [Function.comp_apply]; split <;> rfl

theorem agents_setSAt (g : Regs) (b : Bool) (d : Reg) (y : DWord) :
    (∀ u, (g.setSAt b d y).agent? u = g.agent? u) ∧ (g.setSAt b d y).front.ag = g.front.ag ∧ (g.setSAt b d y).strands = g.strands := by
  unfold Regs.setSAt
  split
  · exact ⟨fun _ => rfl, rfl, rfl⟩
  · split
    · exact ⟨fun u => by cases u <;> rfl, rfl, rfl⟩
    · exact ⟨fun u => by cases u <;> rfl, rfl, rfl⟩

/-- A write of a load's destination changes no agent. -/
theorem agents_writeLoaded (g : Regs) (w : Who) (h : Bool) (d : Reg) (pr : Bool) (v : Nat) :
    (∀ u, (g.writeLoaded w h d pr v).agent? u = g.agent? u) ∧ (g.writeLoaded w h d pr v).front.ag = g.front.ag ∧
    (g.writeLoaded w h d pr v).strands.map (fun st => st.ag) = g.strands.map (fun st => st.ag) := by
  unfold Regs.writeLoaded
  cases w with
  | front =>
    obtain ⟨a, b, c⟩ := agents_setSAt g (banked h d) d (BitVec.ofNat 64 v)
    exact ⟨a, b, by simp only; rw [c]⟩
  | strand k =>
    simp only
    split
    · obtain ⟨a, b, c⟩ := agents_setVAt g k (banked h d) d ⟨BitVec.ofNat 32 v, .raw⟩
      obtain ⟨a2, b2, c2⟩ := agents_setVAt (g.setVAt k (banked h d) d ⟨BitVec.ofNat 32 v, .raw⟩) k (banked h (regPlus d 1)) (regPlus d 1)
        ⟨BitVec.ofNat 32 (v / 2 ^ 32), .raw⟩
      exact ⟨fun u => (a2 u).trans (a u), by rw [b2, b], c2.trans c⟩
    · obtain ⟨a, b, c⟩ := agents_setVAt g k (banked h d) d ⟨BitVec.ofNat 32 v, .raw⟩
      exact ⟨a, by rw [b], c⟩

theorem quiet_landed {p : Plot} {w : Who} {l : PLoad} {v : Nat} (hz : Quiet p) :
    Quiet (p.modRegs (fun g => g.landed w l v false)) ∧ (p.regs.landed w l v false).front.ag.phase = p.regs.front.ag.phase := by
  have h1 := quiet_modAgent (w := w) (f := fun a => { a with loads := a.loads.filter (fun y => y.seq != l.seq) }) hz (fun _ => ⟨rfl, rfl⟩) (fun _ => rfl)
  have h2 := front_modAgent (g := p.regs) (w := w) (f := fun a => { a with loads := a.loads.filter (fun y => y.seq != l.seq) }) (fun _ => rfl)
  simp only [Plot.modRegs] at h1 ⊢
  obtain ⟨b, eb⟩ := landed_cases p.regs w l v
  rw [eb]
  generalize p.regs.modAgent w (fun a => { a with loads := a.loads.filter (fun y => y.seq != l.seq) }) = h at *
  split
  · exact ⟨h1, h2⟩
  · obtain ⟨a, b, c⟩ := agents_writeLoaded h w l.handler l.dst l.pair v
    refine ⟨⟨fun u z hu => h1.mchk u z ?_, fun st hst => ?_⟩, ?_⟩
    · exact (a u).symm.trans hu
    · have : st.ag ∈ h.strands.map (fun st => st.ag) := c ▸ List.mem_map.2 ⟨st, hst, rfl⟩
      obtain ⟨y, hy, e⟩ := List.mem_map.1 this
      rw [← e]; exact h1.gathered y hy
    · rw [b]; exact h2

end Sys2Proof.Machine
end

