-- ==== Sys2Proof/Laws/Shared.lean ====
section
/-! SUPPORT. What each shared operation answers where the checks of its kind of word pass, and the frames of the operations under packets, commands
and copies. -/

namespace Sys2Proof.Machine
open Sys2Proof

theorem plots_modPav (s : State) (n : Nat) (f : Pavilion → Pavilion) : (s.modPav n f).plots = s.plots := by
  obtain ⟨l, e⟩ := modPav_rest s n f; rw [e]

theorem ids_modPav (s : State) (n : Nat) (f : Pavilion → Pavilion) : (s.modPav n f).ids = s.ids := by
  obtain ⟨l, e⟩ := modPav_rest s n f; rw [e]

theorem plots_claim (pav c : Nat) (l : List Nat) : ∀ s : State, (s.claimTiles pav c l).plots = s.plots := by
  induction l with
  | nil => intro s; rfl
  | cons k l ih =>
    intro s
    refine (ih (s.setPhysTile pav k (if (s.physTile pav k).ctx = some c then s.physTile pav k else ⟨some c, [], []⟩))).trans ?_
    exact plots_modPav ..

theorem plots_claimPart (s : State) (pav c : Nat) : (s.claimPart pav c).plots = s.plots := by
  unfold State.claimPart
  split
  · rfl
  · rw [plots_modPav]

/-- Joining an entry without a yield changes no strand that has none. -/
theorem join_fresh {g : Regs} (k : Nat) (hg : ∀ st ∈ g.strands, st.ag.yieldNext = false) :
    let h := g.join k false
    h.strands = g.strands ∧ h.front = g.front ∧ h.banks = g.banks ∧ h.fpf = g.fpf := by
  obtain ⟨h, hh, h1, h2, h3, h4⟩ := join_fields g k false
  refine ⟨h1.trans ?_, h2.trans ?_, h3.trans ?_, h4.trans ?_⟩ <;> rcases hh with rfl | rfl <;> try rfl
  simp only [Regs.modAgent, Regs.modStrand, modifyWhere]
  rw [List.map_congr_left (g := id), List.map_id]
  intro st hst
  have e : ({ st.ag with yieldNext := false } : Agent) = st.ag := by rw [← hg st hst]
  split
  · simp only [e, id]
  · rfl

theorem join_all (l : List Strand) (g : Regs) (hg : ∀ st ∈ g.strands, st.ag.yieldNext = false) :
    let h := l.foldl (fun g st => g.join st.key false) g
    h.strands = g.strands ∧ h.front = g.front ∧ h.banks = g.banks ∧ h.fpf = g.fpf := by
  induction l generalizing g with
  | nil => exact ⟨rfl, rfl, rfl, rfl⟩
  | cons st l ih =>
    obtain ⟨a, b, c, d⟩ := join_fresh st.key hg
    obtain ⟨e, f, k, m⟩ := ih (g.join st.key false) (by rw [a]; exact hg)
    exact ⟨e.trans a, f.trans b, k.trans c, m.trans d⟩

theorem find_range (n k : Nat) (f : Nat → Strand) (hf : ∀ i, (f i).key = i) (hk : k < n) :
    ((List.range n).map f).find? (fun st => st.key == k) = some (f k) := by
  rw [List.find?_map]
  have e : (fun st : Strand => st.key == k) ∘ f = fun i => i == k := by funext i; simp [hf]
  rw [e]
  have : (List.range n).find? (fun i => i == k) = some k := by
    rw [List.find?_range_eq_some]
    simp [hk]; intro j hj; omega
  rw [this]; rfl

theorem ctxs_modPav (s : State) (n : Nat) (f : Pavilion → Pavilion) : (s.modPav n f).ctxs = s.ctxs := by
  obtain ⟨l, e⟩ := modPav_rest s n f; rw [e]

theorem ctxs_lookup (s : State) (a b c : Nat) (x : AtcEntry × State) (h : s.lookup a b c = some x) : x.2.ctxs = s.ctxs := by
  unfold State.lookup at h
  split at h
  · injection h with h; subst h; exact ctxs_modPav ..
  · split at h
    · injection h with h; subst h; exact ctxs_modPav ..
    · split at h
      · injection h with h; subst h; exact ctxs_modPav ..
      · cases h

theorem ctxs_translate (s : State) (a b c d : Nat) (w : Bool) : (s.translate a b c d w).2.ctxs = s.ctxs := by
  unfold State.translate
  split
  · rename_i e s1 h
    have hl := ctxs_lookup s _ _ _ _ h
    split <;> split <;> exact hl
  · split <;> rfl

theorem ctxs_drainWhere (s : State) (n : Nat) (p : WtEntry → Bool) : (s.drainWhere n p).ctxs = s.ctxs := by
  unfold State.drainWhere
  have key : ∀ (l : List WtEntry) (s : State), (l.foldl (fun s e => s.l2Write e.addr e.data) s).ctxs = s.ctxs := by
    intro l
    induction l with
    | nil => intro s; rfl
    | cons e l ih =>
      intro s
      rw [List.foldl_cons, ih]
      obtain ⟨d, l', b', e'⟩ := l2Write_rest s e.addr e.data
      rw [e']
  simp only
  rw [key, ctxs_modPav]

theorem ctxs_l2Write (s : State) (a : Nat) (d : List Byte) : (s.l2Write a d).ctxs = s.ctxs := by
  obtain ⟨d', l', b', e'⟩ := l2Write_rest s a d
  rw [e']

theorem ctxs_engineWrite (s : State) (a : Nat) (l : Loc) (d : List Byte) : (s.engineWrite a l d).ctxs = s.ctxs := by
  have key : ∀ lo hi, ((((s.drainWhere a (fun e => e.within lo hi)).l2Write l.addr d).modPav a
      (fun v => { v with l1 := v.l1.filter (fun x => !(decide (lo ≤ x.addr) && decide (x.addr ≤ hi))) })).ctxs) = s.ctxs := by
    intro lo hi; rw [ctxs_modPav, ctxs_l2Write, ctxs_drainWhere]
  unfold State.engineWrite
  split
  · exact key ..
  · exact key ..
  · rfl

theorem ctxs_spend (s : State) (i : Fin 6) (k n : Nat) : (s.spend i k n).2.ctxs = s.ctxs := by
  unfold State.spend; simp only; split <;> rfl

theorem ctxs_dma (s : State) (w : Bool) (l : List (Loc × Nat)) : (s.dma w l).2.ctxs = s.ctxs := by
  unfold State.dma
  simp only; split
  · rfl
  · exact ctxs_spend ..

theorem ctxs_askAts (s : State) (a b c : Nat) (w : Bool) : (s.askAts a b c w).ctxs = s.ctxs := by
  unfold State.askAts
  split
  · rfl
  · split
    · rfl
    · have h := ctxs_spend s 2 0 1
      split <;> (rename_i s1 e; rw [e] at h; exact h)

theorem ctxs_sendHeld (l : List PageGroup) : ∀ s : State, (s.sendHeld l).ctxs = s.ctxs := by
  induction l with
  | nil => intro s; rfl
  | cons g l ih =>
    intro s
    unfold State.sendHeld
    split
    · rw [ih]; rfl
    · rfl

theorem ctxs_askPage (s : State) (c : Nat) (n : PageNeed) : (s.askPage c n).ctxs = s.ctxs := by
  unfold State.askPage
  split
  · rfl
  · exact ctxs_sendHeld _ _

theorem find_modifyWhere_eq {α : Type} (c : α → Bool) (f : α → α) (hf : ∀ x, c (f x) = c x) (l : List α) :
    (modifyWhere c f l).find? c = (l.find? c).map f := by
  induction l with
  | nil => rfl
  | cons y l ih =>
    simp only [modifyWhere, List.map_cons] at *
    by_cases h : c y
    · simp [h, hf]
    · simp [h, ih]

theorem ctx_modCtx (s : State) (n : Nat) (f : Context → Context) (hf : ∀ c, (f c).slot = c.slot) :
    (s.modCtx n f).ctx? n = (s.ctx? n).map f :=
  find_modifyWhere_eq _ _ (fun x => by simp only [hf]) _

theorem queue_keep {s t : State} {c q : Nat} (f : Context → Context) (h : t.ctx? c = (s.ctx? c).map f) (hf : ∀ x, (f x).queues = x.queues) :
    t.queue? c q = s.queue? c q := by
  unfold State.queue?; rw [h]
  cases s.ctx? c with
  | none => rfl
  | some x => simp [hf]

theorem queue_same {s t : State} {c q : Nat} (h : t.ctxs = s.ctxs) : t.queue? c q = s.queue? c q := by
  unfold State.queue? State.ctx?; rw [h]

theorem queue_flush (c q : Nat) (n : Nat) : ∀ s : State, (s.flushRecords c n).queue? c q = s.queue? c q := by
  induction n with
  | zero => intro s; rfl
  | succ n ih =>
    intro s
    unfold State.flushRecords
    split
    · rfl
    · rename_i x hx
      split
      · rfl
      · rename_i r rest _
        have ht := ctxs_translate s gatehousePav x.pasid (x.elog.toNat + 32 * (x.records % 64)) 32 true
        have lost : ∀ s1 : State, s1.ctxs = s.ctxs →
            ((({ s1 with xl := s1.xl.forget x.pasid (pageOf (x.elog.toNat + 32 * (x.records % 64))) } : State).modCtx c
              (fun c => { c with pending := rest })).flushRecords c n).queue? c q = s.queue? c q := by
          intro s1 h1
          rw [ih]
          refine queue_keep (fun c => { c with pending := rest }) ?_ (fun _ => rfl)
          rw [ctx_modCtx]
          · unfold State.ctx?; exact congrArg _ (congrArg _ h1)
          · exact fun _ => rfl
        simp only
        split
        · exact lost s rfl
        · split
          · rename_i l s1 h
            rw [h] at ht
            have hd := ctxs_dma s1 true [(l, 32)]
            split
            · rename_i s2 e
              rw [e] at hd
              exact queue_same (hd.trans ht)
            · rename_i s2 e
              rw [e] at hd
              rw [ih]
              refine queue_keep (fun c => { c with pending := rest, records := c.records + 1 }) ?_ (fun _ => rfl)
              show ((s2.engineWrite gatehousePav l r).modCtx c (fun c => { c with pending := rest, records := c.records + 1 })).ctx? c = _
              rw [ctx_modCtx]
              · unfold State.ctx?; rw [ctxs_engineWrite, show s2.ctxs = s.ctxs from hd.trans ht]
              · exact fun _ => rfl
          · rename_i s1 h
            rw [h] at ht
            exact queue_same ((ctxs_askAts ..).trans ht)
          · rename_i s1 h
            rw [h] at ht
            split
            · exact lost s1 ht
            · exact queue_same ((ctxs_askPage ..).trans ht)
          · rename_i z s1 _ _ _ h
            rw [h] at ht
            exact lost s1 ht

theorem queue_error {s : State} {c q op r : Nat} {w : Word} {d : Nat} {x : Queue} (h : s.queue? c q = some x) :
    ∃ y, (s.queueError c q op r w d).queue? c q = some y ∧ y.wr = x.wr := by
  unfold State.queueError State.errorRecord
  rw [h]; simp only [queue_flush]
  unfold State.queue? at h ⊢
  rw [ctx_modCtx]
  rotate_left
  · intro; rfl
  unfold State.modQueue
  rw [ctx_modCtx]
  rotate_left
  · intro; rfl
  cases hc : s.ctx? c with
  | none => rw [hc] at h; cases h
  | some k =>
    rw [hc] at h
    simp only [Option.map_some]
    rw [find_modifyWhere_eq]
    · simp only at h; rw [h]; exact ⟨_, rfl, rfl⟩
    · intro; rfl

theorem queue_mod {s : State} {c q : Nat} {x : Queue} (f : Queue → Queue) (hf : ∀ x, (f x).num = x.num) (h : s.queue? c q = some x) :
    (s.modQueue c q f).queue? c q = some (f x) := by
  unfold State.modQueue
  unfold State.queue? at h ⊢
  rw [ctx_modCtx]
  rotate_left
  · intro; rfl
  cases hc : s.ctx? c with
  | none => rw [hc] at h; cases h
  | some k =>
    rw [hc] at h
    simp only [Option.map_some]
    rw [find_modifyWhere_eq]
    · simp only at h; rw [h]; rfl
    · intro; simp only [hf]

theorem read_bell (s : State) (c q : Nat) (hc : c < 64) (hq : q < 16) (x : Queue) (h : s.queue? c q = some x) :
    s.readReg (0x10000 + 128 * c + 8 * q) = x.wr := by
  have e1 : (0x10000 + 128 * c + 8 * q - 0x10000) / 128 = c := by omega
  have e2 : (0x10000 + 128 * c + 8 * q) / 8 % 16 = q := by omega
  unfold State.readReg
  simp only
  repeat rw [if_neg (by omega)]
  rw [if_pos (by omega), if_pos (by omega), e1, e2, h]

theorem tagFault_ok {acc : Tag → Bool} {l : List (Reg × Tag)} (h : ∀ r ∈ l, acc r.2 = true) : tagFault acc l = none := by
  induction l with
  | nil => rfl
  | cons a l ih => simp [tagFault, h a (by simp), ih (fun r hr => h r (by simp [hr]))]

theorem binary_of {i : Reg → Reg → Reg → Instr} {k : Kept} {op : BinOp}
    (he : ∀ d a b s, exec (i d a b) s = runWord (i d a b) (onPlot (int3 k op d a b)) s) : Binary i k op := by
  intro s x w p d a b h ht
  rw [he, runWord_onPlot (q := p.counted.modRegs _) h]; rfl
  unfold int3
  cases w with
  | front => rfl
  | strand n =>
    have := tagFault_ok (acc := intAccepts) (l := [(a, (p.regs.v n a).tag), (b, (p.regs.v n b).tag)]) (by
      simpa [tagsOk, Regs.tagOf] using ht)
    show (match tagFault intAccepts [(a, (p.regs.v n a).tag), (b, (p.regs.v n b).tag)] with | some t => _ | none => _) = _
    rw [this]; rfl

theorem unary_of {i : Reg → Reg → Instr} {t : Tag → Tag} {op : UnOp}
    (he : ∀ d a s, exec (i d a) s = runWord (i d a) (onPlot (int2 t op d a)) s) : Unary i t op := by
  intro s x w p d a h ht
  rw [he, runWord_onPlot (q := p.counted.modRegs _) h]; rfl
  unfold int2
  cases w with
  | front => rfl
  | strand n =>
    have := tagFault_ok (acc := intAccepts) (l := [(a, (p.regs.v n a).tag)]) (by simpa [tagsOk, Regs.tagOf] using ht)
    show (match tagFault intAccepts [(a, (p.regs.v n a).tag)] with | some t => _ | none => _) = _
    rw [this]; rfl

theorem floats_of {i : Instr} {acc : Tag → Bool} {t : Tag} {srcs : List Reg} {d : Reg} {op : (Reg → Word) → Word × Fl}
    (he : ∀ s, exec i s = runWord i (onPlot (fpOp acc t srcs d op)) s) : Floats i acc t srcs d op := by
  intro s x k p h ht
  have h1 := tagFault_ok (acc := acc) (l := tagsOf p.regs k srcs) (by
    simpa [tagsOk, Regs.tagOf, tagsOf] using ht)
  have h2 : fpOp acc t srcs d op (x.cx (.strand k)) p.counted =
      fpWrite k [(d, ⟨(op (fun r => (p.regs.v k r).val)).1, t⟩)] (op (fun r => (p.regs.v k r).val)).2 p.counted := by
    show (match tagFault acc (tagsOf p.regs k srcs) with | some t => _ | none => _) = _
    rw [h1]; rfl
  by_cases hc : p.arithEnables &&& (op (fun r => (p.regs.v k r).val)).2 = 0#5
  · simp only [hc, if_true]
    rw [he]; refine runWord_onPlot h ?_
    rw [h2]
    have hf : arithRaised p.counted.arithEnables (op (fun r => (p.regs.v k r).val)).2 = false := by
      show (p.arithEnables &&& _ != 0#5) = false
      rw [hc]; rfl
    unfold fpWrite; rw [if_neg (by simp [hf])]; rfl
  · simp only [hc, if_false]
    rw [he]; refine runWord_onPlot_trap (q := p.counted) h ?_
    rw [h2]
    have hf : arithRaised p.counted.arithEnables (op (fun r => (p.regs.v k r).val)).2 = true := by
      show (p.arithEnables &&& _ != 0#5) = true
      simpa using hc
    unfold fpWrite; rw [if_pos hf]

theorem floatPairs_of {i : Instr} {acc : Tag → Bool} {t : Tag} {srcs : List Reg} {d : Reg} {op : (Reg → Word) → Word × Word × Fl}
    (he : ∀ s, exec i s = runWord i (onPlot (fpPair acc t srcs d op)) s) : FloatPairs i acc t srcs d op := by
  intro s x k p h ht
  have h1 := tagFault_ok (acc := acc) (l := tagsOf p.regs k (srcs.flatMap (fun r => [r, regPlus r 1]))) (by
    intro r hr
    simp only [tagsOf, List.mem_map] at hr
    obtain ⟨q, hq, rfl⟩ := hr
    exact ht q hq)
  have h2 : fpPair acc t srcs d op (x.cx (.strand k)) p.counted =
      fpWrite k [(d, ⟨(op (fun r => (p.regs.v k r).val)).1, t⟩), (regPlus d 1, ⟨(op (fun r => (p.regs.v k r).val)).2.1, t⟩)] (op (fun r => (p.regs.v k r).val)).2.2 p.counted := by
    show (match tagFault acc (tagsOf p.regs k (srcs.flatMap (fun r => [r, regPlus r 1]))) with | some t => _ | none => _) = _
    rw [h1]; rfl
  by_cases hc : p.arithEnables &&& (op (fun r => (p.regs.v k r).val)).2.2 = 0#5
  · simp only [hc, if_true]
    rw [he]; refine runWord_onPlot h ?_
    rw [h2]
    have hf : arithRaised p.counted.arithEnables (op (fun r => (p.regs.v k r).val)).2.2 = false := by
      show (p.arithEnables &&& _ != 0#5) = false
      rw [hc]; rfl
    unfold fpWrite; rw [if_neg (by simp [hf])]; rfl
  · simp only [hc, if_false]
    rw [he]; refine runWord_onPlot_trap (q := p.counted) h ?_
    rw [h2]
    have hf : arithRaised p.counted.arithEnables (op (fun r => (p.regs.v k r).val)).2.2 = true := by
      show (p.arithEnables &&& _ != 0#5) = true
      simpa using hc
    unfold fpWrite; rw [if_pos hf]

theorem regPlus_zero (r : Reg) : regPlus r 0 = r := by simp [regPlus]

theorem crosses_of {i : Instr} {src : List (Reg × (Tag → Bool))} {check : Plot → Nat → Option Res}
    {out : State → Plot → List Strand → List XOut × Fl}
    (hc : ∀ p k, (∀ r ∈ src, r.2 (p.regs.v k r.1).tag = true) → check p k = none)
    (ho : ∀ s x p ms, out (s.begun x) p.counted ms = out s p ms)
    (he : ∀ s, exec i s = runWord i (crossLane check out) s) : Crosses i src out := by
  intro s x k co p h ht ms y hy
  rw [he]
  refine runWord_done (t := _) h.issues ?_
  unfold crossLane rendezvous
  rw [withPlot_begun h.issues]
  show (match check p.counted k with | some r => _ | none => _) = _
  rw [hc p.counted k ht]
  show (match p.regs.lockedOf k with | none => _ | some co => _) = _
  rw [h.locked]
  show (if !allArrived (p.regs.membersOf co) k x.pc then _ else _) = _
  rw [h.arrived]
  have hf : arithRaised p.counted.arithEnables y.2 = false := by
    show (p.arithEnables &&& y.2 != 0#5) = false
    rw [hy]; rfl
  have hy' : out (s.begun x) p.counted ms = y := ho s x p ms
  show (match (if arithRaised p.counted.arithEnables (out (s.begun x) p.counted ms).2 then _ else _ : Meet) with | .hold h => _ | .trap c d v => _ | .ok s1 => _) = _
  have hm : p.counted.regs.membersOf co = ms := rfl
  simp only [hm, hy']
  rw [if_neg (by simp [hf])]
  rfl

theorem crossTags_ok {src : List (Reg × (Tag → Bool))} (p : Plot) (k : Nat) (h : ∀ r ∈ src, r.2 (p.regs.v k r.1).tag = true) :
    crossTags src p k = none := by
  induction src with
  | nil => rfl
  | cons r l ih =>
    have h1 : tagFault r.2 [(r.1, (p.regs.v k r.1).tag)] = none := by simp [tagFault, h r (by simp)]
    simp [crossTags, h1] at ih ⊢
    intro a b hab
    exact ih (fun a b hr => h (a, b) (by simp [hr])) a b hab

theorem plot_id {s : State} {id : Nat} {p : Plot} (h : s.plot? id = some p) : p.id = id := by
  have := List.find?_some h
  simpa using this

theorem verWord_begun {s : State} {i : Instr} {x : Issue} {w : Who} {p : Plot} (h : Issues s i x w p) {a : Reg}
    {put : Cx → Regs → DWord → Regs} {f : Cx → Plot → VRegion → VPage → DWord → State → State × Res} {r : VRegion}
    (hn : s.nameRange p.ctx (p.regs.wide w a).toNat = some r)
    (hb : s.entryBad r (r.pageOf (p.regs.wide w a).toNat) = none) :
    verWord a put f (x.cx w) (s.begun x) =
      f (x.cx w) p.counted r (r.entry (r.pageOf (p.regs.wide w a).toNat)) (p.regs.wide w a) (s.begun x) := by
  unfold verWord
  rw [withPlot_begun h]
  have hn' : (s.begun x).nameAt p.counted (p.regs.wide w a) = .ok r := by
    have : (s.begun x).nameRange p.ctx (p.regs.wide w a).toNat = some r := hn
    show (match (s.begun x).nameRange p.ctx (p.regs.wide w a).toNat with | some r => _ | none => _) = _
    rw [this]
  show (match (s.begun x).nameAt p.counted (p.regs.wide w a) with | .error r => _ | .ok r => _) = _
  rw [hn']
  have hb' : (s.begun x).entryBad r (r.pageOf (p.regs.wide w a).toNat) = none := hb
  show (match (s.begun x).entryBad r (r.pageOf (p.regs.wide w a).toNat) with | some l => _ | none => _) = _
  rw [hb']; rfl

theorem setV_front (g : Regs) (k : Nat) (d : Reg) (y : VReg) : (g.setV k d y).front = g.front := by
  unfold Regs.setV Regs.setVAt; split <;> [split <;> rfl; rfl]

theorem setFlag_front (g : Regs) (k : Nat) (f : BitVec 2) (b : Bool) : (g.setFlag (.strand k) f b).front = g.front := by
  simp only [Regs.setFlag]; split <;> [split <;> rfl; rfl]

theorem entryAt_ok {s : State} {p : Plot} {t : Word} {r : Rd Bool} (h : s.checkEntry p t = .ok r) :
    s.entryAt p t = if r.val || !r.notes.isEmpty then .ok r.s else .error (illegal 1 (t.setWidth 64)) := by
  unfold State.entryAt; rw [h]

theorem enters_true {r : Rd Bool} (h : r.val = true ∨ r.notes ≠ []) : (r.val || !r.notes.isEmpty) = true := by
  rcases h with h | h <;> simp [h]

theorem enters_false {r : Rd Bool} (h : ¬(r.val = true ∨ r.notes ≠ [])) : (r.val || !r.notes.isEmpty) = false := by
  simp only [not_or, not_not, Bool.not_eq_true] at h
  simp [h.1, h.2]

theorem branchNext_eq (p : Plot) (x : Issue) (w : Who) (c : Cond) (o : BitVec 22) :
    branchNext p.counted (x.cx w) c o = if condTrue p.regs w c then x.pc + (o.signExtend 32 <<< 2) else x.pc + 4#32 := rfl

theorem insertLane_perm (st : Strand) (l : List Strand) : (insertLane st l).Perm (st :: l) := by
  induction l with
  | nil => exact .refl _
  | cons y l ih =>
    simp only [insertLane]; split
    · exact .refl _
    · exact (ih.cons y).trans (.swap ..)

theorem byLane_perm (l : List Strand) : (byLane l).Perm l := by
  induction l with
  | nil => exact .refl _
  | cons y l ih => exact (insertLane_perm y (byLane l)).trans (ih.cons y)

theorem members_one {p : Plot} {iss : Issuer} {k : Nat} (hal : p.issuers iss = [.strand k]) (hi : iss = .bundle ∨ iss = .front)
    {ag : Agent} (ha : p.agent? (.strand k) = some ag) : ∃ st, p.regs.strands.filter (fun st => st.key == k) = [st] ∧ st.ag = ag := by
  rcases hi with rfl | rfl
  · simp only [Plot.issuers] at hal
    split at hal
    · simp at hal
    · rename_i b hb
      obtain ⟨st, hst, hk⟩ : ∃ st, byLane (p.regs.strands.filter (fun st => b.members.contains st.key)) = [st] ∧ st.key = k := by
        rw [List.map_eq_singleton_iff] at hal
        obtain ⟨st, h1, h2⟩ := hal
        exact ⟨st, h1, by simpa using h2⟩
      have hp := byLane_perm (p.regs.strands.filter (fun st => b.members.contains st.key))
      rw [hst] at hp
      have hf := List.perm_singleton.1 hp.symm
      have hc : b.members.contains k = true := by
        have : st ∈ p.regs.strands.filter (fun st => b.members.contains st.key) := by rw [hf]; simp
        rw [List.mem_filter] at this; rw [← hk]; exact this.2
      have hfk : p.regs.strands.filter (fun st => st.key == k) = [st] := by
        have : p.regs.strands.filter (fun st => st.key == k) =
            (p.regs.strands.filter (fun st => b.members.contains st.key)).filter (fun st => st.key == k) := by
          rw [List.filter_filter]
          apply List.filter_congr
          intro y _
          by_cases hy : y.key == k
          · have : y.key = k := by simpa using hy
            simp only [this, hc, Bool.and_true]
          · simp [hy]
        rw [this, hf]; simp [hk]
      refine ⟨st, hfk, ?_⟩
      have : p.regs.strands.find? (fun st => st.key == k) = some st := by
        rw [← List.head?_filter, hfk]; rfl
      simpa [Plot.agent?, Regs.agent?, Regs.strand?, this] using ha
  · simp [Plot.issuers] at hal

theorem filter_modifyWhere {α : Type} (c : α → Bool) (f : α → α) (hf : ∀ x, c (f x) = c x) (l : List α) :
    (modifyWhere c f l).filter c = (l.filter c).map f := by
  induction l with
  | nil => rfl
  | cons y l ih =>
    simp only [modifyWhere, List.map_cons] at *
    by_cases h : c y
    · simp [h, hf, ih]
    · simp [h, ih]

theorem brx_one {u : State} {id : Nat} {p : Plot} {c : Cond} {iss : Issuer} {k : Nat} {ag : Agent} (hal : p.issuers iss = [.strand k])
    (hi : iss = .bundle ∨ iss = .front) (hq : u.plot? id = some p.counted) (ha : p.agent? (.strand k) = some ag)
    (hcl : ag.clause.isSome = true) (t : Word) :
    divide c id [.strand k] (u.modPlot id (fun p => p.modAgent (.strand k) (fun a => { a with phase := .exiled, pc := t }))) =
      u.modPlot id (fun p => p.modRegs (fun g => g.jump (.strand k) t)) := by
  have hp : (u.modPlot id (fun p => p.modAgent (.strand k) (fun a => { a with phase := .exiled, pc := t }))).plot? id =
      some (p.counted.modAgent (.strand k) (fun a => { a with phase := .exiled, pc := t })) := by
    rw [plot?_modPlot _ _ (fun p => p.modAgent (.strand k) (fun a => { a with phase := .exiled, pc := t })) (fun _ => rfl), hq]; rfl
  obtain ⟨st, hst, hag⟩ := members_one hal hi ha
  have hk : st.key = k := by
    have : st ∈ p.regs.strands.filter (fun st => st.key == k) := by rw [hst]; simp
    rw [List.mem_filter] at this; simpa using this.2
  have hl : (p.counted.modAgent (.strand k) (fun a => { a with phase := .exiled, pc := t })).regs.strands.filter (fun st =>
      [Who.strand k].contains (.strand st.key) && st.ag.phase == .exiled && st.ag.clause.isSome) =
      [{ st with ag := { st.ag with phase := .exiled, pc := t } }] := by
    show (modifyWhere (fun st : Strand => st.key == k) _ p.regs.strands).filter _ = _
    have e := filter_modifyWhere (fun st : Strand => st.key == k) (fun st => { st with ag := { st.ag with phase := .exiled, pc := t } })
      (fun _ => rfl) p.regs.strands
    rw [hst] at e
    have e2 : (fun st : Strand => [Who.strand k].contains (.strand st.key) && st.ag.phase == .exiled && st.ag.clause.isSome) =
        (fun st => (st.ag.phase == .exiled && st.ag.clause.isSome) && (st.key == k)) := by
      funext y
      have : [Who.strand k].contains (.strand y.key) = (y.key == k) := by
        simp; rfl
      rw [this]; cases y.key == k <;> simp
    rw [e2, ← List.filter_filter, e]
    have hcl' : st.ag.clause.isSome = true := by rw [hag]; exact hcl
    simp [hcl']
  simp only [divide, hp, hl, List.filter_cons, List.filter_nil]
  have e3 : ∀ g : Regs, (g.modAgent (.strand k) (fun a => { a with phase := .exiled, pc := t })).jump (.strand k) t =
      g.jump (.strand k) t := fun g => jump_modAgent g _ t t .exiled
  rw [modPlot_twice _ _ (fun p => p.modAgent (.strand k) (fun a => { a with phase := .exiled, pc := t })) _ (fun _ => rfl)]
  congr 1; funext q
  generalize hb : condTrue _ _ _ = b
  cases b <;> simp [hk, Plot.modAgent, Plot.modRegs, e3]

theorem word32_ok {p : Plot} {w : Who} {a : Reg} (h : p.regs.zx w a >>> 32 = 0#64) (ht : tagsOk indexAccepts p.regs w [a]) :
    word32 p.counted w a = .ok ((p.regs.zx w a).setWidth 32) := by
  have e1 : high32 p.counted w a = none := by
    show (if p.regs.zx w a >>> 32 = 0#64 then _ else _) = _
    rw [if_pos h]
  have e2 : tag32 p.counted w a = none := tagFault_ok (fun r hr => by
    simp only [List.mem_singleton] at hr; subst hr; exact ht a (by simp))
  simp only [word32, e1, e2, Option.or_none]; rfl

theorem awtOff_ok {s : State} {x : Issue} {p : Plot} {w : Who} {a : Reg} {off n : Nat} (ha : p.regs.zx w a = BitVec.ofNat 64 off)
    (hlt : off < 2 ^ 32) (hm : off % n = 0) (hl : (s.spadLoc p.pav p.ctx off n).isSome = true) :
    (s.begun x).awtOff p.counted w a n = .ok off := by
  have e : (p.regs.zx w a).toNat = off := by rw [ha]; simp; omega
  have e2 : p.regs.zx w a >>> 32 = 0#64 := by
    apply BitVec.eq_of_toNat_eq; simp [Nat.shiftRight_eq_div_pow, e]; omega
  show (if p.regs.zx w a >>> 32 = 0#64 ∧ (p.regs.zx w a).toNat % n = 0 ∧ (s.spadLoc p.pav p.ctx (p.regs.zx w a).toNat n).isSome = true
    then _ else _) = _
  rw [e, if_pos ⟨e2, hm, hl⟩]; show Except.ok (p.regs.zx w a).toNat = _; rw [e]

/-- An AWT word at a word or ring that it reaches does what its effect does, and reports what it has read in error. -/
theorem awt_begun {s : State} {i : Instr} {x : Issue} {w : Who} {p : Plot} {a : Reg} {off n lo len : Nat}
    {f : Cx → Plot → Nat → State → State × Res} {u : State} {r : Res} (h : Issues s i x w p)
    (ho : (s.begun x).awtOff p.counted w a n = .ok off) (hf : f (x.cx w) p.counted off (s.begun x) = (u, r)) (hr : ∀ h, r ≠ .hold h) :
    awtWord a n lo len f (x.cx w) (s.begun x) = (u.reportSpad p.counted w 1 (off + lo) len, r) := by
  unfold awtWord
  rw [withPlot_begun h]
  show (match (s.begun x).awtOff p.counted w a n with | .error r => _ | .ok off => _) = _
  rw [ho]
  simp only [hf]
  cases r with
  | hold h => exact absurd rfl (hr h)
  | _ => rfl

theorem goes_total (p : Plot) (e f : Entry) (h : p.goesBefore f e = false) :
      match e.promoted, f.promoted with
      | some i, some j => i < j ∨ (i = j ∧ e.addr.toNat ≤ f.addr.toNat)
      | some _, none => True
      | none, some _ => False
      | none, none => p.prioOf f < p.prioOf e ∨ (p.prioOf e = p.prioOf f ∧ e.addr.toNat ≤ f.addr.toNat) := by
  unfold Plot.goesBefore at h
  revert h
  cases e.promoted <;> cases f.promoted <;> simp <;> omega

def best (p : Plot) (m : Option Entry) (e : Entry) : Option Entry :=
    match m with
    | none => some e
    | some x => if p.goesBefore e x then some e else some x

theorem goes_irrefl (p : Plot) (e : Entry) : p.goesBefore e e = false := by
  unfold Plot.goesBefore; cases e.promoted <;> simp

theorem goes_trans (p : Plot) (a b c : Entry) (h1 : p.goesBefore b a = false) (h2 : p.goesBefore c b = false) : p.goesBefore c a = false := by
  unfold Plot.goesBefore at *
  revert h1 h2
  cases a.promoted <;> cases b.promoted <;> cases c.promoted <;> simp <;> omega

theorem goes_asymm (p : Plot) (a b : Entry) (h1 : p.goesBefore b a = true) : p.goesBefore a b = false := by
  unfold Plot.goesBefore at *
  revert h1
  cases a.promoted <;> cases b.promoted <;> simp <;> omega

theorem best_fold (p : Plot) (l : List Entry) (x e : Entry) (h : l.foldl (best p) (some x) = some e) :
    (e = x ∨ e ∈ l) ∧ p.goesBefore x e = false ∧ ∀ f ∈ l, p.goesBefore f e = false := by
  induction l generalizing x with
  | nil => simp at h; subst h; exact ⟨.inl rfl, goes_irrefl p _, by simp⟩
  | cons y l ih =>
    simp only [List.foldl_cons, best] at h
    split at h
    · rename_i hy
      obtain ⟨h1, h2, h3⟩ := ih y h
      refine ⟨?_, ?_, ?_⟩
      · rcases h1 with rfl | h1 <;> simp [*]
      · exact goes_trans p e y x h2 (goes_asymm p _ _ hy)
      · intro f hf; rcases List.mem_cons.1 hf with rfl | hf
        · exact h2
        · exact h3 f hf
    · rename_i hy
      obtain ⟨h1, h2, h3⟩ := ih x h
      refine ⟨?_, h2, ?_⟩
      · rcases h1 with rfl | h1 <;> simp [*]
      · intro f hf; rcases List.mem_cons.1 hf with rfl | hf
        · exact goes_trans p e x f h2 (by simpa using hy)
        · exact h3 f hf

theorem issueTile_room {u : State} {p : Plot} {w : Who} {locks : List (Bool × Range)} (h : u.tileRoom p w locks.length) (kind : TileKind)
    (d : Nat) (s32 : Bool) : u.issueTile p.counted w kind locks d s32 = (u.tileIssued p.counted kind locks d s32, .done) := by
  obtain ⟨h1, h2, h3⟩ := h
  have h1' : p.counted.drained w = true := h1
  have h2' : decide (8 ≤ p.counted.tops.length) = false := by
    show decide (8 ≤ p.tops.length) = false
    simp; omega
  have h3' : u.lockRoom p.counted.pav locks.length = true := h3
  simp only [State.issueTile, h1', h2', h3', Bool.not_true, Bool.or_self, Bool.false_eq_true, if_false]; rfl

theorem tile_setTile (s : State) (p : Plot) (n : Nat) (t : Tile) (hp : p.pav < 320) : (s.setTile p n t).tile p n = t := by
  unfold State.setTile State.tile State.setPhysTile State.physTile
  rw [pav_modPav s (fun v => { v with tiles := (p.tiles.getD n 0, t) :: v.tiles.filter (fun x => x.1 != p.tiles.getD n 0) }) (fun _ => rfl) hp]
  simp

theorem dense_withBits (t : Tile) (f : Nat → Word) (k : Nat) (hk : k < 4096) : ((t.withBits f).dense)[k]? = some (f k) := by
  unfold Tile.dense Tile.withBits
  have key : ∀ n ≤ 4096, ∀ j < 4096, (((List.range n).filterMap (fun k => if f k = 0#32 then none else some (k, f k))).foldl
      (fun (a : Array Word) x => a.setIfInBounds x.1 x.2) (Array.replicate 4096 0#32))[j]? = some (if j < n then f j else 0#32) := by
    intro n
    induction n with
    | zero => intro _ j hj; simp [hj]
    | succ n ih =>
      intro hn j hj
      have ih' := ih (by omega) j hj
      rw [List.range_succ, List.filterMap_append, List.foldl_append]
      by_cases hz : f n = 0#32
      · simp only [List.filterMap_cons, hz, if_true, List.filterMap_nil, List.foldl_nil, ih']
        by_cases h1 : j < n
        · rw [if_pos h1, if_pos (by omega)]
        · rw [if_neg h1]
          by_cases h2 : j = n
          · subst h2; rw [if_pos (by omega), hz]
          · rw [if_neg (by omega)]
      · simp only [List.filterMap_cons, hz, if_false, List.filterMap_nil, List.foldl_cons, List.foldl_nil]
        rw [Array.getElem?_setIfInBounds]
        by_cases h2 : n = j
        · subst h2
          rw [if_pos rfl]
          have hs : n < ((List.filterMap (fun k => if f k = 0#32 then none else some (k, f k)) (List.range n)).foldl (fun (a : Array Word) x => a.setIfInBounds x.1 x.2) (Array.replicate 4096 0#32)).size := by
            rcases Nat.lt_or_ge n ((List.filterMap (fun k => if f k = 0#32 then none else some (k, f k)) (List.range n)).foldl (fun (a : Array Word) x => a.setIfInBounds x.1 x.2) (Array.replicate 4096 0#32)).size with h | h
            · exact h
            · rw [Array.getElem?_eq_none h] at ih'; simp at ih'
          rw [if_pos hs, if_pos (by omega)]
        · rw [if_neg h2, ih']
          by_cases h1 : j < n
          · rw [if_pos h1, if_pos (by omega)]
          · rw [if_neg h1, if_neg (by omega)]
  have h := key 4096 (Nat.le_refl 4096) k hk
  rw [if_pos hk] at h
  dsimp only
  rw [← h]

theorem reg32_ok {p : Plot} {w : Who} {r : Reg} (h : p.regs.zx w r >>> 32 = 0#64) : reg32 p.counted w r = .ok ((p.regs.zx w r).setWidth 32) := by
  show (if p.regs.zx w r >>> 32 = 0#64 then _ else _) = _
  rw [if_pos h]; rfl

theorem startCopy_ok {s1 : State} {p : Plot} {w : Who} {comp comp' : Completion} {job : BoxJob} (creg : DWord)
    (hc : match comp with
      | .ring o _ => ∃ n, s1.ringNeed p.counted o job = some n ∧ comp' = .ring o n ∧ s1.ringFree p.counted o n = true
      | c => comp' = c)
    (tile : Option TileKind) (h1 : p.copies.length < 32) (ht : ∀ k, tile = some k → p.tops.length < 8) :
    let c0 : CopyRec := ⟨p.nextOp, w, comp', .box job, [], 0#5, 0, false, [], [], [], s1.words⟩
    let c : CopyRec := { c0 with chunks := chunksOf (s1.piecesOf p.counted c0 job) }
    s1.lockRoom p.pav (s1.copyLocks p.counted c job).length = true →
    let t1 := s1.copyIssued p.counted c (s1.copyLocks p.counted c job) (match tile with | some k => [⟨p.nextOp + 1, k, 0, 0#5⟩] | none => [])
    ((tile = none → c.chunks ≠ []) → s1.startCopy p.counted w comp job creg tile = (t1, .done)) ∧
    (∀ q, tile = none → c.chunks = [] → t1.plot? p.id = some q →
      s1.startCopy p.counted w comp job creg tile = ((t1.writeMask q c job).endCopy q c stDone, .done)) := by
  intro c0 c h2 t1
  have e1 : decide (32 ≤ p.counted.copies.length) = false := by show decide (32 ≤ p.copies.length) = false; simp; omega
  have e4 : decide (8 ≤ (match tile with | some _ => p.counted.tops.length | none => 0)) = false := by
    cases tile with
    | none => rfl
    | some k => have := ht k rfl; show decide (8 ≤ p.tops.length) = false; simp; omega
  have e0 : (decide (32 ≤ p.counted.copies.length) || decide (8 ≤ (match tile with | some _ => p.counted.tops.length | none => 0)) ||
      !s1.lockRoom p.counted.pav (s1.copyLocks p.counted c job).length || !true) = false := by
    rw [e1, e4, show s1.lockRoom p.counted.pav (s1.copyLocks p.counted c job).length = true from h2]; rfl
  have e : s1.startCopy p.counted w comp job creg tile =
      (match t1.plot? p.id with
      | some q => (if c.chunks.isEmpty ∧ tile = none then (t1.writeMask q c job).endCopy q c stDone else t1, .done)
      | none => (t1, .done)) := by
    cases comp with
    | ring o n =>
      obtain ⟨m, h3, h4, h5⟩ := hc
      subst h4
      simp only [State.startCopy, h3, h5]
      refine (if_neg ?_).trans ?_
      · exact Bool.eq_false_iff.mp e0
      · cases tile <;> rfl
    | _ =>
      simp only at hc
      subst hc
      simp only [State.startCopy]
      refine (if_neg ?_).trans ?_
      · exact Bool.eq_false_iff.mp e0
      · cases tile <;> rfl
  refine ⟨fun h3 => ?_, fun q h4 h5 h6 => ?_⟩
  · rw [e]
    have : ¬ (c.chunks.isEmpty = true ∧ tile = none) := fun y => h3 y.2 (List.isEmpty_iff.mp y.1)
    split
    · rw [if_neg this]
    · rfl
  · rw [e, h6]
    simp only [h5, h4, List.isEmpty_nil, and_self, if_true]

theorem collWord_some {s : State} {i : Instr} {x : Issue} {p : Plot} (h : Issues s i x .front p) {a : Reg} {co : Coll}
    (hc : s.coll? p.ctx (p.regs.s a).toNat = some co) (f : Cx → Plot → Coll → State → State × Res) :
    collWord a f (x.cx .front) (s.begun x) = f (x.cx .front) p.counted co (s.begun x) := by
  unfold collWord; rw [withPlot_begun h]
  have hc' : (s.begun x).coll? p.counted.ctx (p.counted.regs.s a).toNat = some co := hc
  simp only [hc']

theorem collWord_none {s : State} {i : Instr} {x : Issue} {p : Plot} (h : Issues s i x .front p) {a : Reg}
    (hc : s.coll? p.ctx (p.regs.s a).toNat = none) (f : Cx → Plot → Coll → State → State × Res) :
    collWord a f (x.cx .front) (s.begun x) = ((s.begun x).regsOf x (fun g => g.setFlag .front 0#2 false), .done) := by
  unfold collWord; rw [withPlot_begun h]
  have hc' : (s.begun x).coll? p.counted.ctx (p.counted.regs.s a).toNat = none := hc
  simp only [hc']; rfl

theorem stepWord_ok {s : State} {i : Instr} {x : Issue} {p : Plot} (h : Issues s i x .front p) {a : Reg} {g : Group} {m : Member}
    (ha : (p.regs.s a).toNat < 8) (hg : s.group? p.ctx (p.regs.s a).toNat = some g) (hm : g.members[g.own]? = some m)
    (f : Cx → Plot → Group → Member → State → State × Res) :
    stepWord a f (x.cx .front) (s.begun x) = f (x.cx .front) p.counted g m (s.begun x) := by
  unfold stepWord; rw [withPlot_begun h]
  have e : (s.begun x).stepGroup p.counted a = .ok g := by
    have hz : (p.counted.regs.s a) >>> 3 = 0#64 := by
      show p.regs.s a >>> 3 = 0#64
      apply BitVec.eq_of_toNat_eq; simp [Nat.shiftRight_eq_div_pow]; omega
    have hg' : (s.begun x).group? p.counted.ctx ((p.counted.regs.s a).toNat % 8) = some g := by
      show s.group? p.ctx ((p.regs.s a).toNat % 8) = some g
      rw [Nat.mod_eq_of_lt ha]; exact hg
    simp only [State.stepGroup, hg', hz, if_true]
  have hm' : g.self? = some m := hm
  simp only [e, hm']

theorem advance_ok {s0 s2 : State} {k : Pk} (h : s2.canAdvance k) : s0.advance s2 k.ctx k.q = .next (s2.advanced k) := by
  obtain ⟨y, hy, hw⟩ := h
  unfold State.indexWrite at hw
  simp only [State.advance, State.advanced, State.indexWrite, hy]
  generalize State.gateWrite _ _ _ _ = z at hw ⊢
  obtain ⟨g, u⟩ := z
  simp only at hw
  subst hw
  rfl

theorem take_ok {s s1 s2 : State} {k : Pk} {op : Nat} {x : Queue} {ops : Nat → Bool} {f : Pk → State → Verdict} (h : Heads s k op x s1)
    (ho : ops op = true) (hlt : op < 11) (hf : f k s1 = .take s2) (ha : s2.canAdvance k) : takePacket k.ctx k.q ops f s = .next (s2.advanced k) := by
  obtain ⟨h1, ⟨h2, h3, h4, h4', h5⟩, h6, h7, h8, h9⟩ := h
  have h5' : (x.rd == x.wr) = false := by simpa using h5
  have h9' : ¬ (k.bits 0 8 1 = 1 ∧ x.taken ≠ []) := by rintro ⟨a, b⟩; rcases h9 with c | c; omega; exact b c
  have hk : (⟨k.ctx, k.q, k.bytes⟩ : Pk) = k := rfl
  have hlt' : ¬ 11 ≤ op := by omega
  simp only [takePacket, h1, h2, h3, h4, h4', h5', Bool.not_true, Bool.or_self, Bool.false_eq_true, if_false, h6, hk, h7, ho, hlt', h8, hf, h9', advance_ok ha]

theorem err_ok {s s1 s2 : State} {k : Pk} {op : Nat} {x : Queue} {ops : Nat → Bool} {f : Pk → State → Verdict} {r d : Nat} (h : Heads s k op x s1)
    (ho : ops op = true) (hlt : op < 11) (hf : f k s1 = .error s2 r d) :
    takePacket k.ctx k.q ops f s = .next (s2.queueError k.ctx k.q op r (BitVec.ofNat 32 (k.word 0)) d) := by
  obtain ⟨h1, ⟨h2, h3, h4, h4', h5⟩, h6, h7, h8, h9⟩ := h
  have h5' : (x.rd == x.wr) = false := by simpa using h5
  have hk : (⟨k.ctx, k.q, k.bytes⟩ : Pk) = k := rfl
  have hlt' : ¬ 11 ≤ op := by omega
  simp only [takePacket, h1, h2, h3, h4, h4', h5', Bool.not_true, Bool.or_self, Bool.false_eq_true, if_false, h6, hk, h7, ho, hlt', h8, hf]

theorem hold_ok {s s1 s2 : State} {k : Pk} {op : Nat} {x : Queue} {ops : Nat → Bool} {f : Pk → State → Verdict} (h : Heads s k op x s1)
    (ho : ops op = true) (hlt : op < 11) (hf : f k s1 = .hold s2) :
    takePacket k.ctx k.q ops f s = .next (s2.modQueue k.ctx k.q (fun x => { x with waiting := true })) := by
  obtain ⟨h1, ⟨h2, h3, h4, h4', h5⟩, h6, h7, h8, h9⟩ := h
  have h5' : (x.rd == x.wr) = false := by simpa using h5
  have hk : (⟨k.ctx, k.q, k.bytes⟩ : Pk) = k := rfl
  have hlt' : ¬ 11 ≤ op := by omega
  simp only [takePacket, h1, h2, h3, h4, h4', h5', Bool.not_true, Bool.or_self, Bool.false_eq_true, if_false, h6, hk, h7, ho, hlt', h8, hf]

theorem block_ok {s s1 : State} {ctx : Nat} {va : DWord} {n : Nat} {l : List Byte} (h : s.gateRead ctx va n = (.ok, s1, l)) (f : State → List Byte → Verdict) :
    s.block ctx va n f = f s1 l := by simp only [State.block, h]

theorem findSome_none {α β : Type} {l : List α} {f : α → Option β} (h : ∀ y ∈ l, f y = none) : l.findSome? f = none := by
  rw [List.findSome?_eq_none_iff]; exact h

theorem firstBroken_nil {l : List (Nat × Bool)} (h : ∀ y ∈ l, y.2 = false) : firstBroken l = none := by
  have : l.find? (fun x => x.2) = none := by rw [List.find?_eq_none]; intro y hy; simp [h y hy]
  simp only [firstBroken, this, Option.map_none]

theorem writeBack_rest (s : State) (x : Sector) : ∃ d, s.writeBack x = { s with mem := { s.mem with dev := d } } := by
  unfold State.writeBack
  split
  · exact ⟨_, rfl⟩
  · exact ⟨_, rfl⟩

theorem writeBacks_rest (l : List Sector) : ∀ s : State, ∃ d, l.foldl State.writeBack s = { s with mem := { s.mem with dev := d } } := by
  induction l with
  | nil => intro s; exact ⟨_, rfl⟩
  | cons x l ih =>
    intro s
    obtain ⟨d, e⟩ := writeBack_rest s x
    obtain ⟨d', e'⟩ := ih (s.writeBack x)
    exact ⟨d', by rw [List.foldl_cons, e', e]⟩

theorem placeable_gang {s : State} {g : Bool} {ok : Want → Bool} {l : Launch} (h : s.placeable g ok = some l) : l.gang = g := by
  have := List.find?_some h
  simp only [Bool.and_eq_true, beq_iff_eq] at this
  exact this.1.1.2

theorem pumpOnce_rests {s : State} {c : Coll} (h : c.rests = true) : s.pumpOnce c = none := by
  unfold Coll.rests at h
  unfold State.pumpOnce
  simp only
  split
  · rfl
  · rename_i hf
    rw [Bool.or_eq_true, Bool.and_eq_true, Bool.and_eq_true] at h
    rcases h with h | ⟨⟨h1, h2⟩, h3⟩
    · exact absurd h hf
    · rw [List.isEmpty_iff.1 h1]
      simp only [Bool.not_eq_true'] at h2 h3
      rw [if_neg (by rw [h2]; decide), if_neg (by rw [h3]; decide)]

theorem pumpColl_rests {s : State} (h : ∀ c ∈ s.colls, c.rests = true) (ctx handle : Nat) : s.pumpColl ctx handle = .ok s := by
  have key : ∀ n, s.pump ctx handle n = .ok s := by
    intro n
    cases n with
    | zero => rfl
    | succ n =>
      unfold State.pump
      cases e : s.coll? ctx handle with
      | none => rfl
      | some c =>
        have hc : c ∈ s.colls := List.mem_of_find?_eq_some e
        simp only [pumpOnce_rests (h c hc)]
  unfold State.pumpColl
  split
  · rfl
  · exact key _

theorem pumpTag_rests {s : State} (h : ∀ c ∈ s.colls, c.rests = true) (group bucket : Nat) : s.pumpTag group bucket = .ok s := by
  unfold State.pumpTag
  split
  · rfl
  · split
    · exact pumpColl_rests h ..
    · rfl

theorem goOn_rests {s : State} (h : s.rests) : s.goOn = .ok s := by
  have e1 : ∀ l : List Context, l.foldl (fun s c => s.flushRecords c.slot 65) s = s := by
    intro l
    induction l with
    | nil => rfl
    | cons c l ih =>
      have e : s.flushRecords c.slot 65 = s := by
        unfold State.flushRecords
        cases e : s.ctx? c.slot with
        | none => rfl
        | some x =>
          have hx : x ∈ s.ctxs := List.mem_of_find?_eq_some e
          simp only [h.2 x hx]
      rw [List.foldl_cons, e, ih]
  have e2 : ∀ l : List Coll, l.foldl (fun r c => match r with | .ok s => s.pumpColl c.ctx c.handle | e => e) (.ok s : Except Nat State) = .ok s := by
    intro l
    induction l with
    | nil => rfl
    | cons c l ih => rw [List.foldl_cons]; simp only [pumpColl_rests h.1]; exact ih
  unfold State.goOn
  rw [e1]
  exact e2 _

theorem serve_ok {s s1 : State} {h : FabHdr} {body : ReqBody} {a : Answer} (hn : s.remembered h = none)
    (hb : s.serveBody h.group h.member body = .ok (a, s1)) (ho : ∀ r, a = .reply r → body.once r = false) : s.serve h body = .next (s1.reply h a) := by
  simp only [State.serve, hn, hb]
  cases a with
  | reply r => simp only [ho r rfl, Bool.false_eq_true, if_false]
  | _ => rfl

theorem serve_once {s s1 : State} {h : FabHdr} {body : ReqBody} {r : ReplyBody} (hn : s.remembered h = none)
    (hb : s.serveBody h.group h.member body = .ok (.reply r, s1)) (ho : body.once r = true) :
    let l := s1.fab.applied.filter (fun x => !(x.src == h.src && x.tag == h.tag && x.gen == h.gen))
    s.serve h body = .next (State.reply { s1 with fab := { s1.fab with applied := ⟨h.src, h.tag, h.gen, r, s1.unitCycles⟩ :: l } } h (.reply r)) := by
  intro l
  simp only [State.serve, hn, hb, ho, if_true]; rfl

theorem pumped_ok {r : Except Nat State} {t : State} (h : r = .ok t) : pumped r = .next t := by rw [h]; rfl

theorem spend_eq (s : State) (i : Fin 6) (k n : Nat) : (s.spend i k n).2 = { s with budgets := (s.spend i k n).2.budgets } ∧
    ∀ j : Fin 6, j ≠ i → (s.spend i k n).2.budgets[j] = s.budgets[j] := by
  simp only [State.spend]
  split
  · refine ⟨rfl, fun j hj => ?_⟩
    have : i.val ≠ j.val := fun h => hj (Fin.ext h.symm)
    simp only [Fin.getElem_fin, Vector.getElem_set_ne _ _ this]
  · refine ⟨rfl, fun j hj => ?_⟩
    have : i.val ≠ j.val := fun h => hj (Fin.ext h.symm)
    simp only [Fin.getElem_fin, Vector.getElem_set_ne _ _ this]

/-- The firmware's work changes its budget and the lodge's clock alone. -/
theorem worked_eq (s : State) : s.worked = { s with clk := s.worked.clk, budgets := s.worked.budgets } ∧ s.worked.clk.die = s.clk.die ∧
    ∀ j : Fin 6, j ≠ 4 → s.worked.budgets[j] = s.budgets[j] := by
  have h := spend_eq s 4 0 1
  unfold State.worked
  rcases hs : s.spend 4 0 1 with ⟨b, s1⟩
  rw [hs] at h
  obtain ⟨h1, h2⟩ := h
  dsimp only at h1 h2
  have hc : s1.clk = s.clk := by rw [h1]
  cases b with
  | true => exact ⟨h1.trans (by rw [← hc]), congrArg Clocks.die hc, h2⟩
  | false =>
    dsimp only
    generalize e : (s1.budget 4).since + 1000 - s1.activeCycles = n
    have g := spend_eq ({ s1 with clk := s1.clk.passLodge (if s.mgmt.eastActive then 0 else 1) n } : State) 4 0 1
    obtain ⟨g1, g2⟩ := g
    generalize hu : (({ s1 with clk := s1.clk.passLodge (if s.mgmt.eastActive then 0 else 1) n } : State).spend 4 0 1).2 = u at g1 g2
    refine ⟨?_, ?_, fun j hj => (g2 j hj).trans (h2 j hj)⟩
    · rw [g1, h1]
    · rw [g1]; show s1.clk.die = _; rw [hc]

theorem worked_mgmt (s : State) : s.worked.mgmt = s.mgmt := by rw [(worked_eq s).1]

theorem exec_claim (m : Master) (nonce : DWord) (ek lk : Nat) (s : State) : exec (.claim m nonce ek lk) s = execClaim m nonce ek lk s := rfl

theorem takeClaim_owned {s : State} (c : Claim) (h : s.mgmt.owner ≠ none ∨ s.mgmt.moving ≠ none) : s.takeClaim c = s := by
  refine if_neg ?_
  rintro ⟨a, b, _, _⟩
  rcases h with h | h
  · exact h a
  · exact h b

theorem claims_owned {s : State} (l : List Claim) (h : s.mgmt.owner ≠ none ∨ s.mgmt.moving ≠ none) : l.foldl State.takeClaim s = s := by
  induction l with
  | nil => rfl
  | cons c l ih => rw [List.foldl_cons, takeClaim_owned c h]; exact ih

/-- Of the claims that a lodge handles, the first that passes elects its sender. -/
theorem claims_first {s : State} (l : List Claim) (h1 : s.mgmt.owner = none) (h2 : s.mgmt.moving = none) :
    l.foldl State.takeClaim s = match l.find? (fun c => c.nonce == s.mgmt.nonce && s.mgmt.allows c.m) with
      | some c => s.commitTo (s.elect c.m c.ecdsa c.lms)
      | none => s := by
  induction l with
  | nil => rfl
  | cons c l ih =>
    rw [List.foldl_cons, List.find?_cons]
    by_cases hc : c.nonce = s.mgmt.nonce ∧ s.mgmt.allows c.m = true
    · have e : (c.nonce == s.mgmt.nonce && s.mgmt.allows c.m) = true := by rw [hc.1, hc.2]; simp
      have e2 : s.takeClaim c = s.commitTo (s.elect c.m c.ecdsa c.lms) := if_pos ⟨h1, h2, hc.1, hc.2⟩
      rw [e, e2]
      exact claims_owned l (Or.inl (by show some c.m ≠ none; simp))
    · have e : (c.nonce == s.mgmt.nonce && s.mgmt.allows c.m) = false := by
        rw [Bool.eq_false_iff]; intro h; rw [Bool.and_eq_true, beq_iff_eq] at h; exact hc h
      have e2 : s.takeClaim c = s := if_neg (fun h => hc ⟨h.2.2.1, h.2.2.2⟩)
      rw [e, e2]; exact ih

theorem elected_fields (s : State) (m : Master) (ek lk : Nat) : (s.commitTo (s.elect m ek lk)).mgmt.owner = some m ∧
    (s.commitTo (s.elect m ek lk)).mgmt.keys = some (ek, lk) ∧ (s.commitTo (s.elect m ek lk)).mgmt.epoch = s.mgmt.epoch + 1#8 ∧
    (s.commitTo (s.elect m ek lk)).mgmt.nonce = Config.nonce s.free ∧
    (s.commitTo (s.elect m ek lk)).mgmt.version = s.mgmt.version + 1#64 ∧ (s.commitTo (s.elect m ek lk)).mem = s.mem ∧
    (s.commitTo (s.elect m ek lk)).ctxs = s.ctxs ∧ (s.commitTo (s.elect m ek lk)).plots = s.plots := ⟨rfl, rfl, rfl, rfl, rfl, rfl, rfl, rfl⟩

theorem worked_fields (s : State) : s.worked.free = s.free ∧ s.worked.mem = s.mem ∧ s.worked.ctxs = s.ctxs ∧ s.worked.plots = s.plots ∧
    s.worked.agenda = s.agenda := by
  rw [(worked_eq s).1]; exact ⟨rfl, rfl, rfl, rfl, rfl⟩

theorem status_fields (s : State) (w : Word) (r : Mgmt → Vector Word 3) :
    let t := s.modMgmt (fun g => { g with status := w, refused := r g })
    { t with mgmt := s.mgmt } = s ∧ t.mgmt.owner = s.mgmt.owner ∧ t.mgmt.version = s.mgmt.version ∧ t.mem = s.mem ∧ t.plots = s.plots ∧
    t.ctxs = s.ctxs ∧ t.mgmt.switching = s.mgmt.switching ∧ t.mgmt.seq = s.mgmt.seq ∧
    t.mgmt.eastActive = s.mgmt.eastActive ∧ t.mgmt.result = s.mgmt.result :=
  ⟨rfl, rfl, rfl, rfl, rfl, rfl, rfl, rfl, rfl, rfl⟩

/-- A refusal for want of ownership: MGMT_STATUS and the counter of its master. -/
theorem refuse_eq (s : State) (m : Master) (off : Nat) : s.refuse m 1 off = { s with mgmt := { s.mgmt with
    status := BitVec.ofNat 32 (2 ^ 24 + masterCode m * 2 ^ 20 + off % 2 ^ 16)
    refused := s.mgmt.refused.mapFinIdx (fun j v _ => if j + 1 = masterCode m then satInc v else v) } } := by
  unfold State.refuse State.modMgmt
  rw [show 1 % 256 * 2 ^ 24 = 2 ^ 24 by norm_num]; rfl

theorem refuse_fields (s : State) (m : Master) (code off : Nat) : (s.refuse m code off).mem = s.mem ∧ (s.refuse m code off).plots = s.plots ∧
    (s.refuse m code off).ctxs = s.ctxs ∧ (s.refuse m code off).mgmt.switching = s.mgmt.switching ∧
    (s.refuse m code off).mgmt.version = s.mgmt.version ∧ (s.refuse m code off).mgmt.seq = s.mgmt.seq ∧
    (s.refuse m code off).mgmt.eastActive = s.mgmt.eastActive ∧ (s.refuse m code off).mgmt.result = s.mgmt.result := by
  unfold State.refuse
  have h := status_fields s (BitVec.ofNat 32 (code % 256 * 2 ^ 24 + masterCode m * 2 ^ 20 + off % 2 ^ 16))
    (fun g => if code = 1 then g.refused.mapFinIdx (fun i v _ => if i + 1 = masterCode m then satInc v else v) else g.refused)
  exact ⟨h.2.2.2.1, h.2.2.2.2.1, h.2.2.2.2.2.1, h.2.2.2.2.2.2.1, h.2.2.1, h.2.2.2.2.2.2.2.1, h.2.2.2.2.2.2.2.2.1, h.2.2.2.2.2.2.2.2.2⟩

theorem endCommand_frame (s : State) (m : Master) (code : Nat) : (s.endCommand m code).mem = s.mem ∧ (s.endCommand m code).plots = s.plots ∧
    (s.endCommand m code).ctxs = s.ctxs ∧ (s.endCommand m code).mgmt.switching = s.mgmt.switching ∧
    (s.endCommand m code).mgmt.version = s.mgmt.version ∧ (s.endCommand m code).mgmt.seq = s.mgmt.seq + 1#32 ∧
    (s.endCommand m code).mgmt.eastActive = s.mgmt.eastActive ∧ (s.endCommand m code).mgmt.result = BitVec.ofNat 8 code := by
  unfold State.endCommand
  split
  · exact ⟨rfl, rfl, rfl, rfl, rfl, rfl, rfl, rfl⟩
  · exact refuse_fields (s.modMgmt (fun g => { g with seq := g.seq + 1#32, result := BitVec.ofNat 8 code })) m code 0x4000

theorem request_works {s : State} (m : Master) (f : State → Host.Outcome State Fault Refusal) (h : s.takingOver = false) :
    s.request m f = f s.worked := by unfold State.request; rw [h]; rfl

theorem request_busy {s : State} (m : Master) (f : State → Host.Outcome State Fault Refusal) (h : s.takingOver = true) :
    s.request m f = .next (s.emit (.busy m)) := if_pos h

theorem command_refused {s : State} {m : Master} {cmd : Word} {op : Nat} {f : Nat → Nat → State → Host.Outcome State Fault Refusal}
    (h1 : cmd.toNat / 2 ^ 24 = op) (h2 : s.mgmt.owner ≠ some m) (h3 : op ≠ 11) (h4 : op ≠ 12) (h5 : s.takingOver = false) :
    s.command m cmd op f = .next (s.worked.refuse m 1 0x4000) := by
  have h3' : (op == 11) = false := by simpa using h3
  have h4' : (op == 12) = false := by simpa using h4
  have h2' : s.worked.mgmt.owner ≠ some m := by rw [worked_mgmt]; exact h2
  unfold State.command
  rw [if_neg (fun h => h h1), request_works m _ h5]
  simp only [State.commanded, h2', h3', h4', decide_false, Bool.or_self, Bool.and_false, Bool.not_false, if_true]

theorem plain_refused {s : State} {m : Master} {cmd : Word} {op : Nat} {f : Nat → Nat → State → Effect}
    (h1 : cmd.toNat / 2 ^ 24 = op) (h2 : s.mgmt.owner ≠ some m) (h3 : op ≠ 11) (h4 : op ≠ 12) (h5 : s.takingOver = false) :
    plainCommand m cmd op f s = .next (s.worked.refuse m 1 0x4000) := command_refused h1 h2 h3 h4 h5

theorem command_ok {s : State} {m : Master} {cmd : Word} {op : Nat} {f : Nat → Nat → State → Host.Outcome State Fault Refusal}
    (h0 : s.takingOver = false) (h1 : s.mgmt.owner = some m) (h2 : s.mgmt.switching = false) (h3 : s.mgmt.moving = none)
    (h4 : cmd.toNat / 2 ^ 10 % 2 ^ 14 = 0) (h5 : cmd.toNat / 2 ^ 24 = op) :
    s.command m cmd op f = f (cmd.toNat % 64) (cmd.toNat / 64 % 16) s.worked := by
  have h6 : ¬ (cmd.toNat / 2 ^ 10 % 2 ^ 14 ≠ 0 ∨ s.mgmt.moving.isSome = true ∧ op ≠ 12) := by
    rw [h3]; rintro (h | ⟨h, _⟩)
    · exact h h4
    · cases h
  unfold State.command
  rw [if_neg (fun h => h h5), request_works m _ h0]
  unfold State.commanded
  rw [worked_mgmt]
  simp only [h1, h2, decide_true, Bool.true_or, Bool.not_true, Bool.false_eq_true, if_false]
  exact if_neg h6

theorem plain_ok {s : State} {m : Master} {cmd : Word} {op : Nat} {f : Nat → Nat → State → Effect}
    (h0 : s.takingOver = false) (h1 : s.mgmt.owner = some m) (h2 : s.mgmt.switching = false) (h3 : s.mgmt.moving = none)
    (h4 : cmd.toNat / 2 ^ 10 % 2 ^ 14 = 0) (h5 : cmd.toNat / 2 ^ 24 = op) :
    plainCommand m cmd op f s = .next (s.worked.closeCommand m (f (cmd.toNat % 64) (cmd.toNat / 64 % 16) s.worked)) :=
  command_ok h0 h1 h2 h3 h4 h5

/-- An entry of the memory-error log changes the management registers, and is told. -/
theorem logError_eq (s : State) (l : Loc) (k : Nat) : ∃ (g : Mgmt) (o : List Out), s.logError l k = { s with mgmt := g, out := o } ∧
    g.arg = s.mgmt.arg := ⟨_, _, rfl, rfl⟩

theorem firstBad_mgmt (s : State) (g : Mgmt) (o : List Out) (l : Loc) (n : Nat) :
    ({ s with mgmt := g, out := o } : State).firstBad l n = s.firstBad l n := rfl

theorem sourceBad_none {s : State} {l : Loc} (h : s.sourceBad = some l) : (s.logError l 0).source = none := by
  obtain ⟨g, o, e1, e2⟩ := logError_eq s l 0
  have hb : (s.logError l 0).sourceBad = s.sourceBad := by
    unfold State.sourceBad Mgmt.argNum; rw [e1]; dsimp only [firstBad_mgmt]; rw [e2]
  have hs : ¬ (s.logError l 0).mgmt.argNum 0 8 = 0 := by
    intro e
    have : (s.logError l 0).sourceBad = none := by unfold State.sourceBad; exact if_pos e
    rw [hb, h] at this; cases this
  unfold State.source
  dsimp only
  rw [if_neg hs]
  split
  · rfl
  · rw [if_pos (by rw [hb, h]; rfl)]

theorem logged_clean {s : State} (h : s.sourceBad = none) : s.sourceLogged = s := by unfold State.sourceLogged; rw [h]

theorem logged_bad {s : State} {l : Loc} (h : s.sourceBad = some l) : s.sourceLogged = s.logError l 0 := by unfold State.sourceLogged; rw [h]

theorem exec_imageLoad (m : Master) (cmd : Word) (s : State) : exec (.imageLoad m cmd) s = execImageLoad m cmd s := rfl

theorem exec_statement (m : Master) (cmd : Word) (s : State) : exec (.statement m cmd) s = execStatement m cmd s := rfl

theorem exec_identityLoad (m : Master) (cmd : Word) (s : State) : exec (.identityLoad m cmd) s = execIdentityLoad m cmd s := rfl

/-- A field of the newest bank: of two, the one with the later version. -/
theorem newest_of (l : List (Option Bank)) (x : Bank) (m : Option Bank) (hd : x.digest = Config.sha384 x.body.bytes)
    (hl : ∀ b ∈ l, b = some x ∨ bankAge b < bankAge (some x)) (hm : m = some x ∨ (bankAge m < bankAge (some x) ∧ some x ∈ l)) :
    l.foldl (fun m b =>
      match b with
      | some x => if decide (x.digest = Config.sha384 x.body.bytes) && decide (bankAge m < bankAge b) then b else m
      | none => m) m = some x := by
  induction l generalizing m with
  | nil =>
    rcases hm with h | ⟨_, h⟩
    · exact h
    · cases h
  | cons b l ih =>
    rw [List.foldl_cons]
    refine ih _ (fun c hc => hl c (List.mem_cons_of_mem _ hc)) ?_
    have hb := hl b List.mem_cons_self
    rcases hm with h | ⟨h, hx⟩
    · subst h
      left
      cases b with
      | none => rfl
      | some y =>
        have : ¬ bankAge (some x) < bankAge (some y) := by
          rcases hb with hb | hb
          · rw [hb]; omega
          · omega
        simp only [decide_eq_false this, Bool.and_false, Bool.false_eq_true, if_false]
    · by_cases hbx : b = some x
      · subst hbx
        left
        simp only [decide_eq_true hd, decide_eq_true h, Bool.and_self, if_true]
      · right
        have hlt := hb.resolve_left hbx
        refine ⟨?_, (List.mem_cons.1 hx).resolve_left (fun e => hbx e.symm)⟩
        cases b with
        | none => exact h
        | some y =>
          dsimp only
          split
          · exact hlt
          · exact h

theorem imported_fields (s : State) : s.imported.mem = s.mem ∧ s.imported.plots = s.plots ∧ s.imported.mgmt.eastActive = s.mgmt.eastActive ∧
    s.imported.mgmt.seq = s.mgmt.seq ∧ s.imported.mgmt.east = s.mgmt.east ∧ s.imported.mgmt.west = s.mgmt.west ∧
    s.imported.mgmt.table = s.mgmt.table := by
  unfold State.imported; split <;> exact ⟨rfl, rfl, rfl, rfl, rfl, rfl, rfl⟩

theorem writeOlder_mem (x : Bank) (v : Vector (Option Bank) 2) : some x ∈ (writeOlder x v).toList ∧
    ∀ b ∈ (writeOlder x v).toList, b = some x ∨ b ∈ v.toList := by
  unfold writeOlder
  split
  · rw [Vector.toList_set]
    exact ⟨List.mem_set (by simp) _, fun b hb => (List.mem_or_eq_of_mem_set hb).symm⟩
  · rw [Vector.toList_set]
    exact ⟨List.mem_set (by simp) _, fun b hb => (List.mem_or_eq_of_mem_set hb).symm⟩

/-- After a commit the newest bank is the one just written. -/
theorem commit_newest {s : State} (hp : s.mgmt.powered = true) (hv : s.mgmt.version.toNat + 1 < 2 ^ 64)
    (ho : ∀ c ∈ s.mgmt.table.toList, ∀ b ∈ c.toList, ∀ x, b = some x → x.version.toNat ≤ s.mgmt.version.toNat) :
    (s.commitTo s).mgmt.newest = some (s.bank (s.mgmt.version + 1#64)) ∧
    (s.commitTo s).mgmt.table.toList.any (fun c => c.toList.contains (some (s.bank (s.mgmt.version + 1#64)))) = true := by
  have ht : (s.commitTo s).mgmt.table = s.mgmt.table.map (writeOlder (s.bank (s.mgmt.version + 1#64))) := if_pos hp
  have hn : (s.mgmt.version + 1#64).toNat = s.mgmt.version.toNat + 1 := by
    rw [BitVec.toNat_add]; simp only [BitVec.toNat_ofNat]; omega
  generalize hx : s.bank (s.mgmt.version + 1#64) = x at ht ⊢
  have hd : x.digest = Config.sha384 x.body.bytes := by rw [← hx]; rfl
  have hxv : x.version.toNat = s.mgmt.version.toNat + 1 := by rw [← hx]; exact hn
  have hmem : ∀ c ∈ s.mgmt.table.toList, writeOlder x c ∈ (s.commitTo s).mgmt.table.toList := by
    intro c hc; rw [ht, Vector.toList_map]; exact List.mem_map_of_mem hc
  have h0 : s.mgmt.table[0] ∈ s.mgmt.table.toList := by simp
  refine ⟨?_, ?_⟩
  · unfold Mgmt.newest
    refine newest_of _ x none hd ?_ (Or.inr ⟨by simp only [bankAge]; omega, ?_⟩)
    · intro b hb
      obtain ⟨c, hc, hbc⟩ := List.mem_flatMap.1 hb
      rw [ht, Vector.toList_map] at hc
      obtain ⟨c0, hc0, rfl⟩ := List.mem_map.1 hc
      rcases (writeOlder_mem x c0).2 b hbc with h | h
      · exact Or.inl h
      · right
        cases b with
        | none => simp only [bankAge]; omega
        | some y => have := ho c0 hc0 _ h y rfl; simp only [bankAge]; omega
    · exact List.mem_flatMap.2 ⟨_, hmem _ h0, (writeOlder_mem x _).1⟩
  · rw [List.any_eq_true]
    exact ⟨_, hmem _ h0, by rw [List.contains_iff_mem]; exact (writeOlder_mem x _).1⟩

theorem endCommand_eq (s : State) (m : Master) (code : Nat) : ∃ st rf, s.endCommand m code = { s with mgmt := { s.mgmt with
    seq := s.mgmt.seq + 1#32, result := BitVec.ofNat 8 code, status := st, refused := rf } } := by
  unfold State.endCommand
  split
  · exact ⟨_, _, rfl⟩
  · exact ⟨_, _, rfl⟩

theorem imported_some {s : State} {x : Bank} (h : s.mgmt.newest = some x) : s.imported.mgmt.version = x.version ∧
    s.imported.mgmt.owner = x.body.owner ∧ s.imported.mgmt.epoch = x.body.epoch ∧ s.imported.mgmt.nonce = x.body.nonce ∧
    s.imported.mgmt.keys = x.body.keys ∧ s.imported.mgmt.policy = x.body.policy ∧ s.imported.mgmt.cap = x.body.cap := by
  unfold State.imported; rw [h]; exact ⟨rfl, rfl, rfl, rfl, rfl, rfl, rfl⟩

/-- The lodges change places. -/
theorem swapped_fields (s : State) : s.swapped.mem = s.mem ∧ s.swapped.plots = s.plots ∧ s.swapped.mgmt = { s.mgmt with
    eastActive := !s.mgmt.eastActive, switching := false, lastBeat := s.standbyCycles, beatAt := s.activeCycles, sampledAt := s.standbyCycles } :=
  ⟨rfl, rfl, rfl⟩

theorem commitTo_fields (s : State) : (s.commitTo s).mem = s.mem ∧ (s.commitTo s).plots = s.plots ∧ (s.commitTo s).mgmt = { s.mgmt with
    version := s.mgmt.version + 1#64, table := (s.commitTo s).mgmt.table } := ⟨rfl, rfl, rfl⟩

theorem exec_switch (s : State) : exec .liveUpdateSwitch s = execLiveUpdateSwitch s := rfl

theorem powerCap_refused {s : State} {m : Master} {v : Word} (ho : s.mgmt.owner ≠ some m) : s.powerCap m v = s.refuse m 1 0x0100 := by
  simp only [State.powerCap, State.ownerWrite, ho, ne_eq, not_false_eq_true, if_true]

theorem refuse_one (s : State) (m : Master) (off : Nat) : (s.refuse m 1 off).mgmt.cap = s.mgmt.cap ∧
    (s.refuse m 1 off).mgmt.status = BitVec.ofNat 32 (1 % 256 * 2 ^ 24 + masterCode m * 2 ^ 20 + off % 2 ^ 16) ∧
    (∀ k : Fin 3, (s.refuse m 1 off).mgmt.refused[k] = if k.val + 1 = masterCode m then satInc s.mgmt.refused[k] else s.mgmt.refused[k]) := by
  simp only [State.refuse, State.modMgmt, true_and]
  intro k
  simp only [if_true, Fin.getElem_fin, Vector.getElem_mapFinIdx]

theorem exec_powerCap (m : Master) (v : Word) (s : State) : exec (.powerCapWrite m v) s = s.request m (fun s => .next (s.powerCap m v)) := rfl

theorem exec_budget (m : Master) (i : Fin 6) (v : Word) (s : State) : exec (.budgetWrite m i v) s = s.request m (fun s => .next (s.setBudget m i v)) := rfl

theorem exec_retrain (m : Master) (port : Nat) (v : Word) (s : State) : exec (.portRetrain m port v) s =
    s.request m (fun s => .next (if port < 24 then s.retrain m port v else s)) := rfl

theorem setBudget_fields {s : State} {m : Master} {i : Fin 6} {v : Word} (ho : s.mgmt.owner = some m) (h1 : (budgetRange i).1 ≤ v.toNat)
    (h2 : v.toNat ≤ (budgetRange i).2) : (s.setBudget m i v).budgets[i] = { s.budgets[i] with nextLimit := v.toNat } ∧
    (∀ j : Fin 6, j ≠ i → (s.setBudget m i v).budgets[j] = s.budgets[j]) ∧ (s.setBudget m i v).mgmt.version = s.mgmt.version + 1#64 ∧
    (s.setBudget m i v).mem = s.mem ∧ (s.setBudget m i v).plots = s.plots := by
  have ho' : ¬ s.mgmt.owner ≠ some m := fun h => h ho
  simp only [State.setBudget, State.ownerWrite, ho', if_false, h1, h2, decide_true, Bool.and_self, if_true]
  refine ⟨by simp only [State.commitTo, Fin.getElem_fin, Vector.getElem_set_self], fun j hj => ?_, rfl, rfl, rfl⟩
  have : i.val ≠ j.val := fun h => hj (Fin.ext h.symm)
  simp only [State.commitTo, Fin.getElem_fin, Vector.getElem_set_ne _ _ this]

theorem takeover_fields {s : State} (h : s.mgmt.standby.offline = false) : s.takeover.mgmt.eastActive = !s.mgmt.eastActive ∧
    s.takeover.mgmt.standby.offline = true ∧ s.takeover.mgmt.sessions = [] ∧ s.takeover.mgmt.tookOver = some s.standbyCycles ∧
    s.takeover.mem = s.mem ∧ s.takeover.plots = s.plots := by
  unfold State.takeover
  rw [if_neg (by rw [h]; decide)]
  obtain ⟨i1, i2, i3, _⟩ := imported_fields s
  generalize s.imported = w at i1 i2 i3 ⊢
  refine ⟨?_, ?_, rfl, rfl, i1, i2⟩
  · rw [← i3]; unfold State.modMgmt Mgmt.setStandby State.swapped; dsimp only; split <;> rfl
  · unfold State.modMgmt Mgmt.setStandby Mgmt.standby; dsimp only; split <;> simp_all

/-- An answer, in the state after the firmware's work. -/
theorem attestTo_worked (s : State) (g : Mgmt) (m : Master) (code : Nat) (x : BitVec 384) (h : g.answers = s.mgmt.answers) :
    ({ s.worked with mgmt := g } : State).attestTo m code x =
      State.emit { s.worked with mgmt := { g with answers := s.mgmt.answers + 1 } } (.attest m code x) := by
  unfold State.attestTo State.modMgmt; dsimp only; rw [h]

theorem attest_worked (s : State) (m : Master) (code : Nat) (x : BitVec 384) : s.worked.attestTo m code x =
    State.emit { s.worked with mgmt := { s.mgmt with answers := s.mgmt.answers + 1 } } (.attest m code x) := by
  have e : ({ s.worked with mgmt := s.mgmt } : State) = s.worked := by rw [← worked_mgmt s]
  rw [← attestTo_worked s s.mgmt m code x rfl, e]

end Sys2Proof.Machine
end

