-- ==== Sys2Proof/Laws/State.lean ====
section
/-! SUPPORT. What each named update of the state, of a plot and of a plot's agents reads as, field by field. -/

namespace Sys2Proof.Machine

/-! `State.setPlot` -/

@[simp] theorem State.setPlot_clk (s : State) (p : Plot) : (s.setPlot p).clk = s.clk := rfl
@[simp] theorem State.setPlot_mem (s : State) (p : Plot) : (s.setPlot p).mem = s.mem := rfl
@[simp] theorem State.setPlot_xl (s : State) (p : Plot) : (s.setPlot p).xl = s.xl := rfl
@[simp] theorem State.setPlot_plots (s : State) (p : Plot) : (s.setPlot p).plots = modifyWhere (fun q => q.id == p.id) (fun _ => p) s.plots := rfl
@[simp] theorem State.setPlot_pavs (s : State) (p : Plot) : (s.setPlot p).pavs = s.pavs := rfl
@[simp] theorem State.setPlot_ctxs (s : State) (p : Plot) : (s.setPlot p).ctxs = s.ctxs := rfl
@[simp] theorem State.setPlot_launches (s : State) (p : Plot) : (s.setPlot p).launches = s.launches := rfl
@[simp] theorem State.setPlot_ids (s : State) (p : Plot) : (s.setPlot p).ids = s.ids := rfl
@[simp] theorem State.setPlot_budgets (s : State) (p : Plot) : (s.setPlot p).budgets = s.budgets := rfl
@[simp] theorem State.setPlot_views (s : State) (p : Plot) : (s.setPlot p).views = s.views := rfl
@[simp] theorem State.setPlot_vregs (s : State) (p : Plot) : (s.setPlot p).vregs = s.vregs := rfl
@[simp] theorem State.setPlot_trellises (s : State) (p : Plot) : (s.setPlot p).trellises = s.trellises := rfl
@[simp] theorem State.setPlot_groups (s : State) (p : Plot) : (s.setPlot p).groups = s.groups := rfl
@[simp] theorem State.setPlot_colls (s : State) (p : Plot) : (s.setPlot p).colls = s.colls := rfl
@[simp] theorem State.setPlot_greenhouse (s : State) (p : Plot) : (s.setPlot p).greenhouse = s.greenhouse := rfl
@[simp] theorem State.setPlot_fab (s : State) (p : Plot) : (s.setPlot p).fab = s.fab := rfl
@[simp] theorem State.setPlot_mgmt (s : State) (p : Plot) : (s.setPlot p).mgmt = s.mgmt := rfl
@[simp] theorem State.setPlot_bar2 (s : State) (p : Plot) : (s.setPlot p).bar2 = s.bar2 := rfl
@[simp] theorem State.setPlot_issue (s : State) (p : Plot) : (s.setPlot p).issue = s.issue := rfl
@[simp] theorem State.setPlot_agenda (s : State) (p : Plot) : (s.setPlot p).agenda = s.agenda := rfl
@[simp] theorem State.setPlot_free (s : State) (p : Plot) : (s.setPlot p).free = s.free := rfl
@[simp] theorem State.setPlot_out (s : State) (p : Plot) : (s.setPlot p).out = s.out := rfl

/-! `State.modPlot` -/

@[simp] theorem State.modPlot_clk (s : State) (id : Nat) (f : Plot → Plot) : (s.modPlot id f).clk = s.clk := rfl
@[simp] theorem State.modPlot_mem (s : State) (id : Nat) (f : Plot → Plot) : (s.modPlot id f).mem = s.mem := rfl
@[simp] theorem State.modPlot_xl (s : State) (id : Nat) (f : Plot → Plot) : (s.modPlot id f).xl = s.xl := rfl
@[simp] theorem State.modPlot_plots (s : State) (id : Nat) (f : Plot → Plot) : (s.modPlot id f).plots = modifyWhere (fun q => q.id == id) f s.plots := rfl
@[simp] theorem State.modPlot_pavs (s : State) (id : Nat) (f : Plot → Plot) : (s.modPlot id f).pavs = s.pavs := rfl
@[simp] theorem State.modPlot_ctxs (s : State) (id : Nat) (f : Plot → Plot) : (s.modPlot id f).ctxs = s.ctxs := rfl
@[simp] theorem State.modPlot_launches (s : State) (id : Nat) (f : Plot → Plot) : (s.modPlot id f).launches = s.launches := rfl
@[simp] theorem State.modPlot_ids (s : State) (id : Nat) (f : Plot → Plot) : (s.modPlot id f).ids = s.ids := rfl
@[simp] theorem State.modPlot_budgets (s : State) (id : Nat) (f : Plot → Plot) : (s.modPlot id f).budgets = s.budgets := rfl
@[simp] theorem State.modPlot_views (s : State) (id : Nat) (f : Plot → Plot) : (s.modPlot id f).views = s.views := rfl
@[simp] theorem State.modPlot_vregs (s : State) (id : Nat) (f : Plot → Plot) : (s.modPlot id f).vregs = s.vregs := rfl
@[simp] theorem State.modPlot_trellises (s : State) (id : Nat) (f : Plot → Plot) : (s.modPlot id f).trellises = s.trellises := rfl
@[simp] theorem State.modPlot_groups (s : State) (id : Nat) (f : Plot → Plot) : (s.modPlot id f).groups = s.groups := rfl
@[simp] theorem State.modPlot_colls (s : State) (id : Nat) (f : Plot → Plot) : (s.modPlot id f).colls = s.colls := rfl
@[simp] theorem State.modPlot_greenhouse (s : State) (id : Nat) (f : Plot → Plot) : (s.modPlot id f).greenhouse = s.greenhouse := rfl
@[simp] theorem State.modPlot_fab (s : State) (id : Nat) (f : Plot → Plot) : (s.modPlot id f).fab = s.fab := rfl
@[simp] theorem State.modPlot_mgmt (s : State) (id : Nat) (f : Plot → Plot) : (s.modPlot id f).mgmt = s.mgmt := rfl
@[simp] theorem State.modPlot_bar2 (s : State) (id : Nat) (f : Plot → Plot) : (s.modPlot id f).bar2 = s.bar2 := rfl
@[simp] theorem State.modPlot_issue (s : State) (id : Nat) (f : Plot → Plot) : (s.modPlot id f).issue = s.issue := rfl
@[simp] theorem State.modPlot_agenda (s : State) (id : Nat) (f : Plot → Plot) : (s.modPlot id f).agenda = s.agenda := rfl
@[simp] theorem State.modPlot_free (s : State) (id : Nat) (f : Plot → Plot) : (s.modPlot id f).free = s.free := rfl
@[simp] theorem State.modPlot_out (s : State) (id : Nat) (f : Plot → Plot) : (s.modPlot id f).out = s.out := rfl

/-! `State.modCtx` -/

@[simp] theorem State.modCtx_clk (s : State) (slot : Nat) (f : Context → Context) : (s.modCtx slot f).clk = s.clk := rfl
@[simp] theorem State.modCtx_mem (s : State) (slot : Nat) (f : Context → Context) : (s.modCtx slot f).mem = s.mem := rfl
@[simp] theorem State.modCtx_xl (s : State) (slot : Nat) (f : Context → Context) : (s.modCtx slot f).xl = s.xl := rfl
@[simp] theorem State.modCtx_plots (s : State) (slot : Nat) (f : Context → Context) : (s.modCtx slot f).plots = s.plots := rfl
@[simp] theorem State.modCtx_pavs (s : State) (slot : Nat) (f : Context → Context) : (s.modCtx slot f).pavs = s.pavs := rfl
@[simp] theorem State.modCtx_ctxs (s : State) (slot : Nat) (f : Context → Context) : (s.modCtx slot f).ctxs = modifyWhere (fun c => c.slot == slot) f s.ctxs := rfl
@[simp] theorem State.modCtx_launches (s : State) (slot : Nat) (f : Context → Context) : (s.modCtx slot f).launches = s.launches := rfl
@[simp] theorem State.modCtx_ids (s : State) (slot : Nat) (f : Context → Context) : (s.modCtx slot f).ids = s.ids := rfl
@[simp] theorem State.modCtx_budgets (s : State) (slot : Nat) (f : Context → Context) : (s.modCtx slot f).budgets = s.budgets := rfl
@[simp] theorem State.modCtx_views (s : State) (slot : Nat) (f : Context → Context) : (s.modCtx slot f).views = s.views := rfl
@[simp] theorem State.modCtx_vregs (s : State) (slot : Nat) (f : Context → Context) : (s.modCtx slot f).vregs = s.vregs := rfl
@[simp] theorem State.modCtx_trellises (s : State) (slot : Nat) (f : Context → Context) : (s.modCtx slot f).trellises = s.trellises := rfl
@[simp] theorem State.modCtx_groups (s : State) (slot : Nat) (f : Context → Context) : (s.modCtx slot f).groups = s.groups := rfl
@[simp] theorem State.modCtx_colls (s : State) (slot : Nat) (f : Context → Context) : (s.modCtx slot f).colls = s.colls := rfl
@[simp] theorem State.modCtx_greenhouse (s : State) (slot : Nat) (f : Context → Context) : (s.modCtx slot f).greenhouse = s.greenhouse := rfl
@[simp] theorem State.modCtx_fab (s : State) (slot : Nat) (f : Context → Context) : (s.modCtx slot f).fab = s.fab := rfl
@[simp] theorem State.modCtx_mgmt (s : State) (slot : Nat) (f : Context → Context) : (s.modCtx slot f).mgmt = s.mgmt := rfl
@[simp] theorem State.modCtx_bar2 (s : State) (slot : Nat) (f : Context → Context) : (s.modCtx slot f).bar2 = s.bar2 := rfl
@[simp] theorem State.modCtx_issue (s : State) (slot : Nat) (f : Context → Context) : (s.modCtx slot f).issue = s.issue := rfl
@[simp] theorem State.modCtx_agenda (s : State) (slot : Nat) (f : Context → Context) : (s.modCtx slot f).agenda = s.agenda := rfl
@[simp] theorem State.modCtx_free (s : State) (slot : Nat) (f : Context → Context) : (s.modCtx slot f).free = s.free := rfl
@[simp] theorem State.modCtx_out (s : State) (slot : Nat) (f : Context → Context) : (s.modCtx slot f).out = s.out := rfl

/-! `State.modLaunch` -/

@[simp] theorem State.modLaunch_clk (s : State) (id : Nat) (f : Launch → Launch) : (s.modLaunch id f).clk = s.clk := rfl
@[simp] theorem State.modLaunch_mem (s : State) (id : Nat) (f : Launch → Launch) : (s.modLaunch id f).mem = s.mem := rfl
@[simp] theorem State.modLaunch_xl (s : State) (id : Nat) (f : Launch → Launch) : (s.modLaunch id f).xl = s.xl := rfl
@[simp] theorem State.modLaunch_plots (s : State) (id : Nat) (f : Launch → Launch) : (s.modLaunch id f).plots = s.plots := rfl
@[simp] theorem State.modLaunch_pavs (s : State) (id : Nat) (f : Launch → Launch) : (s.modLaunch id f).pavs = s.pavs := rfl
@[simp] theorem State.modLaunch_ctxs (s : State) (id : Nat) (f : Launch → Launch) : (s.modLaunch id f).ctxs = s.ctxs := rfl
@[simp] theorem State.modLaunch_launches (s : State) (id : Nat) (f : Launch → Launch) : (s.modLaunch id f).launches = modifyWhere (fun l => l.id == id) f s.launches := rfl
@[simp] theorem State.modLaunch_ids (s : State) (id : Nat) (f : Launch → Launch) : (s.modLaunch id f).ids = s.ids := rfl
@[simp] theorem State.modLaunch_budgets (s : State) (id : Nat) (f : Launch → Launch) : (s.modLaunch id f).budgets = s.budgets := rfl
@[simp] theorem State.modLaunch_views (s : State) (id : Nat) (f : Launch → Launch) : (s.modLaunch id f).views = s.views := rfl
@[simp] theorem State.modLaunch_vregs (s : State) (id : Nat) (f : Launch → Launch) : (s.modLaunch id f).vregs = s.vregs := rfl
@[simp] theorem State.modLaunch_trellises (s : State) (id : Nat) (f : Launch → Launch) : (s.modLaunch id f).trellises = s.trellises := rfl
@[simp] theorem State.modLaunch_groups (s : State) (id : Nat) (f : Launch → Launch) : (s.modLaunch id f).groups = s.groups := rfl
@[simp] theorem State.modLaunch_colls (s : State) (id : Nat) (f : Launch → Launch) : (s.modLaunch id f).colls = s.colls := rfl
@[simp] theorem State.modLaunch_greenhouse (s : State) (id : Nat) (f : Launch → Launch) : (s.modLaunch id f).greenhouse = s.greenhouse := rfl
@[simp] theorem State.modLaunch_fab (s : State) (id : Nat) (f : Launch → Launch) : (s.modLaunch id f).fab = s.fab := rfl
@[simp] theorem State.modLaunch_mgmt (s : State) (id : Nat) (f : Launch → Launch) : (s.modLaunch id f).mgmt = s.mgmt := rfl
@[simp] theorem State.modLaunch_bar2 (s : State) (id : Nat) (f : Launch → Launch) : (s.modLaunch id f).bar2 = s.bar2 := rfl
@[simp] theorem State.modLaunch_issue (s : State) (id : Nat) (f : Launch → Launch) : (s.modLaunch id f).issue = s.issue := rfl
@[simp] theorem State.modLaunch_agenda (s : State) (id : Nat) (f : Launch → Launch) : (s.modLaunch id f).agenda = s.agenda := rfl
@[simp] theorem State.modLaunch_free (s : State) (id : Nat) (f : Launch → Launch) : (s.modLaunch id f).free = s.free := rfl
@[simp] theorem State.modLaunch_out (s : State) (id : Nat) (f : Launch → Launch) : (s.modLaunch id f).out = s.out := rfl

/-! `State.modTrellis` -/

@[simp] theorem State.modTrellis_clk (s : State) (id : Nat) (f : Trellis → Trellis) : (s.modTrellis id f).clk = s.clk := rfl
@[simp] theorem State.modTrellis_mem (s : State) (id : Nat) (f : Trellis → Trellis) : (s.modTrellis id f).mem = s.mem := rfl
@[simp] theorem State.modTrellis_xl (s : State) (id : Nat) (f : Trellis → Trellis) : (s.modTrellis id f).xl = s.xl := rfl
@[simp] theorem State.modTrellis_plots (s : State) (id : Nat) (f : Trellis → Trellis) : (s.modTrellis id f).plots = s.plots := rfl
@[simp] theorem State.modTrellis_pavs (s : State) (id : Nat) (f : Trellis → Trellis) : (s.modTrellis id f).pavs = s.pavs := rfl
@[simp] theorem State.modTrellis_ctxs (s : State) (id : Nat) (f : Trellis → Trellis) : (s.modTrellis id f).ctxs = s.ctxs := rfl
@[simp] theorem State.modTrellis_launches (s : State) (id : Nat) (f : Trellis → Trellis) : (s.modTrellis id f).launches = s.launches := rfl
@[simp] theorem State.modTrellis_ids (s : State) (id : Nat) (f : Trellis → Trellis) : (s.modTrellis id f).ids = s.ids := rfl
@[simp] theorem State.modTrellis_budgets (s : State) (id : Nat) (f : Trellis → Trellis) : (s.modTrellis id f).budgets = s.budgets := rfl
@[simp] theorem State.modTrellis_views (s : State) (id : Nat) (f : Trellis → Trellis) : (s.modTrellis id f).views = s.views := rfl
@[simp] theorem State.modTrellis_vregs (s : State) (id : Nat) (f : Trellis → Trellis) : (s.modTrellis id f).vregs = s.vregs := rfl
@[simp] theorem State.modTrellis_trellises (s : State) (id : Nat) (f : Trellis → Trellis) : (s.modTrellis id f).trellises = modifyWhere (fun t => t.id == id) f s.trellises := rfl
@[simp] theorem State.modTrellis_groups (s : State) (id : Nat) (f : Trellis → Trellis) : (s.modTrellis id f).groups = s.groups := rfl
@[simp] theorem State.modTrellis_colls (s : State) (id : Nat) (f : Trellis → Trellis) : (s.modTrellis id f).colls = s.colls := rfl
@[simp] theorem State.modTrellis_greenhouse (s : State) (id : Nat) (f : Trellis → Trellis) : (s.modTrellis id f).greenhouse = s.greenhouse := rfl
@[simp] theorem State.modTrellis_fab (s : State) (id : Nat) (f : Trellis → Trellis) : (s.modTrellis id f).fab = s.fab := rfl
@[simp] theorem State.modTrellis_mgmt (s : State) (id : Nat) (f : Trellis → Trellis) : (s.modTrellis id f).mgmt = s.mgmt := rfl
@[simp] theorem State.modTrellis_bar2 (s : State) (id : Nat) (f : Trellis → Trellis) : (s.modTrellis id f).bar2 = s.bar2 := rfl
@[simp] theorem State.modTrellis_issue (s : State) (id : Nat) (f : Trellis → Trellis) : (s.modTrellis id f).issue = s.issue := rfl
@[simp] theorem State.modTrellis_agenda (s : State) (id : Nat) (f : Trellis → Trellis) : (s.modTrellis id f).agenda = s.agenda := rfl
@[simp] theorem State.modTrellis_free (s : State) (id : Nat) (f : Trellis → Trellis) : (s.modTrellis id f).free = s.free := rfl
@[simp] theorem State.modTrellis_out (s : State) (id : Nat) (f : Trellis → Trellis) : (s.modTrellis id f).out = s.out := rfl

/-! `State.modGroup` -/

@[simp] theorem State.modGroup_clk (s : State) (ctx num : Nat) (f : Group → Group) : (s.modGroup ctx num f).clk = s.clk := rfl
@[simp] theorem State.modGroup_mem (s : State) (ctx num : Nat) (f : Group → Group) : (s.modGroup ctx num f).mem = s.mem := rfl
@[simp] theorem State.modGroup_xl (s : State) (ctx num : Nat) (f : Group → Group) : (s.modGroup ctx num f).xl = s.xl := rfl
@[simp] theorem State.modGroup_plots (s : State) (ctx num : Nat) (f : Group → Group) : (s.modGroup ctx num f).plots = s.plots := rfl
@[simp] theorem State.modGroup_pavs (s : State) (ctx num : Nat) (f : Group → Group) : (s.modGroup ctx num f).pavs = s.pavs := rfl
@[simp] theorem State.modGroup_ctxs (s : State) (ctx num : Nat) (f : Group → Group) : (s.modGroup ctx num f).ctxs = s.ctxs := rfl
@[simp] theorem State.modGroup_launches (s : State) (ctx num : Nat) (f : Group → Group) : (s.modGroup ctx num f).launches = s.launches := rfl
@[simp] theorem State.modGroup_ids (s : State) (ctx num : Nat) (f : Group → Group) : (s.modGroup ctx num f).ids = s.ids := rfl
@[simp] theorem State.modGroup_budgets (s : State) (ctx num : Nat) (f : Group → Group) : (s.modGroup ctx num f).budgets = s.budgets := rfl
@[simp] theorem State.modGroup_views (s : State) (ctx num : Nat) (f : Group → Group) : (s.modGroup ctx num f).views = s.views := rfl
@[simp] theorem State.modGroup_vregs (s : State) (ctx num : Nat) (f : Group → Group) : (s.modGroup ctx num f).vregs = s.vregs := rfl
@[simp] theorem State.modGroup_trellises (s : State) (ctx num : Nat) (f : Group → Group) : (s.modGroup ctx num f).trellises = s.trellises := rfl
@[simp] theorem State.modGroup_groups (s : State) (ctx num : Nat) (f : Group → Group) : (s.modGroup ctx num f).groups = modifyWhere (fun g => g.ctx == ctx && g.num == num) f s.groups := rfl
@[simp] theorem State.modGroup_colls (s : State) (ctx num : Nat) (f : Group → Group) : (s.modGroup ctx num f).colls = s.colls := rfl
@[simp] theorem State.modGroup_greenhouse (s : State) (ctx num : Nat) (f : Group → Group) : (s.modGroup ctx num f).greenhouse = s.greenhouse := rfl
@[simp] theorem State.modGroup_fab (s : State) (ctx num : Nat) (f : Group → Group) : (s.modGroup ctx num f).fab = s.fab := rfl
@[simp] theorem State.modGroup_mgmt (s : State) (ctx num : Nat) (f : Group → Group) : (s.modGroup ctx num f).mgmt = s.mgmt := rfl
@[simp] theorem State.modGroup_bar2 (s : State) (ctx num : Nat) (f : Group → Group) : (s.modGroup ctx num f).bar2 = s.bar2 := rfl
@[simp] theorem State.modGroup_issue (s : State) (ctx num : Nat) (f : Group → Group) : (s.modGroup ctx num f).issue = s.issue := rfl
@[simp] theorem State.modGroup_agenda (s : State) (ctx num : Nat) (f : Group → Group) : (s.modGroup ctx num f).agenda = s.agenda := rfl
@[simp] theorem State.modGroup_free (s : State) (ctx num : Nat) (f : Group → Group) : (s.modGroup ctx num f).free = s.free := rfl
@[simp] theorem State.modGroup_out (s : State) (ctx num : Nat) (f : Group → Group) : (s.modGroup ctx num f).out = s.out := rfl

/-! `State.modColl` -/

@[simp] theorem State.modColl_clk (s : State) (ctx handle : Nat) (f : Coll → Coll) : (s.modColl ctx handle f).clk = s.clk := rfl
@[simp] theorem State.modColl_mem (s : State) (ctx handle : Nat) (f : Coll → Coll) : (s.modColl ctx handle f).mem = s.mem := rfl
@[simp] theorem State.modColl_xl (s : State) (ctx handle : Nat) (f : Coll → Coll) : (s.modColl ctx handle f).xl = s.xl := rfl
@[simp] theorem State.modColl_plots (s : State) (ctx handle : Nat) (f : Coll → Coll) : (s.modColl ctx handle f).plots = s.plots := rfl
@[simp] theorem State.modColl_pavs (s : State) (ctx handle : Nat) (f : Coll → Coll) : (s.modColl ctx handle f).pavs = s.pavs := rfl
@[simp] theorem State.modColl_ctxs (s : State) (ctx handle : Nat) (f : Coll → Coll) : (s.modColl ctx handle f).ctxs = s.ctxs := rfl
@[simp] theorem State.modColl_launches (s : State) (ctx handle : Nat) (f : Coll → Coll) : (s.modColl ctx handle f).launches = s.launches := rfl
@[simp] theorem State.modColl_ids (s : State) (ctx handle : Nat) (f : Coll → Coll) : (s.modColl ctx handle f).ids = s.ids := rfl
@[simp] theorem State.modColl_budgets (s : State) (ctx handle : Nat) (f : Coll → Coll) : (s.modColl ctx handle f).budgets = s.budgets := rfl
@[simp] theorem State.modColl_views (s : State) (ctx handle : Nat) (f : Coll → Coll) : (s.modColl ctx handle f).views = s.views := rfl
@[simp] theorem State.modColl_vregs (s : State) (ctx handle : Nat) (f : Coll → Coll) : (s.modColl ctx handle f).vregs = s.vregs := rfl
@[simp] theorem State.modColl_trellises (s : State) (ctx handle : Nat) (f : Coll → Coll) : (s.modColl ctx handle f).trellises = s.trellises := rfl
@[simp] theorem State.modColl_groups (s : State) (ctx handle : Nat) (f : Coll → Coll) : (s.modColl ctx handle f).groups = s.groups := rfl
@[simp] theorem State.modColl_colls (s : State) (ctx handle : Nat) (f : Coll → Coll) : (s.modColl ctx handle f).colls = modifyWhere (fun c => c.ctx == ctx && c.handle == handle) f s.colls := rfl
@[simp] theorem State.modColl_greenhouse (s : State) (ctx handle : Nat) (f : Coll → Coll) : (s.modColl ctx handle f).greenhouse = s.greenhouse := rfl
@[simp] theorem State.modColl_fab (s : State) (ctx handle : Nat) (f : Coll → Coll) : (s.modColl ctx handle f).fab = s.fab := rfl
@[simp] theorem State.modColl_mgmt (s : State) (ctx handle : Nat) (f : Coll → Coll) : (s.modColl ctx handle f).mgmt = s.mgmt := rfl
@[simp] theorem State.modColl_bar2 (s : State) (ctx handle : Nat) (f : Coll → Coll) : (s.modColl ctx handle f).bar2 = s.bar2 := rfl
@[simp] theorem State.modColl_issue (s : State) (ctx handle : Nat) (f : Coll → Coll) : (s.modColl ctx handle f).issue = s.issue := rfl
@[simp] theorem State.modColl_agenda (s : State) (ctx handle : Nat) (f : Coll → Coll) : (s.modColl ctx handle f).agenda = s.agenda := rfl
@[simp] theorem State.modColl_free (s : State) (ctx handle : Nat) (f : Coll → Coll) : (s.modColl ctx handle f).free = s.free := rfl
@[simp] theorem State.modColl_out (s : State) (ctx handle : Nat) (f : Coll → Coll) : (s.modColl ctx handle f).out = s.out := rfl

/-! `State.setPav` -/

@[simp] theorem State.setPav_clk (s : State) (v : Pavilion) : (s.setPav v).clk = s.clk := by
  unfold State.setPav; split
  · rfl
  · split <;> rfl
@[simp] theorem State.setPav_mem (s : State) (v : Pavilion) : (s.setPav v).mem = s.mem := by
  unfold State.setPav; split
  · rfl
  · split <;> rfl
@[simp] theorem State.setPav_xl (s : State) (v : Pavilion) : (s.setPav v).xl = s.xl := by
  unfold State.setPav; split
  · rfl
  · split <;> rfl
@[simp] theorem State.setPav_plots (s : State) (v : Pavilion) : (s.setPav v).plots = s.plots := by
  unfold State.setPav; split
  · rfl
  · split <;> rfl
@[simp] theorem State.setPav_ctxs (s : State) (v : Pavilion) : (s.setPav v).ctxs = s.ctxs := by
  unfold State.setPav; split
  · rfl
  · split <;> rfl
@[simp] theorem State.setPav_launches (s : State) (v : Pavilion) : (s.setPav v).launches = s.launches := by
  unfold State.setPav; split
  · rfl
  · split <;> rfl
@[simp] theorem State.setPav_ids (s : State) (v : Pavilion) : (s.setPav v).ids = s.ids := by
  unfold State.setPav; split
  · rfl
  · split <;> rfl
@[simp] theorem State.setPav_budgets (s : State) (v : Pavilion) : (s.setPav v).budgets = s.budgets := by
  unfold State.setPav; split
  · rfl
  · split <;> rfl
@[simp] theorem State.setPav_views (s : State) (v : Pavilion) : (s.setPav v).views = s.views := by
  unfold State.setPav; split
  · rfl
  · split <;> rfl
@[simp] theorem State.setPav_vregs (s : State) (v : Pavilion) : (s.setPav v).vregs = s.vregs := by
  unfold State.setPav; split
  · rfl
  · split <;> rfl
@[simp] theorem State.setPav_trellises (s : State) (v : Pavilion) : (s.setPav v).trellises = s.trellises := by
  unfold State.setPav; split
  · rfl
  · split <;> rfl
@[simp] theorem State.setPav_groups (s : State) (v : Pavilion) : (s.setPav v).groups = s.groups := by
  unfold State.setPav; split
  · rfl
  · split <;> rfl
@[simp] theorem State.setPav_colls (s : State) (v : Pavilion) : (s.setPav v).colls = s.colls := by
  unfold State.setPav; split
  · rfl
  · split <;> rfl
@[simp] theorem State.setPav_greenhouse (s : State) (v : Pavilion) : (s.setPav v).greenhouse = s.greenhouse := by
  unfold State.setPav; split
  · rfl
  · split <;> rfl
@[simp] theorem State.setPav_fab (s : State) (v : Pavilion) : (s.setPav v).fab = s.fab := by
  unfold State.setPav; split
  · rfl
  · split <;> rfl
@[simp] theorem State.setPav_mgmt (s : State) (v : Pavilion) : (s.setPav v).mgmt = s.mgmt := by
  unfold State.setPav; split
  · rfl
  · split <;> rfl
@[simp] theorem State.setPav_bar2 (s : State) (v : Pavilion) : (s.setPav v).bar2 = s.bar2 := by
  unfold State.setPav; split
  · rfl
  · split <;> rfl
@[simp] theorem State.setPav_issue (s : State) (v : Pavilion) : (s.setPav v).issue = s.issue := by
  unfold State.setPav; split
  · rfl
  · split <;> rfl
@[simp] theorem State.setPav_agenda (s : State) (v : Pavilion) : (s.setPav v).agenda = s.agenda := by
  unfold State.setPav; split
  · rfl
  · split <;> rfl
@[simp] theorem State.setPav_free (s : State) (v : Pavilion) : (s.setPav v).free = s.free := by
  unfold State.setPav; split
  · rfl
  · split <;> rfl
@[simp] theorem State.setPav_out (s : State) (v : Pavilion) : (s.setPav v).out = s.out := by
  unfold State.setPav; split
  · rfl
  · split <;> rfl

/-! `State.modPav` -/

@[simp] theorem State.modPav_clk (s : State) (n : Nat) (f : Pavilion → Pavilion) : (s.modPav n f).clk = s.clk := State.setPav_clk ..
@[simp] theorem State.modPav_mem (s : State) (n : Nat) (f : Pavilion → Pavilion) : (s.modPav n f).mem = s.mem := State.setPav_mem ..
@[simp] theorem State.modPav_xl (s : State) (n : Nat) (f : Pavilion → Pavilion) : (s.modPav n f).xl = s.xl := State.setPav_xl ..
@[simp] theorem State.modPav_plots (s : State) (n : Nat) (f : Pavilion → Pavilion) : (s.modPav n f).plots = s.plots := State.setPav_plots ..
@[simp] theorem State.modPav_ctxs (s : State) (n : Nat) (f : Pavilion → Pavilion) : (s.modPav n f).ctxs = s.ctxs := State.setPav_ctxs ..
@[simp] theorem State.modPav_launches (s : State) (n : Nat) (f : Pavilion → Pavilion) : (s.modPav n f).launches = s.launches := State.setPav_launches ..
@[simp] theorem State.modPav_ids (s : State) (n : Nat) (f : Pavilion → Pavilion) : (s.modPav n f).ids = s.ids := State.setPav_ids ..
@[simp] theorem State.modPav_budgets (s : State) (n : Nat) (f : Pavilion → Pavilion) : (s.modPav n f).budgets = s.budgets := State.setPav_budgets ..
@[simp] theorem State.modPav_views (s : State) (n : Nat) (f : Pavilion → Pavilion) : (s.modPav n f).views = s.views := State.setPav_views ..
@[simp] theorem State.modPav_vregs (s : State) (n : Nat) (f : Pavilion → Pavilion) : (s.modPav n f).vregs = s.vregs := State.setPav_vregs ..
@[simp] theorem State.modPav_trellises (s : State) (n : Nat) (f : Pavilion → Pavilion) : (s.modPav n f).trellises = s.trellises := State.setPav_trellises ..
@[simp] theorem State.modPav_groups (s : State) (n : Nat) (f : Pavilion → Pavilion) : (s.modPav n f).groups = s.groups := State.setPav_groups ..
@[simp] theorem State.modPav_colls (s : State) (n : Nat) (f : Pavilion → Pavilion) : (s.modPav n f).colls = s.colls := State.setPav_colls ..
@[simp] theorem State.modPav_greenhouse (s : State) (n : Nat) (f : Pavilion → Pavilion) : (s.modPav n f).greenhouse = s.greenhouse := State.setPav_greenhouse ..
@[simp] theorem State.modPav_fab (s : State) (n : Nat) (f : Pavilion → Pavilion) : (s.modPav n f).fab = s.fab := State.setPav_fab ..
@[simp] theorem State.modPav_mgmt (s : State) (n : Nat) (f : Pavilion → Pavilion) : (s.modPav n f).mgmt = s.mgmt := State.setPav_mgmt ..
@[simp] theorem State.modPav_bar2 (s : State) (n : Nat) (f : Pavilion → Pavilion) : (s.modPav n f).bar2 = s.bar2 := State.setPav_bar2 ..
@[simp] theorem State.modPav_issue (s : State) (n : Nat) (f : Pavilion → Pavilion) : (s.modPav n f).issue = s.issue := State.setPav_issue ..
@[simp] theorem State.modPav_agenda (s : State) (n : Nat) (f : Pavilion → Pavilion) : (s.modPav n f).agenda = s.agenda := State.setPav_agenda ..
@[simp] theorem State.modPav_free (s : State) (n : Nat) (f : Pavilion → Pavilion) : (s.modPav n f).free = s.free := State.setPav_free ..
@[simp] theorem State.modPav_out (s : State) (n : Nat) (f : Pavilion → Pavilion) : (s.modPav n f).out = s.out := State.setPav_out ..

/-! `State.emit` -/

@[simp] theorem State.emit_clk (s : State) (o : Out) : (s.emit o).clk = s.clk := rfl
@[simp] theorem State.emit_mem (s : State) (o : Out) : (s.emit o).mem = s.mem := rfl
@[simp] theorem State.emit_xl (s : State) (o : Out) : (s.emit o).xl = s.xl := rfl
@[simp] theorem State.emit_plots (s : State) (o : Out) : (s.emit o).plots = s.plots := rfl
@[simp] theorem State.emit_pavs (s : State) (o : Out) : (s.emit o).pavs = s.pavs := rfl
@[simp] theorem State.emit_ctxs (s : State) (o : Out) : (s.emit o).ctxs = s.ctxs := rfl
@[simp] theorem State.emit_launches (s : State) (o : Out) : (s.emit o).launches = s.launches := rfl
@[simp] theorem State.emit_ids (s : State) (o : Out) : (s.emit o).ids = s.ids := rfl
@[simp] theorem State.emit_budgets (s : State) (o : Out) : (s.emit o).budgets = s.budgets := rfl
@[simp] theorem State.emit_views (s : State) (o : Out) : (s.emit o).views = s.views := rfl
@[simp] theorem State.emit_vregs (s : State) (o : Out) : (s.emit o).vregs = s.vregs := rfl
@[simp] theorem State.emit_trellises (s : State) (o : Out) : (s.emit o).trellises = s.trellises := rfl
@[simp] theorem State.emit_groups (s : State) (o : Out) : (s.emit o).groups = s.groups := rfl
@[simp] theorem State.emit_colls (s : State) (o : Out) : (s.emit o).colls = s.colls := rfl
@[simp] theorem State.emit_greenhouse (s : State) (o : Out) : (s.emit o).greenhouse = s.greenhouse := rfl
@[simp] theorem State.emit_fab (s : State) (o : Out) : (s.emit o).fab = s.fab := rfl
@[simp] theorem State.emit_mgmt (s : State) (o : Out) : (s.emit o).mgmt = s.mgmt := rfl
@[simp] theorem State.emit_bar2 (s : State) (o : Out) : (s.emit o).bar2 = s.bar2 := rfl
@[simp] theorem State.emit_issue (s : State) (o : Out) : (s.emit o).issue = s.issue := rfl
@[simp] theorem State.emit_agenda (s : State) (o : Out) : (s.emit o).agenda = s.agenda := rfl
@[simp] theorem State.emit_free (s : State) (o : Out) : (s.emit o).free = s.free := rfl
@[simp] theorem State.emit_out (s : State) (o : Out) : (s.emit o).out = s.out ++ [o] := rfl

/-! `State.modMgmt` -/

@[simp] theorem State.modMgmt_clk (s : State) (f : Mgmt → Mgmt) : (s.modMgmt f).clk = s.clk := rfl
@[simp] theorem State.modMgmt_mem (s : State) (f : Mgmt → Mgmt) : (s.modMgmt f).mem = s.mem := rfl
@[simp] theorem State.modMgmt_xl (s : State) (f : Mgmt → Mgmt) : (s.modMgmt f).xl = s.xl := rfl
@[simp] theorem State.modMgmt_plots (s : State) (f : Mgmt → Mgmt) : (s.modMgmt f).plots = s.plots := rfl
@[simp] theorem State.modMgmt_pavs (s : State) (f : Mgmt → Mgmt) : (s.modMgmt f).pavs = s.pavs := rfl
@[simp] theorem State.modMgmt_ctxs (s : State) (f : Mgmt → Mgmt) : (s.modMgmt f).ctxs = s.ctxs := rfl
@[simp] theorem State.modMgmt_launches (s : State) (f : Mgmt → Mgmt) : (s.modMgmt f).launches = s.launches := rfl
@[simp] theorem State.modMgmt_ids (s : State) (f : Mgmt → Mgmt) : (s.modMgmt f).ids = s.ids := rfl
@[simp] theorem State.modMgmt_budgets (s : State) (f : Mgmt → Mgmt) : (s.modMgmt f).budgets = s.budgets := rfl
@[simp] theorem State.modMgmt_views (s : State) (f : Mgmt → Mgmt) : (s.modMgmt f).views = s.views := rfl
@[simp] theorem State.modMgmt_vregs (s : State) (f : Mgmt → Mgmt) : (s.modMgmt f).vregs = s.vregs := rfl
@[simp] theorem State.modMgmt_trellises (s : State) (f : Mgmt → Mgmt) : (s.modMgmt f).trellises = s.trellises := rfl
@[simp] theorem State.modMgmt_groups (s : State) (f : Mgmt → Mgmt) : (s.modMgmt f).groups = s.groups := rfl
@[simp] theorem State.modMgmt_colls (s : State) (f : Mgmt → Mgmt) : (s.modMgmt f).colls = s.colls := rfl
@[simp] theorem State.modMgmt_greenhouse (s : State) (f : Mgmt → Mgmt) : (s.modMgmt f).greenhouse = s.greenhouse := rfl
@[simp] theorem State.modMgmt_fab (s : State) (f : Mgmt → Mgmt) : (s.modMgmt f).fab = s.fab := rfl
@[simp] theorem State.modMgmt_mgmt (s : State) (f : Mgmt → Mgmt) : (s.modMgmt f).mgmt = f s.mgmt := rfl
@[simp] theorem State.modMgmt_bar2 (s : State) (f : Mgmt → Mgmt) : (s.modMgmt f).bar2 = s.bar2 := rfl
@[simp] theorem State.modMgmt_issue (s : State) (f : Mgmt → Mgmt) : (s.modMgmt f).issue = s.issue := rfl
@[simp] theorem State.modMgmt_agenda (s : State) (f : Mgmt → Mgmt) : (s.modMgmt f).agenda = s.agenda := rfl
@[simp] theorem State.modMgmt_free (s : State) (f : Mgmt → Mgmt) : (s.modMgmt f).free = s.free := rfl
@[simp] theorem State.modMgmt_out (s : State) (f : Mgmt → Mgmt) : (s.modMgmt f).out = s.out := rfl

/-! `State.modTag` -/

@[simp] theorem State.modTag_clk (s : State) (tag : BitVec 12) (f : TagReq → TagReq) : (s.modTag tag f).clk = s.clk := rfl
@[simp] theorem State.modTag_mem (s : State) (tag : BitVec 12) (f : TagReq → TagReq) : (s.modTag tag f).mem = s.mem := rfl
@[simp] theorem State.modTag_xl (s : State) (tag : BitVec 12) (f : TagReq → TagReq) : (s.modTag tag f).xl = s.xl := rfl
@[simp] theorem State.modTag_plots (s : State) (tag : BitVec 12) (f : TagReq → TagReq) : (s.modTag tag f).plots = s.plots := rfl
@[simp] theorem State.modTag_pavs (s : State) (tag : BitVec 12) (f : TagReq → TagReq) : (s.modTag tag f).pavs = s.pavs := rfl
@[simp] theorem State.modTag_ctxs (s : State) (tag : BitVec 12) (f : TagReq → TagReq) : (s.modTag tag f).ctxs = s.ctxs := rfl
@[simp] theorem State.modTag_launches (s : State) (tag : BitVec 12) (f : TagReq → TagReq) : (s.modTag tag f).launches = s.launches := rfl
@[simp] theorem State.modTag_ids (s : State) (tag : BitVec 12) (f : TagReq → TagReq) : (s.modTag tag f).ids = s.ids := rfl
@[simp] theorem State.modTag_budgets (s : State) (tag : BitVec 12) (f : TagReq → TagReq) : (s.modTag tag f).budgets = s.budgets := rfl
@[simp] theorem State.modTag_views (s : State) (tag : BitVec 12) (f : TagReq → TagReq) : (s.modTag tag f).views = s.views := rfl
@[simp] theorem State.modTag_vregs (s : State) (tag : BitVec 12) (f : TagReq → TagReq) : (s.modTag tag f).vregs = s.vregs := rfl
@[simp] theorem State.modTag_trellises (s : State) (tag : BitVec 12) (f : TagReq → TagReq) : (s.modTag tag f).trellises = s.trellises := rfl
@[simp] theorem State.modTag_groups (s : State) (tag : BitVec 12) (f : TagReq → TagReq) : (s.modTag tag f).groups = s.groups := rfl
@[simp] theorem State.modTag_colls (s : State) (tag : BitVec 12) (f : TagReq → TagReq) : (s.modTag tag f).colls = s.colls := rfl
@[simp] theorem State.modTag_greenhouse (s : State) (tag : BitVec 12) (f : TagReq → TagReq) : (s.modTag tag f).greenhouse = s.greenhouse := rfl
@[simp] theorem State.modTag_mgmt (s : State) (tag : BitVec 12) (f : TagReq → TagReq) : (s.modTag tag f).mgmt = s.mgmt := rfl
@[simp] theorem State.modTag_bar2 (s : State) (tag : BitVec 12) (f : TagReq → TagReq) : (s.modTag tag f).bar2 = s.bar2 := rfl
@[simp] theorem State.modTag_issue (s : State) (tag : BitVec 12) (f : TagReq → TagReq) : (s.modTag tag f).issue = s.issue := rfl
@[simp] theorem State.modTag_agenda (s : State) (tag : BitVec 12) (f : TagReq → TagReq) : (s.modTag tag f).agenda = s.agenda := rfl
@[simp] theorem State.modTag_free (s : State) (tag : BitVec 12) (f : TagReq → TagReq) : (s.modTag tag f).free = s.free := rfl
@[simp] theorem State.modTag_out (s : State) (tag : BitVec 12) (f : TagReq → TagReq) : (s.modTag tag f).out = s.out := rfl

/-! `State.modCopy` -/

@[simp] theorem State.modCopy_clk (s : State) (id copy : Nat) (f : CopyRec → CopyRec) : (s.modCopy id copy f).clk = s.clk := rfl
@[simp] theorem State.modCopy_mem (s : State) (id copy : Nat) (f : CopyRec → CopyRec) : (s.modCopy id copy f).mem = s.mem := rfl
@[simp] theorem State.modCopy_xl (s : State) (id copy : Nat) (f : CopyRec → CopyRec) : (s.modCopy id copy f).xl = s.xl := rfl
@[simp] theorem State.modCopy_pavs (s : State) (id copy : Nat) (f : CopyRec → CopyRec) : (s.modCopy id copy f).pavs = s.pavs := rfl
@[simp] theorem State.modCopy_ctxs (s : State) (id copy : Nat) (f : CopyRec → CopyRec) : (s.modCopy id copy f).ctxs = s.ctxs := rfl
@[simp] theorem State.modCopy_launches (s : State) (id copy : Nat) (f : CopyRec → CopyRec) : (s.modCopy id copy f).launches = s.launches := rfl
@[simp] theorem State.modCopy_ids (s : State) (id copy : Nat) (f : CopyRec → CopyRec) : (s.modCopy id copy f).ids = s.ids := rfl
@[simp] theorem State.modCopy_budgets (s : State) (id copy : Nat) (f : CopyRec → CopyRec) : (s.modCopy id copy f).budgets = s.budgets := rfl
@[simp] theorem State.modCopy_views (s : State) (id copy : Nat) (f : CopyRec → CopyRec) : (s.modCopy id copy f).views = s.views := rfl
@[simp] theorem State.modCopy_vregs (s : State) (id copy : Nat) (f : CopyRec → CopyRec) : (s.modCopy id copy f).vregs = s.vregs := rfl
@[simp] theorem State.modCopy_trellises (s : State) (id copy : Nat) (f : CopyRec → CopyRec) : (s.modCopy id copy f).trellises = s.trellises := rfl
@[simp] theorem State.modCopy_groups (s : State) (id copy : Nat) (f : CopyRec → CopyRec) : (s.modCopy id copy f).groups = s.groups := rfl
@[simp] theorem State.modCopy_colls (s : State) (id copy : Nat) (f : CopyRec → CopyRec) : (s.modCopy id copy f).colls = s.colls := rfl
@[simp] theorem State.modCopy_greenhouse (s : State) (id copy : Nat) (f : CopyRec → CopyRec) : (s.modCopy id copy f).greenhouse = s.greenhouse := rfl
@[simp] theorem State.modCopy_fab (s : State) (id copy : Nat) (f : CopyRec → CopyRec) : (s.modCopy id copy f).fab = s.fab := rfl
@[simp] theorem State.modCopy_mgmt (s : State) (id copy : Nat) (f : CopyRec → CopyRec) : (s.modCopy id copy f).mgmt = s.mgmt := rfl
@[simp] theorem State.modCopy_bar2 (s : State) (id copy : Nat) (f : CopyRec → CopyRec) : (s.modCopy id copy f).bar2 = s.bar2 := rfl
@[simp] theorem State.modCopy_issue (s : State) (id copy : Nat) (f : CopyRec → CopyRec) : (s.modCopy id copy f).issue = s.issue := rfl
@[simp] theorem State.modCopy_agenda (s : State) (id copy : Nat) (f : CopyRec → CopyRec) : (s.modCopy id copy f).agenda = s.agenda := rfl
@[simp] theorem State.modCopy_free (s : State) (id copy : Nat) (f : CopyRec → CopyRec) : (s.modCopy id copy f).free = s.free := rfl
@[simp] theorem State.modCopy_out (s : State) (id copy : Nat) (f : CopyRec → CopyRec) : (s.modCopy id copy f).out = s.out := rfl

/-! `State.modQueue` -/

@[simp] theorem State.modQueue_clk (s : State) (ctx q : Nat) (f : Queue → Queue) : (s.modQueue ctx q f).clk = s.clk := rfl
@[simp] theorem State.modQueue_mem (s : State) (ctx q : Nat) (f : Queue → Queue) : (s.modQueue ctx q f).mem = s.mem := rfl
@[simp] theorem State.modQueue_xl (s : State) (ctx q : Nat) (f : Queue → Queue) : (s.modQueue ctx q f).xl = s.xl := rfl
@[simp] theorem State.modQueue_plots (s : State) (ctx q : Nat) (f : Queue → Queue) : (s.modQueue ctx q f).plots = s.plots := rfl
@[simp] theorem State.modQueue_pavs (s : State) (ctx q : Nat) (f : Queue → Queue) : (s.modQueue ctx q f).pavs = s.pavs := rfl
@[simp] theorem State.modQueue_launches (s : State) (ctx q : Nat) (f : Queue → Queue) : (s.modQueue ctx q f).launches = s.launches := rfl
@[simp] theorem State.modQueue_ids (s : State) (ctx q : Nat) (f : Queue → Queue) : (s.modQueue ctx q f).ids = s.ids := rfl
@[simp] theorem State.modQueue_budgets (s : State) (ctx q : Nat) (f : Queue → Queue) : (s.modQueue ctx q f).budgets = s.budgets := rfl
@[simp] theorem State.modQueue_views (s : State) (ctx q : Nat) (f : Queue → Queue) : (s.modQueue ctx q f).views = s.views := rfl
@[simp] theorem State.modQueue_vregs (s : State) (ctx q : Nat) (f : Queue → Queue) : (s.modQueue ctx q f).vregs = s.vregs := rfl
@[simp] theorem State.modQueue_trellises (s : State) (ctx q : Nat) (f : Queue → Queue) : (s.modQueue ctx q f).trellises = s.trellises := rfl
@[simp] theorem State.modQueue_groups (s : State) (ctx q : Nat) (f : Queue → Queue) : (s.modQueue ctx q f).groups = s.groups := rfl
@[simp] theorem State.modQueue_colls (s : State) (ctx q : Nat) (f : Queue → Queue) : (s.modQueue ctx q f).colls = s.colls := rfl
@[simp] theorem State.modQueue_greenhouse (s : State) (ctx q : Nat) (f : Queue → Queue) : (s.modQueue ctx q f).greenhouse = s.greenhouse := rfl
@[simp] theorem State.modQueue_fab (s : State) (ctx q : Nat) (f : Queue → Queue) : (s.modQueue ctx q f).fab = s.fab := rfl
@[simp] theorem State.modQueue_mgmt (s : State) (ctx q : Nat) (f : Queue → Queue) : (s.modQueue ctx q f).mgmt = s.mgmt := rfl
@[simp] theorem State.modQueue_bar2 (s : State) (ctx q : Nat) (f : Queue → Queue) : (s.modQueue ctx q f).bar2 = s.bar2 := rfl
@[simp] theorem State.modQueue_issue (s : State) (ctx q : Nat) (f : Queue → Queue) : (s.modQueue ctx q f).issue = s.issue := rfl
@[simp] theorem State.modQueue_agenda (s : State) (ctx q : Nat) (f : Queue → Queue) : (s.modQueue ctx q f).agenda = s.agenda := rfl
@[simp] theorem State.modQueue_free (s : State) (ctx q : Nat) (f : Queue → Queue) : (s.modQueue ctx q f).free = s.free := rfl
@[simp] theorem State.modQueue_out (s : State) (ctx q : Nat) (f : Queue → Queue) : (s.modQueue ctx q f).out = s.out := rfl

/-! `State.setPhysTile` -/

@[simp] theorem State.setPhysTile_clk (s : State) (pav k : Nat) (t : Tile) : (s.setPhysTile pav k t).clk = s.clk := State.modPav_clk ..
@[simp] theorem State.setPhysTile_mem (s : State) (pav k : Nat) (t : Tile) : (s.setPhysTile pav k t).mem = s.mem := State.modPav_mem ..
@[simp] theorem State.setPhysTile_xl (s : State) (pav k : Nat) (t : Tile) : (s.setPhysTile pav k t).xl = s.xl := State.modPav_xl ..
@[simp] theorem State.setPhysTile_plots (s : State) (pav k : Nat) (t : Tile) : (s.setPhysTile pav k t).plots = s.plots := State.modPav_plots ..
@[simp] theorem State.setPhysTile_ctxs (s : State) (pav k : Nat) (t : Tile) : (s.setPhysTile pav k t).ctxs = s.ctxs := State.modPav_ctxs ..
@[simp] theorem State.setPhysTile_launches (s : State) (pav k : Nat) (t : Tile) : (s.setPhysTile pav k t).launches = s.launches := State.modPav_launches ..
@[simp] theorem State.setPhysTile_ids (s : State) (pav k : Nat) (t : Tile) : (s.setPhysTile pav k t).ids = s.ids := State.modPav_ids ..
@[simp] theorem State.setPhysTile_budgets (s : State) (pav k : Nat) (t : Tile) : (s.setPhysTile pav k t).budgets = s.budgets := State.modPav_budgets ..
@[simp] theorem State.setPhysTile_views (s : State) (pav k : Nat) (t : Tile) : (s.setPhysTile pav k t).views = s.views := State.modPav_views ..
@[simp] theorem State.setPhysTile_vregs (s : State) (pav k : Nat) (t : Tile) : (s.setPhysTile pav k t).vregs = s.vregs := State.modPav_vregs ..
@[simp] theorem State.setPhysTile_trellises (s : State) (pav k : Nat) (t : Tile) : (s.setPhysTile pav k t).trellises = s.trellises := State.modPav_trellises ..
@[simp] theorem State.setPhysTile_groups (s : State) (pav k : Nat) (t : Tile) : (s.setPhysTile pav k t).groups = s.groups := State.modPav_groups ..
@[simp] theorem State.setPhysTile_colls (s : State) (pav k : Nat) (t : Tile) : (s.setPhysTile pav k t).colls = s.colls := State.modPav_colls ..
@[simp] theorem State.setPhysTile_greenhouse (s : State) (pav k : Nat) (t : Tile) : (s.setPhysTile pav k t).greenhouse = s.greenhouse := State.modPav_greenhouse ..
@[simp] theorem State.setPhysTile_fab (s : State) (pav k : Nat) (t : Tile) : (s.setPhysTile pav k t).fab = s.fab := State.modPav_fab ..
@[simp] theorem State.setPhysTile_mgmt (s : State) (pav k : Nat) (t : Tile) : (s.setPhysTile pav k t).mgmt = s.mgmt := State.modPav_mgmt ..
@[simp] theorem State.setPhysTile_bar2 (s : State) (pav k : Nat) (t : Tile) : (s.setPhysTile pav k t).bar2 = s.bar2 := State.modPav_bar2 ..
@[simp] theorem State.setPhysTile_issue (s : State) (pav k : Nat) (t : Tile) : (s.setPhysTile pav k t).issue = s.issue := State.modPav_issue ..
@[simp] theorem State.setPhysTile_agenda (s : State) (pav k : Nat) (t : Tile) : (s.setPhysTile pav k t).agenda = s.agenda := State.modPav_agenda ..
@[simp] theorem State.setPhysTile_free (s : State) (pav k : Nat) (t : Tile) : (s.setPhysTile pav k t).free = s.free := State.modPav_free ..
@[simp] theorem State.setPhysTile_out (s : State) (pav k : Nat) (t : Tile) : (s.setPhysTile pav k t).out = s.out := State.modPav_out ..

/-! `State.modPort` -/

@[simp] theorem State.modPort_clk (s : State) (p : Nat) (f : Port → Port) : (s.modPort p f).clk = s.clk := by
  unfold State.modPort; split <;> rfl
@[simp] theorem State.modPort_mem (s : State) (p : Nat) (f : Port → Port) : (s.modPort p f).mem = s.mem := by
  unfold State.modPort; split <;> rfl
@[simp] theorem State.modPort_xl (s : State) (p : Nat) (f : Port → Port) : (s.modPort p f).xl = s.xl := by
  unfold State.modPort; split <;> rfl
@[simp] theorem State.modPort_plots (s : State) (p : Nat) (f : Port → Port) : (s.modPort p f).plots = s.plots := by
  unfold State.modPort; split <;> rfl
@[simp] theorem State.modPort_pavs (s : State) (p : Nat) (f : Port → Port) : (s.modPort p f).pavs = s.pavs := by
  unfold State.modPort; split <;> rfl
@[simp] theorem State.modPort_ctxs (s : State) (p : Nat) (f : Port → Port) : (s.modPort p f).ctxs = s.ctxs := by
  unfold State.modPort; split <;> rfl
@[simp] theorem State.modPort_launches (s : State) (p : Nat) (f : Port → Port) : (s.modPort p f).launches = s.launches := by
  unfold State.modPort; split <;> rfl
@[simp] theorem State.modPort_ids (s : State) (p : Nat) (f : Port → Port) : (s.modPort p f).ids = s.ids := by
  unfold State.modPort; split <;> rfl
@[simp] theorem State.modPort_budgets (s : State) (p : Nat) (f : Port → Port) : (s.modPort p f).budgets = s.budgets := by
  unfold State.modPort; split <;> rfl
@[simp] theorem State.modPort_views (s : State) (p : Nat) (f : Port → Port) : (s.modPort p f).views = s.views := by
  unfold State.modPort; split <;> rfl
@[simp] theorem State.modPort_vregs (s : State) (p : Nat) (f : Port → Port) : (s.modPort p f).vregs = s.vregs := by
  unfold State.modPort; split <;> rfl
@[simp] theorem State.modPort_trellises (s : State) (p : Nat) (f : Port → Port) : (s.modPort p f).trellises = s.trellises := by
  unfold State.modPort; split <;> rfl
@[simp] theorem State.modPort_groups (s : State) (p : Nat) (f : Port → Port) : (s.modPort p f).groups = s.groups := by
  unfold State.modPort; split <;> rfl
@[simp] theorem State.modPort_colls (s : State) (p : Nat) (f : Port → Port) : (s.modPort p f).colls = s.colls := by
  unfold State.modPort; split <;> rfl
@[simp] theorem State.modPort_greenhouse (s : State) (p : Nat) (f : Port → Port) : (s.modPort p f).greenhouse = s.greenhouse := by
  unfold State.modPort; split <;> rfl
@[simp] theorem State.modPort_mgmt (s : State) (p : Nat) (f : Port → Port) : (s.modPort p f).mgmt = s.mgmt := by
  unfold State.modPort; split <;> rfl
@[simp] theorem State.modPort_bar2 (s : State) (p : Nat) (f : Port → Port) : (s.modPort p f).bar2 = s.bar2 := by
  unfold State.modPort; split <;> rfl
@[simp] theorem State.modPort_issue (s : State) (p : Nat) (f : Port → Port) : (s.modPort p f).issue = s.issue := by
  unfold State.modPort; split <;> rfl
@[simp] theorem State.modPort_agenda (s : State) (p : Nat) (f : Port → Port) : (s.modPort p f).agenda = s.agenda := by
  unfold State.modPort; split <;> rfl
@[simp] theorem State.modPort_free (s : State) (p : Nat) (f : Port → Port) : (s.modPort p f).free = s.free := by
  unfold State.modPort; split <;> rfl
@[simp] theorem State.modPort_out (s : State) (p : Nat) (f : Port → Port) : (s.modPort p f).out = s.out := by
  unfold State.modPort; split <;> rfl

/-! `Plot.modRegs` -/

@[simp] theorem Plot.modRegs_id (p : Plot) (f : Regs → Regs) : (p.modRegs f).id = p.id := rfl
@[simp] theorem Plot.modRegs_launch (p : Plot) (f : Regs → Regs) : (p.modRegs f).launch = p.launch := rfl
@[simp] theorem Plot.modRegs_origin (p : Plot) (f : Regs → Regs) : (p.modRegs f).origin = p.origin := rfl
@[simp] theorem Plot.modRegs_ctx (p : Plot) (f : Regs → Regs) : (p.modRegs f).ctx = p.ctx := rfl
@[simp] theorem Plot.modRegs_coord (p : Plot) (f : Regs → Regs) : (p.modRegs f).coord = p.coord := rfl
@[simp] theorem Plot.modRegs_srPlot (p : Plot) (f : Regs → Regs) : (p.modRegs f).srPlot = p.srPlot := rfl
@[simp] theorem Plot.modRegs_pav (p : Plot) (f : Regs → Regs) : (p.modRegs f).pav = p.pav := rfl
@[simp] theorem Plot.modRegs_bed (p : Plot) (f : Regs → Regs) : (p.modRegs f).bed = p.bed := rfl
@[simp] theorem Plot.modRegs_rows (p : Plot) (f : Regs → Regs) : (p.modRegs f).rows = p.rows := rfl
@[simp] theorem Plot.modRegs_flags0 (p : Plot) (f : Regs → Regs) : (p.modRegs f).flags0 = p.flags0 := rfl
@[simp] theorem Plot.modRegs_spadKib (p : Plot) (f : Regs → Regs) : (p.modRegs f).spadKib = p.spadKib := rfl
@[simp] theorem Plot.modRegs_privBytes (p : Plot) (f : Regs → Regs) : (p.modRegs f).privBytes = p.privBytes := rfl
@[simp] theorem Plot.modRegs_tiles (p : Plot) (f : Regs → Regs) : (p.modRegs f).tiles = p.tiles := rfl
@[simp] theorem Plot.modRegs_tileS32 (p : Plot) (f : Regs → Regs) : (p.modRegs f).tileS32 = p.tileS32 := rfl
@[simp] theorem Plot.modRegs_regs (p : Plot) (f : Regs → Regs) : (p.modRegs f).regs = f p.regs := rfl
@[simp] theorem Plot.modRegs_ck (p : Plot) (f : Regs → Regs) : (p.modRegs f).ck = p.ck := rfl
@[simp] theorem Plot.modRegs_bundle (p : Plot) (f : Regs → Regs) : (p.modRegs f).bundle = p.bundle := rfl
@[simp] theorem Plot.modRegs_bars (p : Plot) (f : Regs → Regs) : (p.modRegs f).bars = p.bars := rfl
@[simp] theorem Plot.modRegs_dq (p : Plot) (f : Regs → Regs) : (p.modRegs f).dq = p.dq := rfl
@[simp] theorem Plot.modRegs_pcyc (p : Plot) (f : Regs → Regs) : (p.modRegs f).pcyc = p.pcyc := rfl
@[simp] theorem Plot.modRegs_arrivals (p : Plot) (f : Regs → Regs) : (p.modRegs f).arrivals = p.arrivals := rfl
@[simp] theorem Plot.modRegs_nextKey (p : Plot) (f : Regs → Regs) : (p.modRegs f).nextKey = p.nextKey := rfl
@[simp] theorem Plot.modRegs_nextOp (p : Plot) (f : Regs → Regs) : (p.modRegs f).nextOp = p.nextOp := rfl
@[simp] theorem Plot.modRegs_tops (p : Plot) (f : Regs → Regs) : (p.modRegs f).tops = p.tops := rfl
@[simp] theorem Plot.modRegs_copies (p : Plot) (f : Regs → Regs) : (p.modRegs f).copies = p.copies := rfl
@[simp] theorem Plot.modRegs_gatherAt (p : Plot) (f : Regs → Regs) : (p.modRegs f).gatherAt = p.gatherAt := rfl
@[simp] theorem Plot.modRegs_moves (p : Plot) (f : Regs → Regs) : (p.modRegs f).moves = p.moves := rfl
@[simp] theorem Plot.modRegs_run (p : Plot) (f : Regs → Regs) : (p.modRegs f).run = p.run := rfl
@[simp] theorem Plot.modRegs_ra (p : Plot) (f : Regs → Regs) : (p.modRegs f).ra = p.ra := rfl
@[simp] theorem Plot.modRegs_batch (p : Plot) (f : Regs → Regs) : (p.modRegs f).batch = p.batch := rfl
@[simp] theorem Plot.modRegs_prg (p : Plot) (f : Regs → Regs) : (p.modRegs f).prg = p.prg := rfl
@[simp] theorem Plot.modRegs_refused (p : Plot) (f : Regs → Regs) : (p.modRegs f).refused = p.refused := rfl
@[simp] theorem Plot.modRegs_answered (p : Plot) (f : Regs → Regs) : (p.modRegs f).answered = p.answered := rfl
@[simp] theorem Plot.modRegs_token (p : Plot) (f : Regs → Regs) : (p.modRegs f).token = p.token := rfl
@[simp] theorem Plot.modRegs_resident (p : Plot) (f : Regs → Regs) : (p.modRegs f).resident = p.resident := rfl
@[simp] theorem Plot.modRegs_saved (p : Plot) (f : Regs → Regs) : (p.modRegs f).saved = p.saved := rfl
@[simp] theorem Plot.modRegs_heldResponse (p : Plot) (f : Regs → Regs) : (p.modRegs f).heldResponse = p.heldResponse := rfl

/-! `Plot.modAgent` -/

@[simp] theorem Plot.modAgent_id (p : Plot) (w : Who) (f : Agent → Agent) : (p.modAgent w f).id = p.id := rfl
@[simp] theorem Plot.modAgent_launch (p : Plot) (w : Who) (f : Agent → Agent) : (p.modAgent w f).launch = p.launch := rfl
@[simp] theorem Plot.modAgent_origin (p : Plot) (w : Who) (f : Agent → Agent) : (p.modAgent w f).origin = p.origin := rfl
@[simp] theorem Plot.modAgent_ctx (p : Plot) (w : Who) (f : Agent → Agent) : (p.modAgent w f).ctx = p.ctx := rfl
@[simp] theorem Plot.modAgent_coord (p : Plot) (w : Who) (f : Agent → Agent) : (p.modAgent w f).coord = p.coord := rfl
@[simp] theorem Plot.modAgent_srPlot (p : Plot) (w : Who) (f : Agent → Agent) : (p.modAgent w f).srPlot = p.srPlot := rfl
@[simp] theorem Plot.modAgent_pav (p : Plot) (w : Who) (f : Agent → Agent) : (p.modAgent w f).pav = p.pav := rfl
@[simp] theorem Plot.modAgent_bed (p : Plot) (w : Who) (f : Agent → Agent) : (p.modAgent w f).bed = p.bed := rfl
@[simp] theorem Plot.modAgent_rows (p : Plot) (w : Who) (f : Agent → Agent) : (p.modAgent w f).rows = p.rows := rfl
@[simp] theorem Plot.modAgent_flags0 (p : Plot) (w : Who) (f : Agent → Agent) : (p.modAgent w f).flags0 = p.flags0 := rfl
@[simp] theorem Plot.modAgent_spadKib (p : Plot) (w : Who) (f : Agent → Agent) : (p.modAgent w f).spadKib = p.spadKib := rfl
@[simp] theorem Plot.modAgent_privBytes (p : Plot) (w : Who) (f : Agent → Agent) : (p.modAgent w f).privBytes = p.privBytes := rfl
@[simp] theorem Plot.modAgent_tiles (p : Plot) (w : Who) (f : Agent → Agent) : (p.modAgent w f).tiles = p.tiles := rfl
@[simp] theorem Plot.modAgent_tileS32 (p : Plot) (w : Who) (f : Agent → Agent) : (p.modAgent w f).tileS32 = p.tileS32 := rfl
@[simp] theorem Plot.modAgent_regs (p : Plot) (w : Who) (f : Agent → Agent) : (p.modAgent w f).regs = p.regs.modAgent w f := rfl
@[simp] theorem Plot.modAgent_ck (p : Plot) (w : Who) (f : Agent → Agent) : (p.modAgent w f).ck = p.ck := rfl
@[simp] theorem Plot.modAgent_bundle (p : Plot) (w : Who) (f : Agent → Agent) : (p.modAgent w f).bundle = p.bundle := rfl
@[simp] theorem Plot.modAgent_bars (p : Plot) (w : Who) (f : Agent → Agent) : (p.modAgent w f).bars = p.bars := rfl
@[simp] theorem Plot.modAgent_dq (p : Plot) (w : Who) (f : Agent → Agent) : (p.modAgent w f).dq = p.dq := rfl
@[simp] theorem Plot.modAgent_pcyc (p : Plot) (w : Who) (f : Agent → Agent) : (p.modAgent w f).pcyc = p.pcyc := rfl
@[simp] theorem Plot.modAgent_arrivals (p : Plot) (w : Who) (f : Agent → Agent) : (p.modAgent w f).arrivals = p.arrivals := rfl
@[simp] theorem Plot.modAgent_nextKey (p : Plot) (w : Who) (f : Agent → Agent) : (p.modAgent w f).nextKey = p.nextKey := rfl
@[simp] theorem Plot.modAgent_nextOp (p : Plot) (w : Who) (f : Agent → Agent) : (p.modAgent w f).nextOp = p.nextOp := rfl
@[simp] theorem Plot.modAgent_tops (p : Plot) (w : Who) (f : Agent → Agent) : (p.modAgent w f).tops = p.tops := rfl
@[simp] theorem Plot.modAgent_copies (p : Plot) (w : Who) (f : Agent → Agent) : (p.modAgent w f).copies = p.copies := rfl
@[simp] theorem Plot.modAgent_gatherAt (p : Plot) (w : Who) (f : Agent → Agent) : (p.modAgent w f).gatherAt = p.gatherAt := rfl
@[simp] theorem Plot.modAgent_moves (p : Plot) (w : Who) (f : Agent → Agent) : (p.modAgent w f).moves = p.moves := rfl
@[simp] theorem Plot.modAgent_run (p : Plot) (w : Who) (f : Agent → Agent) : (p.modAgent w f).run = p.run := rfl
@[simp] theorem Plot.modAgent_ra (p : Plot) (w : Who) (f : Agent → Agent) : (p.modAgent w f).ra = p.ra := rfl
@[simp] theorem Plot.modAgent_batch (p : Plot) (w : Who) (f : Agent → Agent) : (p.modAgent w f).batch = p.batch := rfl
@[simp] theorem Plot.modAgent_prg (p : Plot) (w : Who) (f : Agent → Agent) : (p.modAgent w f).prg = p.prg := rfl
@[simp] theorem Plot.modAgent_refused (p : Plot) (w : Who) (f : Agent → Agent) : (p.modAgent w f).refused = p.refused := rfl
@[simp] theorem Plot.modAgent_answered (p : Plot) (w : Who) (f : Agent → Agent) : (p.modAgent w f).answered = p.answered := rfl
@[simp] theorem Plot.modAgent_token (p : Plot) (w : Who) (f : Agent → Agent) : (p.modAgent w f).token = p.token := rfl
@[simp] theorem Plot.modAgent_resident (p : Plot) (w : Who) (f : Agent → Agent) : (p.modAgent w f).resident = p.resident := rfl
@[simp] theorem Plot.modAgent_saved (p : Plot) (w : Who) (f : Agent → Agent) : (p.modAgent w f).saved = p.saved := rfl
@[simp] theorem Plot.modAgent_heldResponse (p : Plot) (w : Who) (f : Agent → Agent) : (p.modAgent w f).heldResponse = p.heldResponse := rfl

/-! `Plot.modStrand` -/

@[simp] theorem Plot.modStrand_id (p : Plot) (k : Nat) (f : Strand → Strand) : (p.modStrand k f).id = p.id := rfl
@[simp] theorem Plot.modStrand_launch (p : Plot) (k : Nat) (f : Strand → Strand) : (p.modStrand k f).launch = p.launch := rfl
@[simp] theorem Plot.modStrand_origin (p : Plot) (k : Nat) (f : Strand → Strand) : (p.modStrand k f).origin = p.origin := rfl
@[simp] theorem Plot.modStrand_ctx (p : Plot) (k : Nat) (f : Strand → Strand) : (p.modStrand k f).ctx = p.ctx := rfl
@[simp] theorem Plot.modStrand_coord (p : Plot) (k : Nat) (f : Strand → Strand) : (p.modStrand k f).coord = p.coord := rfl
@[simp] theorem Plot.modStrand_srPlot (p : Plot) (k : Nat) (f : Strand → Strand) : (p.modStrand k f).srPlot = p.srPlot := rfl
@[simp] theorem Plot.modStrand_pav (p : Plot) (k : Nat) (f : Strand → Strand) : (p.modStrand k f).pav = p.pav := rfl
@[simp] theorem Plot.modStrand_bed (p : Plot) (k : Nat) (f : Strand → Strand) : (p.modStrand k f).bed = p.bed := rfl
@[simp] theorem Plot.modStrand_rows (p : Plot) (k : Nat) (f : Strand → Strand) : (p.modStrand k f).rows = p.rows := rfl
@[simp] theorem Plot.modStrand_flags0 (p : Plot) (k : Nat) (f : Strand → Strand) : (p.modStrand k f).flags0 = p.flags0 := rfl
@[simp] theorem Plot.modStrand_spadKib (p : Plot) (k : Nat) (f : Strand → Strand) : (p.modStrand k f).spadKib = p.spadKib := rfl
@[simp] theorem Plot.modStrand_privBytes (p : Plot) (k : Nat) (f : Strand → Strand) : (p.modStrand k f).privBytes = p.privBytes := rfl
@[simp] theorem Plot.modStrand_tiles (p : Plot) (k : Nat) (f : Strand → Strand) : (p.modStrand k f).tiles = p.tiles := rfl
@[simp] theorem Plot.modStrand_tileS32 (p : Plot) (k : Nat) (f : Strand → Strand) : (p.modStrand k f).tileS32 = p.tileS32 := rfl
@[simp] theorem Plot.modStrand_regs (p : Plot) (k : Nat) (f : Strand → Strand) : (p.modStrand k f).regs = p.regs.modStrand k f := rfl
@[simp] theorem Plot.modStrand_ck (p : Plot) (k : Nat) (f : Strand → Strand) : (p.modStrand k f).ck = p.ck := rfl
@[simp] theorem Plot.modStrand_bundle (p : Plot) (k : Nat) (f : Strand → Strand) : (p.modStrand k f).bundle = p.bundle := rfl
@[simp] theorem Plot.modStrand_bars (p : Plot) (k : Nat) (f : Strand → Strand) : (p.modStrand k f).bars = p.bars := rfl
@[simp] theorem Plot.modStrand_dq (p : Plot) (k : Nat) (f : Strand → Strand) : (p.modStrand k f).dq = p.dq := rfl
@[simp] theorem Plot.modStrand_pcyc (p : Plot) (k : Nat) (f : Strand → Strand) : (p.modStrand k f).pcyc = p.pcyc := rfl
@[simp] theorem Plot.modStrand_arrivals (p : Plot) (k : Nat) (f : Strand → Strand) : (p.modStrand k f).arrivals = p.arrivals := rfl
@[simp] theorem Plot.modStrand_nextKey (p : Plot) (k : Nat) (f : Strand → Strand) : (p.modStrand k f).nextKey = p.nextKey := rfl
@[simp] theorem Plot.modStrand_nextOp (p : Plot) (k : Nat) (f : Strand → Strand) : (p.modStrand k f).nextOp = p.nextOp := rfl
@[simp] theorem Plot.modStrand_tops (p : Plot) (k : Nat) (f : Strand → Strand) : (p.modStrand k f).tops = p.tops := rfl
@[simp] theorem Plot.modStrand_copies (p : Plot) (k : Nat) (f : Strand → Strand) : (p.modStrand k f).copies = p.copies := rfl
@[simp] theorem Plot.modStrand_gatherAt (p : Plot) (k : Nat) (f : Strand → Strand) : (p.modStrand k f).gatherAt = p.gatherAt := rfl
@[simp] theorem Plot.modStrand_moves (p : Plot) (k : Nat) (f : Strand → Strand) : (p.modStrand k f).moves = p.moves := rfl
@[simp] theorem Plot.modStrand_run (p : Plot) (k : Nat) (f : Strand → Strand) : (p.modStrand k f).run = p.run := rfl
@[simp] theorem Plot.modStrand_ra (p : Plot) (k : Nat) (f : Strand → Strand) : (p.modStrand k f).ra = p.ra := rfl
@[simp] theorem Plot.modStrand_batch (p : Plot) (k : Nat) (f : Strand → Strand) : (p.modStrand k f).batch = p.batch := rfl
@[simp] theorem Plot.modStrand_prg (p : Plot) (k : Nat) (f : Strand → Strand) : (p.modStrand k f).prg = p.prg := rfl
@[simp] theorem Plot.modStrand_refused (p : Plot) (k : Nat) (f : Strand → Strand) : (p.modStrand k f).refused = p.refused := rfl
@[simp] theorem Plot.modStrand_answered (p : Plot) (k : Nat) (f : Strand → Strand) : (p.modStrand k f).answered = p.answered := rfl
@[simp] theorem Plot.modStrand_token (p : Plot) (k : Nat) (f : Strand → Strand) : (p.modStrand k f).token = p.token := rfl
@[simp] theorem Plot.modStrand_resident (p : Plot) (k : Nat) (f : Strand → Strand) : (p.modStrand k f).resident = p.resident := rfl
@[simp] theorem Plot.modStrand_saved (p : Plot) (k : Nat) (f : Strand → Strand) : (p.modStrand k f).saved = p.saved := rfl
@[simp] theorem Plot.modStrand_heldResponse (p : Plot) (k : Nat) (f : Strand → Strand) : (p.modStrand k f).heldResponse = p.heldResponse := rfl

end Sys2Proof.Machine
end

