-- ==== Sys2Proof/Tests/Slice0.lean ====
section
/-! SUPPORT. Tests: what well-formedness refuses, one word of every constructor written out from Tables 2-8 and 2-10, words that
are no instruction, and a few results that the spec writes out. -/

namespace Sys2Proof.Tests
open Sys2Proof.Machine

/-! ### Well-formedness: a term for each check of row 8 of Table 2-11 -/

theorem test_illformed_lane :
    [Instr.faddX2 1 2 4 .rne, .fmulX2 2 3 4 .rne, .faddP2 2 4 5 .rne, .fmaX2 2 4 6 9 .rne, .fmaP2 3 4 6 8 .rne, .cvt 1 2 0 .f32p .rne false,
      .cvt 2 3 7 .bf16x2 .rne false, .cvt 2 3 0 .raw .rz false, .mxqE2m1 63 0 0, .mxqE2m1 0 57 0, .mxqE4m3 2 61 0, .mxqE5m2 63 4 0, .mxdq 57 0 1,
      .ld 2 1 .word .global .dev 0, .ld 3 4 .wide .spad .plot 0, .st 3 4 .wide .spad .plot 0, .stl 2 5 .byte .global .sys 0,
      .ldv 2 5 8 .word .dev .newest, .ldv 3 4 8 .wide .dev .exact, .atomAdd 1 3 4 false .dev, .atomCas 1 2 5 false .dev, .fenceView .grove,
      .stmx 63 2 4 .dev, .stmx 2 3 4 .dev, .stmx 2 4 5 .dev, .pf 3 false, .vopen 4 5 8, .vopen 5 4 8, .vcommit 5 8 .dev, .vquery 4 7, .vretire 7 8,
      .movsr 1 23, .movrs 1 20, .rkset 5 0, .cpyTload 63 4 6 true .dev, .cpyGather 10 5 6 true .dev, .cpyTstore 10 4 61 true .dev,
      .cpyLinr 10 4 7 true .dev, .fabRwrite 20 61 true, .emit 1 57, .emitw 1 2 60].all (fun i => !wf .lane i) = true := by decide

theorem test_illformed_uniform :
    [Instr.mma 16 1 2 0 0, .mmag 0 63 2 0 0, .tzero 16 true, .tld 31 1 true, .tst 16 1, .tscal 20 1, .tadd 1 16 2, .tadd 1 2 16, .drain 16 2 4 .store .rne .f32,
      .drain 2 63 4 .store .rne .f32, .drain 2 4 63 .store .rne .f32, .cpyTload 63 4 6 false .dev, .cpyTstore 10 4 63 false .dev, .fabRread 20 61 false,
      .emit 1 57, .atomCas 1 2 5 false .dev].all (fun i => !wf .uniform i) = true := by decide

/-- The same operands are legal where the stream names s-registers. -/
theorem test_wellformed_uniform :
    [Instr.ld 3 5 .wide .global .dev 0, .atomAdd 1 3 4 false .dev, .vopen 5 7 8, .rkset 5 0, .ldv 3 5 8 .wide .dev .newest,
      .cpyLinr 10 5 7 false .dev].all (fun i => wf .uniform i) = true := by decide

/-! ### Decoding: words put together from the fields of Table 2-8 and the codes of Table 2-10 -/

theorem test_decode_iop_a :
    decodeWord 0x04B5A500#32 none = .ok (.add 11 22 37) ∧
    decodeWord 0x04B5A501#32 none = .ok (.sub 11 22 37) ∧
    decodeWord 0x04B5A502#32 none = .ok (.mul 11 22 37) ∧
    decodeWord 0x04B5A503#32 none = .ok (.mulhs 11 22 37) ∧
    decodeWord 0x04B5A504#32 none = .ok (.mulhz 11 22 37) ∧
    decodeWord 0x04B5A505#32 none = .ok (.andR 11 22 37) ∧
    decodeWord 0x04B5A506#32 none = .ok (.orR 11 22 37) ∧
    decodeWord 0x04B5A507#32 none = .ok (.xorR 11 22 37) ∧
    decodeWord 0x04B5A508#32 none = .ok (.andn 11 22 37) ∧
    decodeWord 0x04B5A509#32 none = .ok (.shl 11 22 37) ∧
    decodeWord 0x04B5A50A#32 none = .ok (.shr 11 22 37) ∧
    decodeWord 0x04B5A50B#32 none = .ok (.sra 11 22 37) ∧
    decodeWord 0x04B5A50C#32 none = .ok (.rol 11 22 37) ∧
    decodeWord 0x04B5A50D#32 none = .ok (.mins 11 22 37) ∧
    decodeWord 0x04B5A50E#32 none = .ok (.maxs 11 22 37) ∧
    decodeWord 0x04B5A50F#32 none = .ok (.minz 11 22 37) ∧
    decodeWord 0x04B5A510#32 none = .ok (.maxz 11 22 37) ∧
    decodeWord 0x04B5A511#32 none = .ok (.absd 11 22 37) :=
  ⟨rfl, rfl, rfl, rfl, rfl, rfl, rfl, rfl, rfl, rfl, rfl, rfl, rfl, rfl, rfl, rfl, rfl, rfl⟩

theorem test_decode_iop_b :
    decodeWord 0x04B58012#32 none = .ok (.popc 11 22) ∧
    decodeWord 0x04B58013#32 none = .ok (.clz 11 22) ∧
    decodeWord 0x04B58014#32 none = .ok (.brev 11 22) ∧
    decodeWord 0x04B5A515#32 none = .ok (.addsat 11 22 37) ∧
    decodeWord 0x04B5A516#32 none = .ok (.subsat 11 22 37) ∧
    decodeWord 0x04B5A517#32 none = .ok (.bfx 11 22 37) ∧
    decodeWord 0x04B5A518#32 none = .ok (.bfi 11 22 37) ∧
    decodeWord 0x04B5A519#32 none = .ok (.selF0 11 22 37) ∧
    decodeWord 0x04B5A51A#32 none = .ok (.selF1 11 22 37) ∧
    decodeWord 0x04B5A51B#32 none = .ok (.selF2 11 22 37) ∧
    decodeWord 0x04B5A51C#32 none = .ok (.selF3 11 22 37) :=
  ⟨rfl, rfl, rfl, rfl, rfl, rfl, rfl, rfl, rfl, rfl, rfl⟩

theorem test_decode_immediates_and_compares :
    decodeWord 0x08B5AAB5#32 none = .ok (.addi 11 22 0x2AB5) ∧
    decodeWord 0x0CB5AAB5#32 none = .ok (.andi 11 22 0x2AB5) ∧
    decodeWord 0x10B5AAB5#32 none = .ok (.ori 11 22 0x2AB5) ∧
    decodeWord 0x14B5AAB5#32 none = .ok (.xori 11 22 0x2AB5) ∧
    decodeWord 0x18B58029#32 none = .ok (.shfiShl 11 22 41) ∧
    decodeWord 0x18B58069#32 none = .ok (.shfiShr 11 22 41) ∧
    decodeWord 0x18B580A9#32 none = .ok (.shfiSra 11 22 41) ∧
    decodeWord 0x18B580E9#32 none = .ok (.shfiRol 11 22 41) ∧
    decodeWord 0x1CBA5C3E#32 none = .ok (.movh 11 0xA5C3E) ∧
    decodeWord 0x2425A500#32 none = .ok (.icmp 2 .eq 22 37) ∧
    decodeWord 0x2425A501#32 none = .ok (.icmp 2 .ne 22 37) ∧
    decodeWord 0x2425A502#32 none = .ok (.icmp 2 .lts 22 37) ∧
    decodeWord 0x2425A503#32 none = .ok (.icmp 2 .les 22 37) ∧
    decodeWord 0x2425A504#32 none = .ok (.icmp 2 .ltz 22 37) ∧
    decodeWord 0x2425A505#32 none = .ok (.icmp 2 .lez 22 37) ∧
    decodeWord 0x2425A506#32 none = .ok (.icmp 2 .tst 22 37) ∧
    decodeWord 0x2835ADA5#32 none = .ok (.icmpi 3 .lez 22 0x5A5) :=
  ⟨rfl, rfl, rfl, rfl, rfl, rfl, rfl, rfl, rfl, rfl, rfl, rfl, rfl, rfl, rfl, rfl, rfl⟩

theorem test_decode_fop :
    decodeWord 0x2CB5A502#32 none = .ok (.fadd 11 22 37 .rd) ∧
    decodeWord 0x2CB5A506#32 none = .ok (.fsub 11 22 37 .rd) ∧
    decodeWord 0x2CB5A50A#32 none = .ok (.fmul 11 22 37 .rd) ∧
    decodeWord 0x2CB5A53E#32 none = .ok (.faddX2 11 22 37 .rd) ∧
    decodeWord 0x2CB5A542#32 none = .ok (.fmulX2 11 22 37 .rd) ∧
    decodeWord 0x2CB5A546#32 none = .ok (.faddP2 11 22 37 .rd) ∧
    decodeWord 0x2CB5A54A#32 none = .ok (.fmulP2 11 22 37 .rd) ∧
    decodeWord 0x2CB5A50C#32 none = .ok (.fmin 11 22 37) ∧
    decodeWord 0x2CB5A510#32 none = .ok (.fmax 11 22 37) ∧
    decodeWord 0x2CB5A514#32 none = .ok (.fminn 11 22 37) ∧
    decodeWord 0x2CB5A518#32 none = .ok (.fmaxn 11 22 37) ∧
    decodeWord 0x2CB5A524#32 none = .ok (.fcpys 11 22 37) ∧
    decodeWord 0x2CB5801C#32 none = .ok (.fabs 11 22) ∧
    decodeWord 0x2CB58020#32 none = .ok (.fneg 11 22) ∧
    decodeWord 0x2CB5804C#32 none = .ok (.fclass 11 22) ∧
    decodeWord 0x2CB5802B#32 none = .ok (.fsqrt 11 22 .ru) ∧
    decodeWord 0x2CB5802F#32 none = .ok (.frcp 11 22 .ru) ∧
    decodeWord 0x2CB58033#32 none = .ok (.frsq 11 22 .ru) ∧
    decodeWord 0x2CB58037#32 none = .ok (.fexp2 11 22 .ru) ∧
    decodeWord 0x2CB5803B#32 none = .ok (.flog2 11 22 .ru) :=
  ⟨rfl, rfl, rfl, rfl, rfl, rfl, rfl, rfl, rfl, rfl, rfl, rfl, rfl, rfl, rfl, rfl, rfl, rfl, rfl, rfl⟩

theorem test_decode_fma_fcmp_cvt_tag :
    decodeWord 0x30B5A5C9#32 none = .ok (.fma 11 22 37 50 .rz) ∧
    decodeWord 0x34B5A5C9#32 none = .ok (.fms 11 22 37 50 .rz) ∧
    decodeWord 0x38B5A5C9#32 none = .ok (.fnma 11 22 37 50 .rz) ∧
    decodeWord 0x3CB5A5C9#32 none = .ok (.fmaX2 11 22 37 50 .rz) ∧
    decodeWord 0x40B5A5C9#32 none = .ok (.fmaP2 11 22 37 50 .rz) ∧
    decodeWord 0x4415A500#32 none = .ok (.fcmp 1 .eq 22 37) ∧
    decodeWord 0x4415A501#32 none = .ok (.fcmp 1 .ne 22 37) ∧
    decodeWord 0x4415A502#32 none = .ok (.fcmp 1 .lt 22 37) ∧
    decodeWord 0x4415A503#32 none = .ok (.fcmp 1 .le 22 37) ∧
    decodeWord 0x4415A504#32 none = .ok (.fcmp 1 .gt 22 37) ∧
    decodeWord 0x4415A505#32 none = .ok (.fcmp 1 .ge 22 37) ∧
    decodeWord 0x4415A506#32 none = .ok (.fcmp 1 .un 22 37) ∧
    decodeWord 0x4415A507#32 none = .ok (.fcmp 1 .ord 22 37) ∧
    decodeWord 0x48B5A559#32 none = .ok (.cvt 11 22 37 .f16x2 .sr true) ∧
    decodeWord 0x48B5808C#32 none = .ok (.cvt 11 22 0 .e2m1x8 .rd false) ∧
    decodeWord 0x4CB5800C#32 none = .ok (.tagset 11 22 .mxq) ∧
    decodeWord 0x4CB58010#32 none = .ok (.tagget 11 22) ∧
    decodeWord 0x4C058029#32 none = .ok (.tagchk 22 .e8m0x4) :=
  ⟨rfl, rfl, rfl, rfl, rfl, rfl, rfl, rfl, rfl, rfl, rfl, rfl, rfl, rfl, rfl, rfl, rfl, rfl⟩

theorem test_decode_xln :
    decodeWord 0x50B5A500#32 none = .ok (.shfl 11 22 37) ∧
    decodeWord 0x50B5A501#32 none = .ok (.shflx 11 22 37) ∧
    decodeWord 0x50B5A502#32 none = .ok (.shflu 11 22 37) ∧
    decodeWord 0x50B5A503#32 none = .ok (.shfld 11 22 37) ∧
    decodeWord 0x50B5A50B#32 none = .ok (.mxqE2m1 11 22 37) ∧
    decodeWord 0x50B5A50C#32 none = .ok (.mxqE4m3 11 22 37) ∧
    decodeWord 0x50B5A50D#32 none = .ok (.mxqE5m2 11 22 37) ∧
    decodeWord 0x50B5A50E#32 none = .ok (.mxdq 11 22 37) ∧
    decodeWord 0x50B0C004#32 none = .ok (.ballot 11 3) ∧
    decodeWord 0x5020C005#32 none = .ok (.anyF 2 3) ∧
    decodeWord 0x50108006#32 none = .ok (.allF 1 2) ∧
    decodeWord 0x50B58007#32 none = .ok (.redadd 11 22) ∧
    decodeWord 0x50B58008#32 none = .ok (.redmaxs 11 22) ∧
    decodeWord 0x50B58009#32 none = .ok (.redfadd 11 22) ∧
    decodeWord 0x50B5800A#32 none = .ok (.scanadd 11 22) ∧
    decodeWord 0x50B59D0F#32 none = .ok (.bcast 11 22 29) :=
  ⟨rfl, rfl, rfl, rfl, rfl, rfl, rfl, rfl, rfl, rfl, rfl, rfl, rfl, rfl, rfl, rfl⟩

theorem test_decode_ld_st_atom :
    decodeWord 0x54B5886D#32 none = .ok (.ld 11 22 .byte .priv .pav 0x2D) ∧
    decodeWord 0x58B596AD#32 none = .ok (.lda 11 22 .half .csp .grove 0x2D) ∧
    decodeWord 0x5CB5A4ED#32 none = .ok (.ldi 11 22 .word .gsm .dev 0x2D) ∧
    decodeWord 0x60B5B32D#32 none = .ok (.st 11 22 .wide .spad .pod 0x2D) ∧
    decodeWord 0x64B5A16D#32 none = .ok (.stl 11 22 .word .global .sys 0x2D) ∧
    decodeWord 0x68B5A558#32 none = .ok (.ldv 11 22 37 .half .dev .newest) ∧
    decodeWord 0x68B5A559#32 none = .ok (.ldv 11 22 37 .half .dev .exact) ∧
    decodeWord 0x68B5A55A#32 none = .ok (.ldv 11 22 37 .half .dev .nowait) ∧
    decodeWord 0x6CB5A502#32 none = .ok (.atomAdd 11 22 37 false .grove) ∧
    decodeWord 0x6CB5A51A#32 none = .ok (.atomAnd 11 22 37 true .grove) ∧
    decodeWord 0x6CB5A522#32 none = .ok (.atomOr 11 22 37 false .grove) ∧
    decodeWord 0x6CB5A53A#32 none = .ok (.atomXor 11 22 37 true .grove) ∧
    decodeWord 0x6CB5A542#32 none = .ok (.atomMins 11 22 37 false .grove) ∧
    decodeWord 0x6CB5A55A#32 none = .ok (.atomMaxs 11 22 37 true .grove) ∧
    decodeWord 0x6CB5A562#32 none = .ok (.atomMinz 11 22 37 false .grove) ∧
    decodeWord 0x6CB5A57A#32 none = .ok (.atomMaxz 11 22 37 true .grove) ∧
    decodeWord 0x6CB5A582#32 none = .ok (.atomXchg 11 22 37 false .grove) ∧
    decodeWord 0x6CB5A59A#32 none = .ok (.atomCas 11 22 37 true .grove) ∧
    decodeWord 0x6CB5A5A2#32 none = .ok (.atomFadd 11 22 37 false .grove) ∧
    decodeWord 0x6CB5A5BA#32 none = .ok (.atomIncw 11 22 37 true .grove) :=
  ⟨rfl, rfl, rfl, rfl, rfl, rfl, rfl, rfl, rfl, rfl, rfl, rfl, rfl, rfl, rfl, rfl, rfl, rfl, rfl, rfl⟩

theorem test_decode_fence_stmx_ver :
    decodeWord 0x70000004#32 none = .ok (.fenceFull .pod) ∧
    decodeWord 0x7000000C#32 none = .ok (.fenceAcq .pod) ∧
    decodeWord 0x70000014#32 none = .ok (.fenceRel .pod) ∧
    decodeWord 0x7000001C#32 none = .ok (.fenceView .pod) ∧
    decodeWord 0x74B5A501#32 none = .ok (.stmx 11 22 37 .pav) ∧
    decodeWord 0x78058001#32 none = .ok (.pf 22 true) ∧
    decodeWord 0x78058000#32 none = .ok (.pf 22 false) ∧
    decodeWord 0x7CB5A500#32 none = .ok (.vopen 11 22 37) ∧
    decodeWord 0x7C05A515#32 none = .ok (.vcommit 22 37 .sys) ∧
    decodeWord 0x7CB58002#32 none = .ok (.vquery 11 22) ∧
    decodeWord 0x7C05A503#32 none = .ok (.vretire 22 37) :=
  ⟨rfl, rfl, rfl, rfl, rfl, rfl, rfl, rfl, rfl, rfl, rfl⟩

theorem test_decode_control :
    decodeWord 0x81EF00F1#32 none = .ok (.br (.ifSet 3) 0x2F00F1) ∧
    decodeWord 0x82401234#32 none = .ok (.br (.ifClear 1) 0x1234) ∧
    decodeWord 0x803FFFFF#32 none = .ok (.br .always 0x3FFFFF) ∧
    decodeWord 0x85EF00F1#32 none = .ok (.brx (.ifSet 3) 0x2F00F1) ∧
    decodeWord 0x86401234#32 none = .ok (.brx (.ifClear 1) 0x1234) ∧
    decodeWord 0x843FFFFF#32 none = .ok (.brx .always 0x3FFFFF) ∧
    decodeWord 0x89EF00F1#32 none = .ok (.call (.ifSet 3) 0x2F00F1) ∧
    decodeWord 0x8A401234#32 none = .ok (.call (.ifClear 1) 0x1234) ∧
    decodeWord 0x883FFFFF#32 none = .ok (.call .always 0x3FFFFF) ∧
    decodeWord 0x8C058000#32 none = .ok (.jr 22) ∧
    decodeWord 0x8C000001#32 none = .ok (.ret) ∧
    decodeWord 0x8C058002#32 none = .ok (.callr 22) ∧
    decodeWord 0x926AF000#32 none = .ok (.wait 9 10 11 12) :=
  ⟨rfl, rfl, rfl, rfl, rfl, rfl, rfl, rfl, rfl, rfl, rfl, rfl, rfl⟩

theorem test_decode_ctl_bar :
    decodeWord 0x94000000#32 none = .ok (.yield) ∧
    decodeWord 0x94000001#32 none = .ok (.exit) ∧
    decodeWord 0x94000D02#32 none = .ok (.join 13) ∧
    decodeWord 0x94000003#32 none = .ok (.leave) ∧
    decodeWord 0x94000004#32 none = .ok (.rdv) ∧
    decodeWord 0x94058005#32 none = .ok (.spawn 22) ∧
    decodeWord 0x9405A506#32 none = .ok (.reorder 22 37) ∧
    decodeWord 0x94B00007#32 none = .ok (.popq 11) ∧
    decodeWord 0x94B00008#32 none = .ok (.peekq 11) ∧
    decodeWord 0x94058009#32 none = .ok (.pushq 22) ∧
    decodeWord 0x94B0250A#32 none = .ok (.movsr 11 37) ∧
    decodeWord 0x9405A50B#32 none = .ok (.movrs 22 37) ∧
    decodeWord 0x9400000C#32 none = .ok (.nop) ∧
    decodeWord 0x9805800E#32 none = .ok (.barInit 22 14) ∧
    decodeWord 0x98B00019#32 none = .ok (.barArrive 11 9) ∧
    decodeWord 0x98B00029#32 none = .ok (.barWait 11 9) ∧
    decodeWord 0x98B00039#32 none = .ok (.barSync 11 9) ∧
    decodeWord 0x98B00059#32 none = .ok (.barQuery 11 9) ∧
    decodeWord 0x98000047#32 none = .ok (.barInval 7) :=
  ⟨rfl, rfl, rfl, rfl, rfl, rfl, rfl, rfl, rfl, rfl, rfl, rfl, rfl, rfl, rfl, rfl, rfl, rfl, rfl⟩

theorem test_decode_awt_sysi :
    decodeWord 0x9C05A500#32 none = .ok (.ainit 22 37) ∧
    decodeWord 0x9CB5A501#32 none = .ok (.await 11 22 37) ∧
    decodeWord 0x9C05A502#32 none = .ok (.aadd 22 37) ∧
    decodeWord 0x9CB58003#32 none = .ok (.rinit 11 22) ∧
    decodeWord 0x9CB58004#32 none = .ok (.rwaitf 11 22) ∧
    decodeWord 0x9C058005#32 none = .ok (.rrel 22) ∧
    decodeWord 0x9CB58006#32 none = .ok (.rstat 11 22) ∧
    decodeWord 0xA0002500#32 none = .ok (.trap 37) ∧
    decodeWord 0xA0002501#32 none = .ok (.brk 37) ∧
    decodeWord 0xA0000002#32 none = .ok (.eret) ∧
    decodeWord 0xA0058303#32 none = .ok (.rkset 22 3) ∧
    decodeWord 0xA0000004#32 none = .ok (.ud) :=
  ⟨rfl, rfl, rfl, rfl, rfl, rfl, rfl, rfl, rfl, rfl, rfl, rfl⟩

theorem test_decode_matrix :
    decodeWord 0xC0B5A58D#32 none = .ok (.mma 11 22 37 8 13) ∧
    decodeWord 0xC4B5A50F#32 none = .ok (.mmag 11 22 37 0 15) ∧
    decodeWord 0xC8B00300#32 none = .ok (.tzero 11 true) ∧
    decodeWord 0xC8B58101#32 none = .ok (.tld 11 22 false) ∧
    decodeWord 0xC8B58002#32 none = .ok (.tst 11 22) ∧
    decodeWord 0xC8B58003#32 none = .ok (.tscal 11 22) ∧
    decodeWord 0xC8B5A504#32 none = .ok (.tadd 11 22 37) ∧
    decodeWord 0xCCB5A501#32 none = .ok (.drain 11 22 37 .store .rne .s32) ∧
    decodeWord 0xCCB5A553#32 none = .ok (.drain 11 22 37 .add .rz .f32) ∧
    decodeWord 0xCCB5A5A4#32 none = .ok (.drain 11 22 37 .storez .sr .bf16x2) ∧
    decodeWord 0xCCB5A525#32 none = .ok (.drain 11 22 37 .store .sr .f16x2) :=
  ⟨rfl, rfl, rfl, rfl, rfl, rfl, rfl, rfl, rfl, rfl, rfl⟩

theorem test_decode_cpy_fab :
    decodeWord 0xD0B5A508#32 none = .ok (.cpyTload 11 22 37 true .plot) ∧
    decodeWord 0xD0B5A511#32 none = .ok (.cpyTstore 11 22 37 false .pav) ∧
    decodeWord 0xD0B5A52A#32 none = .ok (.cpyTaddf 11 22 37 true .grove) ∧
    decodeWord 0xD0B5A533#32 none = .ok (.cpyLinr 11 22 37 false .dev) ∧
    decodeWord 0xD0B5A54C#32 none = .ok (.cpyGather 11 22 37 true .pod) ∧
    decodeWord 0xD0B5A555#32 none = .ok (.cpyPubl 11 22 37 false .sys) ∧
    decodeWord 0xD0B5A568#32 none = .ok (.cpyPull 11 22 37 true .plot) ∧
    decodeWord 0xD4B58000#32 none = .ok (.fabRwrite 11 22 false) ∧
    decodeWord 0xD4B58018#32 none = .ok (.fabRread 11 22 true) ∧
    decodeWord 0xD4B58020#32 none = .ok (.fabRadd 11 22 false) ∧
    decodeWord 0xD4B58038#32 none = .ok (.fabRatom 11 22 true) ∧
    decodeWord 0xD4B58040#32 none = .ok (.fabMcast 11 22 false) ∧
    decodeWord 0xD4B5A558#32 none = .ok (.fabSend 11 22 37 true) ∧
    decodeWord 0xD4B5A560#32 none = .ok (.fabRecv 11 22 37 false) ∧
    decodeWord 0xD4000078#32 none = .ok (.fabRfence true) :=
  ⟨rfl, rfl, rfl, rfl, rfl, rfl, rfl, rfl, rfl, rfl, rfl, rfl, rfl, rfl, rfl⟩

theorem test_decode_coll_step_trl :
    decodeWord 0xD8B5A500#32 none = .ok (.copen 11 22 37) ∧
    decodeWord 0xD8B5A501#32 none = .ok (.contrib 11 22 37) ∧
    decodeWord 0xD8B58002#32 none = .ok (.cwait 11 22) ∧
    decodeWord 0xD8B58003#32 none = .ok (.cstat 11 22) ∧
    decodeWord 0xD8058004#32 none = .ok (.cclose 22) ∧
    decodeWord 0xD8058005#32 none = .ok (.crepost 22) ∧
    decodeWord 0xDCB58000#32 none = .ok (.sadv 11 22) ∧
    decodeWord 0xDCB58001#32 none = .ok (.swait 11 22) ∧
    decodeWord 0xDCB5A502#32 none = .ok (.speer 11 22 37) ∧
    decodeWord 0xDCB58003#32 none = .ok (.smin 11 22) ∧
    decodeWord 0xDCB5A504#32 none = .ok (.sabs 11 22 37) ∧
    decodeWord 0xDCB58005#32 none = .ok (.slead 11 22) ∧
    decodeWord 0xE005A500#32 none = .ok (.emit 22 37) ∧
    decodeWord 0xE0B5A501#32 none = .ok (.emitw 11 22 37) ∧
    decodeWord 0xE0B58002#32 none = .ok (.qstat 11 22) ∧
    decodeWord 0xE0B58003#32 none = .ok (.depth 11 22) :=
  ⟨rfl, rfl, rfl, rfl, rfl, rfl, rfl, rfl, rfl, rfl, rfl, rfl, rfl, rfl, rfl, rfl⟩

/-- The examples of words of 02_clauses_encoding.md and of the chapters' program listings. -/
theorem test_decode_examples :
    decodeWord 0x81BFFFF4#32 none = .ok (.br (.ifSet 2) 0x3FFFF4) ∧ decodeWord 0x54206200#32 none = .ok (.ld 2 1 .word .spad .plot 0) ∧
    decodeWord 0x74A10603#32 none = .ok (.stmx 10 4 6 .dev) ∧ decodeWord 0xE0028000#32 none = .ok (.emit 10 0) ∧
    decodeWord 0xE0328002#32 none = .ok (.qstat 3 10) ∧ decodeWord 0xE0328003#32 none = .ok (.depth 3 10) ∧
    decodeWord 0x20300000#32 (some 0x3FC00000#32) = .ok (.movw 3 0x3FC00000) := ⟨rfl, rfl, rfl, rfl, rfl, rfl, rfl⟩

/-- Majors that are no instruction, function codes not listed, reserved fields that are not zero, and MOVW without its literal. -/
theorem test_decode_refuses :
    decodeWord 0x00000000#32 none = .error .major ∧ decodeWord 0xA4000000#32 none = .error .major ∧ decodeWord 0xFC000000#32 none = .error .major ∧
    decodeWord 0x0400001D#32 none = .error .unassigned ∧ decodeWord 0x44000008#32 none = .error .unassigned ∧
    decodeWord 0x2C000050#32 none = .error .unassigned ∧ decodeWord 0x9400000D#32 none = .error .unassigned ∧
    decodeWord 0x04000112#32 none = .error .reserved ∧ decodeWord 0x24400000#32 none = .error .reserved ∧
    decodeWord 0x94000101#32 none = .error .reserved ∧ decodeWord 0x20304000#32 (some 0#32) = .error .reserved ∧
    decodeWord 0x20300000#32 none = .error .literal := ⟨rfl, rfl, rfl, rfl, rfl, rfl, rfl, rfl, rfl, rfl, rfl, rfl⟩

/-- The table's numbering: MOVW's literal is the second word. -/
theorem test_table_word : decodeTableWord 64 0x3FC0000020300000 = some (.movw 3 0x3FC00000) ∧
    decodeTableWord 32 0x54206200 = some (.ld 2 1 .word .spad .plot 0) := ⟨rfl, rfl⟩

end Sys2Proof.Tests
end

