-- ==== Sys2Proof/Tests/Witness.lean ====
section
/-! SUPPORT. A concrete state and operands that meet the hypotheses of each statement, clause by clause. -/

namespace Sys2Proof.Tests
open Sys2Proof.Machine

/-! ### A small module: one context, one launch, one plot of a strand and a front thread -/

/-- A clause of 15 words at offset 0x40, without waits. -/
def wClause : Clause := ⟨0x40#32, plainHeader 15 0⟩

def wAgent : Agent := { Agent.start 0x44#32 .issuing 0 with clause := some wClause }

/-- v1 a signalling NaN, v2 the value 1 tagged F32, v3 tagged BF16x2, v4:v5 the address 0x1000 and v6:v7 the address 0x2000. -/
def wRegs : Vector VReg 64 :=
  ((((Vector.replicate 64 VReg.zero).set 1 ⟨0x7F800001#32, .raw⟩).set 2 ⟨0x3F800000#32, .f32⟩).set 3 ⟨0x3F803F80#32, .bf16x2⟩).set 4
    ⟨0x1000#32, .raw⟩ |>.set 6 ⟨0x2000#32, .raw⟩

def wStrand : Strand := { Strand.start 0 0#32 0 0 0x44#32 0 with regs := wRegs, ag := wAgent }

/-- s4 is 0x1000, s6 is 0x2000. -/
def wFront : Front :=
  { Front.fresh 0x44#32 0 with regs := ((Vector.replicate 64 0#64).set 4 0x1000#64).set 6 0x2000#64, ag := wAgent }

def wPlot : Plot :=
  { Plot.fresh 1 0 0 wFront with
    rows := [0], bundle := some ⟨[0]⟩, nextKey := 1, spadKib := 64, tiles := [0, 1, 2], tileS32 := [false, false, true],
    regs := ⟨[wStrand], wFront, Banks.reset, 0#32, [], []⟩ }

/-- Addresses below 2^30 translate to device memory, and those from 2^40 to host memory. -/
def wPav : Pavilion := ⟨0, [0], [], [], [⟨5, 0, 30, 0, true, true⟩, ⟨5, 2 ^ 40, 30, 2 ^ 52, true, true⟩], [], []⟩

def wCtx : Context := { Context.fresh 0 5 with spad := 65536, csp := 65536 }

/-- A header at offset 0x40, and the clause map's bits for offsets 0x40, 0x48 and 0x80. -/
def wCode : List Host.Cell :=
  cellsSet (cellsSet (cellsSet [] 0x10040 (natBytes (plainHeader 15 5).toNat 4)) 0x10802 [5#8]) 0x10804 [1#8]

def wBase : State :=
  { State.reset with mem := { Store.reset with dev := wCode }, ctxs := [wCtx], launches := [Launch.fresh 1 0 0x10000#64 0x10800#64 4096], pavs := [wPav], plots := [wPlot], ids := 2 }

def xLane : Issue := ⟨1, .bundle, 0x44#32, 0#32, 4⟩

def xFront : Issue := ⟨1, .front, 0x44#32, 0#32, 4⟩

def sLane : State := { wBase with issue := some xLane }

def sFront : State := { wBase with issue := some xFront }

theorem clear_nil {g : Regs} {w : Who} {a : Agent} (h : g.agent? w = some a) (hh : a.handler = false) (hl : a.loads = []) (u : Use) :
    g.clear w u = true := by
  have e : ∀ n, g.pendingOn w n = false := by
    intro n; unfold Regs.pendingOn; rw [h]; simp only [hh, hl]; rfl
  unfold Regs.clear
  simp [e]

/-- The small module with another plot, at a lane word or at a uniform word. -/
def onLane (p : Plot) : State := { wBase with issue := some xLane, plots := [p] }

def onFront (p : Plot) : State := { wBase with issue := some xFront, plots := [p] }

theorem lane_on {p : Plot} {a : Agent} (hid : p.id = 1) (hb : p.issuers .bundle = [.strand 0]) (hr : p.run = .running)
    (ha : p.regs.agent? (.strand 0) = some a) (hh : a.handler = false) (hl : a.loads = []) (i : Instr) (h : wf .lane i = true) :
    Issues (onLane p) i xLane (.strand 0) p :=
  ⟨rfl, .inl rfl, by show [p].find? (fun q => q.id == 1) = some p; simp [hid], hb, hr, clear_nil ha hh hl _, h, ⟨a, ha, by rw [hh]; rfl⟩⟩

theorem front_on {p : Plot} {a : Agent} (hid : p.id = 1) (hr : p.run = .running) (ha : p.regs.agent? .front = some a) (hh : a.handler = false)
    (hl : a.loads = []) (i : Instr) (h : wf .uniform i = true) : Issues (onFront p) i xFront .front p :=
  ⟨rfl, .inr rfl, by show [p].find? (fun q => q.id == 1) = some p; simp [hid], rfl, hr, clear_nil ha hh hl _, h, ⟨a, ha, by rw [hh]; rfl⟩⟩

/-- Every well-formed lane word issues for strand 0, alone. -/
theorem witness_lane_issues (i : Instr) (h : wf .lane i = true) : Issues sLane i xLane (.strand 0) wPlot :=
  ⟨rfl, .inl rfl, rfl, rfl, rfl, clear_nil (a := wAgent) rfl rfl rfl _, h, ⟨wAgent, rfl, rfl⟩⟩

/-- Every well-formed uniform word issues for the front thread. -/
theorem witness_front_issues (i : Instr) (h : wf .uniform i = true) : Issues sFront i xFront .front wPlot :=
  ⟨rfl, .inr rfl, rfl, rfl, rfl, clear_nil (a := wAgent) rfl rfl rfl _, h, ⟨wAgent, rfl, rfl⟩⟩

/-! ### Encodings and steps -/

theorem witness_EncodedDecodes : wf .lane (.fma 63 0 63 0 .ru) = true ∧ encode (.fma 63 0 63 0 .ru) ≠ [] := ⟨rfl, by decide⟩

theorem witness_EncodingUnique : (Option.isSome (some 7#32) = takesLiteral 0x20300000#32 ∧ decodeWord 0x20300000#32 (some 7#32) = .ok (.movw 3 7)) ∧
    (Option.isSome (none : Option Word) = takesLiteral 0x04B168A5#32 ∨ decodeWord 0x04216305#32 none = .ok (.andR 2 5 35)) := ⟨⟨rfl, rfl⟩, .inl rfl⟩

/-- The module with one word placed for its next step, and the plot that stands at it. -/
def wStep (w : Nat) : State := State.reset.withFetchWord 64 w

/-- The word placed, with or without an uncorrectable byte. -/
def wBad (w : Nat) (bad : List Loc) : State := { wStep w with mem := { (wStep w).mem with bad := bad } }

theorem witness_StepRunsDecoded_lane : ∀ b ∈ [[], [(⟨.dev, 4⟩ : Loc)]], ∃ rest id p0 w ws p a c n,
    (wBad 0x04216305 b).agenda = .issueLane id :: rest ∧
    (let s0 : State := { wBad 0x04216305 b with agenda := rest }
     s0.plot? id = some p0 ∧ p0.issuers .bundle = w :: ws ∧ p0.resident = true ∧ p0.run = .running ∧ s0.waitedLongest p0 = true ∧
     (let s1 := (s0.wake id).modPlot id Plot.takesUp
      s1.plot? id = some p ∧ p.agent? w = some a ∧ a.clause = some c ∧ s1.nextWord p (streamOf w) c a.pc = .ok n ∧
      if b = [] then n.val.instr = .andR 2 5 35 ∧ n.notes = [] else n.notes = [(7, 0x10004#64)])) := by
  intro b hb
  simp only [List.mem_cons, List.not_mem_nil, or_false] at hb
  rcases hb with rfl | rfl
  · exact ⟨_, _, _, _, _, _, _, _, _, rfl, rfl, rfl, rfl, rfl, rfl, rfl, rfl, rfl, rfl, rfl, rfl⟩
  · exact ⟨_, _, _, _, _, _, _, _, _, rfl, rfl, rfl, rfl, rfl, rfl, rfl, rfl, rfl, rfl, rfl⟩

theorem witness_StepRunsDecoded_front : ∀ b ∈ [[], [(⟨.dev, 4⟩ : Loc)]], ∃ rest id p1 p a c n,
    (wBad 0xC0210602 b).agenda = .issueFront id :: rest ∧
    (let s0 : State := { wBad 0xC0210602 b with agenda := rest }
     let s1 := s0.readyFront id
     s1.plot? id = some p1 ∧ s1.frontReady p1 = true ∧ s1.hasSlot p1 = true ∧
     (let s2 := (s1.setBed { s1.bed p1.pav p1.bed with uni := some p1.place }).modPlot p1.id (fun p => p.modAgent .front Agent.issues)
      s2.plot? p1.id = some p ∧ p.agent? .front = some a ∧ a.clause = some c ∧ s2.nextWord p .uniform c a.pc = .ok n ∧
      if b = [] then n.val.instr = .mma 2 4 6 0 2 ∧ n.notes = [] else n.notes = [(7, 0x10004#64)])) := by
  intro b hb
  simp only [List.mem_cons, List.not_mem_nil, or_false] at hb
  rcases hb with rfl | rfl
  · exact ⟨_, _, _, _, _, _, _, rfl, rfl, rfl, rfl, rfl, rfl, rfl, rfl, rfl, rfl⟩
  · exact ⟨_, _, _, _, _, _, _, rfl, rfl, rfl, rfl, rfl, rfl, rfl, rfl, rfl⟩

/-- The code of the placed plot, read at its word: a word in its place, one that no row decodes, one of an unassigned major. -/
theorem witness_NextWord_reads : ∀ w ∈ [0x04216305, 0x0400001D, 0xA4000000], ∃ p m, (wStep w).codeWord p 4#32 = .ok m ∧ m.val = BitVec.ofNat 32 w := by
  intro w h
  simp only [List.mem_cons, List.not_mem_nil, or_false] at h
  rcases h with rfl | rfl | rfl
  all_goals exact ⟨Plot.standing 0 .lane ⟨0#32, plainHeader 1 0⟩, _, rfl, rfl⟩

theorem witness_NextWord_literal : ∃ p m l, (wStep 0x3FC0000020300000).codeWord p 4#32 = .ok m ∧ m.val = 0x20300000#32 ∧
    m.s.codeWord p (4#32 + 4#32) = .ok l ∧ l.val = 0x3FC00000#32 := ⟨Plot.standing 0 .lane ⟨0#32, plainHeader 2 0⟩, _, _, rfl, rfl, rfl, rfl⟩

/-- What the clauses ask of those words: assigned and in place; decoded or not; a literal with room or without. -/
theorem witness_NextWord_clauses :
    (majorAssigned (majOf 0x04216305#32).toNat = true ∧ placeOk .lane 0 0x04216305#32 (!decide ((4#32).toNat + 8 ≤ 8)) = true ∧
      takesLiteral 0x04216305#32 = false ∧ decodeWord 0x04216305#32 none = .ok (.andR 2 5 35)) ∧
    decodeWord 0x0400001D#32 none = .error .unassigned ∧ majorAssigned (majOf 0xA4000000#32).toNat = false ∧
    placeOk .uniform 2 0x04216305#32 true = false ∧
    (majorAssigned (majOf 0x20300000#32).toNat = true ∧ placeOk .lane 0 0x20300000#32 (!decide ((4#32).toNat + 8 ≤ 12)) = true ∧
      takesLiteral 0x20300000#32 = true ∧ decide ((4#32).toNat + 8 ≤ 12) = true ∧ decide ((4#32).toNat + 8 ≤ 8) = false ∧
      decodeWord 0x20300000#32 (some 0x3FC00000#32) = .ok (.movw 3 0x3FC00000)) :=
  ⟨⟨rfl, rfl, rfl, rfl⟩, rfl, rfl, rfl, ⟨rfl, rfl, rfl, rfl, rfl, rfl⟩⟩

/-! ### Reset, storage and frames -/

theorem witness_ResetState : Memory.wf wBase.mem.host = true := rfl

theorem quiet_wPlot : Quiet wPlot := by
  refine ⟨?_, ?_⟩
  · intro w a h
    cases w with
    | front => injection h with h; rw [← h]; exact ⟨rfl, rfl⟩
    | strand k =>
      by_cases hk : k = 0
      · subst hk; injection h with h; rw [← h]; exact ⟨rfl, rfl⟩
      · have : wPlot.agent? (.strand k) = none := by
          show ((([wStrand].find? (fun st => st.key == k)).map (fun st => st.ag))) = none
          have e : (wStrand.key == k) = false := by simpa [wStrand, Strand.start] using fun h => hk h.symm
          simp [e]
        rw [this] at h; cases h
  · intro st h
    have : st = wStrand := by simpa [wPlot] using h
    rw [this]; intro h; cases h

theorem witness_StartRegisters : wBase.plot? wBase.ids = none ∧ Quiet wPlot ∧ (∃ y ∈ wPlot.regs.agents, y.2.phase ≠ .exited) :=
  ⟨rfl, quiet_wPlot, (.front, wAgent), by decide, by decide⟩

/-- The plot with every flag enabled for ARITH. -/
def wArith : Plot := { wPlot with flags0 := 7#32 ||| (0x1F#32 <<< 9) }

def sArith : State := { wBase with issue := some xLane, plots := [wArith] }

theorem witness_arith_issues (i : Instr) (h : wf .lane i = true) : Issues sArith i xLane (.strand 0) wArith :=
  ⟨rfl, .inl rfl, rfl, rfl, rfl, clear_nil (a := wAgent) rfl rfl rfl _, h, ⟨wAgent, rfl, rfl⟩⟩

theorem witness_UdRaisesIllegal : Issues sLane .ud xLane (.strand 0) wPlot ∧ Issues sFront .ud xFront .front wPlot ∧
    wPlot.regs.agent? (.strand 0) = some wAgent :=
  ⟨witness_lane_issues _ rfl, witness_front_issues _ rfl, rfl⟩

theorem witness_FloatClasses : Issues sLane (.fclass 5 2) xLane (.strand 0) wPlot ∧ tagsOk fpAccepts wPlot.regs (.strand 0) [2] :=
  ⟨witness_lane_issues _ rfl, by unfold tagsOk; decide⟩

/-- Operands that FCMP accepts, one whose flag is enabled for ARITH, and each operand of another tag. -/
theorem witness_FloatCompares :
    (Issues sLane (.fcmp 1 .lt 0 2) xLane (.strand 0) wPlot ∧ (wPlot.regs.v 0 0).tag = .raw ∧ (wPlot.regs.v 0 2).tag = .f32 ∧
      wPlot.arithEnables &&& (fcond .lt (wPlot.regs.v 0 0).val (wPlot.regs.v 0 2).val).2 = 0#5) ∧
    (Issues sArith (.fcmp 1 .lt 1 2) xLane (.strand 0) wArith ∧ (wArith.regs.v 0 1).tag = .raw ∧
      wArith.arithEnables &&& (fcond .lt (wArith.regs.v 0 1).val (wArith.regs.v 0 2).val).2 ≠ 0#5) ∧
    (wPlot.regs.v 0 3).tag = .bf16x2 ∧ (majOf 0x44000008#32 = 0x11#6 ∧ 8 ≤ (fnOf 0x44000008#32).toNat) :=
  ⟨⟨witness_lane_issues _ rfl, rfl, rfl, by decide⟩, ⟨witness_arith_issues _ rfl, rfl, by decide⟩, rfl, rfl, by decide⟩

theorem witness_TileAddsReadFirst : wPlot.pav < 320 ∧ (sFront.tile wPlot 0).bad = [] ∧ (sFront.tile wPlot 1).bad = [] :=
  ⟨by decide, rfl, rfl⟩

/-- Context 5 with queue 3 enabled and queue 4 not. -/
def wBell : State :=
  { State.reset with ctxs := [{ Context.fresh 5 0 with queues := [⟨3, 0#64, 4, false, true, 0#64, 0#32, 0#32, false, false, []⟩, ⟨4, 0#64, 4, false, false, 0#64, 0#32, 0#32, false, false, []⟩] }] }

theorem witness_DoorbellRegisters : (∃ x, wBell.queue? 5 3 = some x ∧ x.en = true) ∧ (∃ x, wBell.queue? 5 4 = some x ∧ x.en = false) ∧
    wBell.queue? 5 5 = none ∧ wBell.queue? 63 15 = none := ⟨⟨_, rfl, rfl⟩, ⟨_, rfl, rfl⟩, rfl, rfl⟩

theorem plain_wPlot (w : Who) : wPlot.regs.plain w := by
  intro a h
  cases w with
  | front => injection h with h; rw [← h]; rfl
  | strand k =>
    have h' : ([wStrand].find? (fun st => st.key == k)).map (fun st => st.ag) = some a := h
    by_cases e : (wStrand.key == k) = true
    · simp [e] at h'; rw [← h']; rfl
    · simp at e; simp [e] at h'

/-- A word of each shape of the frame that comes to a next state: two that retire, and one that traps. -/
theorem witness_RegisterWordsFrame : Quiet wPlot ∧ wPlot.regs.plain (.strand 0) ∧ wPlot.regs.plain .front ∧
    (∃ t, exec (.add 8 4 6) sLane = .next t) ∧ (∃ t, exec (.icmp 1 .lts 4 6) sLane = .next t) ∧ (∃ t, exec .nop sLane = .next t) ∧
    (∃ t, exec (.fadd 8 2 2 .rne) sLane = .next t) ∧ (∃ t, exec (.faddX2 8 4 6 .rne) sLane = .next t) ∧
    (∃ t, exec (.fcmp 1 .lt 3 2) sLane = .next t) ∧ (∃ t, exec (.cvt 8 2 0 .bf16x2 .rne false) sLane = .next t) ∧
    (∃ t, exec (.add 8 4 6) sFront = .next t) :=
  ⟨quiet_wPlot, plain_wPlot _, plain_wPlot _, ⟨_, rfl⟩, ⟨_, rfl⟩, ⟨_, rfl⟩, ⟨_, rfl⟩, ⟨_, rfl⟩, ⟨_, rfl⟩, ⟨_, rfl⟩, ⟨_, rfl⟩⟩

theorem sound_wBase : wBase.sound := ⟨rfl, by intro y h; cases h⟩

/-- Stores at SPAD, at device memory at both kinds of scope, with an empty queue, up to the end of the address space. -/
theorem witness_BytesReadAndWritten : wBase.sound ∧
    (∀ sp, sp = Space.host ∨ sp = .spad ∨ sp = .csp → (⟨sp, 0⟩ : Loc).space = .host ∨ (⟨sp, 0⟩ : Loc).space = .spad ∨ (⟨sp, 0⟩ : Loc).space = .csp) ∧ nearScope .plot = true ∧ nearScope .dev = false ∧
    (wBase.pav 0).wtq = [] ∧ 0 < 320 ∧ (⟨.dev, 2 ^ 50 - 4⟩ : Loc).addr + [1#8, 2#8, 3#8, 4#8].length ≤ 2 ^ 50 :=
  ⟨sound_wBase, fun _ h => h, rfl, rfl, rfl, by decide, by decide⟩

/-- The plot with one store and one load of its strand outstanding. -/
def wStore : PStore := ⟨[(⟨.dev, 0x1000⟩, [1#8, 2#8, 3#8, 4#8])], .dev, false, 0, 0, 0, []⟩

def wLoad : PLoad :=
  { kind := .plain, dst := 8, bytes := 4, pair := false, handler := false, parts := some [(⟨.dev, 0x2000⟩, 4)], ea := 0x2000#64, scope := .dev,
    acquire := false, release := false, mchk := none, seq := 1, stamp := 1, lane := 0, visit := 0, itag := [] }

def wBusy : Plot := wPlot.modRegs (fun g => g.modAgent (.strand 0) (fun a => { a with stores := [wStore], loads := [wLoad], seq := 2 }))

def sBusy : State := { wBase with plots := [wBusy] }

theorem quiet_wBusy : Quiet wBusy := by
  refine ⟨?_, ?_⟩
  · intro w a h
    cases w with
    | front => injection h with h; rw [← h]; exact ⟨rfl, rfl⟩
    | strand k =>
      have h' : (wBusy.regs.strands.find? (fun st => st.key == k)).map (fun st => st.ag) = some a := h
      have e : wBusy.regs.strands = [{ wStrand with ag := { wAgent with stores := [wStore], loads := [wLoad], seq := 2 } }] := rfl
      rw [e] at h'
      by_cases e : (wStrand.key == k) = true
      · simp [e] at h'; rw [← h']; exact ⟨rfl, rfl⟩
      · simp at e; simp [e] at h'
  · intro st h
    have : st = { wStrand with ag := { wAgent with stores := [wStore], loads := [wLoad], seq := 2 } } := List.mem_singleton.1 h
    rw [this]; intro h; cases h

theorem witness_AccessesFrame : sBusy.sound ∧ sBusy.plot? 1 = some wBusy ∧ wBusy.ck = none ∧ Quiet wBusy ∧ wBusy.regs.front.ag.phase ≠ .exited ∧
    (∃ a, wBusy.agent? (.strand 0) = some a ∧
      (a.stores[0]? = some wStore ∧ wBusy.regs.mayPerform (.strand 0) a wStore = true ∧ (∃ s1, sBusy.dma true wStore.span = (true, s1)) ∧
        (sBusy.pav wBusy.pav).wtq = [] ∧ (∀ z ∈ wStore.parts, z.1.addr + z.2.length ≤ 2 ^ 50) ∧ ∃ t, exec (.storePerformed 1 (.strand 0) 0) sBusy = .next t) ∧
      (a.loads[0]? = some wLoad ∧ wBusy.regs.mayLand (.strand 0) a wLoad = true ∧ wLoad.kind ≠ .cycles ∧ wLoad.isAtom = false ∧ wLoad.handler = false ∧
        (∃ s1, sBusy.dma false [(⟨.dev, 0x2000⟩, 4)] = (true, s1) ∧ s1.badPart 0 [(⟨.dev, 0x2000⟩, 4)] = none) ∧
        ∃ t, exec (.loadDataLands 1 (.strand 0) 0) sBusy = .next t)) :=
  ⟨⟨rfl, by intro y h; cases h⟩, rfl, rfl, quiet_wBusy, by decide, _, rfl, ⟨rfl, rfl, ⟨_, rfl⟩, rfl, by decide, _, rfl⟩,
    ⟨rfl, rfl, by decide, rfl, rfl, ⟨_, rfl, rfl⟩, _, rfl⟩⟩


/-! ### Lane words -/

theorem lane_all {l : List Instr} (h : l.all (wf .lane) = true) : ∀ i ∈ l, Issues sLane i xLane (.strand 0) wPlot :=
  fun i hi => witness_lane_issues i (List.all_eq_true.1 h i hi)

theorem front_all {l : List Instr} (h : l.all (wf .uniform) = true) : ∀ i ∈ l, Issues sFront i xFront .front wPlot :=
  fun i hi => witness_front_issues i (List.all_eq_true.1 h i hi)

def wIntegers : List Instr :=
  [.add 8 4 6, .sub 8 4 6, .mul 8 4 6, .mulhs 8 4 6, .mulhz 8 4 6, .andR 8 4 6, .orR 8 4 6, .xorR 8 4 6, .andn 8 4 6, .shl 8 4 6, .shr 8 4 6, .sra 8 4 6,
    .rol 8 4 6, .mins 8 4 6, .maxs 8 4 6, .minz 8 4 6, .maxz 8 4 6, .absd 8 4 6, .addsat 8 4 6, .subsat 8 4 6, .bfx 8 4 6]

theorem witness_IntegerTwoSources : (∀ i ∈ wIntegers, Issues sLane i xLane (.strand 0) wPlot ∧ Issues sFront i xFront .front wPlot) ∧
    tagsOk intAccepts wPlot.regs (.strand 0) [4, 6] ∧ tagsOk intAccepts wPlot.regs .front [4, 6] :=
  ⟨fun i h => ⟨lane_all (l := wIntegers) rfl i h, front_all (l := wIntegers) rfl i h⟩, by unfold tagsOk; decide, by unfold tagsOk; decide⟩

def wOthers : List Instr :=
  [.bfi 8 4 6, .popc 8 4, .clz 8 4, .brev 8 4, .selF0 8 4 6, .selF1 8 4 6, .selF2 8 4 6, .selF3 8 4 6, .addi 8 4 0x2000, .andi 8 4 0x3FFF, .ori 8 4 0, .xori 8 4 1,
    .shfiShl 8 4 63, .shfiShr 8 4 0, .shfiSra 8 4 32, .shfiRol 8 4 31, .movh 8 0xFFFFF, .movw 8 0xFFFFFFFF, .icmp 3 .ltz 4 6, .icmpi 0 .tst 4 0x400]

theorem witness_IntegerOtherForms : (∀ i ∈ wOthers, Issues sLane i xLane (.strand 0) wPlot ∧ Issues sFront i xFront .front wPlot) ∧
    tagsOk intAccepts wPlot.regs (.strand 0) [4, 6, 8] ∧ tagsOk intAccepts wPlot.regs .front [4, 6, 8] :=
  ⟨fun i h => ⟨lane_all (l := wOthers) rfl i h, front_all (l := wOthers) rfl i h⟩, by unfold tagsOk; decide, by unfold tagsOk; decide⟩

def wFloats : List Instr :=
  [.fadd 8 2 4 .rne, .fsub 8 2 4 .rz, .fmul 8 2 4 .rd, .fmin 8 2 4, .fmax 8 2 4, .fminn 8 2 4, .fmaxn 8 2 4, .fabs 8 2, .fneg 8 2, .fcpys 8 2 4, .fsqrt 8 2 .rne,
    .frcp 8 2 .ru, .frsq 8 2 .rne, .fexp2 8 2 .rne, .flog2 8 2 .rne, .fclass 8 2, .fma 8 2 4 2 .rne, .fms 8 2 4 2 .rne, .fnma 8 2 4 2 .rne, .faddX2 8 4 6 .rne,
    .fmulX2 8 4 6 .rne, .fmaX2 8 4 6 4 .rne, .faddP2 8 4 6 .rne, .fmulP2 8 4 6 .rne, .fmaP2 8 4 6 4 .rne]

/-- No flag of FADD on 1 and 0x1000 is enabled in the plot; NV, of a signalling NaN, is enabled in the other. -/
theorem witness_FloatResults : (∀ i ∈ wFloats, Issues sLane i xLane (.strand 0) wPlot ∧ Issues sArith i xLane (.strand 0) wArith) ∧
    tagsOk fpAccepts wPlot.regs (.strand 0) [1, 2, 4, 5, 6, 7] ∧ tagsOk p2Accepts wPlot.regs (.strand 0) [4, 5, 6, 7] ∧
    wPlot.arithEnables = 0#5 ∧ wArith.arithEnables &&& (fadd .rne 0x7F800001#32 0x3F800000#32).2 ≠ 0#5 :=
  ⟨fun i h => ⟨lane_all (l := wFloats) rfl i h, witness_arith_issues i (List.all_eq_true.1 (by rfl : wFloats.all (wf .lane) = true) i h)⟩,
    by unfold tagsOk; decide, by unfold tagsOk; decide, rfl, by decide⟩

/-- TAGCHK of the tag that v2 has, and of one it has not. -/
theorem witness_FloatFlagsAndTags :
    (∀ i ∈ [Instr.fcmp 0 .ord 1 2, .tagset 8 4 .s8x4, .tagget 8 4, .tagchk 2 .f32, .tagchk 2 .raw], Issues sLane i xLane (.strand 0) wPlot) ∧
    tagsOk fpAccepts wPlot.regs (.strand 0) [1, 2] ∧ wPlot.arithEnables &&& (fcond .ord 0x7F800001#32 0x3F800000#32).2 = 0#5 ∧
    (wPlot.regs.v 0 2).tag = .f32 ∧ (wPlot.regs.v 0 2).tag ≠ .raw :=
  ⟨lane_all rfl, by unfold tagsOk; decide, by decide, rfl, by decide⟩

/-- A conversion of one register, and one with stochastic rounding. -/
theorem witness_Conversion :
    Issues sLane (.cvt 8 4 0 .bf16x2 .rne false) xLane (.strand 0) wPlot ∧ Issues sLane (.cvt 8 4 6 .s32 .sr true) xLane (.strand 0) wPlot ∧
    wPlot.regs.strand? 0 = some wStrand ∧ wPlot.arithEnables = 0#5 ∧ (∃ l, cvtCheck wPlot.regs 0 8 4 0 .bf16x2 false = .ok l) ∧ ∃ l, cvtCheck wPlot.regs 0 8 4 6 .s32 true = .ok l :=
  ⟨witness_lane_issues _ rfl, witness_lane_issues _ rfl, rfl, rfl, ⟨_, rfl⟩, _, rfl⟩

/-! ### A locked cohort, 31 of whose members wait at the word -/

def wMember (k : Nat) : Strand :=
  { Strand.start k (BitVec.ofNat 32 k) 0 k 0x44#32 0 with
    cohort := some 3#4
    regs := (wRegs.set 10 ⟨0x12345678#32, .e2m1x8⟩).set 11 ⟨0x7F7F7F7F#32, .e8m0x4⟩
    ag := if k = 31 then wAgent else { wAgent with phase := .blocked, wait := .rendezvous } }

def wCohort : Plot := { wPlot with bundle := some ⟨[31]⟩, nextKey := 32, regs := ⟨(List.range 32).map wMember, wFront, Banks.reset, 0#32, [], []⟩ }

def sCohort : State := { wBase with issue := some xLane, plots := [wCohort] }

theorem witness_meets (i : Instr) (h : wf .lane i = true) : Meets sCohort i xLane 31 3 wCohort :=
  ⟨⟨rfl, .inl rfl, rfl, rfl, rfl, clear_nil (a := wAgent) rfl rfl rfl _, h, ⟨wAgent, rfl, rfl⟩⟩, by decide, by decide⟩

def wCross : List Instr :=
  [.shfl 8 4 6, .shflx 8 4 6, .shflu 8 4 6, .shfld 8 4 6, .bcast 8 4 31, .ballot 8 3, .anyF 0 3, .allF 1 2, .redadd 8 4, .redmaxs 8 4, .redfadd 8 4, .scanadd 8 4,
    .mxqE2m1 20 30 0, .mxqE4m3 20 30 6, .mxqE5m2 20 30 0, .mxdq 20 10 11]

theorem witness_CrossLane : (∀ i ∈ wCross, Meets sCohort i xLane 31 3 wCohort) ∧ indexAccepts (wCohort.regs.v 31 6).tag = true ∧
    intAccepts (wCohort.regs.v 31 4).tag = true ∧ fpAccepts (wCohort.regs.v 31 4).tag = true ∧
    (∀ j < 8, fpAccepts (wCohort.regs.v 31 (regPlus 30 j)).tag = true) ∧ mxTag (wCohort.regs.v 31 10).tag = true ∧
    scaleTag (wCohort.regs.v 31 11).tag = true ∧ wCohort.arithEnables = 0#5 :=
  ⟨fun i h => witness_meets i (List.all_eq_true.1 (by rfl : wCross.all (wf .lane) = true) i h), rfl, rfl, rfl, by decide, rfl, rfl, rfl⟩


/-! ### Accesses -/

/-- A name range at 2^32, locks on 0x3000 and on SPAD byte 0x100, a page refused to the plot, a page that was denied, and memory beyond
the stacks. -/
def wNames : State :=
  { wBase with
    vregs := [⟨0, 0, 2 ^ 32, 4, 2, 0x100000, 0x100000, 0x200000, 0, []⟩]
    plots := [{ wPlot with refused := [0x50000] }]
    xl := { Xlate.reset with denied := [⟨5, 0x60000⟩] }
    pavs := [{ wPav with
      locks := [⟨0, 1, 9, true, .global 0x3000 0x3003⟩, ⟨0, 1, 9, true, .local .spad 0x100 0x10F⟩]
      atc := wPav.atc ++ [⟨5, 0x70000000, 12, 2 ^ 51, true, true⟩, ⟨5, 0x70001000, 12, 600 * 10 ^ 9 / 4096 * 4096, true, true⟩] }] }

def wRefused : Plot := { wPlot with refused := [0x50000] }

/-- An address for each clause: misaligned; beyond the windows, and in a window outside the part; in a name range; locked, and not, in a
window and outside; one of two pieces; private; and, of those that are translated, one that is found, unregistered, refused, without an
entry, denied, and where the module has no memory, and a pair of words both of which are found. -/
theorem witness_AccessChecks :
    (0x1002#64).toNat % 4 ≠ 0 ∧
    (∀ a ∈ [0xFFFF000400000000#64, 0xFFFF00000007FFFC#64], wNames.pieceLocs wRefused (.strand 0) (pieces a 4) = none) ∧
    (wNames.pieceLocs wRefused (.strand 0) (pieces 0x100000000#64 4) = some [((0x100000000#64, 4), none)] ∧ wNames.touchesName 0 0x100000000 4 = true) ∧
    (wNames.pieceLocs wRefused (.strand 0) (pieces 0xFFFF000000000100#64 4) = some [((0xFFFF000000000100#64, 4), some ⟨.spad, 0x100⟩)] ∧
      wNames.lockHit wRefused 0xFFFF000000000100#64 4 (some ⟨.spad, 0x100⟩) false = some 0xFFFF000000000100#64) ∧
    (wNames.pieceLocs wRefused (.strand 0) (pieces 0xFFFF000000000000#64 4) = some [((0xFFFF000000000000#64, 4), some ⟨.spad, 0⟩)] ∧
      wNames.lockHit wRefused 0xFFFF000000000000#64 4 (some ⟨.spad, 0⟩) true = none) ∧
    (wNames.pieceLocs wRefused (.strand 0) (pieces 0x3000#64 4) = some [((0x3000#64, 4), none)] ∧ wNames.touchesName 0 0x3000 4 = false ∧
      wNames.lockHit wRefused 0x3000#64 4 none false = some 0x3000#64) ∧
    (wNames.pieceLocs wRefused (.strand 0) (pieces 0x1004#64 8) = some [((0x1004#64, 4), none), ((0x1008#64, 4), none)] ∧
      wNames.lockHit wRefused 0x1004#64 4 none true = none ∧ wNames.lockHit wRefused 0x1008#64 4 none true = none ∧
      ∃ s1 s2, wNames.translateFor wRefused 0x1004 4 true = (.at ⟨.dev, 0x1004⟩, s1) ∧ s1.translateFor wRefused 0x1008 4 true = (.at ⟨.dev, 0x1008⟩, s2)) ∧
    (∃ l, wNames.windowLoc { wRefused with privBytes := 4096 } (some 0) .priv 4092 4 = some l ∧ l.space = .priv) ∧
    (wNames.translateFor wRefused 0x70000000 4 true).1 = .unregistered (2 ^ 51) ∧ (wNames.translateFor wRefused 0x50000000 4 true).1 = .refused ∧
    (wNames.translateFor wRefused 0x90000000 4 true).1 = .miss ∧ (wNames.translateFor wRefused 0x60000000 4 true).1 = .denied ∧
    (wNames.translateFor wRefused 0x70001000 4 true).1 = .absent (600 * 10 ^ 9 / 4096 * 4096) :=
  ⟨by decide, (fun a h => by simp only [List.mem_cons, List.not_mem_nil, or_false] at h; rcases h with rfl | rfl <;> rfl), ⟨rfl, rfl⟩, ⟨rfl, rfl⟩, ⟨rfl, rfl⟩,
    ⟨rfl, rfl, rfl⟩, ⟨rfl, rfl, rfl, _, _, rfl, rfl⟩, ⟨_, rfl, rfl⟩, rfl, rfl, rfl, rfl, by decide⟩

/-- The address of v4:v5 is 0x1000; that of v4 in the SPAD window, 0x1000 of the part. -/
theorem witness_LoadsIssue :
    (∀ i ∈ [Instr.ld 8 4 .word .global .dev 0, .lda 8 4 .wide .spad .plot 0, .ldi 8 4 .byte .global .sys 63], Issues sLane i xLane (.strand 0) wPlot) ∧
    (∀ i ∈ [Instr.ld 8 4 .word .global .dev 0, .lda 9 4 .wide .spad .plot 0, .ldi 8 4 .byte .global .sys 63], Issues sFront i xFront .front wPlot) ∧
    wPlot.agent? (.strand 0) = some wAgent ∧ wPlot.agent? .front = some wAgent ∧ wAgent.loads.length < 32 ∧
    (∃ r, (sLane.begun xLane).reach wPlot.counted (.strand 0) (wPlot.regs.ea (.strand 0) 4 .word .global 0) 4 4 false = .ok r) ∧
    (∃ r, (sLane.begun xLane).reach wPlot.counted (.strand 0) (wPlot.regs.ea (.strand 0) 4 .wide .spad 0) 8 4 false = .ok r) ∧
    (∃ r, (sFront.begun xFront).reach wPlot.counted .front (wPlot.regs.ea .front 4 .byte .global 63) 1 1 false = .ok r) :=
  ⟨lane_all rfl, front_all rfl, rfl, rfl, by decide, ⟨_, rfl⟩, ⟨_, rfl⟩, _, rfl⟩

theorem witness_StoresIssue :
    (∀ i ∈ [Instr.st 6 4 .word .global .dev 0, .stl 6 4 .wide .spad .plot 0], Issues sLane i xLane (.strand 0) wPlot ∧ Issues sFront i xFront .front wPlot) ∧
    wPlot.agent? (.strand 0) = some wAgent ∧ wPlot.agent? .front = some wAgent ∧ wAgent.storeCount < 32 ∧
    (∃ r, (sLane.begun xLane).reach wPlot.counted (.strand 0) (wPlot.regs.ea (.strand 0) 4 .word .global 0) 4 4 true = .ok r) ∧
    (∃ r, (sFront.begun xFront).reach wPlot.counted .front (wPlot.regs.ea .front 4 .wide .spad 0) 8 8 true = .ok r) :=
  ⟨fun i h => ⟨lane_all rfl i h, front_all rfl i h⟩, rfl, rfl, by decide, ⟨_, rfl⟩, _, rfl⟩

def wAtoms : List Instr :=
  [.atomAdd 8 4 6 false .dev, .atomAnd 8 4 6 true .dev, .atomOr 8 4 6 false .dev, .atomXor 8 4 6 false .dev, .atomMins 8 4 6 false .dev,
    .atomMaxs 8 4 6 false .dev, .atomMinz 8 4 6 false .dev, .atomMaxz 8 4 6 false .dev, .atomXchg 8 4 6 false .sys, .atomCas 8 4 6 true .dev,
    .atomFadd 8 4 6 false .dev, .atomIncw 8 4 6 false .dev]

/-- The front thread's s4 = 0x1000 in device memory; with s4 at 2^40, host memory, which performs ADD but not AND. -/
def wHostFront : Front := { wFront with regs := wFront.regs.set 4 (BitVec.ofNat 64 (2 ^ 40)) }

def wHost : Plot := { wPlot with regs := { wPlot.regs with front := wHostFront } }

def sHost : State := { wBase with issue := some xFront, plots := [wHost] }

theorem witness_host_issues (i : Instr) (h : wf .uniform i = true) : Issues sHost i xFront .front wHost :=
  ⟨rfl, .inr rfl, rfl, rfl, rfl, clear_nil (a := wAgent) rfl rfl rfl _, h, ⟨wAgent, rfl, rfl⟩⟩

theorem witness_AtomsIssue :
    (∀ i ∈ wAtoms, Issues sLane i xLane (.strand 0) wPlot ∧ Issues sFront i xFront .front wPlot ∧ Issues sHost i xFront .front wHost) ∧
    wPlot.agent? (.strand 0) = some wAgent ∧ wHost.agent? .front = some wAgent ∧ wAgent.loads.length < 32 ∧ wAgent.storeCount < 32 ∧
    (∃ s1, (sLane.begun xLane).reach wPlot.counted (.strand 0) (wPlot.regs.wide (.strand 0) 4) 4 4 true = .ok ⟨some [(⟨.dev, 0x1000⟩, 4)], none, s1⟩) ∧
    (∃ s1, (sFront.begun xFront).reach wPlot.counted .front (wPlot.regs.wide .front 4) 8 8 true = .ok ⟨some [(⟨.dev, 0x1000⟩, 8)], none, s1⟩) ∧
    (∃ s1, (sHost.begun xFront).reach wHost.counted .front (wHost.regs.wide .front 4) 8 8 true = .ok ⟨some [(⟨.host, 2 ^ 52⟩, 8)], none, s1⟩) ∧
    hostAtom .add = true ∧ hostAtom .incw = true ∧ hostAtom .and = false :=
  ⟨fun i h => ⟨lane_all (l := wAtoms) rfl i h, front_all (l := wAtoms) rfl i h,
      witness_host_issues i (List.all_eq_true.1 (by rfl : wAtoms.all (wf .uniform) = true) i h)⟩,
    rfl, rfl, by decide, by decide, ⟨_, rfl⟩, ⟨_, rfl⟩, ⟨_, rfl⟩, rfl, rfl, rfl⟩

/-- The fences with nothing outstanding; PF of an address in a window, of one that is locked, and of one in device memory; STMX by the
last member of a cohort. -/
def wLocked : State :=
  { sLane with pavs := [{ wPav with locks := [⟨0, 1, 9, true, .global 0x1000 0x1003⟩] }] }

def wWindowed : Plot := { wPlot with regs := wPlot.regs.setV 0 5 ⟨0xFFFF0000#32, .raw⟩ }

theorem witness_FencesPrefetchAndStmx :
    (∀ i ∈ [Instr.fenceAcq .pav, .fenceRel .dev, .fenceFull .sys, .fenceView .dev, .pf 4 false, .pf 4 true], Issues sLane i xLane (.strand 0) wPlot) ∧
    wPlot.agent? (.strand 0) = some wAgent ∧ wAgent.loads = [] ∧ wAgent.stores = [] ∧
    regionOf (wWindowed.regs.wide (.strand 0) 4) = .window .spad 0x1000 ∧
    (regionOf (wPlot.regs.wide (.strand 0) 4) = .global 0x1000 ∧ sLane.touchesName 0 0x1000 1 = false ∧
      sLane.lockHit wPlot 0x1000#64 1 none true = none ∧ (wLocked.lockHit wPlot 0x1000#64 1 none true).isSome = true ∧
      ∃ s1, (sLane.begun xLane).translateFor wPlot.counted 0x1000 1 false = (.at ⟨.dev, 0x1000⟩, s1)) ∧
    (Meets sCohort (.stmx 10 4 6 .dev) xLane 31 3 wCohort ∧ mxTag (wCohort.regs.v 31 10).tag = true ∧
      scaleTag (wCohort.regs.v 31 (regPlus 10 1)).tag = true ∧
      (wCohort.regs.membersOf 3).find? (fun st => st.lane == 0) = some (wMember 0) ∧
      (wCohort.regs.membersOf 3).all (fun st => decide (st.ag.storeCount + stmxCount 8 st ≤ 32)) = true ∧
      (0x1000#64).toNat % 128 = 0 ∧ (0x2000#64).toNat % 8 = 0 ∧
      sCohort.checkPieces wCohort (.strand 0) 0x1000#64 true [(0x1000#64, 128)] = .ok [((0x1000#64, 128), none)] ∧
      sCohort.checkPieces wCohort (.strand 0) 0x2000#64 true [(0x2000#64, 8)] = .ok [((0x2000#64, 8), none)] ∧
      ∃ re rg, (sCohort.begun xLane).reachPieces wCohort.counted true [((0x1000#64, 128), none)] = .ok re ∧
        re.s.reachPieces wCohort.counted true [((0x2000#64, 8), none)] = .ok rg) :=
  ⟨lane_all rfl, rfl, rfl, rfl, rfl, ⟨rfl, rfl, rfl, rfl, _, rfl⟩,
    ⟨witness_meets _ rfl, rfl, rfl, rfl, rfl, rfl, rfl, rfl, rfl, _, _, rfl, rfl⟩⟩

theorem witness_AccessesPerform : sBusy.plot? 1 = some wBusy ∧ (∃ a, wBusy.real.agent? (.strand 0) = some a ∧
    (a.loads[0]? = some wLoad ∧ wBusy.real.mayLand (.strand 0) a wLoad = true ∧ wLoad.parts = some [(⟨.dev, 0x2000⟩, 4)] ∧ wLoad.kind ≠ .cycles) ∧
    (a.stores[0]? = some wStore ∧ wBusy.real.mayPerform (.strand 0) a wStore = true)) ∧
    (∃ s1, sBusy.dma false [(⟨.dev, 0x2000⟩, 4)] = (true, s1) ∧ s1.badPart 0 [(⟨.dev, 0x2000⟩, 4)] = none) ∧
    ∃ s1, sBusy.dma true wStore.span = (true, s1) :=
  ⟨rfl, ⟨_, rfl, ⟨rfl, rfl, rfl, by decide⟩, rfl, rfl⟩, ⟨_, rfl, rfl⟩, _, rfl⟩


/-! ### Control -/

/-- The small module with uncorrectable bytes. -/
def onBad (p : Plot) (bad : List Loc) : State := { onLane p with mem := { wBase.mem with bad := bad } }

theorem bad_on {p : Plot} {a : Agent} (hid : p.id = 1) (hb : p.issuers .bundle = [.strand 0]) (hr : p.run = .running)
    (ha : p.regs.agent? (.strand 0) = some a) (hh : a.handler = false) (hl : a.loads = []) (bad : List Loc) (i : Instr) (h : wf .lane i = true) :
    Issues (onBad p bad) i xLane (.strand 0) p :=
  ⟨rfl, .inl rfl, by show [p].find? (fun q => q.id == 1) = some p; simp [hid], hb, hr, clear_nil ha hh hl _, h, ⟨a, ha, by rw [hh]; rfl⟩⟩

/-- Offset 0x80 is a header and 0x84 is not; the word at 0x44 takes 15 or 16 words forward, or falls through to 0x48, which is one. -/
theorem witness_BranchesAndJumps :
    (∀ i ∈ [Instr.br .always 15, .br .always 16, .br (.ifSet 1) 15, .call .always 15, .call .always 16, .call (.ifSet 1) 15, .brx .always 15, .jr 8, .ret,
      .callr 8], Issues sLane i xLane (.strand 0) wPlot) ∧
    (∀ i ∈ [Instr.br .always 15, .br .always 16, .br (.ifSet 1) 15, .call .always 15, .call .always 16, .call (.ifSet 1) 15, .jr 8, .ret, .callr 8],
      Issues sFront i xFront .front wPlot) ∧
    (condTrue wPlot.regs (.strand 0) .always = true ∧ ∃ r, (sLane.begun xLane).checkEntry wPlot.counted (xLane.pc + ((15#22).signExtend 32 <<< 2)) = .ok r ∧
      r.val = true ∧ r.s.plot? 1 = some wPlot.counted) ∧
    (∃ r, (sLane.begun xLane).checkEntry wPlot.counted (xLane.pc + ((16#22).signExtend 32 <<< 2)) = .ok r ∧ r.val = false ∧ r.notes = []) ∧
    (∃ r, ((onBad wPlot [⟨.dev, 0x10804⟩]).begun xLane).checkEntry wPlot.counted (xLane.pc + ((15#22).signExtend 32 <<< 2)) = .ok r ∧ r.notes = [(7, 0x10804#64)] ∧
      Issues (onBad wPlot [⟨.dev, 0x10804⟩]) (.br .always 15) xLane (.strand 0) wPlot) ∧
    (condTrue wPlot.regs (.strand 0) (.ifSet 1) = false ∧ ∃ r, (sLane.begun xLane).checkEntry wPlot.counted (xLane.pc + 4#32) = .ok r ∧ r.val = true) ∧
    (∃ r, (sFront.begun xFront).checkEntry wPlot.counted (xFront.pc + ((15#22).signExtend 32 <<< 2)) = .ok r ∧ r.val = true) ∧
    (wPlot.agent? (.strand 0) = some wAgent ∧ wAgent.clause.isSome = true) :=
  ⟨lane_all rfl, front_all rfl, ⟨rfl, _, rfl, rfl, rfl⟩, ⟨_, rfl, rfl, rfl⟩, ⟨_, rfl, rfl, bad_on rfl rfl rfl rfl rfl rfl _ _ rfl⟩, ⟨rfl, _, rfl, rfl⟩, ⟨_, rfl, rfl⟩, rfl, rfl⟩

/-- Registers v8, v63 and s8, s63 at a header; v9 tagged BF16x2 at one; v10 at no header; s9 with bit 32. -/
def wJump : Plot :=
  wPlot.modRegs (fun g => ((((((g.setV 0 8 ⟨0x80#32, .z32⟩).setV 0 63 ⟨0x40#32, .raw⟩).setV 0 9 ⟨0x80#32, .bf16x2⟩).setV 0 10 ⟨0x84#32, .s32⟩).setS 8 0x80#64).setS 63
    0x40#64).setS 9 0x100000080#64)

theorem witness_jumps :
    (∀ i ∈ [Instr.jr 8, .ret, .callr 8, .jr 9, .callr 10], Issues (onLane wJump) i xLane (.strand 0) wJump) ∧
    (∀ i ∈ [Instr.jr 8, .ret, .callr 8, .jr 9], Issues (onFront wJump) i xFront .front wJump) ∧
    (wJump.regs.zx (.strand 0) 8 = 0x80#64 ∧ tagsOk indexAccepts wJump.regs (.strand 0) [8] ∧
      ∃ r, ((onLane wJump).begun xLane).checkEntry wJump.counted 0x80#32 = .ok r ∧ r.val = true) ∧
    (wJump.regs.zx .front 63 = 0x40#64 ∧ tagsOk indexAccepts wJump.regs .front [63] ∧
      ∃ r, ((onFront wJump).begun xFront).checkEntry wJump.counted 0x40#32 = .ok r ∧ r.val = true) ∧
    (wJump.regs.zx (.strand 0) 9 = 0x80#64 ∧ indexAccepts (wJump.regs.tagOf (.strand 0) 9) = false) ∧
    (wJump.regs.zx (.strand 0) 10 = 0x84#64 ∧ ∃ r, ((onLane wJump).begun xLane).checkEntry wJump.counted 0x84#32 = .ok r ∧ r.val = false ∧ r.notes = []) ∧
    wJump.regs.zx .front 9 >>> 32 ≠ 0#64 :=
  ⟨fun i h => lane_on (a := wAgent) rfl rfl rfl rfl rfl rfl i
      (List.all_eq_true.1 (by rfl : [Instr.jr 8, .ret, .callr 8, .jr 9, .callr 10].all (wf .lane) = true) i h),
    fun i h => front_on (a := wAgent) rfl rfl rfl rfl rfl i (List.all_eq_true.1 (by rfl : [Instr.jr 8, .ret, .callr 8, .jr 9].all (wf .uniform) = true) i h),
    ⟨rfl, by unfold tagsOk; decide, _, rfl, rfl⟩, ⟨rfl, by unfold tagsOk; decide, _, rfl, rfl⟩, ⟨rfl, rfl⟩, ⟨rfl, _, rfl, rfl, rfl⟩, by decide⟩

theorem witness_WaitExitAndCohorts :
    (∀ i ∈ [Instr.wait 0 0 0 0, .wait 15 15 15 15, .nop, .yield, .exit, .join 15, .leave], Issues sLane i xLane (.strand 0) wPlot) ∧
    (∀ i ∈ [Instr.wait 0 0 0 0, .nop, .yield, .exit], Issues sFront i xFront .front wPlot) ∧
    wPlot.agent? (.strand 0) = some wAgent ∧ waitMet wAgent.loads.length 0 = true ∧ waitMet wAgent.storeCount 0 = true ∧
    waitMet wPlot.copies.length 0 = true ∧ waitMet wPlot.tops.length 0 = true ∧ wPlot.regs.strand? 0 = some wStrand ∧
    wStrand.cohort ≠ some 15#4 ∧ (wPlot.regs.cohort 15).length < 32 :=
  ⟨lane_all rfl, front_all rfl, rfl, rfl, rfl, rfl, rfl, rfl, by decide, by decide⟩

/-- SPAWN to a header with a row free, with none, and to no header; RDV by the last of a cohort; REORDER. -/
def wFull : Plot := { wJump with rows := List.range 16 }

theorem witness_RendezvousSpawnReorder :
    (Meets sCohort .rdv xLane 31 3 wCohort ∧ wCohort.drained (.strand 31) = true) ∧
    (∀ i ∈ [Instr.spawn 8, .spawn 10, .reorder 8 63], Issues (onLane wJump) i xLane (.strand 0) wJump) ∧
    (∀ i ∈ [Instr.spawn 8], Issues (onLane wFull) i xLane (.strand 0) wFull) ∧
    (∃ st, wJump.regs.strand? 0 = some st ∧ st.spawned = false ∧ st.ag.drained = true) ∧ tagsOk indexAccepts wJump.regs (.strand 0) [8, 10] ∧
    (∃ r, ((onLane wJump).begun xLane).checkEntry wJump.counted (wJump.regs.v 0 8).val = .ok r ∧ r.val = true ∧
      (∃ row rest, r.s.freeRows wJump.pav wJump.bed = row :: rest) ∧ wJump.rows.length < 16) ∧
    (∃ r, ((onLane wFull).begun xLane).checkEntry wFull.counted (wFull.regs.v 0 8).val = .ok r ∧ r.val = true ∧ 16 ≤ wFull.rows.length) ∧
    ∃ r, ((onLane wJump).begun xLane).checkEntry wJump.counted (wJump.regs.v 0 10).val = .ok r ∧ r.val = false ∧ r.notes = [] :=
  ⟨⟨witness_meets _ rfl, rfl⟩,
    fun i h => lane_on (a := wAgent) rfl rfl rfl rfl rfl rfl i (List.all_eq_true.1 (by rfl : [Instr.spawn 8, .spawn 10, .reorder 8 63].all (wf .lane) = true) i h),
    fun i h => lane_on (a := wAgent) rfl rfl rfl rfl rfl rfl i (List.all_eq_true.1 (by rfl : [Instr.spawn 8].all (wf .lane) = true) i h),
    ⟨_, rfl, rfl, rfl⟩, by unfold tagsOk; decide, ⟨_, rfl, rfl, ⟨_, _, rfl⟩, by decide⟩, ⟨_, rfl, rfl, by decide⟩, _, rfl, rfl, rfl⟩

/-- A queue of one word, an empty one beside a live front thread and beside one that has exited, a full one, and one that a POPQ waits at. -/
def wQueued (l : List Word) : Plot := { wPlot with dq := l }

def wExited : Plot := { wPlot with regs := { wPlot.regs with front := { wFront with ag := { wAgent with phase := .exited } } } }

def wPopper : Plot :=
  { wPlot with regs := { wPlot.regs with strands := [{ wStrand with ag := { wAgent with phase := .blocked, wait := .popq 9 } }] } }

/-- The front thread waits at a PUSHQ. -/
def wPushing : Plot := { wQueued [7#32] with regs := { wPlot.regs with front := { wFront with ag := { wAgent with phase := .blocked, wait := .pushq } } } }

theorem witness_DecisionQueue :
    (Issues (onLane wPushing) (.popq 8) xLane (.strand 0) wPushing ∧ wPushing.dq = 7#32 :: [] ∧ wPushing.regs.front.ag.phase = .blocked ∧
      wPushing.regs.front.ag.wait = .pushq) ∧
    (∀ l, Issues (onLane (wQueued l)) (.popq 8) xLane (.strand 0) (wQueued l) ∧ Issues (onLane (wQueued l)) (.peekq 8) xLane (.strand 0) (wQueued l) ∧
      Issues (onFront (wQueued l)) (.pushq 4) xFront .front (wQueued l)) ∧
    ((wQueued [7#32]).dq = 7#32 :: [] ∧ ¬(wPlot.regs.front.ag.phase = .blocked ∧ wPlot.regs.front.ag.wait = .pushq)) ∧
    (wQueued []).regs.front.ag.phase ≠ .exited ∧
    (Issues (onLane wExited) (.popq 8) xLane (.strand 0) wExited ∧ wExited.dq = [] ∧ wExited.regs.front.ag.phase = .exited) ∧
    (wPlot.drained .front = true ∧ wPlot.regs.zx .front 4 >>> 32 = 0#64 ∧ tagsOk indexAccepts wPlot.regs .front [4] ∧ wPlot.regs.longestPop = none) ∧
    (wQueued (List.replicate 63 0#32)).dq.length < 64 ∧ 64 ≤ (wQueued (List.replicate 64 0#32)).dq.length ∧
    (Issues (onFront wPopper) (.pushq 4) xFront .front wPopper ∧ wPopper.drained .front = true ∧ wPopper.regs.longestPop = some (0, 9)) :=
  ⟨⟨lane_on (a := wAgent) rfl rfl rfl rfl rfl rfl _ rfl, rfl, rfl, rfl⟩,
    fun l => ⟨lane_on (a := wAgent) rfl rfl rfl rfl rfl rfl _ rfl, lane_on (a := wAgent) rfl rfl rfl rfl rfl rfl _ rfl,
      front_on (a := wAgent) rfl rfl rfl rfl rfl _ rfl⟩,
    ⟨rfl, by decide⟩, by decide, ⟨lane_on (a := wAgent) rfl rfl rfl rfl rfl rfl _ rfl, rfl, rfl⟩, ⟨rfl, rfl, by unfold tagsOk; decide, rfl⟩, by decide,
    by decide, front_on (a := wAgent) rfl rfl rfl rfl rfl _ rfl, rfl, rfl⟩

/-- A plot whose strand 0 is in handler mode. -/
def wHandlerAgent : Agent := { wAgent with handler := true, tpc := 0x80#32 }

def wHandler : Plot := { wPlot with regs := { wPlot.regs with strands := [{ wStrand with ag := wHandlerAgent }] } }

theorem handler_on (i : Instr) (h : wf .lane i = true) (hb : barredInHandler i = false) (hc : wHandler.regs.clear (.strand 0) (wHandler.regs.useFor (.strand 0) i) = true) :
    Issues (onLane wHandler) i xLane (.strand 0) wHandler :=
  ⟨rfl, .inl rfl, rfl, rfl, rfl, hc, h, ⟨wHandlerAgent, rfl, by rw [hb]; rfl⟩⟩

/-- Every special register; srFPF with a value below 32 and one that is not; srTPC in handler mode and out of it. -/
theorem witness_SpecialRegisters :
    (∀ n : BitVec 6, n.toNat < 23 → Issues sLane (.movsr 8 n) xLane (.strand 0) wPlot ∧ Issues sFront (.movsr 8 n) xFront .front wPlot) ∧
    wPlot.agent? (.strand 0) = some wAgent ∧ wAgent.loads.length < 32 ∧
    (∀ i ∈ [Instr.movrs 0 21, .movrs 4 21, .movrs 4 19, .rkset 4 3], Issues sLane i xLane (.strand 0) wPlot ∧ Issues sFront i xFront .front wPlot) ∧
    (wPlot.regs.zx (.strand 0) 0).toNat < 32 ∧ 32 ≤ (wPlot.regs.zx .front 4).toNat ∧ wAgent.handler = false ∧
    (Issues (onLane wHandler) (.movrs 4 19) xLane (.strand 0) wHandler ∧ wHandler.agent? (.strand 0) = some wHandlerAgent ∧ wHandlerAgent.handler = true ∧
      (wHandler.regs.zx (.strand 0) 4).toNat < 2 ^ 32) ∧ wPlot.origin = .grid :=
  ⟨fun n hn => ⟨witness_lane_issues _ (by simpa [wf] using hn), witness_front_issues _ (by simpa [wf] using hn)⟩, rfl, by decide,
    fun i h => ⟨lane_all rfl i h, front_all rfl i h⟩, by decide, by decide, rfl, ⟨handler_on _ rfl rfl (by decide), rfl, rfl, by decide⟩, rfl⟩


/-! ### Barriers, arrival words, rings and traps -/

/-- Barrier 0 not initialised; 1 active with one arrival of three to come and phase 5; 2 active with one to come; 3 waited at by the front thread. -/
def wBars : Plot :=
  { wPlot with
    bars := (((Vector.replicate 16 Barrier.reset).set 1 ⟨5#32, .active, 0, 0, 3⟩).set 2 ⟨5#32, .active, 0, 2, 3⟩).set 3 ⟨0#32, .active, 0, 0, 3⟩
    regs := { wPlot.regs with
      strands := [{ wStrand with regs := ((wRegs.set 20 ⟨1023#32, .raw⟩).set 21 ⟨4#32, .z32⟩).set 22 ⟨5#32, .z32⟩ }]
      front := { wFront with ag := { wAgent with phase := .blocked, wait := .barrier 3 1 0#32 false } } } }

theorem bars_on (i : Instr) (h : wf .lane i = true) : Issues (onLane wBars) i xLane (.strand 0) wBars :=
  lane_on (a := wAgent) rfl rfl rfl rfl rfl rfl i h

/-- Strand 0 issues a SYNC again with the token `u` that it keeps. -/
def wKept (u : Word) : Plot :=
  { wBars with regs := { wBars.regs with strands := [{ wStrand with ag := { wAgent with wait := .barrier 1 8 u true } }] } }

theorem witness_BarrierWords :
    (∀ u, Issues (onLane (wKept u)) (.barSync 8 1) xLane (.strand 0) (wKept u) ∧ (wKept u).keptToken (.strand 0) 1 = some u) ∧
    ((0x80000000#32).getLsbD 31 = true ∧ (4#32).getLsbD 31 = false ∧ ((wKept 4#32).bar 1).state = .active ∧ ((wKept 4#32).bar 1).passed 4#32 = true ∧
      ((wKept 5#32).bar 1).passed 5#32 = false ∧ ∀ n : Fin 16, wBars.keptToken (.strand 0) n = none) ∧
    (∀ n : BitVec 4, ∀ d : Reg, Issues (onLane wBars) (.barInit d n) xLane (.strand 0) wBars ∧ Issues (onLane wBars) (.barArrive d n) xLane (.strand 0) wBars ∧
      Issues (onLane wBars) (.barWait d n) xLane (.strand 0) wBars ∧ Issues (onLane wBars) (.barSync d n) xLane (.strand 0) wBars ∧
      Issues (onLane wBars) (.barInval n) xLane (.strand 0) wBars ∧ Issues (onLane wBars) (.barQuery d n) xLane (.strand 0) wBars ∧
      Issues sFront (.barArrive d n) xFront .front wPlot) ∧
    ((wBars.regs.zx (.strand 0) 20).toNat = 1023 ∧ tagsOk indexAccepts wBars.regs (.strand 0) [20, 21, 22] ∧ wBars.wtr 0 = false ∧ wBars.wtr 3 = true) ∧
    ((wBars.regs.zx (.strand 0) 8).toNat = 0 ∧ 1023 < (wBars.regs.zx (.strand 0) 4).toNat) ∧ wBars.drained (.strand 0) = true ∧
    ((wBars.bar 1).state = .active ∧ (wBars.bar 1).arrived + 1 ≠ (wBars.bar 1).expected ∧ (wBars.bar 2).state = .active ∧
      (wBars.bar 2).arrived + 1 = (wBars.bar 2).expected ∧ (wBars.bar 0).state ≠ .active ∧ (wBars.bar 1).phase.getLsbD 31 = false) ∧
    ((wBars.regs.zx (.strand 0) 21) >>> 32 = 0#64 ∧ (4#32).getLsbD 31 = false ∧ (5 + 2 ^ 31 - 4) % 2 ^ 31 = 1 ∧ ¬(1 ≤ (5 + 2 ^ 31 - 5) % 2 ^ 31)) :=
  ⟨fun u => ⟨lane_on (a := { wAgent with wait := .barrier 1 8 u true }) rfl rfl rfl rfl rfl rfl _ rfl, rfl⟩, ⟨by decide, by decide, rfl, by decide, by decide, fun _ => rfl⟩,
    fun n d => ⟨bars_on _ rfl, bars_on _ rfl, bars_on _ rfl, bars_on _ rfl, bars_on _ rfl, bars_on _ rfl, witness_front_issues _ rfl⟩,
    ⟨by decide, by unfold tagsOk; decide, rfl, rfl⟩, ⟨by decide, by decide⟩, rfl, ⟨rfl, by decide, rfl, rfl, by decide, by decide⟩, by decide⟩

/-- v0 is 0, at which a word of 16 bytes and a record of 32 lie in the context's part of SPAD; v4 is 0x1000. -/
theorem witness_ArrivalWordsAndRings :
    (∀ i ∈ [Instr.ainit 0 6, .aadd 0 6, .await 8 0 6, .rinit 8 0, .rwaitf 8 0, .rrel 0, .rstat 8 0, .ainit 4 6, .rinit 8 4],
      Issues sLane i xLane (.strand 0) wPlot ∧ Issues sFront i xFront .front wPlot) ∧
    (wPlot.regs.zx (.strand 0) 0 = BitVec.ofNat 64 0 ∧ wPlot.regs.zx .front 4 = BitVec.ofNat 64 0x1000 ∧ 0x1000 < 2 ^ 32) ∧
    (0x1000 % 16 = 0 ∧ (sLane.spadLoc wPlot.pav wPlot.ctx 0x1000 16).isSome = true ∧ (sLane.spadLoc wPlot.pav wPlot.ctx 0 16).isSome = true) ∧
    (0x1000 % 32 = 0 ∧ (sFront.spadLoc wPlot.pav wPlot.ctx 0x1000 32).isSome = true) ∧ wPlot.drained (.strand 0) = true :=
  ⟨fun i h => ⟨lane_all rfl i h, front_all rfl i h⟩, ⟨by decide, by decide, by decide⟩, ⟨by decide, rfl, rfl⟩, ⟨by decide, rfl⟩, rfl⟩

theorem witness_RaisedByWords : ∀ i ∈ [Instr.trap 63, .brk 0, .ud, .illegalEncoding 4 0xA4000000#32],
    Issues sLane i xLane (.strand 0) wPlot ∧ Issues sFront i xFront .front wPlot := fun i h => ⟨lane_all rfl i h, front_all rfl i h⟩

theorem witness_TrapEntry : wPlot.regs.agent? (.strand 0) = some wAgent ∧ wPlot.regs.agent? .front = some wAgent := ⟨rfl, rfl⟩

/-- Agents that hold a trap, recorded or not, in a launch whose code object has no trap vector and in one that has one at its end. -/
def wTrapped (r : Bool) : Plot :=
  let t : Trap := ⟨.illegal, 10, 0xA0000004#64, 0x44#32, r⟩
  { wPlot with
    bundle := none
    regs := { wPlot.regs with
      strands := [{ wStrand with ag := { wAgent with phase := .waiting, trap := some t } }]
      front := { wFront with ag := { wAgent with phase := .waiting, trap := some t } } } }

def sTrapped (r : Bool) : State :=
  { wBase with
    plots := [wTrapped r]
    mem := { wBase.mem with dev := cellsSet wBase.mem.dev 0x10FF8 (natBytes (0x40 + 2 ^ 32 * 0x80) 8) } }

/-- A plot that has come to its stop, and is to halt for the trap. -/
def wHalting (r : Bool) : Plot := { wTrapped r with halt := some (.front, ⟨.illegal, 10, 0xA0000004#64, 0x44#32, r⟩) }

theorem witness_TrapsRecordedAndDelivered :
    (∀ r, (sTrapped r).plot? 1 = some (wTrapped r) ∧ (sTrapped r).runsPlain (wTrapped r) = true) ∧
    (wPlot.agent? (.strand 0) = some wAgent ∧ wAgent.handler = false) ∧ (wHandler.agent? (.strand 0) = some wHandlerAgent ∧ wHandlerAgent.handler = true) ∧
    ((wTrapped true).regs.front.ag.handler = false ∧ (wTrapped true).regs.front.ag.trap = some ⟨.illegal, 10, 0xA0000004#64, 0x44#32, true⟩ ∧
      ∃ e, (sTrapped true).handlerEntry (wTrapped true) .uniform = .ok e) ∧
    (∀ r, (∀ y ∈ (wTrapped r).regs.strands, y.ag.handler = false) ∧ ∃ st, (sTrapped r).firstTrap (wTrapped r) = some (st, ⟨.illegal, 10, 0xA0000004#64, 0x44#32, r⟩) ∧
      (wTrapped r).agent? (.strand st.key) = some st.ag ∧ st ∈ (wTrapped r).regs.strands) ∧
    (∃ e, (sTrapped true).handlerEntry (wTrapped true) .lane = .ok e) ∧
    ((wHalting true).halt = some (.front, ⟨.illegal, 10, 0xA0000004#64, 0x44#32, true⟩) ∧ (wHalting true).haltsNow = true) :=
  ⟨fun r => ⟨rfl, rfl⟩, ⟨rfl, rfl⟩, ⟨rfl, rfl⟩, ⟨rfl, rfl, _, rfl⟩, fun r => ⟨by intro y h; rw [List.mem_singleton.1 h]; rfl, _, rfl, rfl, List.mem_singleton.2 rfl⟩, ⟨_, rfl⟩, rfl, by decide⟩

theorem ok_of {ε α : Type} {x : Except ε α} {f : α → Bool} (h : (match x with | .ok a => f a | .error _ => false) = true) :
    ∃ a, x = .ok a ∧ f a = true := by
  cases x with
  | error e => cases h
  | ok a => exact ⟨a, rfl, h⟩

/-- ERET out of handler mode; with srTPC outside the code object, at a header, within the clause at 0x40, past the end of the one at 0x80,
and far from any header; and where the map's byte, one below, or the header cannot be read. -/
def wReturn (t : Word) : Plot := { wPlot with regs := { wPlot.regs with strands := [{ wStrand with ag := { wHandlerAgent with tpc := t } }] } }

/-- What ERET's reads come to: the map's bit, the header below, and its count, each with whether its bytes are good. -/
structure EretReads where
  bit : Bool
  clean : Bool
  header : Option Word
  headerClean : Bool
  cnt : Nat
  cntClean : Bool
  deriving DecidableEq

def eretReads (t : Word) (bad : List Loc) : Option EretReads :=
  let s := (onBad (wReturn t) bad).begun xLane
  let p := (wReturn t).counted
  if !s.offsetOk p t then none
  else
    match s.mapBit p t with
    | .error _ => none
    | .ok m =>
      match m.s.headerBelow p t 15 with
      | .error _ => none
      | .ok h =>
        match h.val with
        | none => some ⟨m.val, m.notes.isEmpty, none, h.notes.isEmpty, 0, true⟩
        | some a =>
          match h.s.codeWord p a with
          | .error _ => none
          | .ok w => some ⟨m.val, m.notes.isEmpty, some a, h.notes.isEmpty, hdrCnt w.val, w.notes.isEmpty⟩

theorem witness_TrapReturn : Issues sLane .eret xLane (.strand 0) wPlot ∧ wPlot.agent? (.strand 0) = some wAgent ∧ wAgent.handler = false ∧
    (∀ t b, Issues (onBad (wReturn t) b) .eret xLane (.strand 0) (wReturn t) ∧ (wReturn t).agent? (.strand 0) = some { wHandlerAgent with tpc := t }) ∧
    ((onBad (wReturn 0x1000#32) []).begun xLane).offsetOk (wReturn 0x1000#32).counted 0x1000#32 = false ∧
    (eretReads 0x40#32 []).any (fun r => r.bit) = true ∧ (eretReads 0x40#32 [⟨.dev, 0x10802⟩]).any (fun r => !r.clean) = true ∧
    (eretReads 0x44#32 [] = some ⟨false, true, some 0x40#32, true, 15, true⟩ ∧ (0x44#32).toNat < (0x40#32).toNat + 4 + 4 * 15) ∧
    (eretReads 0x84#32 [] = some ⟨false, true, some 0x80#32, true, 0, true⟩ ∧ (0x80#32).toNat + 4 + 4 * 0 ≤ (0x84#32).toNat) ∧
    eretReads 0x7C0#32 [] = some ⟨false, true, none, true, 0, true⟩ ∧ eretReads 0x7C0#32 [⟨.dev, 0x1083C⟩] = some ⟨false, true, none, false, 0, true⟩ ∧
    (eretReads 0x44#32 [⟨.dev, 0x10040⟩]).any (fun r => !r.bit && r.clean && r.header == some 0x40#32 && !r.cntClean) = true :=
  ⟨witness_lane_issues _ rfl, rfl, rfl, fun t b => ⟨⟨rfl, .inl rfl, rfl, rfl, rfl, rfl, rfl, ⟨_, rfl, rfl⟩⟩, rfl⟩, rfl, by decide +kernel, by decide +kernel,
    ⟨by decide +kernel, by decide⟩, ⟨by decide +kernel, by decide⟩, by decide +kernel, by decide +kernel, by decide +kernel⟩


/-! ### The bed -/

/-- A strand that waits at the header at 0x40, in the frontier. -/
def wWaiting : Plot :=
  { wPlot with
    bundle := none
    regs := { wPlot.regs with strands := [{ wStrand with ag := Agent.start 0x40#32 .waiting 0 }], frontier := [⟨0x40#32, 100000, none, false⟩] } }

def sWaiting : State := { wBase with plots := [wWaiting] }

theorem some_of {α : Type} {x : Option α} {f : α → Bool} (h : (match x with | some a => f a | none => false) = true) : ∃ a, x = some a ∧ f a = true := by
  cases x with
  | none => cases h
  | some a => exact ⟨a, rfl, h⟩

theorem isSome_of {α : Type} {x : Option α} (h : x.isSome = true) : ∃ a, x = some a := Option.isSome_iff_exists.1 h

/-- Thirty-two strands exiled at 0x80, the oldest since plot cycle 0. -/
def wExiled : Plot :=
  { wPlot with
    bundle := none, pcyc := 512
    regs := ⟨(List.range 32).map (fun k => { Strand.start k (BitVec.ofNat 32 k) 0 k 0x80#32 0 with ag := Agent.start 0x80#32 .exiled 0 }), wFront, Banks.reset,
      0#32, [], []⟩ }

/-- A move planned; a REORDER begun 2^20 plot cycles ago; a cohort of which a member waits since cycle 0. -/
def wMoving : Plot := { wPlot with moves := [⟨0, 0, 5⟩], gatherAt := some 0, pcyc := 2 ^ 20 }

def sLate (p : Plot) : State := { wBase with plots := [p], clk := ⟨#v[2 ^ 20, 2 ^ 20], #v[0, 0]⟩ }

/-- The plot with so many others of its bed in flight. -/
def sCrowded (n : Nat) : State := { sWaiting with plots := wWaiting :: (List.range n).map (fun k => { wPlot with id := k + 2 }) }

theorem crowded : ∀ n ∈ [0, 7, 8], (sCrowded n).plot? 1 = some wWaiting ∧ (sCrowded n).mayIssue wWaiting = true ∧ wWaiting.bundle = none ∧
    ∃ q, (((sCrowded n).enterAll 1).releaseBlocked 1).plot? 1 = some q ∧
      (q.chosenEntry.isSome && ((((sCrowded n).enterAll 1).releaseBlocked 1).admits q == decide (n < 8))) = true := by
  intro n hn
  simp only [List.mem_cons, List.not_mem_nil, or_false] at hn
  rcases hn with rfl | rfl | rfl <;> exact ⟨rfl, rfl, rfl, some_of (by decide +kernel)⟩

theorem witness_BundlesAndRegrouping :
    (∀ n ∈ [0, 7, 8], (sCrowded n).plot? 1 = some wWaiting ∧ (sCrowded n).mayIssue wWaiting = true ∧ wWaiting.bundle = none ∧
      ∃ q, (((sCrowded n).enterAll 1).releaseBlocked 1).plot? 1 = some q ∧
        (q.chosenEntry.isSome && ((((sCrowded n).enterAll 1).releaseBlocked 1).admits q == decide (n < 8))) = true) ∧
    (∃ e ∈ wWaiting.regs.frontier, wWaiting.fair ≤ e.age) ∧
    ((onLane wExiled).plot? 1 = some wExiled ∧ (onLane wExiled).runsPlain wExiled = true ∧ wExiled.moves = [] ∧ wExiled.gathering = false ∧
      wExiled.fullGroup 0x80#32 = true ∧ (wExiled.exilesAt 0x80#32).any (fun st => decide (st.ag.since + 512 ≤ wExiled.pcyc)) = true) ∧
    ((onLane wMoving).plot? 1 = some wMoving ∧ (onLane wMoving).runsPlain wMoving = true ∧ wMoving.moves = ⟨0, 0, 5⟩ :: [] ∧
      wMoving.gatherAt = some 0 ∧ 0 + 2 ^ 20 ≤ wMoving.pcyc) ∧
    ((sLate wCohort).plot? 1 = some wCohort ∧ (sLate wCohort).runsPlain wCohort = true ∧
      ((wCohort.regs.cohort 3).filter (fun st => st.ag.phase == .blocked && st.ag.wait == .rendezvous)).any
        (fun st => decide (st.ag.blockedAt + 2 ^ 20 ≤ (sLate wCohort).cycles wCohort.pav)) = true) :=
  ⟨crowded, ⟨_, List.mem_singleton.2 rfl, by decide⟩, ⟨rfl, rfl, rfl, by decide +kernel, by decide +kernel, by decide +kernel⟩,
    ⟨rfl, rfl, rfl, rfl, by decide⟩, rfl, rfl, by decide +kernel⟩

/-- Two ready entries, one of them promoted. -/
def wEntries : Plot :=
  { wPlot with
    regs := { wPlot.regs with
      strands := [{ wStrand with ag := { wAgent with pc := 0x40#32, phase := .waiting } },
        { wStrand with key := 1, lane := 1, ag := { wAgent with pc := 0x80#32, phase := .waiting, clause := some ⟨0x80#32, plainHeader 15 0⟩ } }]
      frontier := [⟨0x40#32, 0, none, false⟩, ⟨0x80#32, 0, some 3, false⟩] } }

theorem witness_ChosenEntryIsFirst : wEntries.chosenEntry = some ⟨0x80#32, 0, some 3, false⟩ ∧ (∀ f ∈ wEntries.regs.frontier, wEntries.entryReady f = true) ∧
    ∃ q, ((sWaiting.enterAll 1).releaseBlocked 1).plot? 1 = some q ∧ q.chosenEntry.isSome = true :=
  ⟨by decide +kernel, by decide +kernel, some_of (by decide +kernel)⟩

/-! ### The matrix engine -/

/-- s8 an operand of rows of 32 bytes at SPAD 0, s9 an index list there, s10 a tile word of rows of 256 bytes; tile 2 is S32. -/
def wMatrix : Plot :=
  { wPlot with regs := { wPlot.regs with front := { wFront with
      regs := (wFront.regs.set 8 0x0002000000000000#64).set 10 0x0010000000000000#64 } } }

def sMatrix : State := onFront wMatrix

theorem witness_MatrixWords :
    (∀ i ∈ [Instr.mma 2 8 8 8 0, .mmag 2 8 8 8 0, .tzero 0 true, .tzero 1 false, .tld 0 10 true, .tst 2 10, .tscal 0 4, .tadd 0 0 0, .tadd 0 1 1],
      Issues sMatrix i xFront .front wMatrix) ∧
    tilesIn wMatrix [0, 1, 2] = true ∧ (sMatrix.begun xFront).operandOk wMatrix.counted 8 true 1 (wMatrix.regs.zx .front 8) = true ∧
    wMatrix.tileS32At 2 = pairS32 8 ∧ (sMatrix.begun xFront).operandOk wMatrix.counted 8 false 1 (wMatrix.regs.zx .front 8) = true ∧
    (operandFields 8 false 1 (wMatrix.regs.zx .front 8) true = true ∧
      (sMatrix.begun xFront).indexList wMatrix.counted (wMatrix.regs.zx .front (regPlus 8 1)) = some (List.replicate 64 0) ∧
      (sMatrix.begun xFront).rowOk wMatrix.counted 8 false 1 (wMatrix.regs.zx .front 8) 0 = true) ∧
    (sMatrix.begun xFront).tileWordOk wMatrix.counted (wMatrix.regs.zx .front 10) = true ∧ wMatrix.tileS32At 0 = false ∧
    (wMatrix.drained .front = true ∧ wMatrix.tops.length < 8 ∧ ∀ n ≤ 64, sMatrix.lockRoom wMatrix.pav n = true) ∧
    ((sMatrix.begun xFront).reportBad wMatrix.counted ((sMatrix.begun xFront).badSpan wMatrix.counted .spad
      (wMatrix.regs.zx .front (regPlus 8 1)).toNat 128)).lockRoom wMatrix.pav 64 = true ∧ wMatrix.pav < 320 ∧ (sMatrix.tile wMatrix 0).bad = [] :=
  ⟨fun i h => front_on (a := wAgent) rfl rfl rfl rfl rfl i (List.all_eq_true.1 (by rfl : [Instr.mma 2 8 8 8 0, .mmag 2 8 8 8 0, .tzero 0 true, .tzero 1 false,
      .tld 0 10 true, .tst 2 10, .tscal 0 4, .tadd 0 0 0, .tadd 0 1 1].all (wf .uniform) = true) i h),
    rfl, by decide +kernel, rfl, by decide +kernel, ⟨rfl, by decide +kernel, rfl⟩, by decide +kernel, rfl,
    ⟨rfl, by decide, by intro n hn; show decide (0 + n ≤ 64) = true; simpa using hn⟩, by decide +kernel, by decide, rfl⟩

/-- A TZERO of tile 1 outstanding, first of its plot. -/
def wTile : Plot := { wMatrix with tops := [⟨0, .tzero 1, 0, 0#5⟩] }

theorem witness_MatrixPerforms : (onFront wTile).plot? 1 = some wTile ∧ (onFront wTile).tileReady wTile = some ⟨0, .tzero 1, 0, 0#5⟩ := ⟨rfl, rfl⟩

/-! ### Versions -/

/-- Pages of a versioned region: 0 with free slots; 1 with step 9 open and step 5 committed; 2 with every slot open. -/
def wVersions : VRegion :=
  ⟨0, 0, 2 ^ 32, 4, 2, 0x100000, 0x100000, 0x200000, 0,
    [⟨1, some 9#64, [⟨.opened, 9#64⟩, ⟨.committed, 5#64⟩]⟩, ⟨2, some 12#64, [⟨.opened, 11#64⟩, ⟨.opened, 12#64⟩]⟩]⟩

/-- s16, s17 and s18 name pages 0, 1 and 2; s20 to s24 are the steps 7, 5, 100, 9 and 1. -/
def wVer : Plot :=
  { wPlot with regs := { wPlot.regs with front := { wFront with
      regs := (((((((wFront.regs.set 16 0x100000000#64).set 17 0x100010000#64).set 18 0x100020000#64).set 20 7#64).set 21 5#64).set 22 100#64).set 23 9#64).set 24 1#64 } } }

def sVer : State := { onFront wVer with vregs := [wVersions] }

theorem ver_on (i : Instr) (h : wf .uniform i = true) : Issues sVer i xFront .front wVer :=
  ⟨rfl, .inr rfl, rfl, rfl, rfl, clear_nil (a := wAgent) rfl rfl rfl _, h, ⟨wAgent, rfl, rfl⟩⟩

theorem witness_VersionWords :
    (∀ a b : Reg, ∀ sc, Issues sVer (.vopen 8 a b) xFront .front wVer ∧ Issues sVer (.vcommit a b sc) xFront .front wVer ∧ Issues sVer (.vretire a b) xFront .front wVer ∧
      Issues sVer (.vquery 8 a) xFront .front wVer) ∧
    (∀ a ∈ [16#6, 17#6, 18#6], sVer.nameRange wVer.ctx (wVer.regs.wide .front a).toNat = some wVersions ∧
      sVer.entryBad wVersions (wVersions.pageOf (wVer.regs.wide .front a).toNat) = none) ∧
    (wVersions.entry 1).opened (wVer.regs.zx .front 20) = true ∧
    ((wVersions.entry 0).opened (wVer.regs.zx .front 20) = false ∧ (sVer.begun xFront).slotFor wVersions (wVersions.entry 0) = some 0) ∧
    ((wVersions.entry 2).opened (wVer.regs.zx .front 22) = false ∧ (sVer.begun xFront).slotFor wVersions (wVersions.entry 2) = none) ∧
    wVer.drained .front = true ∧ (wVersions.entry 1).openSlot (wVer.regs.zx .front 23) = some 0 ∧ (wVersions.entry 1).openSlot (wVer.regs.zx .front 20) = none :=
  ⟨fun a b sc => ⟨ver_on _ rfl, ver_on _ rfl, ver_on _ rfl, ver_on _ rfl⟩, by decide +kernel, rfl, ⟨rfl, rfl⟩, ⟨by decide +kernel, by decide +kernel⟩, rfl, rfl, rfl⟩

/-- LDV of page 1: a version that is committed, one yet to come, and, by EXACT, one that can never come. -/
theorem witness_VersionLoads :
    (∀ m b, Issues sVer (.ldv 8 17 b .word .dev m) xFront .front wVer) ∧ wVer.agent? .front = some wAgent ∧ wAgent.loads.length < 32 ∧
    sVer.nameRange wVer.ctx (wVer.regs.wide .front 17).toNat = some wVersions ∧ sVer.entryBad wVersions 1 = none ∧ (wVer.regs.wide .front 17).toNat % 4 = 0 ∧
    (sVer.resolve wVersions (wVersions.entry 1) (wVer.regs.zx .front 21) false = .slot 1 ∧
      sVer.lockHit wVer (BitVec.ofNat 64 (wVersions.slotAddr 1 1)) 4 none false = none ∧
      ∃ l s1, (sVer.begun xFront).translateFor wVer.counted (BitVec.ofNat 64 (wVersions.slotAddr 1 1)).toNat 4 false = (.at l, s1)) ∧
    sVer.resolve wVersions (wVersions.entry 1) (wVer.regs.zx .front 22) false = .wait ∧
    sVer.resolve wVersions (wVersions.entry 1) (wVer.regs.zx .front 24) true = .stale :=
  ⟨fun m b => ver_on _ rfl, rfl, by decide, rfl, by decide +kernel, by decide, ⟨rfl, rfl, _, _, rfl⟩, rfl, rfl⟩


/-! ### Copies -/

/-- A tensor record of one row of 16 FP32 elements at `base`; with d0 = 16 a LINR copies its 64 bytes. -/
def wRecordAt (base : Nat) : List Byte :=
  natBytes base 8 ++ natBytes 16 4 ++ natBytes 1 4 ++ natBytes 1 4 ++ natBytes 1 4 ++ natBytes 0 12 ++ natBytes 16 2 ++ natBytes 1 2 ++ natBytes 1 2 ++
    natBytes 1 2 ++ natBytes 3 4 ++ natBytes 4 2 ++ natBytes 0 14

/-- Bytes in memory from an address on. -/
def cellsAt (base : Nat) (l : List Byte) : List Host.Cell := (l.zipIdx.filter (fun x => x.1 != 0#8)).map (fun x => (base + x.2, x.1))

/-- A ring at 0x100 of the SPAD, 4 slots of 64 bytes from 0x400; a record of bytes in device memory at 0x4000, one of bytes in GSM at 0x4040,
and one of zeros at 0x4080. -/
def wRecords : List Host.Cell :=
  cellsAt 0x100 (natBytes 0x400 4 ++ natBytes 64 4 ++ natBytes 4 4) ++ cellsAt 0x4000 (wRecordAt 0x8000) ++ cellsAt 0x4040 (wRecordAt 0xFFFF000100000000)

def wCopyRegs : Vector VReg 64 :=
  [(20, 0xC0000000), (22, 0x4000), (23, 0xFFFF0000), (28, 0x4040), (29, 0xFFFF0000), (30, 0x4080), (31, 0xFFFF0000), (32, 0x9000), (34, 0x40000100), (36, 16)].foldl
    (fun v (x : Fin 64 × Nat) => v.set x.1 ⟨BitVec.ofNat 32 x.2, .raw⟩) (Vector.replicate 64 VReg.zero)

def wCopyFront : Front :=
  { wFront with regs := [(20, 0xC0000000), (22, 0xFFFF000000004000), (23, 0x8000000000000000), (28, 0xFFFF000000004040), (30, 0xFFFF000000004080),
      (31, 0x8000000000000000), (32, 0x9000), (34, 0x40000100), (36, 16)].foldl (fun v (x : Fin 64 × Nat) => v.set x.1 (BitVec.ofNat 64 x.2)) (Vector.replicate 64 0#64) }

/-- v20 names no completion, v21 the SPAD's first byte, v22, v28 and v30 the records, v24 to v27 coordinates of zero, v32 the address 0x9000. -/
def wCopy : Plot :=
  { wPlot with regs := { wPlot.regs with strands := [{ wStrand with regs := wCopyRegs }], front := wCopyFront } }

def sCopy (x : Issue) : State := { wBase with issue := some x, plots := [wCopy], mem := { Store.reset with dev := wCode, spad := wRecords } }

theorem copy_lane (i : Instr) (h : wf .lane i = true) : Issues (sCopy xLane) i xLane (.strand 0) wCopy :=
  ⟨rfl, .inl rfl, rfl, rfl, rfl, clear_nil (a := { wAgent with }) rfl rfl rfl _, h, ⟨wAgent, rfl, rfl⟩⟩

theorem copy_front (i : Instr) (h : wf .uniform i = true) : Issues (sCopy xFront) i xFront .front wCopy :=
  ⟨rfl, .inr rfl, rfl, rfl, rfl, clear_nil (a := wAgent) rfl rfl rfl _, h, ⟨wAgent, rfl, rfl⟩⟩

def okWith {ε α β : Type} [DecidableEq β] (x : Except ε (α × β)) (b : β) (f : α → Bool) : Bool :=
  match x with
  | .ok r => decide (r.2 = b) && f r.1
  | .error _ => false

theorem ok_pair {ε α β : Type} [DecidableEq β] {x : Except ε (α × β)} {b : β} {f : α → Bool} (h : okWith x b f = true) : ∃ a, x = .ok (a, b) ∧ f a = true := by
  cases x with
  | error e => cases h
  | ok r =>
    obtain ⟨a, c⟩ := r
    simp only [okWith, Bool.and_eq_true, decide_eq_true_eq] at h
    exact ⟨a, by rw [h.1], h.2⟩

/-- The state in which a copy's word begins, with uncorrectable bytes. -/
def sCopying0 (bad : List Loc) : State := { (sCopy xLane).begun xLane with mem := { ((sCopy xLane).begun xLane).mem with bad := bad } }

/-- What becomes of a copy with its record: refused, taken with chunks, or taken with none; with room for its locks and, in a ring, its slots. -/
inductive Takes where
  | no | refused | chunks | empty
  deriving DecidableEq

def copyTakes (op : CopyOp) (comp' : Completion) (bytes : List Byte) (w : Who) (coords idx : List Nat) (creg : DWord) (s1 : State) : Takes :=
  let la := Layout.ofBytes bytes
  let ring := match comp' with | .ring .. => true | _ => false
  let slots := ring && op.fills
  let job : BoxJob := ⟨op, la, coords, [], windowBase .spad, la.fmt, .rne, s1.keyAt wCopy.counted la.rk, creg, [], true⟩
  let job' : BoxJob := { job with idx := idx }
  let c0 : CopyRec := ⟨wCopy.nextOp, w, comp', .box job', [], 0#5, 0, false, [], [], [], s1.words⟩
  let c : CopyRec := { c0 with chunks := chunksOf (s1.piecesOf wCopy.counted c0 job') }
  let room := match comp' with | .ring o n => decide (s1.ringNeed wCopy.counted o job' = some n) && s1.ringFree wCopy.counted o n | _ => true
  if s1.recordOk wCopy.counted (keyOfWho w) job slots 0 then
    if !room || !s1.lockRoom wCopy.pav (s1.copyLocks wCopy.counted c job').length then .no else if c.chunks = [] then .empty else .chunks
  else .refused

/-- A copy of the record at a register: its bytes, and what the record and the registers ask of it. -/
structure CopyCase where
  op : CopyOp
  comp : Completion
  d : Reg
  a : Reg
  b : Reg
  bytes : List Byte
  coords : List Nat
  idx : List Nat
  off : Nat
  takes : Takes

def CopyCase.instr (c : CopyCase) : Instr :=
  match c.op with
  | .tload => .cpyTload c.d c.a c.b false .dev
  | .tstore => .cpyTstore c.d c.a c.b false .dev
  | .taddf => .cpyTaddf c.d c.a c.b false .sys
  | .linr => .cpyLinr c.d c.a c.b false .dev
  | .gather => .cpyGather c.d c.a c.b false .dev
  | .publ => .cpyPubl c.d c.a c.b false .grove
  | .pull => .cpyPull c.d c.a c.b false .grove
  | .drain _ _ => .nop

def wRecord : List Byte := wRecordAt 0x8000

/-- v20 names no completion and v34 the ring at 0x100, whose slots the image of one copy takes; v36 a coordinate beyond the tensor. -/
def wCases : List CopyCase :=
  [⟨.tload, .none, 20, 22, 24, wRecord, [0, 0, 0, 0], [], 0, .chunks⟩, ⟨.tstore, .none, 20, 22, 24, wRecord, [0, 0, 0, 0], [], 0, .chunks⟩,
    ⟨.taddf, .none, 20, 22, 24, wRecord, [0, 0, 0, 0], [], 0, .chunks⟩, ⟨.linr, .none, 20, 22, 32, wRecord, [], [], 0, .chunks⟩,
    ⟨.gather, .none, 20, 22, 24, wRecord, [0, 0, 0, 0], [0], 0, .chunks⟩, ⟨.publ, .none, 20, 22, 24, wRecord, [0, 0, 0, 0], [], 0, .chunks⟩,
    ⟨.pull, .none, 20, 28, 24, wRecordAt 0xFFFF000100000000, [0, 0, 0, 0], [], 0, .chunks⟩,
    ⟨.tload, .none, 20, 30, 24, List.replicate 64 0#8, [0, 0, 0, 0], [], 0, .refused⟩,
    ⟨.tload, .ring 0x100 1, 34, 22, 24, wRecord, [0, 0, 0, 0], [], 0, .chunks⟩,
    ⟨.tstore, .none, 20, 22, 36, wRecord, [16, 0, 0, 0], [], 0, .empty⟩]

def scopeOf (op : CopyOp) : Scope := match op with | .publ | .pull => .grove | .taddf => .sys | _ => .dev

/-- What a statement asks of the registers and the record of a case, for one issuing agent. -/
def CopyCase.holds (bad : List Loc) (c : CopyCase) (w : Who) : Bool :=
  let t := sCopying0 bad
  let u := wCopy.regs.zx w c.d
  let v := wCopy.regs.zx w (regPlus c.d 1)
  let ring := match c.comp with | .ring .. => true | _ => false
  let comp := match c.comp with | .ring o _ => Completion.ring o 0 | x => x
  decide (u >>> 32 = 0#64) && decide (v >>> 32 = 0#64) && decide (t.completionOf wCopy.counted (u.setWidth 32) = some comp) &&
    t.localRegOk wCopy.counted (v.setWidth 32) (ring || decide (c.op = .linr)) && (locFmt (v.setWidth 32) == 0) &&
    (match cpyCoords wCopy w c.b c.op with | .ok x => decide (x.1 = c.coords ∧ x.2.1 = c.off) | .error _ => false) &&
    (match t.loadRecord wCopy.counted w (wCopy.regs.wide w c.a) 64 (scopeOf c.op) with
      | .ok r => decide (r.2 = c.bytes) && decide (copyTakes c.op c.comp c.bytes w c.coords c.idx (wCopy.regs.wide w c.b) r.1 = c.takes) &&
          (decide (c.op ≠ .gather) || (decide (r.1.gatherList wCopy.counted c.off (Layout.ofBytes c.bytes).box1 = some c.idx) &&
            ((r.1.badSpan wCopy.counted .spad c.off (4 * (Layout.ofBytes c.bytes).box1)).isSome == !bad.isEmpty)))
      | .error _ => false)

theorem witness_CopiesIssue :
    (∀ c ∈ wCases, Issues (sCopy xLane) c.instr xLane (.strand 0) wCopy ∧ Issues (sCopy xFront) c.instr xFront .front wCopy) ∧
    (wCopy.drained (.strand 0) = true ∧ wCopy.drained .front = true ∧ wCopy.copies.length < 32) ∧
    (∀ c ∈ wCases, ∀ w ∈ [Who.strand 0, .front], c.holds [] w = true) ∧
    ∀ w ∈ [Who.strand 0, .front], (CopyCase.mk .gather .none 20 22 24 wRecord [0, 0, 0, 0] [0] 0 .chunks).holds [⟨.spad, 0⟩] w = true :=
  ⟨fun c h => ⟨copy_lane c.instr (List.all_eq_true.1 (by decide +kernel : wCases.all (fun c => wf .lane c.instr) = true) c h),
      copy_front c.instr (List.all_eq_true.1 (by decide +kernel : wCases.all (fun c => wf .uniform c.instr) = true) c h)⟩,
    ⟨rfl, rfl, by decide⟩,
    fun c h w hw => List.all_eq_true.1 (List.all_eq_true.1 (by decide +kernel : wCases.all (fun c => [Who.strand 0, .front].all (c.holds [])) = true) c h) w hw,
    fun w hw => List.all_eq_true.1 (by decide +kernel : [Who.strand 0, .front].all
      ((CopyCase.mk .gather .none 20 22 24 wRecord [0, 0, 0, 0] [0] 0 .chunks).holds [⟨.spad, 0⟩]) = true) w hw⟩

/-- Whether DRAIN's record passes. -/
def drainTakes (m : DrainMode) (r : DrainRnd) (dst : DrainDst) (bytes : List Byte) (s1 : State) : Bool :=
  let la := Layout.ofBytes bytes
  s1.recordOk wCopy.counted none ⟨.drain m (decide (dst = .s32)), la, [0, 0, 0, 0], [], 0#64, if dst = .s32 then 1 else 3, r, s1.keyAt wCopy.counted la.rk, 0#64, [], false⟩ false
    (drainCode dst)

theorem witness_DrainIssues :
    (Issues (sCopy xFront) (.drain 0 22 24 .add .sr .f32) xFront .front wCopy ∧ Issues (sCopy xFront) (.drain 2 30 24 .store .rne .s32) xFront .front wCopy) ∧
    tilesIn wCopy [0] = true ∧ tilesIn wCopy [2] = true ∧ wCopy.tileS32At 0 = false ∧ wCopy.tileS32At 2 = true ∧ wCopy.drained .front = true ∧
    ((sCopy xFront).begun xFront).drainCompletion wCopy.counted (wCopy.regs.s (regPlus 22 1)) = some .none ∧
    ((sCopy xFront).begun xFront).drainCompletion wCopy.counted (wCopy.regs.s (regPlus 30 1)) = some .none ∧
    (∃ s1, ((sCopy xFront).begun xFront).loadRecord wCopy.counted .front (wCopy.regs.s 22) 64 .dev = .ok (s1, wRecordAt 0x8000) ∧
      drainTakes .add .sr .f32 (wRecordAt 0x8000) s1 = true) ∧
    (∃ s1, ((sCopy xFront).begun xFront).loadRecord wCopy.counted .front (wCopy.regs.s 30) 64 .dev = .ok (s1, List.replicate 64 0#8) ∧
      (!drainTakes .store .rne .s32 (List.replicate 64 0#8) s1) = true) ∧
    (wCopy.copies.length < 32 ∧ wCopy.tops.length < 8 ∧ ∀ n ≤ 64, (sCopy xFront).lockRoom wCopy.pav n = true) :=
  ⟨⟨copy_front _ rfl, copy_front _ rfl⟩, rfl, rfl, rfl, rfl, rfl, rfl, rfl, ok_pair (by decide +kernel), ok_pair (by decide +kernel), by decide, by decide,
    by intro n hn; show decide (0 + n ≤ 64) = true; simpa using hn⟩

/-- A copy of the record at 0x4000 in flight, its tensor at a base. -/
def wJob (op : CopyOp) (base : Nat) : BoxJob := ⟨op, Layout.ofBytes (wRecordAt base), [0, 0, 0, 0], [], windowBase .spad, 3, .rne, 0#64, 0#64, [], true⟩

/-- What meets a chunk: the base of the tensor, pages the host has refused, whether the ATC lets the page be read and written, bad bytes. -/
structure ChunkCase where
  op : CopyOp
  base : Nat
  refused : List Nat
  grants : Bool
  bad : List Loc

def ChunkCase.plot (c : ChunkCase) : Plot :=
  { wPlot with
    copies := [⟨7, .strand 0, .none, .box (wJob c.op c.base), chunksOf (wJob c.op c.base).pieces, 0#5, 0, false, [], [], c.refused, 0⟩]
    nextOp := 8 }

def ChunkCase.start (c : ChunkCase) : State :=
  { wBase with plots := [c.plot], pavs := [{ wPav with atc := [⟨5, 0, 30, 0, c.grants, c.grants⟩] }], mem := { Store.reset with dev := wCode, bad := c.bad } }

/-- The page a chunk lands in. -/
def ChunkCase.page (c : ChunkCase) : Nat := if c.op = .tload then 0xFFFF000000000 else c.base / 4096

/-- What becomes of a chunk. -/
inductive Meets where
  | no | absent | err | refused | pages | waits | budget | moved | bad
  deriving DecidableEq

def ChunkCase.meets (x : ChunkCase) : Meets :=
  match x.start.copy? 1 7 with
  | none => .no
  | some (p, c) =>
    let b := wJob x.op x.base
    if (c.chunks.find? (fun k => k.idx == x.page && !k.done)).isSome && !c.ended && x.start.enginesRun p.ctx && !x.start.lockWait p c.id &&
        decide (c.job = .box b) && b.ready then
      let h := (x.start.hunt p c b x.page).1
      let placed := (x.start.hunt p c b x.page).2
      if h.absent.isSome then .absent
      else if h.err then .err
      else if !h.refused.isEmpty then .refused
      else if !h.faults.isEmpty then .pages
      else if !h.waits.isEmpty then .waits
      else
        let d1 := h.s.dma false (placed.flatMap (fun y => y.src))
        let d2 := d1.2.dma true (placed.flatMap (fun y => y.dst))
        if !d1.1 || !d2.1 then .budget else
          let m := placed.foldl (b.move p) ⟨d2.2, 0#5, none⟩
          if m.bad.isSome then (if (m.s.copy? p.id c.id).isSome then .bad else .no) else .moved
    else .no

theorem witness_ChunksDeliver :
    (∀ op ∈ [CopyOp.tload, .tstore, .taddf], (ChunkCase.mk op 0x8000 [] true []).meets = .moved ∧ (ChunkCase.mk op 0x8000 [8] true []).meets = .refused ∧
      (ChunkCase.mk op 0x8000 [] false []).meets = .pages ∧ (ChunkCase.mk op 0xFFFF0000000F0000 [] true []).meets = .err) ∧
    (∀ op ∈ [CopyOp.tload, .taddf], (ChunkCase.mk op 0x8000 [] true [⟨.dev, 0x8004⟩]).meets = .bad) ∧
    (wJob .tload 0x8000).reduces = false ∧ (wJob .taddf 0x8000).reduces = true := by decide +kernel

/-! ### The fabric -/

def wPeer (step : DWord) (st : MemberState) : Member := ⟨1, false, 0#64, step, st, 0, false⟩

/-- A group of this module, member 0 at step `own`, and one peer. -/
def wGroup (own : DWord) (st : MemberState) (m : DWord) (peer : Member) (buckets : List (Nat × BucketState)) : Group :=
  ⟨0, 0, 0, 1, 2 ^ 26, 0#64, [⟨0, false, 0#64, own, st, 0, false⟩, peer], m, buckets, 0⟩

/-- v40 to v43 and s40 to s43 name member 1, a remote address, a local one and 4 bytes; v44 to v47 and s44 to s47 the same with FMT U32. -/
def wFab : Plot :=
  { wPlot with regs := { wPlot.regs with
      strands := [{ wStrand with regs := ((((wCopyRegs.set 40 ⟨1#32, .raw⟩).set 43 ⟨4#32, .raw⟩).set 44 ⟨1#32, .raw⟩).set 47 ⟨0x01000004#32, .raw⟩) }]
      front := { wFront with regs := (((((((wCopyFront.regs.set 40 1#64).set 41 0x2000#64).set 42 0x9000#64).set 43 4#64).set 44 1#64).set 46 0xFFFF000000000000#64).set 47 0x01000004#64) } } }

def sFab (x : Issue) : State := { wBase with issue := some x, plots := [wFab], groups := [wGroup 0#64 .live 0#64 (wPeer 0#64 .live) []] }

theorem fab_on (x : Issue) (w : Who) (i : Instr) (hx : (x = xLane ∧ w = .strand 0 ∧ wf .lane i = true) ∨ (x = xFront ∧ w = .front ∧ wf .uniform i = true)) :
    Issues (sFab x) i x w wFab := by
  rcases hx with ⟨rfl, rfl, h⟩ | ⟨rfl, rfl, h⟩
  · exact ⟨rfl, .inl rfl, rfl, rfl, rfl, clear_nil (a := wAgent) rfl rfl rfl _, h, ⟨wAgent, rfl, rfl⟩⟩
  · exact ⟨rfl, .inr rfl, rfl, rfl, rfl, clear_nil (a := wAgent) rfl rfl rfl _, h, ⟨wAgent, rfl, rfl⟩⟩

def wFabWords : List (Instr × Bool × (Nat → Option FabOp) × FabOp × Nat × Reg) :=
  [(.fabRwrite 20 40 true, false, plainField .rwrite, .rwrite, 0, 40), (.fabRread 20 40 true, false, plainField .rread, .rread, 0, 40),
    (.fabRadd 20 44 true, false, raddField, .radd 1, 1, 44), (.fabRatom 20 40 true, false, fun f => (atomOpOf f).map FabOp.ratom, .ratom .add, 0, 40),
    (.fabMcast 20 40 true, true, plainField .mcast, .mcast, 0, 40), (.fabSend 20 40 0 true, false, plainField (.send 0), .send 0, 0, 40),
    (.fabRecv 20 40 63 true, false, plainField (.recv 63), .recv 63, 0, 40)]

/-- What a FAB word asks of the registers of agent w. -/
def fabPasses (x : Issue) (w : Who) (y : Instr × Bool × (Nat → Option FabOp) × FabOp × Nat × Reg) : Bool :=
  let t := (sFab x).begun x
  let reg := fun i => wFab.regs.zx w (regPlus y.2.2.2.2.2 i)
  match t.fabTargets wFab.counted y.2.1 (reg 0) with
  | none => false
  | some (g, targets) =>
    let remote := if streamOf w = .lane then g.fb + reg 1 else reg 1
    let lea := if streamOf w = .lane then windowBase .spad + reg 2 else reg 2
    let n := (reg 3).toNat % 2 ^ 24
    !targets.isEmpty && remote.toNat % 4 == 0 && lea.toNat % 4 == 0 && decide (y.2.2.1 ((reg 3).toNat / 2 ^ 24 % 16) = some y.2.2.2.1) && (reg 3) >>> 28 == 0#64 && n == 4 &&
      y.2.2.2.1.widthOk n && t.linrOk wFab.counted (keyOfWho w) lea (y.2.2.2.1.span n) &&
      t.lockRoom wFab.pav (t.eaRange wFab.counted (keyOfWho w) (some (lea.toNat, lea.toNat + y.2.2.2.1.span n - 1))).length

/-- A SEND that its agent has begun, for RFENCE to wait for. -/
def wFencing : Plot := { wFab with copies := [⟨0, .strand 0, .none, .fab ⟨.send 0, 0, [1], 0#64, windowBase .spad, 4, 0#64⟩, [], 0#5, 0, false, [], [], [], 0⟩] }

theorem witness_FabricWords :
    (∀ y ∈ wFabWords, Issues (sFab xLane) y.1 xLane (.strand 0) wFab ∧ fabPasses xLane (.strand 0) y = true) ∧
    (∀ y ∈ wFabWords, Issues (sFab xFront) y.1 xFront .front wFab ∧ fabPasses xFront .front y = true) ∧
    (wFab.drained (.strand 0) = true ∧ wFab.drained .front = true ∧ wFab.copies.length < 32) ∧
    (∀ w ∈ [Who.strand 0, .front], wFab.regs.zx w 20 >>> 32 = 0#64 ∧
      ((sFab xLane).begun xLane).completionOf wFab.counted ((wFab.regs.zx w 20).setWidth 32) = some .none) ∧
    (∀ op ∈ [FabOp.rwrite, .recv 63], ((sFab xLane).begun xLane).fabRoom wFab.counted op 0 1) ∧
    (Issues (sFab xLane) (.fabRfence true) xLane (.strand 0) wFab ∧ ∀ c ∈ wFab.copies, c.isFab = true → c.who = .strand 0 → c.ended = true) ∧
    (Issues (onLane wFencing) (.fabRfence true) xLane (.strand 0) wFencing ∧ wFencing.drained (.strand 0) = true ∧
      ∃ c ∈ wFencing.copies, c.isFab = true ∧ c.who = .strand 0 ∧ c.ended = false) :=
  ⟨fun y hy => ⟨fab_on _ _ _ (.inl ⟨rfl, rfl, List.all_eq_true.1 (by rfl : (wFabWords.all (fun y => wf .lane y.1)) = true) y hy⟩),
      List.all_eq_true.1 (by decide +kernel : (wFabWords.all (fabPasses xLane (.strand 0))) = true) y hy⟩,
    fun y hy => ⟨fab_on _ _ _ (.inr ⟨rfl, rfl, List.all_eq_true.1 (by rfl : (wFabWords.all (fun y => wf .uniform y.1)) = true) y hy⟩),
      List.all_eq_true.1 (by decide +kernel : (wFabWords.all (fabPasses xFront .front)) = true) y hy⟩,
    ⟨rfl, rfl, by decide⟩, by decide +kernel,
    by
      intro op h
      simp only [List.mem_cons, List.not_mem_nil, or_false] at h
      rcases h with rfl | rfl
      · show ((sFab xLane).begun xLane).freeTag.isSome = true; decide +kernel
      · show ((((sFab xLane).begun xLane).pruneFab.fab.posted.filter (fun x => x.is 0 63 0 1)).length < 16); decide,
    ⟨fab_on _ _ _ (.inl ⟨rfl, rfl, rfl⟩), fun c hc => nomatch hc⟩,
    ⟨lane_on (a := wAgent) rfl rfl rfl rfl rfl rfl _ rfl, rfl, _, List.mem_singleton.2 rfl, rfl, rfl, rfl⟩⟩

/-! ### Collectives -/

/-- A descriptor, at 0x5000 of the SPAD, of 64 FP32 elements for tag 0 of group 0: n = 2, Q = 1, floor 1. -/
def wDesc : List Byte :=
  natBytes 0 4 ++ natBytes 2 2 ++ natBytes 1 2 ++ natBytes (1 + 3 * 2 ^ 20) 4 ++ natBytes 64 4 ++ natBytes 0 8 ++ natBytes 0x8000 8 ++ natBytes 0x9000 8 ++
    natBytes 0xA000 8 ++ natBytes 0 80

/-- The collective it opens, as handle 0, at its first step or past its end. -/
def wColl (ended : Bool) : Coll :=
  { handle := 0, ctx := 0, queue := 0, pav := 0, group := 0, bucket := 0, fast := false, avg := false, n := 2, q := 1, floor := 1, drop := false, bf16 := false, sr := false,
    elems := 64, timer := 0#64, contribAddr := 0x8000#64, resultAddr := 0x9000#64, statusAddr := 0xA000#64, emit := false, emitStage := 0, trellis := 0, rk3 := 0#64,
    step := 0#64, closed := ended, ended := ended, failed := false, timerAt := 0, slots := [], counts := [], applied := [], folded := [], shardCounts := [], writes := [],
    done := if ended then [0] else [], emitted := 0, emitWait := false, nans := 0, infs := 0, dropped := 0, malformed := false, short := false, shorts := 0, lastContrib := none }

/-- s4 names the descriptor, s5 handle 0, s6 handle 5; s7 is the step 1; s20 no completion. -/
def wCollPlot : Plot :=
  { wPlot with regs := { wPlot.regs with front := { wFront with
      regs := (((((Vector.replicate 64 0#64).set 4 0xFFFF000000005000#64).set 6 5#64).set 7 1#64).set 20 0xC0000000#64) } } }

def sColl (b : List (Nat × BucketState)) (cs : List Coll) : State :=
  { onFront wCollPlot with
    mem := { Store.reset with dev := wCode, spad := cellsAt 0x5000 wDesc }, groups := [wGroup 0#64 .live 0#64 (wPeer 0#64 .live) b], colls := cs,
    xl := { Xlate.reset with device := wPav.atc } }

theorem coll_on (b : List (Nat × BucketState)) (cs : List Coll) (i : Instr) (h : wf .uniform i = true) : Issues (sColl b cs) i xFront .front wCollPlot :=
  ⟨rfl, .inr rfl, rfl, rfl, rfl, clear_nil (a := wAgent) rfl rfl rfl _, h, ⟨wAgent, rfl, rfl⟩⟩

def collOpens (b : List (Nat × BucketState)) : Bool :=
  okWith (((sColl b []).begun xFront).loadRecord wCollPlot.counted .front (wCollPlot.regs.s 4) 128 .dev) wDesc (fun s1 =>
    match s1.readDescriptor wCollPlot.counted wDesc with
    | some co =>
      match s1.group? wCollPlot.ctx co.group with
      | some g =>
        decide (g.bucketState co.bucket = if b.isEmpty then .fresh else .opened) &&
          decide ((List.range 64).find? (fun h => (s1.coll? wCollPlot.ctx h).isNone) = some 0) && decide (s1.slotsUsed + co.elems ≤ 1048576)
      | none => false
    | none => false)

/-- The next step opens with what the greenhouse holds for it. -/
def collReposts : Bool :=
  let t := (sColl [(0, .opened)] [wColl true]).begun xFront
  match t.group? wCollPlot.ctx 0 with
  | none => false
  | some g =>
    let mine := fun (h : HeldChunk) => h.group == 0 && h.bucket == 0
    match ((t.greenhouse.filter mine).foldl (fun s h => s.enterHeld g wCollPlot.ctx 0 h)
        (({ t with greenhouse := t.greenhouse.filter (fun h => !mine h) } : State).modColl wCollPlot.ctx 0 (fun co =>
          co.openStep (co.isHome g.own) (co.step + 1#64) t.unitCycles))).pumpColl wCollPlot.ctx 0 with
    | .ok _ => true
    | .error _ => false

theorem witness_CollectiveWords :
    (collOpens [] = true ∧ collOpens [(0, .opened)] = true) ∧
    (∀ b cs, Issues (sColl b cs) (.copen 8 4 6) xFront .front wCollPlot ∧ Issues (sColl b cs) (.contrib 20 6 7) xFront .front wCollPlot ∧
      Issues (sColl b cs) (.contrib 20 5 7) xFront .front wCollPlot ∧ ∀ a, Issues (sColl b cs) (.cwait 8 a) xFront .front wCollPlot ∧
      Issues (sColl b cs) (.cclose a) xFront .front wCollPlot ∧ Issues (sColl b cs) (.crepost a) xFront .front wCollPlot ∧
      Issues (sColl b cs) (.cstat 8 a) xFront .front wCollPlot) ∧
    (sColl [] [wColl false]).coll? wCollPlot.ctx (wCollPlot.regs.s 6).toNat = none ∧
    (∀ e, (sColl [(0, .opened)] [wColl e]).coll? wCollPlot.ctx (wCollPlot.regs.s 5).toNat = some (wColl e) ∧ (wColl e).ended = e ∧ (wColl e).shorts = 0 ∧ (wColl e).failed = false) ∧
    (((sColl [(0, .opened)] [wColl true]).begun xFront).contributing wCollPlot.ctx 0 = false ∧
      (((sColl [(0, .opened)] [wColl true]).begun xFront).unitWrite (wColl true) (wColl true).statusAddr ((wColl true).statusBlock 4)).1 = .ok ∧
      ((({ sColl [(0, .opened)] [wColl true] with xl := Xlate.reset } : State).begun xFront).unitWrite (wColl true) (wColl true).statusAddr ((wColl true).statusBlock 4)).1 = .wait ∧
      (sColl [(0, .opened)] [wColl true]).greenhouse = []) ∧
    collReposts = true ∧
    (let c : Coll := { wColl false with shorts := 1, lastContrib := some 1#64 }
     (sColl [(0, .opened)] [c]).coll? wCollPlot.ctx (wCollPlot.regs.s 5).toNat = some c ∧ c.ended = false ∧ 0 < c.shorts ∧ (wCollPlot.regs.s 7).toNat ≤ (1#64).toNat) ∧
    ((∀ l, (wColl false).lastContrib = some l → l.toNat < (wCollPlot.regs.s 7).toNat) ∧ wCollPlot.regs.s 20 >>> 32 = 0#64 ∧
      ((sColl [(0, .opened)] [wColl false]).begun xFront).completionOf wCollPlot.counted ((wCollPlot.regs.s 20).setWidth 32) = some .none ∧
      ((sColl [(0, .opened)] [wColl false]).begun xFront).linrOk wCollPlot.counted none (wColl false).contribAddr ((wColl false).elems * (wColl false).esz) = true ∧
      wCollPlot.drained .front = true ∧ wCollPlot.copies.length < 32 ∧ (∀ n ≤ 64, ((sColl [(0, .opened)] [wColl false]).begun xFront).lockRoom wCollPlot.pav n = true) ∧
      ((sColl [(0, .opened)] [wColl false]).begun xFront).freeTag.isSome = true) :=
  ⟨⟨by decide +kernel, by decide +kernel⟩,
    fun b cs => ⟨coll_on b cs _ rfl, coll_on b cs _ rfl, coll_on b cs _ rfl, fun a => ⟨coll_on b cs _ rfl, coll_on b cs _ rfl, coll_on b cs _ rfl, coll_on b cs _ rfl⟩⟩,
    rfl, fun e => ⟨rfl, rfl, rfl, rfl⟩, ⟨by decide +kernel, by decide +kernel, by decide +kernel, rfl⟩, by decide +kernel, ⟨rfl, rfl, by decide, by decide⟩,
    ⟨(fun l h => by cases h), rfl, by decide +kernel, by decide +kernel, rfl, by decide, (fun n hn => by show decide (0 + n ≤ 64) = true; simpa using hn), by decide +kernel⟩⟩

/-! ### Training steps -/

/-- s8 is 2, s9 all ones, s10 the step 4. -/
def wStepPlot : Plot :=
  { wPlot with regs := { wPlot.regs with front := { wFront with regs := ((((Vector.replicate 64 0#64).set 8 2#64).set 9 0xFFFFFFFFFFFFFFFF#64).set 10 4#64) } } }

def sStep (own : DWord) (st : MemberState) (m : DWord) (peer : Member) : State := { onFront wStepPlot with groups := [wGroup own st m peer []] }

theorem step_on (own : DWord) (st : MemberState) (m : DWord) (peer : Member) (i : Instr) (h : wf .uniform i = true) :
    Issues (sStep own st m peer) i xFront .front wStepPlot :=
  ⟨rfl, .inr rfl, rfl, rfl, rfl, clear_nil (a := wAgent) rfl rfl rfl _, h, ⟨wAgent, rfl, rfl⟩⟩

/-- The group's own entry in each state, and its lead of 1 over the least LIVE step just met and just exceeded. -/
theorem witness_StepWords :
    (wStepPlot.regs.s 4).toNat < 8 ∧
    (∀ own st m peer, (sStep own st m peer).group? wStepPlot.ctx (wStepPlot.regs.s 4).toNat = some (wGroup own st m peer []) ∧
      (wGroup own st m peer []).members[(wGroup own st m peer []).own]? = some ⟨0, false, 0#64, own, st, 0, false⟩ ∧
      ∀ b, Issues (sStep own st m peer) (.sadv 12 4) xFront .front wStepPlot ∧ Issues (sStep own st m peer) (.swait 12 4) xFront .front wStepPlot ∧
        Issues (sStep own st m peer) (.speer 12 4 b) xFront .front wStepPlot ∧ Issues (sStep own st m peer) (.smin 12 4) xFront .front wStepPlot ∧
        Issues (sStep own st m peer) (.sabs 12 4 b) xFront .front wStepPlot ∧ Issues (sStep own st m peer) (.slead 12 4) xFront .front wStepPlot) ∧
    (let g := wGroup 3#64 .live 1#64 (wPeer 1#64 .live) []
     g.m.toNat + g.lead < (3#64).toNat ∧ ¬(g.m.toNat + g.lead < (2#64).toNat) ∧ g.members[(wStepPlot.regs.s 4).toNat]?.isSome = true ∧ g.members[(wStepPlot.regs.s 8).toNat]? = none ∧
       g.min? = some 1) ∧
    (let g := wGroup 3#64 .absent 6#64 (wPeer 6#64 .left) []
     (3#64).toNat + 1 + g.lead < g.m.toNat ∧ g.min? = none) ∧
    (let g := wGroup 3#64 .absent 5#64 (wPeer 5#64 .live) []
     g.m.toNat ≤ (3#64).toNat + 1 + g.lead) ∧
    ((wStepPlot.regs.s 4).toNat < (3#64).toNat ∧ (3#64).toNat ≤ (wStepPlot.regs.s 10).toNat ∧ wStepPlot.regs.s 10 ≠ 0xFFFFFFFFFFFFFFFF#64 ∧
      wStepPlot.regs.s 9 = 0xFFFFFFFFFFFFFFFF#64 ∧ (3#64).toNat ≤ (wStepPlot.regs.s 9).toNat) :=
  ⟨by decide, fun own st m peer => ⟨rfl, rfl, fun b => ⟨step_on own st m peer _ rfl, step_on own st m peer _ rfl, step_on own st m peer _ rfl, step_on own st m peer _ rfl,
      step_on own st m peer _ rfl, step_on own st m peer _ rfl⟩⟩,
    ⟨by decide, by decide, rfl, rfl, rfl⟩, ⟨by decide, rfl⟩, by decide, by decide⟩

/-! ### Trellises -/

/-- A queue of two slots with no record or two, and depths up to 2. -/
def wStage (recs : List Record) : Stage := ⟨0#32, 0#32, 0, 2, 1, 2, 0, 0, 0, 0, 3#64, .idle, recs, 0, 0, 0⟩

def wRec : Record := ⟨List.replicate 8 0#32, 0, false, false, 0#32, 0, 0⟩

/-- Trellis 1 of the context: both stages lead to both; stage 0 is full; stage 1 has room. -/
def wTrellis : Trellis := ⟨1, 9, 0, 0, 4, 16, 0#64, [wStage [wRec, wRec], wStage []], none, Vector.replicate 4 0#64, 0⟩

/-- v4 and s4 name stage 0 of trellis 1, v8 and s8 stage 1, v12 and s12 a stage that it lacks; v16 and s16 are a limit of 5; v20 is tagged F32. -/
def wTrlRegs : Vector VReg 64 :=
  ((((Vector.replicate 64 VReg.zero).set 4 ⟨0x10000#32, .raw⟩).set 8 ⟨0x10001#32, .raw⟩).set 12 ⟨0x10002#32, .z32⟩).set 16 ⟨5#32, .raw⟩ |>.set 20 ⟨0#32, .f32⟩

def wTrlFront : Front := { wFront with regs := ((((Vector.replicate 64 0#64).set 4 0x10000#64).set 8 0x10001#64).set 12 0x10002#64).set 16 5#64 }

def wTrl (origin : Origin) (depth launch : Nat) : Plot :=
  { wPlot with
    origin := origin, launch := launch
    regs := { wPlot.regs with strands := [{ wStrand with regs := wTrlRegs, depth := depth }], front := { wTrlFront with depth := depth } } }

def sTrl (x : Issue) (p : Plot) : State := { wBase with issue := some x, plots := [p], trellises := [wTrellis] }

theorem trl_lane (o : Origin) (d l : Nat) (i : Instr) (h : wf .lane i = true) : Issues (sTrl xLane (wTrl o d l)) i xLane (.strand 0) (wTrl o d l) :=
  ⟨rfl, .inl rfl, rfl, rfl, rfl, clear_nil (a := wAgent) rfl rfl rfl _, h, ⟨wAgent, rfl, rfl⟩⟩

theorem trl_front (o : Origin) (d l : Nat) (i : Instr) (h : wf .uniform i = true) : Issues (sTrl xFront (wTrl o d l)) i xFront .front (wTrl o d l) :=
  ⟨rfl, .inr rfl, rfl, rfl, rfl, clear_nil (a := wAgent) rfl rfl rfl _, h, ⟨wAgent, rfl, rfl⟩⟩

/-- A grid's agents emit at depth 0; those of stage 0, whose depth is 2, at depth 3, past the limit of the stages. -/
theorem witness_TrellisWords :
    (∀ o d l a, Issues (sTrl xLane (wTrl o d l)) (.emit a 20) xLane (.strand 0) (wTrl o d l) ∧ Issues (sTrl xFront (wTrl o d l)) (.emit a 20) xFront .front (wTrl o d l)) ∧
    (∀ o d l a, Issues (sTrl xLane (wTrl o d l)) (.emitw 16 a 20) xLane (.strand 0) (wTrl o d l) ∧ Issues (sTrl xFront (wTrl o d l)) (.qstat 30 a) xFront .front (wTrl o d l) ∧
      Issues (sTrl xLane (wTrl o d l)) (.qstat 30 a) xLane (.strand 0) (wTrl o d l) ∧ Issues (sTrl xFront (wTrl o d l)) (.emitw 16 a 20) xFront .front (wTrl o d l) ∧
      Issues (sTrl xLane (wTrl o d l)) (.depth 30 a) xLane (.strand 0) (wTrl o d l) ∧ Issues (sTrl xFront (wTrl o d l)) (.depth 30 a) xFront .front (wTrl o d l)) ∧
    (∀ w ∈ [Who.strand 0, .front], ∀ d l, tagsOk indexAccepts (wTrl .grid d l).regs w [4] ∧ tagsOk indexAccepts (wTrl .grid d l).regs w [8] ∧
      tagsOk indexAccepts (wTrl .grid d l).regs w [12] ∧ tagsOk indexAccepts (wTrl .grid d l).regs w [16]) ∧
    (∀ o d l, indexAccepts ((wTrl o d l).regs.v 0 20).tag = false) ∧
    (∀ w ∈ [Who.strand 0, .front], ∀ o ∈ [Origin.grid, .stage 1 0], (∀ a ∈ [(4 : Reg), 8, 12, 16], (wTrl o 2 9).regs.zx w a >>> 32 = 0#64) ∧ (wTrl o 2 9).drained w = true ∧
      (sTrl xLane (wTrl o 2 9)).targetOf 0 (((wTrl o 2 9).regs.zx w 12).setWidth 32) = none ∧
      (sTrl xLane (wTrl o 2 9)).targetOf 0 (((wTrl o 2 9).regs.zx w 4).setWidth 32) = some (wTrellis, 0) ∧
      (sTrl xLane (wTrl o 2 9)).targetOf 0 (((wTrl o 2 9).regs.zx w 8).setWidth 32) = some (wTrellis, 1)) ∧
    ((wStage []).succ.getLsbD 0 = true ∧ (wStage []).succ.getLsbD 1 = true ∧ wTrellis.stage? 0 = some (wStage [wRec, wRec]) ∧ wTrellis.stage? 1 = some (wStage []) ∧ wTrellis.room 0 = false ∧ wTrellis.room 1 = true) ∧
    (∀ w ∈ [Who.strand 0, .front], (wTrl .grid 2 9).stageOf wTrellis = none ∧ (wTrl .grid 2 9).emitDepth wTrellis w = 0 ∧
      (wTrl (.stage 1 0) 2 9).stageOf wTrellis = some 0 ∧ (wTrl (.stage 1 0) 2 9).emitDepth wTrellis w = 3 ∧ (wTrl (.stage 1 0) 1 9).emitDepth wTrellis w = 2) :=
  ⟨fun o d l a => ⟨trl_lane o d l _ rfl, trl_front o d l _ rfl⟩,
    fun o d l a => ⟨trl_lane o d l _ rfl, trl_front o d l _ rfl, trl_lane o d l _ rfl, trl_front o d l _ rfl, trl_lane o d l _ rfl, trl_front o d l _ rfl⟩,
    (by
      intro w h d l
      simp only [List.mem_cons, List.not_mem_nil, or_false] at h
      rcases h with rfl | rfl <;> (unfold tagsOk; refine ⟨?_, ?_, ?_, ?_⟩ <;> (intro r hr; cases List.mem_singleton.1 hr; rfl))), fun o d l => rfl, by decide +kernel, ⟨rfl, rfl, rfl, rfl, rfl, rfl⟩, by decide +kernel⟩

/-! ### Packets -/

/-- Queue 0 (privileged) with one packet at 0x100000, and queue 1 of the context. -/
def wQueue (waiting : Bool) : Queue := ⟨0, 0x100000#64, 4, true, true, 0x200000#64, 0#32, 1#32, false, waiting, []⟩

def wOther (error : Bool) : Queue := ⟨1, 0x110000#64, 4, false, true, 0x210000#64, 0#32, 1#32, error, false, []⟩

def wQueueCtx (e waiting : Bool) : Context := { wCtx with queues := [wQueue waiting, wOther e] }

def wPk (pk : List Byte) : Pk := ⟨0, 0, pk⟩

def sPk (pk : List Byte) (e waiting : Bool) : State :=
  { wBase with
    mem := { Store.reset with dev := cellsSet wCode 0x100000 pk }, ctxs := [wQueueCtx e waiting], xl := { Xlate.reset with device := wPav.atc }
    mgmt := { wBase.mgmt with powered := true } }

/-- The packet is at the head of its queue, and read. -/
def headOf (s : State) (k : Pk) (op : Nat) : Option State :=
  match s.queue? k.ctx k.q with
  | none => none
  | some x =>
    match s.gateRead k.ctx (x.base + BitVec.ofNat 64 (64 * (x.rd.toNat % 2 ^ x.log2))) 64 with
    | (.ok, s1, l) =>
      if s.placing k.ctx = true ∧ s.mgmt.switching = false ∧ x.en = true ∧ x.error = false ∧ x.rd ≠ x.wr ∧ l = k.bytes ∧ k.bits 0 0 8 = op ∧ k.reserved op = none ∧ x.taken = [] then some s1 else none
    | _ => none

theorem heads_of {s s1 : State} {k : Pk} {op : Nat} {x : Queue} (hx : s.queue? k.ctx k.q = some x) (h : headOf s k op = some s1) : Heads s k op x s1 := by
  unfold headOf at h
  rw [hx] at h
  dsimp only at h
  split at h
  · rename_i t l he
    split at h
    · rename_i hc
      cases h
      obtain ⟨c1, c0, c2, c3, c4, c5, c6, c7, c8⟩ := hc
      exact ⟨hx, ⟨c1, c0, c2, c3, c4⟩, by rw [he, c5], c6, c7, .inr c8⟩
    · cases h
  · cases h

/-- The packet leaves its queue. -/
def leaves (s : State) (k : Pk) : Bool :=
  match s.queue? k.ctx k.q with
  | none => false
  | some y => decide ((s.indexWrite k y).1 = .ok)

theorem leaves_of {s : State} {k : Pk} (h : leaves s k = true) : s.canAdvance k := by
  unfold leaves at h
  split at h
  · cases h
  · rename_i y hy
    exact ⟨y, hy, of_decide_eq_true h⟩

theorem taken_of {s : State} {k : Pk} {op : Nat} {x : Queue} {f : State → Bool} (hx : s.queue? k.ctx k.q = some x)
    (h : (headOf s k op).any f = true) : ∃ s1, Heads s k op x s1 ∧ f s1 = true := by
  obtain ⟨s1, h1, h2⟩ := (Option.any_eq_true _ _).1 h
  exact ⟨s1, heads_of hx h1, h2⟩

def wNop : List Byte := natBytes 0 64
/-- SIGNAL adds 1 at 0x6000; WAITSIG waits there for v. -/
def wSignal : List Byte := natBytes 3 8 ++ natBytes 0x6000 8 ++ natBytes 1 48
def wWaitsig (v : Nat) : List Byte := natBytes 4 8 ++ natBytes 0x6000 8 ++ natBytes v 48
/-- BUFDEP of handle 0: 0 waits for its writer, 2 frees it. -/
def wBufdep (m : Nat) : List Byte := natBytes 5 4 ++ natBytes (m * 2 ^ 16) 60
def wRkinit : List Byte := natBytes 9 4 ++ natBytes 1 4 ++ natBytes 7 56
/-- REPAIR of queue 1 of context 0. -/
def wRepair : List Byte := natBytes 10 4 ++ natBytes 64 60

theorem witness_PacketsTaken :
    (∃ s1, Heads (sPk wNop false false) (wPk wNop) 0 (wQueue false) s1 ∧ leaves s1 (wPk wNop) = true) ∧
    (∃ s1, Heads (sPk wSignal false false) (wPk wSignal) 3 (wQueue false) s1 ∧
      (let r := s1.signal 0 ((wPk wSignal).va 8) ((wPk wSignal).bits 4 0 1 == 0) ((wPk wSignal).va 16)
       decide (r.1 = .ok) && leaves r.2 (wPk wSignal)) = true) ∧
    (∀ v ∈ [0, 1], ∀ b ∈ [false, true], ∃ s1, Heads (sPk (wWaitsig v) false b) (wPk (wWaitsig v)) 4 (wQueue b) s1 ∧
      (let r := s1.gateRead 0 ((wPk (wWaitsig v)).va 8) 8
       decide (r.1 = .ok) && leaves r.2.1 (wPk (wWaitsig v)) && (BitVec.ofNat 64 (leNat r.2.2) - (wPk (wWaitsig v)).va 16).msb == decide (v = 1)) = true) ∧
    (∀ m ∈ [0, 1, 2], ∃ s1, Heads (sPk (wBufdep m) false false) (wPk (wBufdep m)) 5 (wQueue false) s1 ∧
      ((wPk (wBufdep m)).bits 4 16 2 == m && (match s1.ctx? 0 with | some c => (c.handle? 0).isNone | none => false) && leaves s1.invalidateAll (wPk (wBufdep m))) = true) ∧
    (∃ s1, Heads (sPk wRkinit false false) (wPk wRkinit) 9 (wQueue false) s1 ∧
      leaves (s1.modCtx 0 (fun c => { c with rk := c.rk.mapFinIdx (fun i v _ => if Nat.testBit ((wPk wRkinit).bits 4 0 4) i then (wPk wRkinit).va (8 + 8 * i) else v) }))
        (wPk wRkinit) = true) ∧
    (∀ e ∈ [false, true], ∃ s1, Heads (sPk wRepair e false) (wPk wRepair) 10 (wQueue false) s1 ∧
      (let r := s1.gateWrite 0 0x210000#64 (natBytes 0 4)
       decide (s1.queue? 0 0 = some (wQueue false)) && decide (s1.queue? 0 1 = some (wOther e)) && decide (r.1 = .ok) && leaves r.2 (wPk wRepair) && leaves s1 (wPk wRepair)) = true) ∧
    ((wQueue false).privq = true ∧ (wPk wRepair).va 16 = 0#64 ∧ (1#32 - BitVec.ofNat 32 ((wPk wRepair).word 8)).toNat ≤ 2 ^ 4) ∧
    (∃ s1, Heads (sPk (natBytes 11 64) false false) (wPk (natBytes 11 64)) 11 (wQueue false) s1 ∧ true = true) := by
  refine ⟨taken_of rfl (by decide +kernel), taken_of rfl (by decide +kernel), ?_, ?_, taken_of rfl (by decide +kernel), ?_, ⟨rfl, by decide, by decide⟩,
    taken_of (f := fun _ => true) rfl (by decide +kernel)⟩
  · intro v hv b hb
    simp only [List.mem_cons, List.not_mem_nil, or_false] at hv hb
    rcases hv with rfl | rfl <;> rcases hb with rfl | rfl <;> exact taken_of rfl (by decide +kernel)
  · intro m hm
    simp only [List.mem_cons, List.not_mem_nil, or_false] at hm
    rcases hm with rfl | rfl | rfl <;> exact taken_of rfl (by decide +kernel)
  · intro e he
    simp only [List.mem_cons, List.not_mem_nil, or_false] at he
    rcases he with rfl | rfl <;> exact taken_of rfl (by decide +kernel)

/-! ### Launches and registrations -/

/-- Blocks at 0x7000: an argument block, or a trellis header with its entry and, at 0x7100, its seed, or two members of a group. -/
def sPkWith (pk block : List Byte) (f : State → State) : State :=
  f { sPk pk false false with mem := { Store.reset with dev := cellsSet (cellsSet wCode 0x100000 pk) 0x7000 block } }

/-- A LAUNCH of an nx-by-1-by-1 grid with one argument and one handle. -/
def wLaunchPk (nx : Nat) : List Byte :=
  natBytes 1 4 ++ natBytes (nx + 2 ^ 16) 4 ++ natBytes (1 + 32 * 2 ^ 16) 4 ++ natBytes 0 4 ++ natBytes 0x10000 8 ++ natBytes 0x10800 8 ++ natBytes 4096 4 ++ natBytes 0 8 ++
    natBytes 65 4 ++ natBytes 0x7000 8 ++ natBytes 0 8

def wTrellisPk : List Byte := natBytes 2 8 ++ natBytes 0x7000 56

def wTrellisBlock : List Byte :=
  natBytes 1 2 ++ natBytes 1 2 ++ natBytes 1 4 ++ natBytes 4 8 ++ natBytes 0 8 ++ natBytes 0x7100 8 ++ natBytes 1 32 ++ natBytes 0 8 ++ natBytes 0x80000000 8 ++ natBytes 4 4 ++
    natBytes 1 4 ++ natBytes 1 8 ++ natBytes 0 32

/-- The launch's block is read, and its handles are free. -/
def launchTakes (s1 : State) : Bool :=
  let k := wPk (wLaunchPk 1)
  match s1.ctx? 0 with
  | none => false
  | some c =>
    match s1.gateRead 0 (k.va 48) 12 with
    | (.ok, s2, args) =>
      let hs := ((List.range 1).map (fun i => leField args (8 + 4 * i) 4)).map handleEntry
      decide (c = wQueueCtx false false) && (s1.launchLimit c k).isNone && decide (k.bits 44 0 6 = 1 ∧ k.bits 44 6 5 = 1 ∧ leField args 8 4 < 2 ^ 18) &&
        decide (c.handles.length + (c.newHandles hs).length ≤ 4096) && hs.all (s2.handleFree c) && leaves (s2.addLaunch (s2.newLaunch c k args hs)) k
    | _ => false

def trellisTakes (s1 : State) : Bool :=
  let k := wPk wTrellisPk
  match s1.gateRead 0 (k.va 8) 64 with
  | (.ok, s2, h) =>
    match s2.gateRead 0 (k.va 8 + 64#64) 64 with
    | (.ok, s3, e) =>
      match s3.gateRead 0 (BitVec.ofNat 64 (leField h 24 8)) 64 with
      | (.ok, s4, b) =>
        match (List.range 1).mapM (fun i => seedOf 1 (sliceBytes b i 64)) with
        | some seeds =>
          decide ((k.va 8).toNat % 64 = 0) && (trellisReserved h).isNone && (s2.trellisLimit h).isNone && decide (leField h 0 2 % 128 = 1 ∧ leField h 32 8 % 2 ^ 21 = 1) &&
            (stageReserved (sliceBytes e 0 64)).isNone && (s3.stageLimit (sliceBytes e 0 64)).isNone &&
            seedsFit ([sliceBytes e 0 64].map stageOf) (leField h 8 8 % 2 ^ 23) seeds && leaves (s4.addTrellis (wQueueCtx false false) k h ([sliceBytes e 0 64].map stageOf) seeds) k
        | none => false
      | _ => false
    | _ => false
  | _ => false

theorem witness_LaunchesTaken :
    (∃ s1, Heads (sPkWith (wLaunchPk 1) (natBytes 0 12) id) (wPk (wLaunchPk 1)) 1 (wQueue false) s1 ∧ launchTakes s1 = true) ∧
    (∃ s1, Heads (sPkWith (wLaunchPk 0) (natBytes 0 12) id) (wPk (wLaunchPk 0)) 1 (wQueue false) s1 ∧
      decide (s1.ctx? 0 = some (wQueueCtx false false) ∧ s1.launchLimit (wQueueCtx false false) (wPk (wLaunchPk 0)) = some 4) = true) ∧
    (∃ s1, Heads (sPkWith wTrellisPk wTrellisBlock id) (wPk wTrellisPk) 2 (wQueue false) s1 ∧ trellisTakes s1 = true) :=
  ⟨taken_of rfl (by decide +kernel), taken_of (f := fun s1 => decide (s1.ctx? 0 = some (wQueueCtx false false) ∧ s1.launchLimit (wQueueCtx false false) (wPk (wLaunchPk 0)) = some 4))
    rfl (by decide +kernel), taken_of rfl (by decide +kernel)⟩

def wView : ViewRegion := ⟨0, 0x1000000, 32, 32, 1, none⟩
def wViewPk (remove : Nat) : List Byte := natBytes 6 4 ++ natBytes (remove * 2 ^ 16) 4 ++ natBytes 0x1000000 8 ++ natBytes 32 4 ++ natBytes 32 4 ++ natBytes 1 40
def wVersion : VRegion := ⟨0, 0, 2 ^ 32, 1, 2, 0x200000, 0x300000, 0x80000000, 0, []⟩
def wVersionPk (remove : Nat) : List Byte :=
  natBytes 7 4 ++ natBytes (2 * 2 ^ 8 + remove * 2 ^ 15) 4 ++ natBytes 1 8 ++ natBytes (2 ^ 32) 8 ++ natBytes 0x200000 8 ++ natBytes 0x300000 8 ++ natBytes 0x80000000 24
def wGroupPk (remove : Nat) : List Byte := natBytes 8 4 ++ natBytes (remove * 8 + 26 * 2 ^ 7) 4 ++ natBytes 2 8 ++ natBytes 0x7000 48

/-- A region and a group are registered or removed, each with the number 0. -/
theorem witness_RegistrationsTaken :
    (∃ s1, Heads (sPkWith (wViewPk 1) [] (fun s => { s with views := [wView] })) (wPk (wViewPk 1)) 6 (wQueue false) s1 ∧
      (decide ((wPk (wViewPk 1)).bits 4 16 1 = 1 ∧ s1.views.find? (fun r => r.num == (wPk (wViewPk 1)).bits 4 0 10) = some wView) &&
        leaves { s1 with views := s1.views.map (fun r => if r.num == 0 then { r with removing := r.removing.or (some (s1.launches.map (fun l => l.id))) } else r) } (wPk (wViewPk 1))) =
          true) ∧
    (∃ s1, Heads (sPkWith (wViewPk 0) [] id) (wPk (wViewPk 0)) 6 (wQueue false) s1 ∧
      (decide ((wPk (wViewPk 0)).bits 4 16 1 = 0 ∧ s1.viewLimit 0 wView = none) && leaves { s1.clearView wView with views := (s1.clearView wView).views ++ [wView] } (wPk (wViewPk 0))) = true) ∧
    (∃ s1, Heads (sPkWith (wVersionPk 1) [] (fun s => { s with vregs := [wVersion] })) (wPk (wVersionPk 1)) 7 (wQueue false) s1 ∧
      (decide ((wPk (wVersionPk 1)).bits 4 15 1 = 1 ∧ s1.vregs.find? (fun r => r.num == (wPk (wVersionPk 1)).bits 4 0 8 && r.ctx == 0) = some wVersion) &&
        leaves { s1.writeEntries wVersion wVersion.entries with vregs := [] } (wPk (wVersionPk 1))) = true) ∧
    (∃ s1, Heads (sPkWith (wVersionPk 0) [] id) (wPk (wVersionPk 0)) 7 (wQueue false) s1 ∧
      (decide ((wPk (wVersionPk 0)).bits 4 15 1 = 0 ∧ s1.versionLimit wVersion = none) &&
        leaves { s1.writeEntries wVersion ((List.range 1).map wVersion.entry) with vregs := [wVersion] } (wPk (wVersionPk 0))) = true) ∧
    (∃ s1, Heads (sPkWith (wGroupPk 1) [] (fun s => { s with groups := [wGroup 0#64 .live 0#64 (wPeer 0#64 .live) []] })) (wPk (wGroupPk 1)) 8 (wQueue false) s1 ∧
      (decide ((wPk (wGroupPk 1)).bits 4 3 1 = 1) && (s1.group? 0 ((wPk (wGroupPk 1)).bits 4 0 3)).isSome && leaves { s1 with groups := [] } (wPk (wGroupPk 1))) = true) ∧
    (∃ s1, Heads (sPkWith (wGroupPk 0) (natBytes 0 16 ++ natBytes 1 16) id) (wPk (wGroupPk 0)) 8 (wQueue false) s1 ∧
      (let k := wPk (wGroupPk 0)
       let r := s1.gateRead 0 (k.va 16) 32
       decide (k.bits 4 3 1 = 0 ∧ k.bits 4 4 3 ≤ 6 ∧ k.bits 4 7 6 = 26 ∧ k.bits 8 0 13 = 2 ∧ k.bits 8 16 13 = 0) && (s1.groupNum? (k.bits 4 0 3)).isNone && decide (r.1 = .ok) &&
         (match (List.range 2).mapM (fun i => memberOf r.2.1.unitCycles (sliceBytes r.2.2 i 16)) with
          | some ms => leaves { r.2.1 with groups := r.2.1.groups ++ [⟨0, 0, 0, 0, 2 ^ 26, k.va 24, ms, 0#64, [], r.2.1.unitCycles⟩] } k
          | none => false)) = true) :=
  ⟨taken_of rfl (by decide +kernel), taken_of rfl (by decide +kernel), taken_of rfl (by decide +kernel), taken_of rfl (by decide +kernel), taken_of rfl (by decide +kernel),
    taken_of rfl (by decide +kernel)⟩

/-! ### The launcher -/

def wDoorbell (e : Bool) (wr : Word) : State :=
  { wBase with ctxs := [{ wCtx with queues := [⟨0, 0x100000#64, 4, true, true, 0x200000#64, 0#32, wr, e, false, []⟩] }] }

/-- Stage 0 collects with a record past its age, stage 1 with none. -/
def wAging : Trellis := { wTrellis with stages := [{ wStage [wRec] with state := .collecting }, wStage []] }

/-- The front thread blocked in EMITW of limit 0 and of limit 5, and in a wait for a version whose group has a silence timer of 2^26. -/
def wBlocked (w : Wait) : Plot := { wPlot with regs := { wPlot.regs with front := { wFront with ag := { wAgent with phase := .blocked, wait := w } } } }

def sBlocked (w : Wait) (n : Nat) : State :=
  { sLate (wBlocked w) with
    clk := ⟨#v[n, n], #v[0, 0]⟩, vregs := [wVersions], groups := [wGroup 0#64 .live 0#64 (wPeer 0#64 .live) []] }

theorem witness_LauncherEvents :
    ((wDoorbell false 0#32).queue? 0 0).isSome = true ∧
    (∀ e, ∃ x, (wDoorbell e 0#32).queue? 0 0 = some x ∧ (x.en && x.error == e && decide ((16#32 - x.rd).toNat ≤ 2 ^ x.log2) && decide (2 ^ x.log2 < (17#32 - x.rd).toNat)) = true) ∧
    (({ wBase with views := [{ wView with removing := some [5] }] } : State).views.find? (fun r => r.num == 0) = some { wView with removing := some [5] } ∧
      ∀ id ∈ [5], ({ wBase with views := [{ wView with removing := some [5] }] } : State).liveLaunch id = false) ∧
    (({ wBase with trellises := [wAging] } : State).liveTrellis 1 = some wAging ∧ wAging.stage? 0 = some { wStage [wRec] with state := .collecting } ∧
      ({ wStage [wRec] with state := .collecting } : Stage).timer ≤ ({ wBase with trellises := [wAging] } : State).leadCycles - wRec.at_) ∧
    (∀ w n, (sBlocked w n).plot? 1 = some (wBlocked w) ∧ (wBlocked w).agent? .front = some { wAgent with phase := .blocked, wait := w } ∧ (wBlocked w).run = .running ∧
      (wBlocked w).resident = true) ∧
    ({ wAgent with phase := .blocked, wait := .emitw 4 20 5 } : Agent).blockedAt + 5 ≤ (sBlocked (.emitw 4 20 5) 5).cycles (wBlocked (.emitw 4 20 5)).pav ∧
    ((sBlocked (.version 0x100010000#64 20#64 8 false) (2 ^ 26)).silenceOf (wBlocked (.version 0x100010000#64 20#64 8 false)) 0x100010000#64 = some (2 ^ 26) ∧
      wAgent.blockedAt + 2 ^ 26 ≤ (sBlocked (.version 0x100010000#64 20#64 8 false) (2 ^ 26)).cycles 0) :=
  ⟨rfl, fun e => ⟨_, rfl, by cases e <;> decide⟩, ⟨rfl, fun id h => by cases List.mem_singleton.1 h; rfl⟩, ⟨rfl, rfl, by decide⟩, fun w n => ⟨rfl, rfl, rfl, rfl⟩, by decide +kernel,
    by decide +kernel, by decide +kernel⟩

/-- Eight plots to place; a queue that is LAUNCHABLE; a launch whose plot has retired, with and without a signal word; a trellis that is done. -/
def wLaunch (tiles : Nat) (gang : Bool) : Launch := { Launch.fresh 1 0 0x10000#64 0x10800#64 4096 with nx := 8, n := 32, tiles := tiles, gang := gang, next := 0 }

def sPlaces (tiles : Nat) (gang : Bool) : State := { wBase with plots := [], launches := [wLaunch tiles gang], mgmt := { wBase.mgmt with powered := true } }

def wReady : Trellis :=
  { wTrellis with code := some (wLaunch 0 false), stages := [{ wStage [wRec, wRec] with state := .launchable, tiles := 1 }, { wStage [wRec] with state := .launchable, tiles := 1 }] }

def sReady : State := { sPlaces 1 false with launches := [], trellises := [wReady] }

def sRetired (signal : DWord) : State :=
  { sPlaces 0 false with launches := [{ wLaunch 0 false with next := 8, retired := 8, signal := signal }], xl := { Xlate.reset with device := wPav.atc }
                         trellises := [{ wTrellis with stages := [wStage []], signal := 0x6000#64 }] }

theorem witness_PlacementAndCompletion :
    (∀ tiles ∈ [0, 16], (sPlaces tiles false).placeable false (fun w => (sPlaces tiles false).fits w 0 0 && (sPlaces tiles false).pavFree 0 w.tiles) = some (wLaunch tiles false) ∧
      ((sPlaces tiles false).drawTokens (if tiles = 0 then 0 else 1)).1 = true) ∧
    (∀ tiles ∈ [0, 16], (let at_ := [0, 0, 0, 0, 0, 0, 0, 0].zipIdx.map (fun x => (0 + x.2, x.1))
      (sPlaces tiles true).placeable true (fun w => at_.all (fun x => (sPlaces tiles true).fits w x.1 x.2 && (sPlaces tiles true).pavFree x.1 w.tiles)) = some (wLaunch tiles true) ∧
      ((sPlaces tiles true).drawTokens (if tiles = 0 then 0 else 8)).1 = true)) ∧
    (sReady.liveTrellis 1 = some wReady ∧ (∃ q, wReady.stage? 0 = some q ∧ (decide (q.state = .launchable ∧ sReady.liveGroups wReady < wReady.groups) &&
        sReady.fits (wReady.want (wLaunch 0 false) q) 0 0 && sReady.pavFree 0 q.tiles && sReady.inTurn (wReady.want (wLaunch 0 false) q) &&
        !sReady.stageBefore wReady (wLaunch 0 false) 0 q && (sReady.drawTokens 1).1) = true)) ∧
    (∀ x ∈ [0#64, 0x6000#64], ∃ l, (sRetired x).launch? 1 = some l ∧ decide (l.retired = l.nx * l.ny * l.nz ∧ l.signal = x) = true) ∧
    decide (((sRetired 0x6000#64).drainEverything.signal 0 0x6000#64 true 1#64).1 = .ok) = true ∧
    ∃ t, (sRetired 0#64).liveTrellis 1 = some t ∧ ((sRetired 0#64).trellisDone t && decide (t.signal = 0x6000#64)) = true :=
  ⟨by decide +kernel, by decide +kernel, ⟨rfl, _, rfl, by decide +kernel⟩, by
      intro x h
      simp only [List.mem_cons, List.not_mem_nil, or_false] at h
      rcases h with rfl | rfl <;> exact ⟨_, rfl, by decide +kernel⟩, by decide +kernel, ⟨_, rfl, by decide +kernel⟩⟩

/-! ### Recovery and translation -/

def okB {ε α : Type} (r : Except ε α) : Bool :=
  match r with
  | .ok _ => true
  | .error _ => false

def wAhead (n : Nat) : Plot := { wPlot with run := .runahead, ra := some ⟨n, 0, [], []⟩, ck := some wPlot.regs }

def wParkPlot (r : RunState) : Plot := { wPlot with run := r, bundle := none, prg := some 3, batch := [⟨0x50000, false⟩] }

def wGroupOf : PageGroup := ⟨3, 5, 0, [⟨0x50000, false⟩], true, some 1, none⟩

def sParked (res : Bool) : State :=
  { wBase with ctxs := [{ wCtx with resident := res }], plots := [wParkPlot .parked], xl := { Xlate.reset with groups := [wGroupOf], nextGroup := 4 } }

/-- What the answer to the group leaves has nothing more to do, and goes on. -/
def groupGoesOn (res ok : Bool) : Bool :=
  let s := sParked res
  let s1 := { s with xl := { s.xl with groups := [] } }
  let s2 := wGroupOf.pages.foldl (fun s n => s.dropPage 5 n.page) s1
  let told := fun (s : State) (ok : Bool) (f : Plot → Plot) (q : Plot) => if q.prg = some 3 ∧ q.run = .parked then
      if s.isResident q.ctx then { f q with run := .returnable, prg := none, heldResponse := none }
      else { q with heldResponse := some (ok, wGroupOf.pages), prg := none }
    else q
  let t := if ok then (s2.modPlot 1 (told s2 true (fun q => { q with answered := q.answered ++ wGroupOf.pages }))).sendGroups
    else (s1.modPlot 1 (told s1 false (fun q => { q with refused := (q.refused ++ wGroupOf.pages.map PageNeed.page).take 64 }))).sendGroups
  t.colls.isEmpty && t.ctxs.all (fun c => c.pending.isEmpty) && okB t.goOn

/-- A plot of a matrix launch that waits to return, with its tiles saved. -/
def wReturns (r : RunState) : Plot := { wPlot with run := r, resident := false, bundle := none, rows := [0], tiles := [0], token := false, saved := some [⟨none, [], []⟩] }

def sReturns (r : RunState) : State := { wBase with plots := [wReturns r], mgmt := { wBase.mgmt with powered := true } }

theorem witness_PlotStates :
    (∀ n ∈ [4096, 0], ∀ b ∈ [true, false], ({ wBase with plots := [wAhead n], ctxs := [{ wCtx with resident := b }] } : State).plot? 1 = some (wAhead n) ∧ (wAhead n).run = .runahead ∧
      ((wAhead n).aheadDone = decide (n = 4096) ∧ ({ wBase with plots := [wAhead n], ctxs := [{ wCtx with resident := b }] } : State).isResident (wAhead n).ctx = b)) ∧
    (({ wBase with plots := [wParkPlot .rollback] } : State).plot? 1 = some (wParkPlot .rollback) ∧ (wParkPlot .rollback).regs.quiet = true) ∧
    (∀ b, (sParked b).xl.groups.find? (fun x => x.id == 3 && x.pasid == 5 && x.sent) = some wGroupOf) ∧
    (∀ b ∈ [true, false], ∀ ok ∈ [true, false], groupGoesOn b ok = true) ∧
    (∀ r ∈ [RunState.returnable, .running], (sReturns r).plot? 1 = some (wReturns r) ∧ (sReturns r).awaitsReturn (wReturns r) = true ∧ (sReturns r).returnFits (wReturns r) 0 = true ∧
      (sReturns r).returnFits (wReturns r) 15 = true ∧ (sReturns r).tokenTurn (wReturns r) = true ∧ ((sReturns r).drawTokens 1).1 = true ∧ (sReturns r).spoiled (wReturns r) = none) ∧
    (∀ l : Loc, l.space = .dev → Config.saveArea 1 l.addr = true → ∀ r,
      ({ sReturns r with mem := { (sReturns r).mem with bad := [l] } } : State).spoiled (wReturns r) = some l) := by
  refine ⟨?_, ⟨rfl, rfl⟩, fun b => rfl, by decide +kernel, ?_, fun l h e r => ?_⟩
  · intro n hn b hb
    simp only [List.mem_cons, List.not_mem_nil, or_false] at hn hb
    rcases hn with rfl | rfl <;> rcases hb with rfl | rfl <;> exact ⟨rfl, rfl, by decide +kernel, rfl⟩
  · intro r hr
    simp only [List.mem_cons, List.not_mem_nil, or_false] at hr
    rcases hr with rfl | rfl <;> exact ⟨rfl, by decide +kernel, by decide +kernel, by decide +kernel, by decide +kernel, by decide +kernel, rfl⟩
  · unfold State.spoiled
    show List.find? _ [l] = some l
    rw [List.find?_cons_of_pos]
    show (l.space == .dev && Config.saveArea 1 l.addr) = true
    rw [h, e]
    rfl

def wReq (stale : Bool) : AtsReq := ⟨7, 5, 0x90000, true, 0, stale⟩

def sReq (stale : Bool) : State := { wBase with xl := { Xlate.reset with reqs := [wReq stale], invals := [⟨4, 0, 0⟩] }, mgmt := { wBase.mgmt with powered := true } }

/-- A request and an invalidation outstanding. -/
theorem witness_Translations :
    (∀ b, (sReq b).xl.reqs.find? (fun x => x.id == 7) = some (wReq b) ∧ (wReq b).stale = b) ∧
    (let s2 := ({ sReq false with xl := { (sReq false).xl with reqs := [] } } : State).fillAtc (wReq false) (grantEntry (wReq false) 0x90000000#64 12 true true)
     (s2.colls.isEmpty && s2.ctxs.all (fun c => c.pending.isEmpty) && okB s2.goOn) = true) ∧
    (let s2 := ({ sReq false with xl := { (sReq false).xl with reqs := [] } } : State).dropPage 5 0x90000
     (s2.colls.isEmpty && s2.ctxs.all (fun c => c.pending.isEmpty) && okB (State.goOn { s2 with xl := { s2.xl with denied := s2.xl.denied ++ [⟨5, 0x90000⟩] } })) = true) ∧
    (∃ v ∈ (sReq false).xl.invals, v.itag = 4) ∧ (sReq false).waitsFor 4 = false ∧ (sReq false).mgmt.powered = true ∧
    ({ sReq false with mgmt := { (sReq false).mgmt with powered := false } } : State).mgmt.powered = false :=
  ⟨fun b => ⟨rfl, rfl⟩, by decide +kernel, by decide +kernel, ⟨_, List.mem_singleton.2 rfl, rfl⟩, by decide +kernel, rfl, rfl⟩

/-! ### What the fabric serves -/

def wHdr : FabHdr := ⟨1, 0#12, 0#4, 0, 1⟩

/-- A request remembered; a page refused to the gatehouse; a RECV of channel 0 posted. -/
def sServe (applied : List Applied) (refused : List (Nat × Nat)) : State :=
  { wBase with
    plots := [{ wPlot with copies := [⟨0, .strand 0, .none, .fab ⟨.recv 0, 0, [1], 0#64, windowBase .spad, 4, 0#64⟩, [⟨0, 4, false, false, false⟩], 0#5, 0, false, [], [], [], 0⟩] }]
    groups := [wGroup 0#64 .live 0#64 (wPeer 0#64 .live) []]
    xl := { Xlate.reset with device := wPav.atc, refused := refused }
    fab := { wBase.fab with applied := applied, posted := [⟨0, 0, 0, 1, 1, 0⟩] } }

def wData : List Byte := natBytes 7 4

def recvLands : Bool :=
  let t := (sServe [] []).pruneFab
  match t.fab.posted.find? (fun x => x.is 0 0 0 1) with
  | none => false
  | some q =>
    match t.copy? q.plot q.copy with
    | none => false
    | some (p, c) =>
      match c.job with
      | .fab f => t.isResident p.ctx && decide (wData.length ≤ f.bytes) && (match t.fabLocal p c f.lea wData.length true with | .ok (_, some _) => true | _ => false)
      | .box _ => false

theorem witness_RequestsServed :
    (∀ a r, (sServe a r).groupNum? wHdr.group = some (wGroup 0#64 .live 0#64 (wPeer 0#64 .live) [])) ∧
    (sServe [⟨1, 0#12, 0#4, .ack 4, 0⟩] []).remembered wHdr = some (.ack 4) ∧ (sServe [] []).remembered wHdr = none ∧
    ((sServe [] []).gateWrite 0 0x6000#64 wData).1 = .ok ∧ ((sServe [] [(5, 0x90000)]).gateWrite 0 0x90000000#64 wData).1 = .refused 0x90000000 ∧
    ((sServe [] []).gateRead 0 0x6000#64 4).1 = .ok ∧
    (∀ f ∈ [1, 3, 4], ((sServe [] []).gateUpdate 0 0x6000#64 4 (raddBytes f wData)).1 = .ok) ∧
    (∀ n ∈ [4, 8], ∃ o, atomOpOf 0 = some o ∧ ((FabOp.ratom o).widthOk n &&
      !((sServe [] []).gateFind 0 0x6000#64 n true).parts.any (fun x => x.1.space == .host) &&
      decide (((sServe [] []).gateUpdate 0 0x6000#64 n (fun old => natBytes (atomNew o n (leNat old) 1 0) n)).1 = .ok)) = true) ∧
    recvLands = true ∧ (sServe [] []).pruneFab.fab.posted.find? (fun x => x.is 0 1 0 1) = none := by
  refine ⟨fun a r => rfl, by decide +kernel, rfl, by decide +kernel, by decide +kernel, by decide +kernel, by decide +kernel, ?_, by decide +kernel, by decide +kernel⟩
  intro n hn
  simp only [List.mem_cons, List.not_mem_nil, or_false] at hn
  rcases hn with rfl | rfl <;> exact ⟨_, rfl, by decide +kernel⟩

def wTag (waiting : Bool) : TagReq := ⟨0#12, 3#4, [], .copy 1 0 0, 1, 0, 1, .rread 0x2000#64 4, 7, 0, 4096, waiting, none, []⟩

def sTag (waiting ended : Bool) (n : Nat) (applied : List Applied) : State :=
  { wBase with
    plots := [{ wPlot with copies := [⟨0, .strand 0, .none, .fab ⟨.rread, 0, [1], 0x2000#64, windowBase .spad, 4, 0#64⟩, [⟨0, 4, false, false, false⟩], 0#5, 0, ended, [], [], [], 0⟩] }]
    groups := [wGroup 0#64 .live 0#64 (wPeer 0#64 .live) []]
    clk := ⟨#v[n, n], #v[n, n]⟩
    fab := { wBase.fab with tags := [wTag waiting], applied := applied } }

/-- A pod has another module, whose port is live. -/
theorem live_port : ∃ j, (sTag false false 0 []).portLive j = true := by
  have h2 : 2 ≤ Config.podSize := Nat.le_add_left _ _
  have h : ∀ j, (hj : j < 16) → j ≠ Config.self.val → j < Config.podSize → (!(sTag false false 0 []).fab.ports[j].failed && !(sTag false false 0 []).fab.ports[j].training) = true →
      (sTag false false 0 []).portLive j = true := by
    intro j hj a b c
    unfold State.portLive
    rw [dif_pos hj, c, decide_eq_true a, decide_eq_true b]
    rfl
  by_cases e : Config.self.val = 0
  · exact ⟨1, h 1 (by decide) (by omega) (by omega) rfl⟩
  · exact ⟨0, h 0 (by decide) (by omega) (by omega) rfl⟩

/-- Tag 0, generation 3, serves an RREAD of 4 bytes; a reply of generation 2 is stale. -/
theorem witness_RequesterAndPorts :
    (∀ b e n a, (sTag b e n a).tag? 0#12 = some (wTag b) ∧ (wTag b).gen = 3#4 ∧ (wTag b).landing = none ∧ (wTag b).tag = 0#12 ∧ (wTag b).owner = .copy 1 0 0 ∧ (wTag b).waiting = b ∧
      (wTag b).attempts < 8) ∧ ((3#4 : BitVec 4) ≠ 2#4) ∧
    (∃ x f, (sTag false false 0 []).copy? 1 0 = some x ∧ x.2.job = .fab f ∧ x.2.ended = false ∧ ((sTag false false 0 []).pav x.1.pav).parts.contains x.1.ctx = true ∧
      okWith ((sTag false false 0 []).fabLocal x.1 x.2 (f.lea + BitVec.ofNat 64 (f.cut 0).1) 4 true) (some [(⟨.spad, 0⟩, 4)]) (fun _ => true) = true) ∧
    ((wTag true).sentAt + (wTag true).backoff ≤ (sTag true false 4096 []).unitCycles) ∧ ((wTag false).sentAt + 2 ^ 18 ≤ (sTag false false (2 ^ 18) []).unitCycles) ∧
    ((sTag false false (2 ^ 22) [⟨1, 0#12, 3#4, .ack 4, 0⟩]).unitCycles = 2 ^ 22) ∧ (∃ j, (sTag false false 0 []).portLive j = true) ∧
    (let u : TagReq := { wTag false with owner := .unit }
     ({ sTag false false 0 [] with fab := { (sTag false false 0 []).fab with tags := [u] } } : State).tag? 0#12 = some u ∧ u.owner = .unit ∧ u.landing = none) :=
  ⟨fun b e n a => ⟨rfl, rfl, rfl, rfl, rfl, rfl, Nat.lt_succ_self 7⟩, by decide, ⟨_, _, rfl, rfl, rfl, rfl, by decide +kernel⟩, by decide +kernel, by decide +kernel, by decide +kernel,
    live_port, ⟨rfl, rfl, rfl⟩⟩

/-! ### Progress and reduction -/

def sPeer (peer : Member) (m : DWord) : State := { wBase with groups := [wGroup 5#64 .live m peer []] }

def wStepTag : TagReq := ⟨0#12, 0#4, [], .unit, 1, 0, 1, .step 5#64, 1, 0, 4096, false, none, []⟩

theorem witness_ProgressEvents :
    (∀ peer m, (sPeer peer m).groupNum? wHdr.group = some (wGroup 5#64 .live m peer []) ∧ wHdr.member < (wGroup 5#64 .live m peer []).members.length ∧
      wHdr.member ≠ (wGroup 5#64 .live m peer []).own ∧ (wGroup 5#64 .live m peer []).members[wHdr.member]? = some peer) ∧
    ((wPeer 3#64 .live).state = .live ∧ (wPeer 3#64 .live).step.toNat < (4#64).toNat) ∧
    ((wPeer 3#64 .absent).state = .absent ∧ (5#64).toNat ≤ (4#64).toNat + (wGroup 5#64 .live 5#64 (wPeer 3#64 .absent) []).lead ∧
      (3#64).toNat + (wGroup 5#64 .live 5#64 (wPeer 3#64 .absent) []).lead < (5#64).toNat) ∧
    (let s := { sPeer (wPeer 3#64 .live) 3#64 with clk := ⟨#v[2 ^ 26, 2 ^ 26], #v[2 ^ 26, 2 ^ 26]⟩, launches := [{ Launch.fresh 1 0 0x10000#64 0x10800#64 4096 with bind := some 0 }],
                                                   fab := { wBase.fab with tags := [wStepTag] } }
     (wPeer 3#64 .live).heard + 2 ^ 26 ≤ s.unitCycles ∧ s.bound (wGroup 5#64 .live 3#64 (wPeer 3#64 .live) []) = true ∧ 0 + 2 ^ 24 ≤ s.unitCycles ∧
       s.tag? 0#12 = some wStepTag ∧ wStepTag.body = .step 5#64 ∧ wStepTag.group = wHdr.group) :=
  ⟨fun peer m => ⟨rfl, Nat.lt_succ_self 1, Nat.one_ne_zero, rfl⟩, ⟨rfl, by decide⟩, ⟨rfl, by decide, by decide⟩, by decide +kernel, by decide +kernel, by decide +kernel, rfl, rfl, rfl⟩

/-- A peer outside the pod, so that no path asks for this module's place in it. -/
def wFar : Member := ⟨1, true, 0x1000#64, 0#64, .live, 0, false⟩

/-- The tag's group with its bucket open or closed, and the collective of the bucket, some chunks applied. -/
def wOpen (applied : List ChunkId) (timer : DWord) : Coll := { wColl false with applied := applied, timer := timer }

def sUnit (b : BucketState) (c : Coll) : State :=
  { wBase with
    groups := [wGroup 0#64 .live 0#64 wFar [(0, b)]], colls := [c], xl := { Xlate.reset with device := wPav.atc }
    clk := ⟨#v[9, 9], #v[9, 9]⟩, mgmt := { wBase.mgmt with powered := true } }

/-- Its requests, answered over Ethernet. -/
def wFarHdr : FabHdr := { wHdr with src := 17 }

def told (s : State) (r : ReplyBody) : State := s.sendOn 17 1 (fun via => .reply 17 via 0#12 0#4 r)

/-- What the unit owes after an event: nothing, so that it rests, or what it goes on with. -/
def unitRests (s : State) : Bool := s.colls.all Coll.rests && okB (s.pumpTag 0 0)

def wContrib (step : DWord) : ContribHdr := ⟨0, step, 0, 2, 64, 3, 0, 0⟩

/-- An image of the 64 accumulators, all empty. -/
def wImage : List Byte := natBytes 0 4 ++ natBytes 64 2 ++ natBytes 128 2 ++ natBytes 0 136

def wChunk (step : DWord) : HeldChunk := ⟨0, 0, 1, step, 0, false, natBytes 0 256⟩

theorem agrees_any (st : DWord) : (wOpen [] 0#64).agrees 0 (wContrib st) 256 = (wOpen [] 0#64).agrees 0 (wContrib 0#64) 256 := by
  unfold Coll.agrees
  simp only [wContrib]

/-- A chunk of the open step known already, of it, of the next, of the one after. -/
theorem witness_CollectiveEvents :
    (∀ b c, (sUnit b c).groupNum? wFarHdr.group = some (wGroup 0#64 .live 0#64 wFar [(0, b)])) ∧
    (unitRests ((sUnit .closed (wOpen [] 0#64)).sendOn 17 1 (fun via => .closed 17 via 0#12 0#4)) = true ∧
      (wGroup 0#64 .live 0#64 wFar [(0, .closed)]).bucketState 0 = .closed) ∧
    (∀ st, (wOpen [] 0#64).agrees 0 (wContrib st) 256 = true) ∧ wFarHdr.member < (wOpen [] 0#64).n ∧
    (∀ l, (sUnit .opened (wOpen l 0#64)).collOf (wGroup 0#64 .live 0#64 wFar [(0, .opened)]) 0 = some (wOpen l 0#64)) ∧
    ((sUnit .opened (wOpen [⟨1, 0, false, 0#64⟩] 0#64)).knows (wOpen [⟨1, 0, false, 0#64⟩] 0#64) (wChunk 0#64) = true ∧
      unitRests (told (sUnit .opened (wOpen [⟨1, 0, false, 0#64⟩] 0#64)) (.ack 256)) = true) ∧
    (∀ st ∈ [0#64, 1#64, 2#64], (sUnit .opened (wOpen [] 0#64)).knows (wOpen [] 0#64) (wChunk st) = false) ∧
    ((wOpen [] 0#64).closed = false ∧
      okB ((told ((sUnit .opened (wOpen [] 0#64)).enterChunk (wGroup 0#64 .live 0#64 wFar [(0, .opened)]) (wOpen [] 0#64) (wChunk 0#64)) (.ack 256)).pumpTag 0 0) = true) ∧
    ((sUnit .opened (wOpen [] 0#64)).greenRoom 0 0 256 = true ∧ unitRests (told ((sUnit .opened (wOpen [] 0#64)).hold (wChunk 1#64)) (.ack 256)) = true) ∧
    ((wOpen [] 0#64).step.toNat + 1 < (2#64).toNat ∧ unitRests ((sUnit .opened (wOpen [] 0#64)).sendOn 17 1 (fun via => .notReady 17 via 0#12 0#4)) = true) ∧
    (∃ y, (wOpen [] 0#64).readImage wImage = some y ∧ ((!(sUnit .opened (wOpen [] 0#64)).knows (wOpen [] 0#64) ⟨0, 0, 1, 0#64, y.1.first / 64, true, wImage⟩) &&
      okB ((told ((sUnit .opened (wOpen [] 0#64)).modColl 0 0 (fun c => (c.applyImage 1 y.1 y.2).mark ⟨1, y.1.first / 64, true, 0#64⟩)) (.ack wImage.length)).pumpTag
        0 0)) = true) ∧
    okB ((((((sUnit .opened (wOpen [] 9#64)).modColl 0 0 (fun c => { c with timerAt := 9 })).broadcast (wGroup 0#64 .live 0#64 wFar [(0, .opened)]) (.short 0 0#64)).takeShort 0 0
      0#64)).pumpColl 0 0) = true ∧
    okB ((told ((sUnit .opened (wOpen [] 0#64)).takeShort 0 0 0#64) (.ack 0)).pumpTag 0 0) = true ∧
    ((sUnit .opened (wOpen [] 9#64)).coll? 0 0 = some (wOpen [] 9#64) ∧ (wOpen [] 9#64).timerAt + (9#64).toNat ≤ (sUnit .opened (wOpen [] 9#64)).unitCycles ∧
      (wOpen [] 9#64).wholes 0 < (wOpen [] 9#64).floor) ∧
    ((wOpen [⟨1, 0, false, 0#64⟩] 9#64).floor ≤ (wOpen [⟨1, 0, false, 0#64⟩] 9#64).wholes 0 ∧
      okB (((sUnit .opened (wOpen [⟨1, 0, false, 0#64⟩] 9#64)).closeStep (wGroup 0#64 .live 0#64 wFar [(0, .opened)]) (wOpen [⟨1, 0, false, 0#64⟩] 9#64)).pumpColl
        0 0) = true) ∧
    okB ((sUnit .opened (wOpen [] 0#64)).pumpColl 0 0) = true := by
  refine ⟨fun b c => rfl, ⟨by decide +kernel, rfl⟩, fun st => (agrees_any st).trans (by decide +kernel), by decide, fun l => rfl, ⟨by decide +kernel, by decide +kernel⟩,
    fun st _ => (by unfold State.knows; exact rfl), ⟨rfl, by decide +kernel⟩,
    ⟨by decide +kernel, by decide +kernel⟩, ⟨by decide, by decide +kernel⟩, some_of (by decide +kernel), by decide +kernel, by decide +kernel,
    ⟨rfl, by decide +kernel, by decide +kernel⟩, ⟨by decide +kernel, by decide +kernel⟩, by decide +kernel⟩

/-! ### Ownership and management -/

/-- The host's module, its buffer of 272 bytes staged and its argument naming it, with a successor or none, both lodges well. -/
def wOwned (moving : Bool) (arg : Vector Byte 256) : State :=
  { wBase with mgmt := { wBase.mgmt with
      owner := some .host, keys := some (1, 2), staging := List.replicate 272 0#8, arg := arg, powered := true, switching := false,
      moving := if moving then some (.bmc, 3, 4) else none } }

/-- 272 bytes of the staging buffer. -/
def wArg : Vector Byte 256 := ((Vector.replicate 256 0#8).set 8 0x10#8).set 9 1#8

/-- A lodge takes over: the other lodge's clock has not gone past the instant. -/
def wTakeover : State := { wOwned false wArg with mgmt := { (wOwned false wArg).mgmt with tookOver := some 5 } }

theorem busy_takes : wTakeover.takingOver = true := decide_eq_true (Nat.lt_of_lt_of_le (by decide : 0 < 5) (Nat.le_add_right 5 Config.takeoverCycles))

/-- The agenda of the second brings a claim of the host in the same lodge cycle, which goes before that of the pod. -/
theorem witness_ClaimAndHandover :
    (State.reset.takingOver = false ∧ State.reset.claimsNow = [] ∧ State.reset.mgmt.owner = none ∧ State.reset.mgmt.moving = none ∧
      ∀ m, State.reset.mgmt.allows m = true) ∧
    (let s : State := { State.reset with agenda := [.event (.claim .host State.reset.mgmt.nonce 1 2)] }
     s.takingOver = false ∧ s.claimsNow = [⟨.host, State.reset.mgmt.nonce, 1, 2⟩] ∧ masterCode .host < masterCode .pod) ∧
    ((wOwned false wArg).takingOver = false ∧ (wOwned false wArg).mgmt.owner ≠ none ∧ (wOwned true wArg).mgmt.moving = some (.bmc, 3, 4)) ∧
    wTakeover.takingOver = true :=
  ⟨⟨rfl, rfl, rfl, rfl, fun m => by cases m <;> rfl⟩, ⟨rfl, rfl, by decide⟩, ⟨rfl, by decide, rfl⟩, busy_takes⟩

theorem witness_OnlyTheOwnerCommands : (0x0C000000#32).toNat / 2 ^ 24 ≠ 1 ∧ (0x01000000#32).toNat / 2 ^ 24 = 1 ∧ (0x0A000000#32).toNat / 2 ^ 24 = 10 ∧
    (wOwned false wArg).mgmt.owner ≠ some .bmc ∧ (wOwned false wArg).takingOver = false := by decide

def wOne : Vector Byte 256 := (Vector.replicate 256 0#8).set 0 1#8

/-- Bytes named in device memory at 0x100, the first of them bad. -/
def wSpoiled : State :=
  { wOwned false ((Vector.replicate 256 0#8).set 1 1#8 |>.set 8 16#8) with mem := { Store.reset with bad := [⟨.dev, 0x100⟩] } }

/-- What each command of slot 0 asks, with its code in bits [31:24], once the firmware is at work. -/
theorem witness_OwnerCommands :
    (∀ a, (wOwned false a).takingOver = false ∧ (wOwned false a).mgmt.owner = some .host ∧ (wOwned false a).mgmt.switching = false ∧ (wOwned false a).mgmt.moving = none ∧
      (wOwned false a).worked.mgmt.keys = some (1, 2) ∧ (wOwned false a).worked.mgmt.standby.offline = false) ∧
    (∀ op, op < 13 → (BitVec.ofNat 32 (op * 2 ^ 24)).toNat / 2 ^ 24 = op ∧ (BitVec.ofNat 32 (op * 2 ^ 24)).toNat / 2 ^ 10 % 2 ^ 14 = 0 ∧ (BitVec.ofNat 32 (op * 2 ^ 24)).toNat % 64 = 0) ∧
    (okB ((wOwned false (Vector.replicate 256 0#8)).worked.ctxWrite 1) = true ∧ okB ((wOwned false wArg).worked.ctxWrite 0) = false) ∧
    ((wOwned false wOne).worked.ctx? 0 = some wCtx ∧ Nat.testBit ((wOwned false wOne).worked.mgmt.argNum 0 4) 0 = true ∧
      (match (wOwned false wOne).worked.makeResident wCtx with | .ok (.ok _) => true | _ => false) = true) ∧
    ((wOwned false wArg).worked.ctx? 0 = some wCtx ∧ Nat.testBit ((wOwned false wArg).worked.mgmt.argNum 0 4) 0 = false ∧
      (wOwned false wArg).worked.mgmt.argNum 0 4 < 2 ^ 14) ∧
    okB ((wOwned false ((Vector.replicate 256 0#8).set 8 4#8)).worked.queueWrite 0 0) = true ∧
    (∃ b, (wOwned false wArg).worked.source = some b ∧ decide (b.length = 272) = true) ∧ (wOwned false wArg).worked.sourceBad = none ∧
    wSpoiled.worked.sourceBad = some ⟨.dev, 0x100⟩ ∧
    ((wOwned false wOne).worked.mgmt.argNum 0 1 = 1 ∧ (wOwned false wOne).worked.mgmt.staging.length + 1 ≤ 4194304) := by
  refine ⟨fun a => ⟨rfl, rfl, rfl, rfl, rfl, rfl⟩, by decide +kernel, ⟨by decide +kernel, by decide +kernel⟩, ⟨rfl, by decide +kernel, by decide +kernel⟩,
    ⟨rfl, by decide +kernel, by decide +kernel⟩, by decide +kernel, some_of (by decide +kernel), by decide +kernel, by decide +kernel, by decide +kernel, by decide +kernel⟩

def wSwitching : State := { wOwned false wArg with mgmt := { (wOwned false wArg).mgmt with switching := true } }

theorem witness_LiveUpdateSwitches : wSwitching.mgmt.switching = true ∧ wSwitching.mgmt.powered = true ∧ wSwitching.mgmt.version.toNat + 1 < 2 ^ 64 ∧
    ∀ c ∈ wSwitching.mgmt.table.toList, ∀ b ∈ c.toList, b = none := ⟨rfl, rfl, by decide, by decide⟩

/-- An Ethernet port is wired; that of the module itself is not. -/
theorem wired_ports : portWired 16 = true ∧ portWired Config.self.val = false := by
  refine ⟨rfl, ?_⟩
  unfold portWired
  split <;> simp_all

theorem witness_RegisterWrites :
    (wOwned false wArg).takingOver = false ∧ wTakeover.takingOver = true ∧ (wOwned false wArg).mgmt.owner = some .host ∧ (wOwned false wArg).mgmt.owner ≠ some .bmc ∧
    (1800 ≤ (1800#32).toNat ∧ (3000#32).toNat ≤ 3000 ∧ (1799#32).toNat < 1800 ∧ 3000 < (3001#32).toNat) ∧
    (∀ i : Fin 6, ∃ v : Word, (budgetRange i).1 ≤ v.toNat ∧ v.toNat ≤ (budgetRange i).2 ∧ v.toNat = (budgetRange i).2) ∧ (1#32).getLsbD 0 = true ∧
    (portWired 16 = true ∧ portWired Config.self.val = false ∧ Config.self.val < 24) :=
  ⟨rfl, busy_takes, rfl, by decide, by decide, fun i => ⟨BitVec.ofNat 32 (budgetRange i).2, by revert i; decide⟩, by decide, wired_ports.1, wired_ports.2,
    Nat.lt_of_lt_of_le Config.self.isLt (by decide)⟩

/-- Every timer due, every port in training with an event to resend; power on, and a standby lodge. -/
def sTimers : State :=
  { wBase with
    clk := ⟨#v[2 ^ 24, 2 ^ 24], #v[2 ^ 24, 2 ^ 24]⟩
    fab := { wBase.fab with ports := Vector.replicate 24 ⟨false, true, 0#32, 0#32, 0#32, some 0⟩ }
    mgmt := { wBase.mgmt with powered := true, sessions := [⟨masterCode .host, 9, false⟩] } }

theorem witness_ManagementEvents :
    (∀ port : Fin 24, sTimers.fab.ports[port].failed = false ∧ sTimers.fab.ports[port].event = some 0 ∧ sTimers.fab.ports[port].training = true) ∧
    (portWired 16 = true ∧ portWired Config.self.val = false) ∧
    (0 + 2 ^ 20 ≤ sTimers.activeCycles ∧ sTimers.mgmt.lastBeat + 2 ^ 20 ≤ sTimers.activeCycles ∧ sTimers.mgmt.sampledAt + 2 ^ 20 ≤ sTimers.activeCycles) ∧
    (sTimers.mgmt.beatSeen = sTimers.mgmt.heartbeat ∧ sTimers.mgmt.beatAt + 2 ^ 24 ≤ sTimers.standbyCycles ∧ sTimers.mgmt.standby.offline = false) ∧
    (∀ k : Fin 8, (sTimers.spend 3 k 128).1 = true) ∧ sTimers.mgmt.powered = true ∧ ({ sTimers with mgmt := { sTimers.mgmt with powered := false } } : State).mgmt.powered = false ∧
    (0x6000 + 8 ≤ 2 ^ 52 ∧ sTimers.place (sTimers.bar2 + 0x6000) 8 = .at ⟨.dev, 0x6000⟩ ∧ sTimers.firstBad ⟨.dev, 0x6000⟩ 8 = none) :=
  ⟨by decide +kernel, wired_ports, ⟨by decide +kernel, by decide +kernel, by decide +kernel⟩, ⟨rfl, by decide +kernel, rfl⟩, by decide +kernel, rfl, rfl, by decide, by decide +kernel,
    by decide +kernel⟩

theorem witness_AttestationAnswers :
    (State.reset.takingOver = false ∧ wTakeover.takingOver = true ∧ sTimers.takingOver = false) ∧
    (∀ k ∈ [1, 2, 3, 4, 5], (State.reset.mgmt.measurement k).isSome = true) ∧ State.reset.mgmt.session .host = none ∧
    sTimers.mgmt.session .host = some ⟨masterCode .host, 9, false⟩ ∧
    ({ sTimers.mgmt with sessions := [⟨masterCode .host, 9, true⟩] } : Mgmt).session .host = some ⟨masterCode .host, 9, true⟩ :=
  ⟨⟨rfl, busy_takes, rfl⟩, by intro k h; simp only [List.mem_cons, List.not_mem_nil, or_false] at h; rcases h with rfl | rfl | rfl | rfl | rfl <;> rfl, rfl, rfl, rfl⟩

end Sys2Proof.Tests
end

section
/-! # The lodges at reset (R19) -/
namespace Sys2Proof.Machine

/-- The lodges as R19 gives them at reset: the east lodge is active, the west lodge is online to stand by, and no LIVE_UPDATE is
about to exchange the two. -/
def Mgmt.EastActiveWestStandsBy (g : Mgmt) : Prop :=
  g.eastActive = true ∧ g.east.offline = false ∧ g.west.offline = false ∧ g.switching = false

theorem Mgmt.reset_eastActiveWestStandsBy : Mgmt.reset.EastActiveWestStandsBy :=
  ⟨rfl, rfl, rfl, rfl⟩

/-- A module reset keeps the lodges' images, but which lodge is active, whether each is online and whether a LIVE_UPDATE runs do not
depend on the state before it. -/
theorem State.moduleReset_lodges (s : State) :
    s.moduleReset.mgmt.eastActive = Mgmt.reset.eastActive ∧
    s.moduleReset.mgmt.east = ⟨s.mgmt.east.image, Mgmt.reset.east.offline⟩ ∧
    s.moduleReset.mgmt.west = ⟨s.mgmt.west.image, Mgmt.reset.west.offline⟩ ∧
    s.moduleReset.mgmt.switching = Mgmt.reset.switching :=
  ⟨rfl, rfl, rfl, rfl⟩

theorem State.moduleReset_eastActiveWestStandsBy (s : State) : s.moduleReset.mgmt.EastActiveWestStandsBy := by
  obtain ⟨hactive, heast, hwest, hswitching⟩ := s.moduleReset_lodges
  unfold Mgmt.EastActiveWestStandsBy
  rw [hactive, heast, hwest, hswitching]
  exact Mgmt.reset_eastActiveWestStandsBy

theorem exec_moduleReset (s : State) : exec .moduleReset s = .next s.moduleReset := rfl

/-- Settles O5: power-on gives the lodges their reset values, and MODULE_RESET gives them back from any state. -/
theorem resetLodges : Obligations.ResetLodges :=
  ⟨Mgmt.reset_eastActiveWestStandsBy,
    fun s => ⟨s.moduleReset, exec_moduleReset s, s.moduleReset_eastActiveWestStandsBy⟩⟩

end Sys2Proof.Machine
end

section
/-! # The FP32 values of codes, FCLASS and FCMP (R61, R95, R99) -/
namespace Sys2Proof.Machine

/-! ## The value that an FP32 code has, by its magnitude -/

/-- The magnitude code of an FP32 word: its exponent and fraction fields. -/
def fp32Mag (w : Word) : Nat := w.toNat % 2 ^ 31

/-- The magnitude code with the word's sign. -/
def fp32Key (w : Word) : Int := if w.msb then -(fp32Mag w : Int) else (fp32Mag w : Int)

/-- The significand of a finite magnitude code, with the hidden bit of a normal number. -/
def fp32Sig (m : Nat) : Nat := if m / 2 ^ 23 = 0 then m % 2 ^ 23 else m % 2 ^ 23 + 2 ^ 23

/-- How many doublings the significand of a finite magnitude code stands above the least quantum. -/
def fp32Exp (m : Nat) : Nat := m / 2 ^ 23 - 1

/-- A finite magnitude as a multiple of the least quantum. -/
def fp32Quanta (m : Nat) : Nat := fp32Sig m * 2 ^ fp32Exp m

theorem fp32Value_eq (w : Word) :
    fp32Value w =
      if 0x7F800000 < fp32Mag w then .nan (!w.getLsbD 22)
      else if fp32Mag w = 0x7F800000 then .inf w.msb
      else .fin w.msb (fp32Sig (fp32Mag w)) (Fmt.fp32.qmin + (fp32Exp (fp32Mag w) : Int)) := by
  have hm : w.toNat % 2 ^ 31 = fp32Mag w := rfl
  have hsign : w.toNat.testBit 31 = w.msb := by rw [BitVec.testBit_toNat, BitVec.msb_eq_getLsbD_last]
  have hinf : Fmt.fp32.infCode = some (fp32Mag w) ↔ fp32Mag w = 0x7F800000 := Option.some_inj.trans eq_comm
  rw [fp32Value, Fmt.value, show Fmt.fp32.sign = 31 from rfl, show Fmt.fp32.mb = 23 from rfl, show Fmt.fp32.nanAbove = 0x7F800000 from rfl,
    hm, hsign, BitVec.testBit_toNat]
  simp only [hinf, Nat.shiftRight_eq_div_pow]
  by_cases he : fp32Mag w / 2 ^ 23 = 0
  · simp only [fp32Sig, fp32Exp, he, if_true]; rfl
  · have hexp : ((fp32Exp (fp32Mag w) : Nat) : Int) = ((fp32Mag w / 2 ^ 23 : Nat) : Int) - 1 := by
      simp only [fp32Exp]; omega
    simp only [fp32Sig, he, if_false, hexp]; rfl

theorem fp32Value_of_nan {w : Word} (h : 0x7F800000 < fp32Mag w) : fp32Value w = .nan (!w.getLsbD 22) := by
  rw [fp32Value_eq, if_pos h]

theorem fp32Value_of_inf {w : Word} (h : fp32Mag w = 0x7F800000) : fp32Value w = .inf w.msb := by
  rw [fp32Value_eq, if_neg (by omega), if_pos h]

theorem fp32Value_of_fin {w : Word} (h : fp32Mag w < 0x7F800000) :
    fp32Value w = .fin w.msb (fp32Sig (fp32Mag w)) (Fmt.fp32.qmin + (fp32Exp (fp32Mag w) : Int)) := by
  rw [fp32Value_eq, if_neg (by omega), if_neg (by omega)]

theorem fp32Value_isNaN (w : Word) : (fp32Value w).isNaN = decide (0x7F800000 < fp32Mag w) := by
  rcases Nat.lt_trichotomy (fp32Mag w) 0x7F800000 with h | h | h
  · rw [fp32Value_of_fin h]; simp [FVal.isNaN]; omega
  · rw [fp32Value_of_inf h]; simp [FVal.isNaN, h]
  · rw [fp32Value_of_nan h]; simp [FVal.isNaN, h]

theorem fp32Value_isSNaN (w : Word) : (fp32Value w).isSNaN = (decide (0x7F800000 < fp32Mag w) && !w.getLsbD 22) := by
  rcases Nat.lt_trichotomy (fp32Mag w) 0x7F800000 with h | h | h
  · rw [fp32Value_of_fin h]; simp [FVal.isSNaN]; omega
  · rw [fp32Value_of_inf h]; simp [FVal.isSNaN, h]
  · rw [fp32Value_of_nan h]; simp [FVal.isSNaN, h]

/-! ## The class mask (R95) -/

/-- The class by the sign, the exponent field and the fraction field. -/
theorem fclassBit_eq (v : Word) :
    fclassBit v =
      if v.toNat / 2 ^ 23 % 256 = 255 then
        (if v.toNat % 2 ^ 23 = 0 then (if v.msb then 0 else 7) else if v.getLsbD 22 then 9 else 8)
      else if v.toNat / 2 ^ 23 % 256 = 0 then
        (if v.toNat % 2 ^ 23 = 0 then (if v.msb then 3 else 4) else if v.msb then 2 else 5)
      else if v.msb then 1 else 6 := by
  have hfields : fp32Mag v = 2 ^ 23 * (v.toNat / 2 ^ 23 % 256) + v.toNat % 2 ^ 23 := by simp only [fp32Mag]; omega
  have hf : v.toNat % 2 ^ 23 < 2 ^ 23 := Nat.mod_lt _ (by decide)
  have he : v.toNat / 2 ^ 23 % 256 < 256 := Nat.mod_lt _ (by decide)
  generalize v.toNat / 2 ^ 23 % 256 = e at *
  generalize v.toNat % 2 ^ 23 = f at *
  rcases Nat.lt_trichotomy (fp32Mag v) 0x7F800000 with h | h | h
  · have he' : e ≠ 255 := by omega
    have hdiv : fp32Mag v / 2 ^ 23 = e := by omega
    have hmod : fp32Mag v % 2 ^ 23 = f := by omega
    simp only [fclassBit, fp32Value_of_fin h, fp32Sig, hdiv, hmod, he', if_false]
    by_cases hz : e = 0
    · simp only [hz, hf, if_true]
    · simp [hz]
  · have he' : e = 255 := by omega
    have hf' : f = 0 := by omega
    simp [fclassBit, fp32Value_of_inf h, he', hf']
  · have he' : e = 255 := by omega
    have hf' : f ≠ 0 := by omega
    simp only [fclassBit, fp32Value_of_nan h, he', hf', if_true, if_false]
    cases v.getLsbD 22 <;> rfl

theorem fclassBit_lt_ten (v : Word) : fclassBit v < 10 := by
  rw [fclassBit_eq]; repeat' split
  all_goals omega

theorem fclassMask_getLsbD (v : Word) (j : Nat) : (fclassMask v).getLsbD j = decide (j = fclassBit v) := by
  have := fclassBit_lt_ten v
  rw [fclassMask, ← BitVec.twoPow_eq, BitVec.getLsbD_twoPow]
  simp [eq_comm, show fclassBit v < 32 by omega]

/-- An operation that sets no flag leaves srFPF as it is. -/
@[simp] theorem Regs.orFpf_zero (g : Regs) : g.orFpf 0#5 = g := by simp [Regs.orFpf]

/-- FCLASS is a floating-point word that sets no flag, so that it raises no ARITH. -/
theorem exec_fclass {s : State} {x : Issue} {k : Nat} {p : Plot} {d a : Reg} (h : Issues s (.fclass d a) x (.strand k) p)
    (ht : tagsOk fpAccepts p.regs (.strand k) [a]) :
    exec (.fclass d a) s = .next (s.wrote x (.strand k) p (fun g => g.setV k d ⟨fclassMask (p.regs.v k a).val, .z32⟩)) := by
  have hfloats : Floats (.fclass d a) fpAccepts .z32 [a] d (fun v => (fclassMask (v a), 0#5)) := floats_of (fun _ => rfl)
  simpa using hfloats s x k p h ht

/-- Settles O9: the word writes the mask, whose one bit is that of the operand's class. -/
theorem floatClasses : Obligations.FloatClasses :=
  ⟨fun _ _ _ _ _ _ h ht => exec_fclass h ht,
    fun v => by
      intro neg e f bit
      have hbit : fclassBit v = bit := fclassBit_eq v
      exact hbit ▸ ⟨fclassBit_lt_ten v, fun j _ => fclassMask_getLsbD v j⟩⟩

/-! ## The order of FP32 values is that of their codes (R99) -/

/-- A code is its significand and a step of 2^23 for each doubling. -/
theorem fp32Sig_add_exp (m : Nat) : fp32Sig m + fp32Exp m * 2 ^ 23 = m := by
  simp only [fp32Sig, fp32Exp]; split <;> omega

theorem fp32Sig_lt (m : Nat) : fp32Sig m < 2 ^ 24 := by
  simp only [fp32Sig]; split <;> omega

theorem fp32Sig_ge {m : Nat} (h : fp32Exp m ≠ 0) : 2 ^ 23 ≤ fp32Sig m := by
  simp only [fp32Exp] at h; simp only [fp32Sig]; split <;> omega

/-- Finite magnitudes grow with their codes: within one exponent by the significand, and across exponents since a normal significand has
the hidden bit. -/
theorem fp32Quanta_strictMono : StrictMono fp32Quanta := by
  intro m n h
  have hm := fp32Sig_add_exp m
  have hn := fp32Sig_add_exp n
  have hlt := fp32Sig_lt m
  have hlt' := fp32Sig_lt n
  rcases Nat.lt_or_ge (fp32Exp m) (fp32Exp n) with he | he
  · have hhid : 2 ^ 23 ≤ fp32Sig n := fp32Sig_ge (by omega)
    calc fp32Sig m * 2 ^ fp32Exp m
      _ < 2 ^ 24 * 2 ^ fp32Exp m := Nat.mul_lt_mul_of_pos_right hlt (Nat.two_pow_pos _)
      _ = 2 ^ 23 * 2 ^ (fp32Exp m + 1) := by ring
      _ ≤ fp32Sig n * 2 ^ fp32Exp n := Nat.mul_le_mul hhid (Nat.pow_le_pow_right (by decide) he)
  · have hexp : fp32Exp m = fp32Exp n := by
      by_contra hne
      have := fp32Sig_ge (m := m) (by omega)
      omega
    have hsig : fp32Sig m < fp32Sig n := by rw [hexp] at hm; omega
    simp only [fp32Quanta, hexp]
    exact Nat.mul_lt_mul_of_pos_right hsig (Nat.two_pow_pos _)

/-- A magnitude with a sign. -/
def withSign (neg : Bool) (m : Nat) : Int := if neg then -(m : Int) else (m : Int)

theorem fp32Key_eq_withSign (w : Word) : fp32Key w = withSign w.msb (fp32Mag w) := rfl

/-- A scale that grows with the magnitude, from zero, keeps the order of signed magnitudes. -/
theorem withSign_lt_iff {f : Nat → Nat} (hf : StrictMono f) (h0 : f 0 = 0) (b c : Bool) (m n : Nat) :
    withSign b (f m) < withSign c (f n) ↔ withSign b m < withSign c n := by
  have hlt := hf.lt_iff_lt (a := m) (b := n)
  have hgt := hf.lt_iff_lt (a := n) (b := m)
  have hm : f m = 0 ↔ m = 0 := by rw [← hf.injective.eq_iff (a := m), h0]
  have hn : f n = 0 ↔ n = 0 := by rw [← hf.injective.eq_iff (a := n), h0]
  cases b <;> cases c <;> simp only [withSign, if_true, if_false, Bool.false_eq_true] <;> omega

theorem sign_sub_eq_of_lt_iff {a b c d : Int} (h : a < b ↔ c < d) (h' : b < a ↔ d < c) : (a - b).sign = (c - d).sign := by
  rcases Int.lt_trichotomy c d with hc | hc | hc
  · rw [Int.sign_eq_neg_one_of_neg (by omega), Int.sign_eq_neg_one_of_neg (by omega)]
  · rw [show a - b = 0 by omega, show c - d = 0 by omega]
  · rw [Int.sign_eq_one_of_pos (by omega), Int.sign_eq_one_of_pos (by omega)]

/-- A numerator over a lower power of two. -/
theorem signedAt_shift (neg : Bool) (m : Nat) {e e0 q : Int} (hq : q ≤ e0) (he : e0 ≤ e) :
    signedAt neg m e e0 * 2 ^ (e0 - q).toNat = signedAt neg m e q := by
  have hpow : m * 2 ^ (e - e0).toNat * 2 ^ (e0 - q).toNat = m * 2 ^ (e - q).toNat := by
    rw [Nat.mul_assoc, ← pow_add, show (e - e0).toNat + (e0 - q).toNat = (e - q).toNat by omega]
  cases neg
  · simp only [signedAt, Bool.false_eq_true, if_false, ← hpow]; push_cast; rfl
  · simp only [signedAt, if_true, ← hpow]; push_cast; ring

/-- The comparison of finite values may be made over any power of two that is at most both of theirs. -/
theorem FVal.cmp_fin (b c : Bool) (m n : Nat) {d e q : Int} (hd : q ≤ d) (he : q ≤ e) :
    FVal.cmp (.fin b m d) (.fin c n e) = (signedAt b m d q - signedAt c n e q).sign := by
  have hq : q ≤ min d e := by omega
  have hpos : ((2 : Int) ^ (min d e - q).toNat).sign = 1 := Int.sign_eq_one_of_pos (by positivity)
  rw [← signedAt_shift b m hq (min_le_left d e), ← signedAt_shift c n hq (min_le_right d e), ← sub_mul, Int.sign_mul, hpos, mul_one]
  rfl

theorem signedAt_fp32 (neg : Bool) (m : Nat) :
    signedAt neg (fp32Sig m) (Fmt.fp32.qmin + (fp32Exp m : Int)) Fmt.fp32.qmin = withSign neg (fp32Quanta m) := by
  simp [signedAt, withSign, fp32Quanta]

theorem fp32Value_cmp_fin {u v : Word} (hu : fp32Mag u < 0x7F800000) (hv : fp32Mag v < 0x7F800000) :
    (fp32Value u).cmp (fp32Value v) = (fp32Key u - fp32Key v).sign := by
  rw [fp32Value_of_fin hu, fp32Value_of_fin hv, FVal.cmp_fin _ _ _ _ (q := Fmt.fp32.qmin) (by omega) (by omega), signedAt_fp32, signedAt_fp32]
  exact sign_sub_eq_of_lt_iff (withSign_lt_iff fp32Quanta_strictMono rfl ..) (withSign_lt_iff fp32Quanta_strictMono rfl ..)

theorem fp32Key_bounds (w : Word) : -(fp32Mag w : Int) ≤ fp32Key w ∧ fp32Key w ≤ fp32Mag w := by
  simp only [fp32Key]; split <;> omega

/-- An infinity lies beyond every finite value. -/
theorem fp32Value_cmp_inf {u v : Word} (hu : fp32Mag u = 0x7F800000) (hv : fp32Mag v < 0x7F800000) :
    (fp32Value u).cmp (fp32Value v) = (fp32Key u - fp32Key v).sign ∧ (fp32Value v).cmp (fp32Value u) = (fp32Key v - fp32Key u).sign := by
  have hb := fp32Key_bounds v
  rw [fp32Value_of_inf hu, fp32Value_of_fin hv, fp32Key_eq_withSign u, hu]
  cases u.msb
  · simp only [withSign, Bool.false_eq_true, if_false]
    exact ⟨(Int.sign_eq_one_of_pos (by omega)).symm, (Int.sign_eq_neg_one_of_neg (by omega)).symm⟩
  · simp only [withSign, if_true]
    exact ⟨(Int.sign_eq_neg_one_of_neg (by omega)).symm, (Int.sign_eq_one_of_pos (by omega)).symm⟩

theorem fp32Value_cmp_inf_inf {u v : Word} (hu : fp32Mag u = 0x7F800000) (hv : fp32Mag v = 0x7F800000) :
    (fp32Value u).cmp (fp32Value v) = (fp32Key u - fp32Key v).sign := by
  rw [fp32Value_of_inf hu, fp32Value_of_inf hv, fp32Key_eq_withSign, fp32Key_eq_withSign, hu, hv]
  cases u.msb <;> cases v.msb <;> rfl

/-- Values that are no NaN compare as their signed codes. -/
theorem fp32Value_cmp {u v : Word} (hu : fp32Mag u ≤ 0x7F800000) (hv : fp32Mag v ≤ 0x7F800000) :
    (fp32Value u).cmp (fp32Value v) = (fp32Key u - fp32Key v).sign := by
  rcases Nat.lt_or_eq_of_le hu with hu | hu <;> rcases Nat.lt_or_eq_of_le hv with hv | hv
  · exact fp32Value_cmp_fin hu hv
  · exact (fp32Value_cmp_inf hv hu).2
  · exact (fp32Value_cmp_inf hu hv).1
  · exact fp32Value_cmp_inf_inf hu hv

/-! ## FCMP (R99, Table 4-13) -/

/-- One of the operands is a NaN. -/
def Fp32Unordered (u v : Word) : Prop := 0x7F800000 < fp32Mag u ∨ 0x7F800000 < fp32Mag v

/-- One of the operands is a signalling NaN. -/
def Fp32Signals (u v : Word) : Prop :=
  (0x7F800000 < fp32Mag u ∧ u.getLsbD 22 = false) ∨ (0x7F800000 < fp32Mag v ∧ v.getLsbD 22 = false)

theorem isNaN_or_iff (u v : Word) : ((fp32Value u).isNaN || (fp32Value v).isNaN) = true ↔ Fp32Unordered u v := by
  simp [fp32Value_isNaN, Fp32Unordered]

theorem isSNaN_or_iff (u v : Word) : ((fp32Value u).isSNaN || (fp32Value v).isSNaN) = true ↔ Fp32Signals u v := by
  simp [fp32Value_isSNaN, Fp32Signals]

theorem cmp_of_ordered {u v : Word} (h : ¬Fp32Unordered u v) : (fp32Value u).cmp (fp32Value v) = (fp32Key u - fp32Key v).sign := by
  simp only [Fp32Unordered, not_or, Nat.not_lt] at h
  exact fp32Value_cmp h.1 h.2

/-- What Table 4-13 asks of two operands for a condition to be true. -/
def FCond.Holds (c : FCond) (u v : Word) : Prop :=
  match c with
  | .eq => ¬Fp32Unordered u v ∧ fp32Key u = fp32Key v
  | .ne => Fp32Unordered u v ∨ fp32Key u ≠ fp32Key v
  | .lt => ¬Fp32Unordered u v ∧ fp32Key u < fp32Key v
  | .le => ¬Fp32Unordered u v ∧ fp32Key u ≤ fp32Key v
  | .gt => ¬Fp32Unordered u v ∧ fp32Key v < fp32Key u
  | .ge => ¬Fp32Unordered u v ∧ fp32Key v ≤ fp32Key u
  | .un => Fp32Unordered u v
  | .ord => ¬Fp32Unordered u v

theorem fcond_flag (c : FCond) (u v : Word) : (fcond c u v).1 = true ↔ FCond.Holds c u v := by
  by_cases h : Fp32Unordered u v
  · have hun := (isNaN_or_iff u v).2 h
    cases c <;> simp [fcond, FCond.Holds, hun, h]
  · have hun := Bool.eq_false_iff.2 (mt (isNaN_or_iff u v).1 h)
    cases c <;> simp [fcond, FCond.Holds, hun, h, cmp_of_ordered h, Int.sign_eq_zero_iff_zero, sub_eq_zero]

theorem nv_when {b : Bool} {P : Prop} (h : b = true ↔ P) : (Fl.when b Fl.nv = 0x10#5 ↔ P) ∧ (Fl.when b Fl.nv = 0#5 ↔ ¬P) := by
  rw [← h]; cases b <;> decide

/-- The comparisons by size set NV for any NaN. -/
theorem fcond_nv_of_size {c : FCond} (h : c = .lt ∨ c = .le ∨ c = .gt ∨ c = .ge) (u v : Word) :
    ((fcond c u v).2 = 0x10#5 ↔ Fp32Unordered u v) ∧ ((fcond c u v).2 = 0#5 ↔ ¬Fp32Unordered u v) := by
  rcases h with rfl | rfl | rfl | rfl <;> exact nv_when (isNaN_or_iff u v)

/-- The other conditions set NV for a signalling NaN only. -/
theorem fcond_nv_of_rest {c : FCond} (h : c = .eq ∨ c = .ne ∨ c = .un ∨ c = .ord) (u v : Word) :
    ((fcond c u v).2 = 0x10#5 ↔ Fp32Signals u v) ∧ ((fcond c u v).2 = 0#5 ↔ ¬Fp32Signals u v) := by
  rcases h with rfl | rfl | rfl | rfl <;> exact nv_when (isSNaN_or_iff u v)

theorem fpAccepts_iff (t : Tag) : fpAccepts t = true ↔ t = .raw ∨ t = .f32 := by cases t <;> simp [fpAccepts]

theorem arithRaised_iff (e fl : Fl) : arithRaised e fl = true ↔ e &&& fl ≠ 0#5 := by simp [arithRaised]

/-- What FCMP does for the strand `k` of a plot. -/
def fcmpLane (f : BitVec 2) (c : FCond) (a b : Reg) (k : Nat) (p : Plot) : Plot × Res :=
  match tagFault fpAccepts (tagsOf p.regs k [a, b]) with
  | some r => (p, r)
  | none => fpFlag k f (fcond c (p.regs.v k a).val (p.regs.v k b).val).1 (fcond c (p.regs.v k a).val (p.regs.v k b).val).2 p

theorem exec_fcmp (f : BitVec 2) (c : FCond) (a b : Reg) (s : State) :
    exec (.fcmp f c a b) s = runWord (.fcmp f c a b) (onPlot (laneOnly (fcmpLane f c a b))) s := rfl

section
variable {s : State} {x : Issue} {k : Nat} {p : Plot} {f : BitVec 2} {c : FCond} {a b : Reg}

theorem fcmpLane_of_accepted (ha : fpAccepts (p.regs.v k a).tag = true) (hb : fpAccepts (p.regs.v k b).tag = true) :
    fcmpLane f c a b k p = fpFlag k f (fcond c (p.regs.v k a).val (p.regs.v k b).val).1 (fcond c (p.regs.v k a).val (p.regs.v k b).val).2 p := by
  simp [fcmpLane, tagsOf, tagFault, ha, hb]

theorem exec_fcmp_of_quiet (h : Issues s (.fcmp f c a b) x (.strand k) p) (ha : fpAccepts (p.regs.v k a).tag = true)
    (hb : fpAccepts (p.regs.v k b).tag = true) (hq : p.arithEnables &&& (fcond c (p.regs.v k a).val (p.regs.v k b).val).2 = 0#5) :
    exec (.fcmp f c a b) s = .next (s.wrote x (.strand k) p (fun g =>
      (g.setFlag (.strand k) f (fcond c (p.regs.v k a).val (p.regs.v k b).val).1).orFpf (fcond c (p.regs.v k a).val (p.regs.v k b).val).2)) :=
  runWord_onPlot h ((fcmpLane_of_accepted (p := p.counted) ha hb).trans (if_neg (by rw [arithRaised_iff]; exact not_not.2 hq)))

theorem exec_fcmp_of_enabled (h : Issues s (.fcmp f c a b) x (.strand k) p) (ha : fpAccepts (p.regs.v k a).tag = true)
    (hb : fpAccepts (p.regs.v k b).tag = true) (hq : p.arithEnables &&& (fcond c (p.regs.v k a).val (p.regs.v k b).val).2 ≠ 0#5) :
    exec (.fcmp f c a b) s =
      .next (s.traps x (.strand k) .arith 0 ((fcond c (p.regs.v k a).val (p.regs.v k b).val).2.setWidth 64)) :=
  runWord_onPlot_trap h ((fcmpLane_of_accepted (p := p.counted) ha hb).trans (if_pos ((arithRaised_iff ..).2 hq)))

/-- FCMP raises FORMAT at the source that its check of the tags names. -/
theorem exec_fcmp_of_fault (h : Issues s (.fcmp f c a b) x (.strand k) p) {r : Reg} {t : Tag}
    (hr : tagFault fpAccepts (tagsOf p.regs k [a, b]) = some (.trap .format 0 (formatTval r t Tag.code))) :
    exec (.fcmp f c a b) s = .next (s.traps x (.strand k) .format 0 (formatTval r t Tag.code)) := by
  refine runWord_onPlot_trap (q := p.counted) h ?_
  show fcmpLane f c a b k p.counted = _
  have hr' : tagFault fpAccepts (tagsOf p.counted.regs k [a, b]) = _ := hr
  simp only [fcmpLane, hr']

end

/-- A word of major 0x11 whose function code is none of the eight conditions does not decode. -/
theorem decodeFcmp_of_ge (d a b : Reg) {fn : BitVec 8} (h : 8 ≤ fn.toNat) : decodeFcmp d a b fn = .error .unassigned := by
  refine if_neg fun hz => ?_
  have hn := congrArg BitVec.toNat hz
  simp [BitVec.extractLsb'_toNat, Nat.shiftRight_eq_div_pow] at hn
  omega

/-- Settles O10: the word's outcomes by its operands' tags and the enabled flags, Table 4-13 on the order of codes, and the codes that
name no condition. -/
theorem floatCompares : Obligations.FloatCompares := by
  refine ⟨?_, ?_, ?_⟩
  · intro s x k p f c a b h ok y bad
    have hok : ∀ r, ok r ↔ fpAccepts (p.regs.v k r).tag = true := fun r => (fpAccepts_iff _).symm
    simp only [hok, Bool.not_eq_true]
    exact ⟨exec_fcmp_of_quiet h, exec_fcmp_of_enabled h, fun ha => exec_fcmp_of_fault h (by simp [tagsOf, tagFault, ha]),
      fun ha hb => exec_fcmp_of_fault h (by simp [tagsOf, tagFault, ha, hb])⟩
  · intro c u v mag key nan snan
    refine ⟨(fcond_flag c u v).trans ?_, fun h => fcond_nv_of_size h u v, fun h => fcond_nv_of_rest h u v⟩
    cases c <;> exact Iff.rfl
  · intro w hmaj hfn i
    rw [decode_11 hmaj, decodeFcmp_of_ge _ _ _ hfn]
    exact nofun

end Sys2Proof.Machine
end

section
namespace Sys2Proof.Machine

/-! # TADD reads its sources before it writes (R134) -/

/-- A write of a tile leaves at each place the bad pattern where the element is bad (R141), and the given element elsewhere. -/
theorem dense_write (t : Tile) (s32 : Bool) (f : Nat → Word) (bad : Nat → Bool) {k : Nat} (hk : k < 4096) :
    (t.write s32 f bad).dense[k]? = some (if bad k then badElem s32 else f k) :=
  dense_withBits t (fun j => if bad j then badElem s32 else f j) k hk

theorem tileMap_getD (a : Array Word) (f : Nat → Word → Word × Fl) {k : Nat} (hk : k < 4096) :
    (tileMap a f).1.getD k 0#32 = (f k (a.getD k 0#32)).1 := by
  simp [tileMap, Array.getD_eq_getD_getElem?, hk]

@[simp] theorem reportTile_nil (s : State) (p : Plot) (n : Nat) : s.reportTile p n [] = s := rfl

/-- One element of TADD's sum and its flags: modulo 2^32 for S32 tiles, rounded to nearest even for F32 tiles (R133). -/
def taddElem (s32 : Bool) (x y : Word) : Word × Fl := if s32 then (x + y, 0#5) else fadd .rne x y

theorem taddElem_fst (s32 : Bool) (x y : Word) : (taddElem s32 x y).1 = if s32 then x + y else (fadd .rne x y).1 := by
  cases s32 <;> rfl

/-- All three tiles are read from the state before TADD, so that which of them are one tile does not matter; with no bad byte in a source
nothing is reported, and the destination alone is written. -/
theorem runTile_tadd_of_sound {s : State} {p : Plot} {a b : Nat} (ha : (s.tile p a).bad = []) (hb : (s.tile p b).bad = [])
    (d n done : Nat) (s32 : Bool) (f : Fl) :
    let sums := tileMap (s.tile p a).dense (fun k x => taddElem s32 x ((s.tile p b).dense.getD k 0#32))
    s.runTile p ⟨n, .tadd d a b s32, done, f⟩ =
      (s.setTile p d ((s.tile p d).write s32 (fun k => sums.1.getD k 0#32) (fun _ => false)), sums.2) := by
  simp [State.runTile, ha, hb, taddElem]

/-- Settles O11: the destination is read back as TADD wrote it, and each element written is the sum of the elements read. -/
theorem tileAddsReadFirst : Obligations.TileAddsReadFirst := by
  intro s p d a b n s32 f hp ha hb k hk x y
  rw [runTile_tadd_of_sound ha hb, tile_setTile _ _ _ _ hp, dense_write _ _ _ _ hk, if_neg Bool.false_ne_true, tileMap_getD _ _ hk,
    taddElem_fst]

end Sys2Proof.Machine
end

section
namespace Sys2Proof.Machine

/-! # UD raises ILLEGAL (R321) -/

theorem TrapClass.code_lt_sixteen (c : TrapClass) : c.code < 16 := by cases c <;> decide

/-- The low four bits of srTCAUSE hold the class (Table 16-2), whatever the stream and the detail. -/
theorem causeWord_class (w : Who) (t : Trap) : (causeWord w t).toNat % 16 = t.cls.code := by
  have hcode := t.cls.code_lt_sixteen
  have hstream : (if w = .front then 256 else 0) % 16 = 0 := by split <;> rfl
  rw [causeWord, BitVec.toNat_ofNat]
  omega

/-- What taking a trap does to its agent, before the agent stands at the handler entry (R379). -/
def Agent.takesTrap (w : Who) (t : Trap) (a : Agent) : Agent :=
  { a with
    trap := none, tcause := causeWord w t, tval := t.tval, tpc := t.pc, handler := true, yieldNext := false, mchk := [],
    later := a.later ++ a.mchk }

theorem takeTrap_eq_boundary (g : Regs) (w : Who) (t : Trap) (entry : Word) :
    g.takeTrap w t entry = (g.modAgent w (Agent.takesTrap w t)).boundary w entry false := rfl

/-- The boundary that the agent comes to changes only where it stands. -/
theorem takeTrap_agentBody {g : Regs} {w : Who} {a : Agent} (h : g.agent? w = some a) (t : Trap) (entry : Word) :
    ∃ b, (g.takeTrap w t entry).agent? w = some b ∧ b.body = (a.takesTrap w t).body := by
  rw [← Option.map_eq_some_iff, ← agent?_body, takeTrap_eq_boundary, body_boundary, agent?_body, agent?_modAgent, h]
  rfl

/-- Taking a trap leaves its cause, its value and its place in the agent's trap registers (R379). -/
theorem takeTrap_trapRegisters {g : Regs} {w : Who} {a : Agent} (h : g.agent? w = some a) (t : Trap) (entry : Word) :
    ∃ b, (g.takeTrap w t entry).agent? w = some b ∧ b.tcause = causeWord w t ∧ b.tval = t.tval ∧ b.tpc = t.pc := by
  obtain ⟨b, hb, hbody⟩ := takeTrap_agentBody h t entry
  exact ⟨b, hb, congrArg Agent.tcause hbody, congrArg Agent.tval hbody, congrArg Agent.tpc hbody⟩

/-- UD has no meaning but the trap of row 10 of Table 2-11, with its own word as the value (R54). -/
theorem exec_ud {s : State} {x : Issue} {w : Who} {p : Plot} (h : Issues s .ud x w p) :
    exec .ud s = .next (s.traps x w .illegal 10 (x.word.setWidth 64)) :=
  runWord_trap h rfl

/-- Settles O8: the word is its trap, and taking that trap writes the value and the class to the agent's trap registers. -/
theorem udRaisesIllegal : Obligations.UdRaisesIllegal := by
  intro s x w p h
  refine ⟨exec_ud h, fun g entry a ha => ?_⟩
  obtain ⟨b, hb, hcause, hval, -⟩ := takeTrap_trapRegisters ha ⟨.illegal, 10, x.word.setWidth 64, x.pc, false⟩ entry
  exact ⟨b, hb, hval, by rw [hcause]; exact causeWord_class w _⟩

end Sys2Proof.Machine
end

section
namespace Sys2Proof.Machine

/-! # The doorbell registers of BAR0 (R343, R420) -/

/-- The offset in BAR0 of the doorbell of queue q of context c. -/
def bellOffset (c q : Nat) : Nat := 0x10000 + 128 * c + 8 * q

/-- The doorbells stand above every other register that a write can change, and the offset gives the context and the queue back, so
that the host's write rings the one doorbell. -/
theorem exec_registerWrite_bellOffset (s : State) (v : Word) {c q : Nat} (hc : c < 64) (hq : q < 16) :
    exec (.registerWrite .host (bellOffset c q) v) s = exec (.doorbell c q v) s := by
  have hctx : (bellOffset c q - 0x10000) / 128 = c := by unfold bellOffset; omega
  have hqueue : bellOffset c q / 8 % 16 = q := by unfold bellOffset; omega
  have hlow : 0x10000 ≤ bellOffset c q := by unfold bellOffset; omega
  have hhigh : bellOffset c q < 0x12000 := by unfold bellOffset; omega
  have haligned : bellOffset c q % 8 = 0 := by unfold bellOffset; omega
  show execRegisterWrite .host (bellOffset c q) v s = execDoorbell c q v s
  unfold execRegisterWrite
  iterate 6 rw [if_neg (by omega)]
  rw [if_pos ⟨hlow, hhigh, haligned, rfl⟩, hctx, hqueue]

theorem exec_doorbell_of_absent {s : State} {c q : Nat} (h : s.queue? c q = none) (v : Word) :
    exec (.doorbell c q v) s = .next s := by
  show execDoorbell c q v s = _
  simp only [execDoorbell, h]

section
variable {s : State} {c q : Nat} {x : Queue} (h : s.queue? c q = some x)
include h

theorem exec_doorbell_of_disabled (hen : x.en = false) (v : Word) : exec (.doorbell c q v) s = .next s := by
  show execDoorbell c q v s = _
  simp [execDoorbell, h, hen]

/-- The doorbell of an enabled queue writes the index, and a queue that is not in ERROR enters it where the index passes the ring. -/
theorem exec_doorbell_of_enabled (hen : x.en = true) (v : Word) :
    let s1 := s.modQueue c q (fun y => { y with wr := v })
    exec (.doorbell c q v) s =
      .next (if x.error = false ∧ 2 ^ x.log2 < (v - x.rd).toNat then s1.queueError c q 0 3 0#32 0 else s1) := by
  show execDoorbell c q v s = _
  simp only [execDoorbell, h, hen, Bool.not_true, Bool.false_eq_true, if_false, Bool.and_eq_true, Bool.not_eq_true', decide_eq_true_eq]
  exact (apply_ite Host.Outcome.next _ _ _).symm

/-- The doorbell of an enabled queue leaves its index as the queue's write index: entering ERROR keeps it. -/
theorem exec_doorbell_writeIndex (hen : x.en = true) (v : Word) :
    ∃ t y, exec (.doorbell c q v) s = .next t ∧ t.queue? c q = some y ∧ y.wr = v := by
  have hmod := queue_mod (fun y => { y with wr := v }) (fun _ => rfl) h
  rw [exec_doorbell_of_enabled h hen]
  split
  · obtain ⟨y, hy, hwr⟩ := queue_error hmod
    exact ⟨_, y, rfl, hy, hwr⟩
  · exact ⟨_, _, rfl, hmod, rfl⟩

end

/-- Settles O12: the host's write rings the doorbell, an enabled queue holds the index that a read returns, and a queue that is absent
or not enabled discards it. -/
theorem doorbellRegisters : Obligations.DoorbellRegisters := by
  refine ⟨fun s c q v hc hq => ⟨exec_registerWrite_bellOffset s v hc hq, fun x => read_bell s c q hc hq x, ?_, ?_⟩,
    fun s v => exec_registerWrite_bellOffset (c := 5) (q := 3) s v (by decide) (by decide)⟩
  · intro x h hen
    obtain ⟨t, y, ht, hy, hwr⟩ := exec_doorbell_writeIndex h hen v
    exact ⟨t, ht, (read_bell t c q hc hq y hy).trans hwr⟩
  · rintro (h | ⟨x, h, hen⟩)
    · exact exec_doorbell_of_absent h v
    · exact exec_doorbell_of_disabled h hen v

end Sys2Proof.Machine
end

section
/-! # Decoding what the encoder writes (R45, R46, R51–R54) -/
namespace Sys2Proof.Laws.RoundTrip

/-- The round trip of every instruction, the lemmas of the constructors in the constructors' order. -/
theorem decode_encodeBytes (i : Instr) : Statement i := by
  cases i
  exacts [add _ _ _, sub _ _ _, mul _ _ _, mulhs _ _ _, mulhz _ _ _, andR _ _ _, orR _ _ _, xorR _ _ _, andn _ _ _, shl _ _ _,
    shr _ _ _, sra _ _ _, rol _ _ _, mins _ _ _, maxs _ _ _, minz _ _ _, maxz _ _ _, absd _ _ _, popc _ _, clz _ _, brev _ _,
    addsat _ _ _, subsat _ _ _, bfx _ _ _, bfi _ _ _, selF0 _ _ _, selF1 _ _ _, selF2 _ _ _, selF3 _ _ _, addi _ _ _, andi _ _ _,
    ori _ _ _, xori _ _ _, shfiShl _ _ _, shfiShr _ _ _, shfiSra _ _ _, shfiRol _ _ _, movh _ _, movw _ _, icmp _ _ _ _, icmpi _ _ _ _,
    fadd _ _ _ _, fsub _ _ _ _, fmul _ _ _ _, fmin _ _ _, fmax _ _ _, fminn _ _ _, fmaxn _ _ _, fabs _ _, fneg _ _, fcpys _ _ _,
    fsqrt _ _ _, frcp _ _ _, frsq _ _ _, fexp2 _ _ _, flog2 _ _ _, faddX2 _ _ _ _, fmulX2 _ _ _ _, faddP2 _ _ _ _, fmulP2 _ _ _ _,
    fclass _ _, fma _ _ _ _ _, fms _ _ _ _ _, fnma _ _ _ _ _, fmaX2 _ _ _ _ _, fmaP2 _ _ _ _ _, fcmp _ _ _ _, cvt _ _ _ _ _ _,
    tagset _ _ _, tagget _ _, tagchk _ _, shfl _ _ _, shflx _ _ _, shflu _ _ _, shfld _ _ _, ballot _ _, anyF _ _, allF _ _, redadd _ _,
    redmaxs _ _, redfadd _ _, scanadd _ _, mxqE2m1 _ _ _, mxqE4m3 _ _ _, mxqE5m2 _ _ _, mxdq _ _ _, bcast _ _ _, ld _ _ _ _ _ _,
    lda _ _ _ _ _ _, ldi _ _ _ _ _ _, st _ _ _ _ _ _, stl _ _ _ _ _ _, ldv _ _ _ _ _ _, atomAdd _ _ _ _ _, atomAnd _ _ _ _ _,
    atomOr _ _ _ _ _, atomXor _ _ _ _ _, atomMins _ _ _ _ _, atomMaxs _ _ _ _ _, atomMinz _ _ _ _ _, atomMaxz _ _ _ _ _,
    atomXchg _ _ _ _ _, atomCas _ _ _ _ _, atomFadd _ _ _ _ _, atomIncw _ _ _ _ _, fenceFull _, fenceAcq _, fenceRel _, fenceView _,
    stmx _ _ _ _, pf _ _, vopen _ _ _, vcommit _ _ _, vquery _ _, vretire _ _, br _ _, brx _ _, call _ _, jr _, ret, callr _,
    wait _ _ _ _, yield, exit, join _, leave, rdv, spawn _, reorder _ _, popq _, peekq _, pushq _, movsr _ _, movrs _ _, nop,
    barInit _ _, barArrive _ _, barWait _ _, barSync _ _, barInval _, barQuery _ _, ainit _ _, await _ _ _, aadd _ _, rinit _ _,
    rwaitf _ _, rrel _, rstat _ _, trap _, brk _, eret, rkset _ _, ud, mma _ _ _ _ _, mmag _ _ _ _ _, tzero _ _, tld _ _ _, tst _ _,
    tscal _ _, tadd _ _ _, drain _ _ _ _ _ _, cpyTload _ _ _ _ _, cpyTstore _ _ _ _ _, cpyTaddf _ _ _ _ _, cpyLinr _ _ _ _ _,
    cpyGather _ _ _ _ _, cpyPubl _ _ _ _ _, cpyPull _ _ _ _ _, fabRwrite _ _ _, fabRread _ _ _, fabRadd _ _ _, fabRatom _ _ _,
    fabMcast _ _ _, fabSend _ _ _ _, fabRecv _ _ _ _, fabRfence _, copen _ _ _, contrib _ _ _, cwait _ _, cstat _ _, cclose _,
    crepost _, sadv _ _, swait _ _, speer _ _ _, smin _ _, sabs _ _ _, slead _ _, emit _ _, emitw _ _ _, qstat _ _, depth _ _,
    illegalEncoding _ _, unknownOpPacket _ _, versionWaitTimeout _ _, requestRetryTimeout _, backoffExpiry _, quorumTimerExpiry _ _,
    collEmitRetry _ _, presenceSend _, silenceTimerExpiry _ _, bundleFormation _, agePromotion _ _, loadDataLands _ _ _,
    storePerformed _ _ _, rendezvousTimeout _ _, regrouperRelease _ _, exileWaitExpiry _ _, regrouperMove _, reorderTimeout _,
    trapDelivery _ _, launchCompletion _, plotPlacement _ _, doorbell _ _ _, packetNop _ _, launch _ _, trellis _ _, signal _ _,
    waitsig _ _, waitsigPoll _ _, bufdep _ _, viewreg _ _, viewRemoveEffect _, verreg _ _, collreg _ _, rkinit _ _, repair _ _,
    budgetPeriod _, queueAgeExpiry _ _, stageGroupStart _ _ _ _, emitwTimeout _ _, trellisCompletion _, runaheadLimit _, plotPark _,
    pageRequestResponse _ _ _, plotReturn _ _, atsTranslationCompletion _ _, atsInvalidateRequest _ _ _ _ _, invalidateCompletion _,
    copyChunkDelivered _ _ _, matrixOpComplete _, rwriteRequest _ _ _, rreadRequest _ _ _, raddRequest _ _ _ _,
    ratomRequest _ _ _ _ _ _, mcastRequest _ _ _, sendMessage _ _ _, relayForward _ _ _, fabricReply _ _ _, receiverNotReadyReply _ _,
    closedReply _ _, dedupMemoryExpiry _ _ _, contributionChunk _ _ _, imageChunk _ _ _ _, shortMessage _ _ _, linkLevelRetry _,
    portFailure _, stepMessage _ _, presenceMessage _, resyncAnswer _ _, claim _ _ _ _, ctxWrite _ _, ctxResident _ _, ctxFlags _ _,
    ctxRemove _ _, queueWrite _ _, imageLoad _ _, liveUpdate _ _, liveUpdateSwitch, failover _ _, statement _ _, handoverResetComplete,
    identityLoad _ _, stage _ _, heartbeat, takeoverTimeout, lodgeFailureReport, powerCapWrite _ _, budgetWrite _ _ _,
    portRetrain _ _ _, registerWrite _ _ _, thermalSample _, portEventResend _, scrub _ _ _ _, moduleReset, standbyPower, getVersion _,
    getCapabilities _, negotiateAlgorithms _ _, getDigests _, getCertificate _ _, challenge _ _ _, getMeasurements _ _, keyExchange _ _,
    finish _ _, endSession _, spdmUnsupportedRequest _ _, pldmSensorRequest _ _, deviceMemoryBarAccess _ _ _, portTrainingComplete _,
    mainPowerOn]

/-- Settles O2: the round trip, instruction by instruction. -/
theorem encodedDecodes : Obligations.EncodedDecodes := fun i => decode_encodeBytes i

end Sys2Proof.Laws.RoundTrip
end

section
/-! # Every word that decodes is the encoding of its instruction (R45, R46, R51–R54)

The calls of `grind` below close goals by congruence alone, so its arithmetic solvers are off. -/
namespace Sys2Proof

/-! ## What each code of a field stands for, back to the field (R46) -/

theorem eq_ofNat_of_toNat {n k : Nat} {x : BitVec n} (h : x.toNat = k) : x = BitVec.ofNat n k := by
  rw [← h, BitVec.ofNat_toNat, BitVec.setWidth_eq]

theorem eq_three {c : BitVec 2} : c ≠ 0#2 → c ≠ 1#2 → c ≠ 2#2 → c = 3#2 := by revert c; decide

theorem sizeCode_sizeOf2 (c : BitVec 2) : sizeCode (sizeOf2 c) = c := by revert c; decide

theorem rmCode_rmOf (c : BitVec 2) : rmCode (rmOf c) = c := by revert c; decide

theorem cvtCode_cvtRndOf (c : BitVec 2) : cvtCode (cvtRndOf c) = c := by revert c; decide

theorem fcondCode_fcondOf (c : BitVec 3) : fcondCode (fcondOf c) = c := by revert c; decide

theorem winCode_of_winOf {c : BitVec 3} {y : Win} (h : winOf c = some y) : winCode y = c :=
  (by decide : ∀ c, ∀ y ∈ winOf c, winCode y = c) c y h

theorem scopeCode_of_scopeOf {c : BitVec 3} {y : Scope} (h : scopeOf c = some y) : scopeCode y = c :=
  (by decide : ∀ c, ∀ y ∈ scopeOf c, scopeCode y = c) c y h

theorem icondCode_of_icondOf {c : BitVec 3} {y : ICond} (h : icondOf c = some y) : icondCode y = c :=
  (by decide : ∀ c, ∀ y ∈ icondOf c, icondCode y = c) c y h

theorem tagBits_of_tagOf {c : BitVec 4} {y : Tag} (h : tagOf c = some y) : tagBits y = c :=
  (by decide : ∀ c, ∀ y ∈ tagOf c, tagBits y = c) c y h

theorem ldvCode_of_ldvOf {c : BitVec 3} {y : LdvMode} (h : ldvOf c = some y) : ldvCode y = c :=
  (by decide : ∀ c, ∀ y ∈ ldvOf c, ldvCode y = c) c y h

theorem drainModeCode_of_drainModeOf {c : BitVec 2} {y : DrainMode} (h : drainModeOf c = some y) : drainModeCode y = c :=
  (by decide : ∀ c, ∀ y ∈ drainModeOf c, drainModeCode y = c) c y h

theorem drainRndCode_of_drainRndOf {c : BitVec 2} {y : DrainRnd} (h : drainRndOf c = some y) : drainRndCode y = c :=
  (by decide : ∀ c, ∀ y ∈ drainRndOf c, drainRndCode y = c) c y h

theorem drainDstCode_of_drainDstOf {c : BitVec 4} {y : DrainDst} (h : drainDstOf c = some y) : drainDstCode y = c :=
  (by decide : ∀ c, ∀ y ∈ drainDstOf c, drainDstCode y = c) c y h

theorem pairCode_of_pairOf {c : BitVec 4} {y : Pair} (h : pairOf c = some y) : BitVec.ofNat 4 y.val = c := by
  unfold pairOf at h; split_ifs at h; cases h; simp

theorem mtlFmt_of_mtlFmtOf {b : Reg} {y : Bool} (h : mtlFmtOf b = some y) : mtlFmt y = b := by
  unfold mtlFmtOf at h; split_ifs at h <;> cases h <;> exact Eq.symm ‹_›

theorem boolBit_getLsbD {n : Nat} (x : BitVec n) (k : Nat) : boolBit (x.getLsbD k) = x.extractLsb' k 1 := by
  apply BitVec.eq_of_getLsbD_eq; intro i hi
  obtain rfl : i = 0 := by omega
  cases h : x.getLsbD k <;> simp [boolBit, h]

theorem whenZero_ok {z : Bool} {i j : Instr} : whenZero z i = .ok j ↔ z = true ∧ i = j := by
  cases z <;> simp [whenZero]

theorem withScope_ok {c : BitVec 3} {f : Scope → Instr} {i : Instr} (h : withScope c f = .ok i) : ∃ s, scopeCode s = c ∧ f s = i := by
  unfold withScope at h
  split at h
  · exact ⟨_, scopeCode_of_scopeOf (by assumption), Except.ok.inj h⟩
  · cases h

/-! ## A field is its parts -/

theorem append_extract {n : Nat} (x : BitVec n) (a b c : Nat) :
    x.extractLsb' (a + b) c ++ x.extractLsb' a b = x.extractLsb' a (c + b) := by
  rw [BitVec.extractLsb'_append_extractLsb'_eq_extractLsb' rfl]

theorem fields_6_2 (x : BitVec 8) : x.extractLsb' 2 6 ++ x.extractLsb' 0 2 = x := by
  rw [append_extract x 0 2 6]; simp

theorem fields_5_3 (x : BitVec 8) : x.extractLsb' 3 5 ++ x.extractLsb' 0 3 = x := by
  rw [append_extract x 0 3 5]; simp

theorem fields_4_4 (x : BitVec 8) : x.extractLsb' 4 4 ++ x.extractLsb' 0 4 = x := by
  rw [append_extract x 0 4 4]; simp

theorem fields_4_1_3 (x : BitVec 8) : x.extractLsb' 4 4 ++ boolBit (x.getLsbD 3) ++ x.extractLsb' 0 3 = x := by
  rw [boolBit_getLsbD, append_extract x 3 1 4, append_extract x 0 3 5]; simp

theorem fields_4_2_1_1 (x : BitVec 8) : x.extractLsb' 4 4 ++ x.extractLsb' 2 2 ++ x.extractLsb' 1 1 ++ boolBit (x.getLsbD 0) = x := by
  rw [boolBit_getLsbD, append_extract x 2 2 4, append_extract x 1 1 6, append_extract x 0 1 7]; simp

theorem fields_2_3_3 (x : BitVec 8) : x.extractLsb' 6 2 ++ x.extractLsb' 3 3 ++ x.extractLsb' 0 3 = x := by
  rw [append_extract x 3 3 2, append_extract x 0 3 5]; simp

theorem fields_3_2_3 (x : BitVec 8) : x.extractLsb' 5 3 ++ x.extractLsb' 3 2 ++ x.extractLsb' 0 3 = x := by
  rw [append_extract x 3 2 3, append_extract x 0 3 5]; simp

theorem fields_3_3_2 (x : BitVec 8) : x.extractLsb' 5 3 ++ x.extractLsb' 2 3 ++ x.extractLsb' 0 2 = x := by
  rw [append_extract x 2 3 3, append_extract x 0 2 6]; simp

theorem fields_2_2_4 (x : BitVec 8) : x.extractLsb' 6 2 ++ x.extractLsb' 4 2 ++ x.extractLsb' 0 4 = x := by
  rw [append_extract x 4 2 2, append_extract x 0 4 4]; simp

theorem fields_0_1 {x : BitVec 8} (h1 : x.getLsbD 1 = false) (h : x.extractLsb' 2 6 = 0#6) : 0#7 ++ boolBit (x.getLsbD 0) = x := by
  have hz : x.extractLsb' 1 7 = 0#7 := by rw [← append_extract x 1 1 6, h, ← boolBit_getLsbD, h1]; rfl
  rw [boolBit_getLsbD, ← hz, append_extract x 0 1 7]; simp

theorem fields_shfi (x : BitVec 14) : x.extractLsb' 8 6 ++ x.extractLsb' 6 2 ++ x.extractLsb' 0 6 = x := by
  rw [append_extract x 6 2 6, append_extract x 0 6 8]; simp

theorem fields_3_11 (x : BitVec 14) : x.extractLsb' 11 3 ++ x.extractLsb' 0 11 = x := by
  rw [append_extract x 0 11 3]; simp

theorem flagField_of_zero {r : Reg} (h : flagZero r = true) : 0#4 ++ flagField r = r := by
  have hz : r.extractLsb' 2 4 = 0#4 := by simpa [flagZero] using h
  rw [← hz, flagField, append_extract r 0 2 4]; simp

theorem joinField_of_zero {b : Reg} (h : b.extractLsb' 4 2 = 0#2) : 0#2 ++ b.extractLsb' 0 4 = b := by
  rw [← h, append_extract b 0 4 2]; simp

theorem laneField_of_zero {b : Reg} (h : b.getLsbD 5 = false) : 0#1 ++ b.extractLsb' 0 5 = b := by
  have hz : b.extractLsb' 5 1 = 0#1 := by rw [← boolBit_getLsbD, h]; rfl
  rw [← hz, append_extract b 0 5 1]; simp

theorem fmtA_fields (w : Word) : fmtA (majOf w) (dOf w) (aOf w) (bOf w) (fnOf w) = w := by
  simp only [fmtA, majOf, dOf, aOf, bOf, fnOf]
  rw [append_extract w 20 6 6, append_extract w 14 6 12, append_extract w 8 6 18, append_extract w 0 8 24]; simp

theorem fmtI_fields (w : Word) : fmtI (majOf w) (dOf w) (aOf w) (immOf w) = w := by
  simp only [fmtI, majOf, dOf, aOf, immOf]
  rw [append_extract w 20 6 6, append_extract w 14 6 12, append_extract w 0 14 18]; simp

theorem fmtW_fields (w : Word) : fmtW (majOf w) (dOf w) (w.extractLsb' 0 20) = w := by
  simp only [fmtW, majOf, dOf]
  rw [append_extract w 20 6 6, append_extract w 0 20 12]; simp

theorem fmtM_fields (w : Word) :
    fmtM (majOf w) (dOf w) (aOf w) (w.extractLsb' 12 2) (w.extractLsb' 9 3) (w.extractLsb' 6 3) (w.extractLsb' 0 6) = w := by
  simp only [fmtM, majOf, dOf, aOf]
  rw [append_extract w 20 6 6, append_extract w 14 6 12, append_extract w 12 2 18, append_extract w 9 3 20, append_extract w 6 3 23,
    append_extract w 0 6 26]
  simp

theorem fmtT_fields (w : Word) (h : w.extractLsb' 0 10 = 0#10) :
    fmtT (majOf w) (w.extractLsb' 22 4) (w.extractLsb' 18 4) (w.extractLsb' 14 4) (w.extractLsb' 10 4) = w := by
  simp only [fmtT, majOf, ← h]
  rw [append_extract w 22 4 6, append_extract w 18 4 10, append_extract w 14 4 14, append_extract w 10 4 18, append_extract w 0 10 22]
  simp

theorem fmtB_fields (w : Word) : fmtB (majOf w) (w.extractLsb' 24 2 ++ w.extractLsb' 22 2) (w.extractLsb' 0 22) = w := by
  simp only [fmtB, majOf]
  rw [append_extract w 22 2 2, append_extract w 22 4 6, append_extract w 0 22 10]; simp


/-! ## What each major decodes is encoded as its word -/

theorem fmtA_congr {m d d' a a' b b' : BitVec 6} {f f' : BitVec 8} (hf : f = f') (hd : d = d') (ha : a = a') (hb : b = b') :
    [fmtA m d a b f] = [fmtA m d' a' b' f'] := by
  rw [hf, hd, ha, hb]

theorem encode_of_decodeIop {d a b : Reg} {fn : BitVec 8} {i : Instr} (h : decodeIop d a b fn = .ok i) : encode i = [fmtA 0x01#6 d a b fn] := by
  unfold decodeIop at h
  split at h
  rotate_right
  · cases h
  all_goals
    rename_i hop
    obtain rfl := eq_ofNat_of_toNat hop
    simp only [whenZero_ok, Except.ok.injEq, beq_iff_eq] at h
    obtain ⟨rfl, rfl⟩ := h
    rfl

theorem encode_of_decodeIcmp {d a b : Reg} {fn : BitVec 8} {i : Instr} (h : decodeIcmp d a b fn = .ok i) : encode i = [fmtA 0x09#6 d a b fn] := by
  have hfn := fields_5_3 fn
  unfold decodeIcmp at h
  split_ifs at h
  split at h
  · obtain ⟨hz, rfl⟩ := whenZero_ok.1 h
    refine fmtA_congr ?_ (flagField_of_zero hz) rfl rfl
    grind -ring -linarith -lia -order [icondCode_of_icondOf]
  · cases h

theorem encode_of_decodeFop {d a b : Reg} {fn : BitVec 8} {i : Instr} (h : decodeFop d a b fn = .ok i) : encode i = [fmtA 0x0B#6 d a b fn] := by
  have hfn := fields_6_2 fn
  unfold decodeFop at h
  split at h
  rotate_right
  · cases h
  all_goals
    rename_i hop
    replace hop := eq_ofNat_of_toNat hop
    simp only [whenZero_ok, Except.ok.injEq] at h
    obtain ⟨hz, rfl⟩ := h
    refine fmtA_congr ?_ ?_ ?_ ?_ <;> grind -ring -linarith -lia -order [rmCode_rmOf]

theorem encode_of_decodeFcmp {d a b : Reg} {fn : BitVec 8} {i : Instr} (h : decodeFcmp d a b fn = .ok i) : encode i = [fmtA 0x11#6 d a b fn] := by
  unfold decodeFcmp at h
  split_ifs at h with hf
  obtain ⟨hz, rfl⟩ := whenZero_ok.1 h
  refine fmtA_congr ?_ (flagField_of_zero hz) rfl rfl
  rw [fcondCode_fcondOf, ← hf, fields_5_3]

theorem encode_of_decodeCvt {d a b : Reg} {fn : BitVec 8} {i : Instr} (h : decodeCvt d a b fn = .ok i) : encode i = [fmtA 0x12#6 d a b fn] := by
  have hfn := fields_4_2_1_1 fn
  unfold decodeCvt at h
  split_ifs at h
  split at h
  · cases h
  · obtain ⟨-, rfl⟩ := whenZero_ok.1 h
    refine fmtA_congr ?_ rfl rfl rfl
    grind -ring -linarith -lia -order [tagBits_of_tagOf, cvtCode_cvtRndOf]
  · cases h

theorem encode_of_decodeTag {d a b : Reg} {fn : BitVec 8} {i : Instr} (h : decodeTag d a b fn = .ok i) : encode i = [fmtA 0x13#6 d a b fn] := by
  have hfn := fields_4_4 fn
  unfold decodeTag at h
  dsimp only at h
  split_ifs at h
  · split at h
    · obtain ⟨hz, rfl⟩ := whenZero_ok.1 h
      refine fmtA_congr ?_ ?_ ?_ ?_ <;> grind -ring -linarith -lia -order [tagBits_of_tagOf]
    · cases h
  · obtain ⟨hz, rfl⟩ := whenZero_ok.1 h
    refine fmtA_congr ?_ ?_ ?_ ?_ <;> grind -ring -linarith -lia -order
  · split at h
    · obtain ⟨hz, rfl⟩ := whenZero_ok.1 h
      refine fmtA_congr ?_ ?_ ?_ ?_ <;> grind -ring -linarith -lia -order [tagBits_of_tagOf]
    · cases h

theorem encode_of_decodeXln {d a b : Reg} {fn : BitVec 8} {i : Instr} (h : decodeXln d a b fn = .ok i) : encode i = [fmtA 0x14#6 d a b fn] := by
  unfold decodeXln at h
  split at h
  rotate_right
  · cases h
  all_goals
    rename_i hop
    replace hop := eq_ofNat_of_toNat hop
    simp only [whenZero_ok, Except.ok.injEq] at h
    obtain ⟨hz, rfl⟩ := h
    refine fmtA_congr ?_ ?_ ?_ ?_ <;> grind -ring -linarith -lia -order [flagField_of_zero, laneField_of_zero]

theorem encode_of_decodeLdv {d a b : Reg} {fn : BitVec 8} {i : Instr} (h : decodeLdv d a b fn = .ok i) : encode i = [fmtA 0x1A#6 d a b fn] := by
  have hfn := fields_2_3_3 fn
  unfold decodeLdv at h
  split at h
  · obtain ⟨s, hs, rfl⟩ := withScope_ok h
    refine fmtA_congr ?_ rfl rfl rfl
    grind -ring -linarith -lia -order [ldvCode_of_ldvOf, sizeCode_sizeOf2]
  · cases h

theorem encode_of_decodeAtom {d a b : Reg} {fn : BitVec 8} {i : Instr} (h : decodeAtom d a b fn = .ok i) : encode i = [fmtA 0x1B#6 d a b fn] := by
  unfold decodeAtom at h
  split at h
  rotate_right
  · cases h
  all_goals
    rename_i hop
    obtain ⟨s, hs, rfl⟩ := withScope_ok h
    refine fmtA_congr ?_ rfl rfl rfl
    rw [hs, ← eq_ofNat_of_toNat hop, fields_4_1_3]

theorem encode_of_decodeFence {d a b : Reg} {fn : BitVec 8} {i : Instr} (h : decodeFence d a b fn = .ok i) : encode i = [fmtA 0x1C#6 d a b fn] := by
  have hk := eq_three (c := fn.extractLsb' 3 2)
  unfold decodeFence at h
  split_ifs at h with hz
  obtain ⟨rfl, rfl, rfl, hhi⟩ := hz
  obtain ⟨s, hs, rfl⟩ := withScope_ok h
  have hfn := fields_3_2_3 fn
  rw [hhi, ← hs] at hfn
  split_ifs with h0 h1 h2
  · exact fmtA_congr (h0 ▸ hfn) rfl rfl rfl
  · exact fmtA_congr (h1 ▸ hfn) rfl rfl rfl
  · exact fmtA_congr (h2 ▸ hfn) rfl rfl rfl
  · exact fmtA_congr (hk h0 h1 h2 ▸ hfn) rfl rfl rfl

theorem encode_of_decodeStmx {d a b : Reg} {fn : BitVec 8} {i : Instr} (h : decodeStmx d a b fn = .ok i) : encode i = [fmtA 0x1D#6 d a b fn] := by
  unfold decodeStmx at h
  split_ifs at h with hz
  obtain ⟨s, hs, rfl⟩ := withScope_ok h
  refine fmtA_congr ?_ rfl rfl rfl
  rw [hs, ← hz, fields_5_3]

theorem encode_of_decodePf {d a b : Reg} {fn : BitVec 8} {i : Instr} (h : decodePf d a b fn = .ok i) : encode i = [fmtA 0x1E#6 d a b fn] := by
  unfold decodePf at h
  split_ifs at h
  obtain ⟨hz, rfl⟩ := whenZero_ok.1 h
  refine fmtA_congr ?_ ?_ ?_ ?_ <;> grind -ring -linarith -lia -order [fields_0_1]

theorem encode_of_decodeVer {d a b : Reg} {fn : BitVec 8} {i : Instr} (h : decodeVer d a b fn = .ok i) : encode i = [fmtA 0x1F#6 d a b fn] := by
  have hfn := fields_3_3_2 fn
  have hk := eq_three (c := fn.extractLsb' 0 2)
  unfold decodeVer at h
  dsimp only at h
  split_ifs at h
  · obtain ⟨hz, rfl⟩ := whenZero_ok.1 h
    refine fmtA_congr ?_ ?_ ?_ ?_ <;> grind -ring -linarith -lia -order
  · obtain ⟨s, hs, rfl⟩ := withScope_ok h
    refine fmtA_congr ?_ ?_ ?_ ?_ <;> grind -ring -linarith -lia -order
  · obtain ⟨hz, rfl⟩ := whenZero_ok.1 h
    refine fmtA_congr ?_ ?_ ?_ ?_ <;> grind -ring -linarith -lia -order
  · obtain ⟨hz, rfl⟩ := whenZero_ok.1 h
    refine fmtA_congr ?_ ?_ ?_ ?_ <;> grind -ring -linarith -lia -order

theorem encode_of_decodeJr {d a b : Reg} {fn : BitVec 8} {i : Instr} (h : decodeJr d a b fn = .ok i) : encode i = [fmtA 0x23#6 d a b fn] := by
  unfold decodeJr at h
  split at h
  rotate_right
  · cases h
  all_goals
    rename_i hop
    replace hop := eq_ofNat_of_toNat hop
    obtain ⟨hz, rfl⟩ := whenZero_ok.1 h
    refine fmtA_congr ?_ ?_ ?_ ?_ <;> grind -ring -linarith -lia -order

theorem encode_of_decodeCtl {d a b : Reg} {fn : BitVec 8} {i : Instr} (h : decodeCtl d a b fn = .ok i) : encode i = [fmtA 0x25#6 d a b fn] := by
  unfold decodeCtl at h
  split at h
  rotate_right
  · cases h
  all_goals
    rename_i hop
    replace hop := eq_ofNat_of_toNat hop
    obtain ⟨hz, rfl⟩ := whenZero_ok.1 h
    refine fmtA_congr ?_ ?_ ?_ ?_ <;> grind -ring -linarith -lia -order [joinField_of_zero]

theorem encode_of_decodeBar {d a b : Reg} {fn : BitVec 8} {i : Instr} (h : decodeBar d a b fn = .ok i) : encode i = [fmtA 0x26#6 d a b fn] := by
  have hfn := fields_4_4 fn
  unfold decodeBar at h
  split at h
  rotate_right
  · cases h
  all_goals
    rename_i hop
    replace hop := eq_ofNat_of_toNat hop
    obtain ⟨hz, rfl⟩ := whenZero_ok.1 h
    refine fmtA_congr ?_ ?_ ?_ ?_ <;> grind -ring -linarith -lia -order

theorem encode_of_decodeAwt {d a b : Reg} {fn : BitVec 8} {i : Instr} (h : decodeAwt d a b fn = .ok i) : encode i = [fmtA 0x27#6 d a b fn] := by
  unfold decodeAwt at h
  split at h
  rotate_right
  · cases h
  all_goals
    rename_i hop
    replace hop := eq_ofNat_of_toNat hop
    simp only [whenZero_ok, Except.ok.injEq] at h
    obtain ⟨hz, rfl⟩ := h
    refine fmtA_congr ?_ ?_ ?_ ?_ <;> grind -ring -linarith -lia -order

theorem encode_of_decodeSysi {d a b : Reg} {fn : BitVec 8} {i : Instr} (h : decodeSysi d a b fn = .ok i) : encode i = [fmtA 0x28#6 d a b fn] := by
  unfold decodeSysi at h
  split at h
  rotate_right
  · cases h
  all_goals
    rename_i hop
    replace hop := eq_ofNat_of_toNat hop
    obtain ⟨hz, rfl⟩ := whenZero_ok.1 h
    refine fmtA_congr ?_ ?_ ?_ ?_ <;> grind -ring -linarith -lia -order [flagField_of_zero]

theorem encode_of_decodeMtl {d a b : Reg} {fn : BitVec 8} {i : Instr} (h : decodeMtl d a b fn = .ok i) : encode i = [fmtA 0x32#6 d a b fn] := by
  unfold decodeMtl at h
  split at h
  rotate_right
  · cases h
  all_goals
    rename_i hop
    obtain rfl := eq_ofNat_of_toNat hop
  · split at h
    · obtain ⟨hz, rfl⟩ := whenZero_ok.1 h
      exact fmtA_congr rfl rfl (eq_of_beq hz).symm (mtlFmt_of_mtlFmtOf ‹_›)
    · cases h
  · split at h
    · cases h
      exact fmtA_congr rfl rfl rfl (mtlFmt_of_mtlFmtOf ‹_›)
    · cases h
  · obtain ⟨hz, rfl⟩ := whenZero_ok.1 h
    exact fmtA_congr rfl rfl rfl (eq_of_beq hz).symm
  · obtain ⟨hz, rfl⟩ := whenZero_ok.1 h
    exact fmtA_congr rfl rfl rfl (eq_of_beq hz).symm
  · cases h; rfl

theorem encode_of_decodeDrain {d a b : Reg} {fn : BitVec 8} {i : Instr} (h : decodeDrain d a b fn = .ok i) : encode i = [fmtA 0x33#6 d a b fn] := by
  unfold decodeDrain at h
  split at h
  · next hm hr ht =>
    cases h
    refine fmtA_congr ?_ rfl rfl rfl
    rw [drainModeCode_of_drainModeOf hm, drainRndCode_of_drainRndOf hr, drainDstCode_of_drainDstOf ht, fields_2_2_4]
  · cases h

theorem encode_of_decodeCpy {d a b : Reg} {fn : BitVec 8} {i : Instr} (h : decodeCpy d a b fn = .ok i) : encode i = [fmtA 0x34#6 d a b fn] := by
  unfold decodeCpy at h
  split at h
  rotate_right
  · cases h
  all_goals
    rename_i hop
    obtain ⟨s, hs, rfl⟩ := withScope_ok h
    refine fmtA_congr ?_ rfl rfl rfl
    rw [hs, ← eq_ofNat_of_toNat hop, fields_4_1_3]

theorem encode_of_decodeFab {d a b : Reg} {fn : BitVec 8} {i : Instr} (h : decodeFab d a b fn = .ok i) : encode i = [fmtA 0x35#6 d a b fn] := by
  have hfn := fields_4_1_3 fn
  unfold decodeFab at h
  split at h
  rotate_right
  · cases h
  all_goals
    rename_i hop
    replace hop := eq_ofNat_of_toNat hop
    obtain ⟨hz, rfl⟩ := whenZero_ok.1 h
    refine fmtA_congr ?_ ?_ ?_ ?_ <;> grind -ring -linarith -lia -order

theorem encode_of_decodeColl {d a b : Reg} {fn : BitVec 8} {i : Instr} (h : decodeColl d a b fn = .ok i) : encode i = [fmtA 0x36#6 d a b fn] := by
  unfold decodeColl at h
  split at h
  rotate_right
  · cases h
  all_goals
    rename_i hop
    replace hop := eq_ofNat_of_toNat hop
    simp only [whenZero_ok, Except.ok.injEq] at h
    obtain ⟨hz, rfl⟩ := h
    refine fmtA_congr ?_ ?_ ?_ ?_ <;> grind -ring -linarith -lia -order

theorem encode_of_decodeStep {d a b : Reg} {fn : BitVec 8} {i : Instr} (h : decodeStep d a b fn = .ok i) : encode i = [fmtA 0x37#6 d a b fn] := by
  unfold decodeStep at h
  split at h
  rotate_right
  · cases h
  all_goals
    rename_i hop
    obtain rfl := eq_ofNat_of_toNat hop
    simp only [whenZero_ok, Except.ok.injEq, beq_iff_eq] at h
    obtain ⟨rfl, rfl⟩ := h
    rfl

theorem encode_of_decodeTrl {d a b : Reg} {fn : BitVec 8} {i : Instr} (h : decodeTrl d a b fn = .ok i) : encode i = [fmtA 0x38#6 d a b fn] := by
  unfold decodeTrl at h
  split at h
  rotate_right
  · cases h
  all_goals
    rename_i hop
    obtain rfl := eq_ofNat_of_toNat hop
    simp only [whenZero_ok, Except.ok.injEq, beq_iff_eq] at h
    obtain ⟨rfl, rfl⟩ := h
    rfl

/-- One word is put together from its fields as its format lays them out (R45). -/
theorem eq_of_fmtA {w : Word} {l : List Word} {m : BitVec 6} (hm : majOf w = m) (h : l = [fmtA m (dOf w) (aOf w) (bOf w) (fnOf w)]) :
    l = [w] := by
  rw [h, ← hm, fmtA_fields]

theorem eq_of_fmtI {w : Word} {l : List Word} {m : BitVec 6} (hm : majOf w = m) (h : l = [fmtI m (dOf w) (aOf w) (immOf w)]) :
    l = [w] := by
  rw [h, ← hm, fmtI_fields]

theorem encode_of_decodeShfi {w : Word} {i : Instr} (hm : majOf w = 0x06#6) (h : decodeShfi (dOf w) (aOf w) (immOf w) = .ok i) :
    encode i = [w] := by
  have himm := fields_shfi (immOf w)
  have hk := eq_three (c := (immOf w).extractLsb' 6 2)
  unfold decodeShfi at h
  dsimp only at h
  split_ifs at h
  all_goals
    obtain ⟨hz, rfl⟩ := whenZero_ok.1 h
    refine eq_of_fmtI hm (congrArg (fun f => [fmtI _ _ _ f]) ?_)
    grind -ring -linarith -lia -order

theorem encode_of_decodeIcmpi {w : Word} {i : Instr} (hm : majOf w = 0x0A#6) (h : decodeIcmpi (dOf w) (aOf w) (immOf w) = .ok i) :
    encode i = [w] := by
  unfold decodeIcmpi at h
  split at h
  · obtain ⟨hz, rfl⟩ := whenZero_ok.1 h
    refine eq_of_fmtI hm (congrArg₂ (fun d f => [fmtI _ d _ f]) (flagField_of_zero hz) ?_)
    rw [icondCode_of_icondOf ‹_›, fields_3_11]
  · cases h

theorem encode_of_decodeMem {w : Word} {i : Instr} {f : Reg → Reg → Size → Win → Scope → BitVec 6 → Instr} {m : BitVec 6}
    (hf : ∀ d a z y s o, encode (f d a z y s o) = [fmtM m d a (sizeCode z) (winCode y) (scopeCode s) o]) (hm : majOf w = m)
    (h : decodeMem w f = .ok i) : encode i = [w] := by
  have hw := fmtM_fields w
  grind -ring -linarith -lia -order [decodeMem, sizeCode_sizeOf2, winCode_of_winOf, scopeCode_of_scopeOf]

theorem encode_of_decodeBranch {w : Word} {i : Instr} {f : Cond → BitVec 22 → Instr} {m : BitVec 6}
    (hf : ∀ c o, encode (f c o) = [fmtB m (condBits c) o]) (hm : majOf w = m) (h : decodeBranch w f = .ok i) : encode i = [w] := by
  have hw := fmtB_fields w
  grind -ring -linarith -lia -order [decodeBranch, whenZero_ok, condBits]

theorem encode_of_decodeWait {w : Word} {i : Instr} (hm : majOf w = 0x24#6) (h : decodeWait w = .ok i) : encode i = [w] := by
  obtain ⟨hz, rfl⟩ := whenZero_ok.1 h
  exact congrArg ([·]) (hm ▸ fmtT_fields w (eq_of_beq hz))

theorem encode_of_decodeMma {d a b : Reg} {fn : BitVec 8} {i : Instr} {f : Pair → BitVec 4 → Instr} {m : BitVec 6}
    (hf : ∀ p k, encode (f p k) = [fmtA m d a b (BitVec.ofNat 4 p.val ++ k)]) (h : decodeMma fn f = .ok i) :
    encode i = [fmtA m d a b fn] := by
  have hfn := fields_4_4 fn
  grind -ring -linarith -lia -order [decodeMma, pairCode_of_pairOf]

/-- The words of three sources and a rounding mode. -/
theorem encode_of_fused {w : Word} {i : Instr} {f : Reg → Reg → Reg → Reg → Rm → Instr} {m : BitVec 6} (hm : majOf w = m)
    (hf : ∀ d a b c r, encode (f d a b c r) = [fmtA m d a b (c ++ rmCode r)])
    (h : Except.ok (f (dOf w) (aOf w) (bOf w) ((fnOf w).extractLsb' 2 6) (rmOf ((fnOf w).extractLsb' 0 2))) = (.ok i : Dec)) :
    encode i = [w] :=
  eq_of_fmtA hm (by rw [← Except.ok.inj h, hf, rmCode_rmOf, fields_6_2])

theorem encode_of_decodeWord {w : Word} {lit : Option Word} {i : Instr} (hl : takesLiteral w = false) (h : decodeWord w lit = .ok i) :
    encode i = [w] := by
  unfold decodeWord at h
  split at h
  rotate_right
  · cases h
  all_goals
    rename_i hm
    replace hm := eq_ofNat_of_toNat hm
  exacts [eq_of_fmtA hm (encode_of_decodeIop h), Except.ok.inj h ▸ eq_of_fmtI hm rfl, Except.ok.inj h ▸ eq_of_fmtI hm rfl,
    Except.ok.inj h ▸ eq_of_fmtI hm rfl, Except.ok.inj h ▸ eq_of_fmtI hm rfl, encode_of_decodeShfi hm h,
    Except.ok.inj h ▸ congrArg ([·]) (hm ▸ fmtW_fields w), by simp [takesLiteral, hm] at hl, eq_of_fmtA hm (encode_of_decodeIcmp h),
    encode_of_decodeIcmpi hm h, eq_of_fmtA hm (encode_of_decodeFop h), encode_of_fused hm (fun _ _ _ _ _ => rfl) h,
    encode_of_fused hm (fun _ _ _ _ _ => rfl) h, encode_of_fused hm (fun _ _ _ _ _ => rfl) h,
    encode_of_fused hm (fun _ _ _ _ _ => rfl) h, encode_of_fused hm (fun _ _ _ _ _ => rfl) h,
    eq_of_fmtA hm (encode_of_decodeFcmp h), eq_of_fmtA hm (encode_of_decodeCvt h), eq_of_fmtA hm (encode_of_decodeTag h),
    eq_of_fmtA hm (encode_of_decodeXln h), encode_of_decodeMem (fun _ _ _ _ _ _ => rfl) hm h,
    encode_of_decodeMem (fun _ _ _ _ _ _ => rfl) hm h, encode_of_decodeMem (fun _ _ _ _ _ _ => rfl) hm h,
    encode_of_decodeMem (fun _ _ _ _ _ _ => rfl) hm h, encode_of_decodeMem (fun _ _ _ _ _ _ => rfl) hm h,
    eq_of_fmtA hm (encode_of_decodeLdv h), eq_of_fmtA hm (encode_of_decodeAtom h), eq_of_fmtA hm (encode_of_decodeFence h),
    eq_of_fmtA hm (encode_of_decodeStmx h), eq_of_fmtA hm (encode_of_decodePf h), eq_of_fmtA hm (encode_of_decodeVer h),
    encode_of_decodeBranch (fun _ _ => rfl) hm h, encode_of_decodeBranch (fun _ _ => rfl) hm h,
    encode_of_decodeBranch (fun _ _ => rfl) hm h, eq_of_fmtA hm (encode_of_decodeJr h), encode_of_decodeWait hm h,
    eq_of_fmtA hm (encode_of_decodeCtl h), eq_of_fmtA hm (encode_of_decodeBar h), eq_of_fmtA hm (encode_of_decodeAwt h),
    eq_of_fmtA hm (encode_of_decodeSysi h), eq_of_fmtA hm (encode_of_decodeMma (fun _ _ => rfl) h),
    eq_of_fmtA hm (encode_of_decodeMma (fun _ _ => rfl) h), eq_of_fmtA hm (encode_of_decodeMtl h),
    eq_of_fmtA hm (encode_of_decodeDrain h), eq_of_fmtA hm (encode_of_decodeCpy h), eq_of_fmtA hm (encode_of_decodeFab h),
    eq_of_fmtA hm (encode_of_decodeColl h), eq_of_fmtA hm (encode_of_decodeStep h), eq_of_fmtA hm (encode_of_decodeTrl h)]

/-- The one word that takes a literal, MOVW, with its literal. -/
theorem encode_of_decodeWord_literal {w l : Word} {i : Instr} (hl : takesLiteral w = true) (h : decodeWord w (some l) = .ok i) :
    encode i = [w, l] := by
  have hm : majOf w = 0x08#6 := by simpa [takesLiteral] using hl
  have hw := fmtI_fields w
  unfold decodeWord at h
  rw [hm] at h hw
  simp only [BitVec.toNat_ofNat, Nat.reducePow, Nat.reduceMod] at h
  split at h
  · next hz =>
    rw [hz.1, hz.2] at hw
    exact Except.ok.inj h ▸ congrArg (fun w => [w, l]) hw
  · cases h

/-- Settles O3: a major that takes no literal gives one word, MOVW two. -/
theorem encodingUnique : Obligations.EncodingUnique := by
  intro w lit i hl h
  cases lit with
  | none => exact encode_of_decodeWord hl.symm h
  | some l => exact encode_of_decodeWord_literal hl.symm h

end Sys2Proof
end

section
/-! # Frames of the words that write registers and flags only (R79, R85, R87–R104) -/
namespace Sys2Proof.Machine

/-- A meaning that leaves its plot as it is. -/
theorem fits_same {p : Plot} {w : Who} {ds : List Reg} {fs : List (BitVec 2)} {fp : Bool} : Fits p w ds fs fp (p, Res.done) :=
  .inl ⟨p.regs, rfl, .refl .., rfl, fun _ => rfl, BitVec.or_self⟩

theorem fits_tagChk {p : Plot} {w : Who} {ds : List Reg} {fs : List (BitVec 2)} {fp : Bool} (a : Reg) (tg : Tag) (k : Nat) :
    Fits p w ds fs fp
      (if (p.regs.v k a).tag = tg then (p, Res.done)
        else (p, Res.trap .format 0 (formatTval a (p.regs.v k a).tag Tag.code))) := by
  split
  · exact fits_same
  · exact .inr ⟨_, _, _, _, rfl⟩

section
variable {s t : State} {i : Instr} {x : Issue} {w : Who} {p : Plot} {d a b : Reg} (hz : Quiet p) (hh : p.regs.plain w)
include hz hh

theorem frames_int3 {k : Kept} {op : BinOp} (he : exec i s = runWord i (onPlot (int3 k op d a b)) s) (h : Issues s i x w p)
    (ht : exec i s = .next t) : Frames s t x p w [d] [] false :=
  onPlot_frame h hz hh he ht (fits_int3 _ _ _ _ _ hh)

theorem frames_sel {f : BitVec 2} (he : exec i s = runWord i (onPlot (intSel f d a b)) s) (h : Issues s i x w p)
    (ht : exec i s = .next t) : Frames s t x p w [d] [] false :=
  onPlot_frame h hz hh he ht (fits_int3 _ _ _ _ _ hh)

theorem frames_int2 {k : Tag → Tag} {op : UnOp} (he : exec i s = runWord i (onPlot (int2 k op d a)) s) (h : Issues s i x w p)
    (ht : exec i s = .next t) : Frames s t x p w [d] [] false :=
  onPlot_frame h hz hh he ht (fits_int2 _ _ _ _ hh)

theorem frames_const {v : Word} (he : exec i s = runWord i (onPlot (intConst d v)) s) (h : Issues s i x w p)
    (ht : exec i s = .next t) : Frames s t x p w [d] [] false :=
  onPlot_frame h hz hh he ht (fits_const _ _ hh)

theorem frames_fpOp {acc : Tag → Bool} {tg : Tag} {srcs : List Reg} {op : (Reg → Word) → Word × Fl}
    (he : exec i s = runWord i (onPlot (fpOp acc tg srcs d op)) s) (h : Issues s i x w p) (ht : exec i s = .next t) :
    Frames s t x p w [d] [] true :=
  onPlot_frame h hz hh he ht (fits_fpOp _ _ _ _ _ hh)

theorem frames_fpPair {acc : Tag → Bool} {tg : Tag} {srcs : List Reg} {op : (Reg → Word) → Word × Word × Fl}
    (he : exec i s = runWord i (onPlot (fpPair acc tg srcs d op)) s) (h : Issues s i x w p) (ht : exec i s = .next t) :
    Frames s t x p w [d, regPlus d 1] [] true :=
  onPlot_frame h hz hh he ht (fits_fpPair _ _ _ _ _ hh)

/-- A lane word whose strand fits its frame; a front thread traps. -/
theorem frames_laneOnly {ds : List Reg} {fs : List (BitVec 2)} {fp : Bool} {f : Nat → Plot → Plot × Res}
    (he : exec i s = runWord i (onPlot (laneOnly f)) s) (hf : ∀ k, w = .strand k → Fits p.counted w ds fs fp (f k p.counted))
    (h : Issues s i x w p) (ht : exec i s = .next t) : Frames s t x p w ds fs fp := by
  refine onPlot_frame h hz hh he ht ?_
  cases w with
  | front => exact .inr ⟨_, _, _, _, rfl⟩
  | strand k => exact hf k rfl

end

/-- Settles O13: each word is one of the kinds above. -/
theorem registerWordsFrame : Obligations.RegisterWordsFrame := by
  intro s t i x w p d a b c r f k14 k6 k20 k11 l ic fc tg cr sf h hz hh ht
  have hcmp : ∀ k, w = .strand k → Fits p.counted w [] [f] true (fcmpLane f fc a b k p.counted) := by
    rintro k rfl; exact fits_tag (fits_flag _ _ _ hh)
  refine ⟨fun hi => ?_, fun hi => ?_, fun hi => ?_, fun hi => ?_, fun hi => ?_, fun hi => ?_, fun hi => ?_⟩ <;> revert h ht
  · revert i
    simp only [List.forall_mem_cons]
    have int3 {i k op} := @frames_int3 s t i x w p d a b hz hh k op
    have sel {i f} := @frames_sel s t i x w p d a b hz hh f
    have int2 {i k op} := @frames_int2 s t i x w p d a hz hh k op
    have const {i v} := @frames_const s t i x w p d hz hh v
    exact ⟨int3 rfl, int3 rfl, int3 rfl, int3 rfl, int3 rfl, int3 rfl, int3 rfl, int3 rfl, int3 rfl, int3 rfl, int3 rfl, int3 rfl,
      int3 rfl, int3 rfl, int3 rfl, int3 rfl, int3 rfl, int3 rfl, int2 rfl, int2 rfl, int2 rfl, int3 rfl, int3 rfl, int3 rfl,
      fun h ht => onPlot_frame h hz hh rfl ht (fits_bfi _ _ _ hh), sel rfl, sel rfl, sel rfl, sel rfl,
      int2 rfl, int2 rfl, int2 rfl, int2 rfl, int2 rfl, int2 rfl, int2 rfl, int2 rfl, const rfl, const rfl,
      frames_laneOnly hz hh rfl (by rintro k rfl; exact fits_setV _ _ hh),
      frames_laneOnly hz hh rfl (by rintro k rfl; exact fits_setV _ _ hh), List.forall_mem_nil _⟩
  · revert i
    simp only [List.forall_mem_cons]
    exact ⟨fun h ht => onPlot_frame h hz hh rfl ht (fits_cmp _ _ _ _ hh),
      fun h ht => onPlot_frame h hz hh rfl ht (fits_cmpi _ _ _ _ hh), List.forall_mem_nil _⟩
  · revert i
    simp only [List.forall_mem_cons]
    exact ⟨frames_laneOnly hz hh rfl (fun k _ => fits_tagChk _ _ _), fun h ht => onPlot_frame h hz hh rfl ht fits_same, List.forall_mem_nil _⟩
  · revert i
    simp only [List.forall_mem_cons]
    have fp {i acc tg srcs op} := @frames_fpOp s t i x w p d hz hh acc tg srcs op
    exact ⟨fp rfl, fp rfl, fp rfl, fp rfl, fp rfl, fp rfl, fp rfl, fp rfl, fp rfl, fp rfl, fp rfl, fp rfl, fp rfl, fp rfl, fp rfl,
      fp rfl, fp rfl, fp rfl, fp rfl, List.forall_mem_nil _⟩
  · revert i
    simp only [List.forall_mem_cons]
    have pair {i acc tg srcs op} := @frames_fpPair s t i x w p d hz hh acc tg srcs op
    exact ⟨pair rfl, pair rfl, pair rfl, pair rfl, pair rfl, pair rfl, List.forall_mem_nil _⟩
  · subst hi
    exact frames_laneOnly hz hh rfl hcmp
  · subst hi
    exact fun h ht => fits_cvt h hz hh ht

end Sys2Proof.Machine
end

section
/-! # Decoded words (R45, R52) -/
namespace Sys2Proof

/-- Settles O1: the decoder computes each of the words. -/
theorem decodedWords : Obligations.DecodedWords :=
  ⟨rfl, rfl, rfl, rfl, rfl, rfl, rfl, rfl, rfl, rfl, rfl, rfl, rfl, rfl, rfl, rfl, rfl, rfl, rfl, rfl, rfl, rfl, rfl, rfl, rfl, rfl,
    rfl, rfl, rfl, rfl, rfl, rfl, rfl, rfl, rfl, rfl, rfl, rfl, rfl, rfl, rfl, rfl, rfl, rfl, rfl⟩

end Sys2Proof
end

section
/-! # The integer words (R87–R91) -/
namespace Sys2Proof.Machine

/-- A word's operation may be stated by any function with its values. -/
theorem Binary.congr {i : Reg → Reg → Reg → Instr} {k : Kept} {op op' : BinOp} (h : Binary i k op)
    (e : ∀ {n : Nat} (x y : BitVec n), op x y = op' x y) : Binary i k op' := by
  have he : @op = @op' := by funext n x y; exact e x y
  exact he ▸ h

theorem minsW_eq {n : Nat} (x y : BitVec n) : minsW x y = if x.toInt < y.toInt then x else y := by simp [minsW, BitVec.slt]

theorem maxsW_eq {n : Nat} (x y : BitVec n) : maxsW x y = if x.toInt < y.toInt then y else x := by simp [maxsW, BitVec.slt]

theorem minzW_eq {n : Nat} (x y : BitVec n) : minzW x y = if x.toNat < y.toNat then x else y := by simp [minzW, BitVec.ult]

theorem maxzW_eq {n : Nat} (x y : BitVec n) : maxzW x y = if x.toNat < y.toNat then y else x := by simp [maxzW, BitVec.ult]

/-- A field is the quotient by the place's power of two, cut to its width. -/
theorem bfxW_eq {n : Nat} (x y : BitVec n) :
    bfxW x y = BitVec.ofNat n (x.toNat / 2 ^ (y.toNat % 64) % 2 ^ (y.toNat / 256 % 128)) := by
  simp [bfxW, fieldPos, fieldWidth, Nat.shiftRight_eq_div_pow]

/-- Settles O16: each word is an operation of two sources, and its result is the table's. -/
theorem integerTwoSources : Obligations.IntegerTwoSources :=
  ⟨binary_of fun _ _ _ _ => rfl, binary_of fun _ _ _ _ => rfl, binary_of fun _ _ _ _ => rfl, binary_of fun _ _ _ _ => rfl,
    binary_of fun _ _ _ _ => rfl, binary_of fun _ _ _ _ => rfl, binary_of fun _ _ _ _ => rfl, binary_of fun _ _ _ _ => rfl,
    binary_of fun _ _ _ _ => rfl, binary_of fun _ _ _ _ => rfl, binary_of fun _ _ _ _ => rfl, binary_of fun _ _ _ _ => rfl,
    binary_of fun _ _ _ _ => rfl, (binary_of (op := minsW) fun _ _ _ _ => rfl).congr minsW_eq,
    (binary_of (op := maxsW) fun _ _ _ _ => rfl).congr maxsW_eq, (binary_of (op := minzW) fun _ _ _ _ => rfl).congr minzW_eq,
    (binary_of (op := maxzW) fun _ _ _ _ => rfl).congr maxzW_eq, binary_of fun _ _ _ _ => rfl, binary_of fun _ _ _ _ => rfl,
    binary_of fun _ _ _ _ => rfl, (binary_of (op := bfxW) fun _ _ _ _ => rfl).congr bfxW_eq⟩

/-- The tag check of a strand's sources passes where the word accepts their tags. -/
theorem tagFault_tagsOk {acc : Tag → Bool} {g : Regs} {k : Nat} {l : List Reg} (h : tagsOk acc g (.strand k) l) :
    tagFault acc (tagsOf g k l) = none :=
  tagFault_ok (fun r hr => by obtain ⟨q, hq, rfl⟩ := List.mem_map.1 hr; exact h q hq)

section
variable {s : State} {i : Instr} {x : Issue} {w : Who} {p : Plot} {d a b : Reg}

theorem bfi_result (h : Issues s (.bfi d a b) x w p) (ht : tagsOk intAccepts p.regs w [a, b, d]) :
    exec (.bfi d a b) s = .next (s.wrote x w p (fun g =>
      g.put w d .raw (fun n => bfiW (g.v n d).val (g.v n a).val (g.v n b).val) (bfiW (g.s d) (g.s a) (g.s b)))) := by
  refine runWord_onPlot (f := intBfi d a b) h ?_
  cases w with
  | front => rfl
  | strand k =>
    have hf : tagFault intAccepts (tagsOf p.counted.regs k [a, b, d]) = none := tagFault_tagsOk ht
    simp only [tagsOf, List.map_cons, List.map_nil] at hf
    simp only [intBfi, Issue.cx, hf]; rfl

/-- SEL gives D the source that its flag chooses. -/
theorem sel_result {f : BitVec 2} (he : exec i s = runWord i (onPlot (intSel f d a b)) s) (h : Issues s i x w p)
    (ht : tagsOk intAccepts p.regs w [a, b]) :
    exec i s = .next (s.wrote x w p (fun g =>
      g.put w d (keptTag .any [g.tagOf w a, g.tagOf w b]) (fun n => if g.flag w f then (g.v n a).val else (g.v n b).val)
        (if g.flag w f then g.s a else g.s b))) := by
  rw [he]
  refine runWord_onPlot h ?_
  cases w with
  | front => rfl
  | strand k =>
    have hf : tagFault intAccepts (tagsOf p.counted.regs k [a, b]) = none := tagFault_tagsOk ht
    simp only [tagsOf, List.map_cons, List.map_nil] at hf
    simp only [intSel, int3, Issue.cx, hf]; rfl

theorem icmp_result {f : BitVec 2} {k : ICond} : Issues s (.icmp f k a b) x w p → tagsOk intAccepts p.regs w [a, b] →
    exec (.icmp f k a b) s = .next (s.wrote x w p (fun g => g.setFlag w f
      (match w with | .front => icond k (g.s a) (g.s b) | .strand n => icond k (g.v n a).val (g.v n b).val))) := by
  intro h ht
  refine runWord_onPlot (f := intCmp f k a b) h ?_
  cases w with
  | front => rfl
  | strand n =>
    have hf : tagFault intAccepts (tagsOf p.counted.regs n [a, b]) = none := tagFault_tagsOk ht
    simp only [tagsOf, List.map_cons, List.map_nil] at hf
    simp only [intCmp, Issue.cx, hf]; rfl

theorem icmpi_result {f : BitVec 2} {k : ICond} {c : BitVec 11} : Issues s (.icmpi f k a c) x w p → tagsOk intAccepts p.regs w [a] →
    exec (.icmpi f k a c) s = .next (s.wrote x w p (fun g => g.setFlag w f
      (match w with | .front => icond k (g.s a) (c.signExtend 64) | .strand n => icond k (g.v n a).val (c.signExtend 32)))) := by
  intro h ht
  refine runWord_onPlot (f := intCmpi f k a c) h ?_
  cases w with
  | front => rfl
  | strand n =>
    have hf : tagFault intAccepts (tagsOf p.counted.regs n [a]) = none := tagFault_tagsOk ht
    simp only [tagsOf, List.map_cons, List.map_nil] at hf
    simp only [intCmpi, Issue.cx, hf]; rfl

end

/-- Table 4-7. -/
theorem icond_iff (n : Nat) (a b : BitVec n) :
    (icond .eq a b = true ↔ a = b) ∧ (icond .ne a b = true ↔ a ≠ b) ∧
    (icond .lts a b = true ↔ a.toInt < b.toInt) ∧ (icond .les a b = true ↔ a.toInt ≤ b.toInt) ∧
    (icond .ltz a b = true ↔ a.toNat < b.toNat) ∧ (icond .lez a b = true ↔ a.toNat ≤ b.toNat) ∧
    (icond .tst a b = true ↔ a &&& b ≠ 0) := by
  simp [icond, BitVec.slt, BitVec.sle, BitVec.ult, BitVec.ule]

/-- Settles O17: the words of one source, the immediate forms, SEL and BFI, and the compares with Table 4-7. -/
theorem integerOtherForms : Obligations.IntegerOtherForms := by
  refine ⟨⟨fun s x w p d a b h ht => bfi_result h ht, unary_of fun _ _ _ => rfl, unary_of fun _ _ _ => rfl, unary_of fun _ _ _ => rfl, ?_,
    fun i => ⟨unary_of fun _ _ _ => rfl, unary_of fun _ _ _ => rfl, unary_of fun _ _ _ => rfl, unary_of fun _ _ _ => rfl⟩,
    fun i => ⟨unary_of fun _ _ _ => rfl, unary_of fun _ _ _ => rfl, unary_of fun _ _ _ => rfl, unary_of fun _ _ _ => rfl⟩,
    fun s x w p d i h => runWord_onPlot h rfl, fun s x w p d i h => runWord_onPlot h rfl⟩,
    fun s x w p f k a b h ht => icmp_result h ht, fun s x w p f k a i h ht => icmpi_result h ht, icond_iff⟩
  intro s x w p d a b i f hi h ht
  simp only [List.mem_cons, List.not_mem_nil, or_false, Prod.mk.injEq] at hi
  obtain ⟨rfl, rfl⟩ | ⟨rfl, rfl⟩ | ⟨rfl, rfl⟩ | ⟨rfl, rfl⟩ := hi
  · exact sel_result rfl h ht
  · exact sel_result rfl h ht
  · exact sel_result rfl h ht
  · exact sel_result rfl h ht

end Sys2Proof.Machine
end

section
/-! # The floating-point words, CVT and the tag operations (R85, R93–R104) -/
namespace Sys2Proof.Machine

theorem FloatPairs.congr {i : Instr} {acc : Tag → Bool} {t : Tag} {srcs : List Reg} {d : Reg} {op op' : (Reg → Word) → Word × Word × Fl}
    (h : FloatPairs i acc t srcs d op) (e : ∀ v, op v = op' v) : FloatPairs i acc t srcs d op' :=
  (funext e : op = op') ▸ h

/-- Settles O18: each word is an operation on FP32 registers or on pairs, and raises ARITH by R85. -/
theorem floatResults : Obligations.FloatResults := by
  refine ⟨fun d a b c r => ⟨floats_of fun _ => rfl, floats_of fun _ => rfl, floats_of fun _ => rfl, floats_of fun _ => rfl,
    floats_of fun _ => rfl, floats_of fun _ => rfl, floats_of fun _ => rfl, floats_of fun _ => rfl, floats_of fun _ => rfl,
    floats_of fun _ => rfl, floats_of fun _ => rfl, floats_of fun _ => rfl, floats_of fun _ => rfl, floats_of fun _ => rfl,
    floats_of fun _ => rfl, floats_of fun _ => rfl, floats_of fun _ => rfl, floats_of fun _ => rfl, floats_of fun _ => rfl⟩,
    fun d a b c r => ⟨?_, ?_, ?_, floatPairs_of fun _ => rfl, floatPairs_of fun _ => rfl, floatPairs_of fun _ => rfl⟩⟩
  · exact (floatPairs_of fun _ => rfl : FloatPairs _ _ _ _ _ fun v => halves fun i => fadd r (v (regPlus a i)) (v (regPlus b i))).congr
      fun v => by simp only [halves, regPlus_zero]
  · exact (floatPairs_of fun _ => rfl : FloatPairs _ _ _ _ _ fun v => halves fun i => fmul r (v (regPlus a i)) (v (regPlus b i))).congr
      fun v => by simp only [halves, regPlus_zero]
  · exact (floatPairs_of fun _ => rfl : FloatPairs _ _ _ _ _ fun v => halves fun i =>
      ffma r (v (regPlus a i)) (v (regPlus b i)) (v (regPlus c i))).congr fun v => by simp only [halves, regPlus_zero]

/-- Settles O19: FCMP by its own lemma, the tag operations on the plot alone. -/
theorem floatFlagsAndTags : Obligations.FloatFlagsAndTags := by
  refine ⟨fun s x k p f c a b h ht hq => ?_, fun s x k p d a t h => runWord_onPlot h rfl, fun s x k p d a h => runWord_onPlot h rfl,
    fun s x k p a t h => ?_⟩
  · exact exec_fcmp_of_quiet h (ht a (by simp)) (ht b (by simp)) hq
  · split
    · next heq => exact runWord_onPlot (f := tagChk a t) h (if_pos heq)
    · next hne => exact runWord_onPlot_trap (f := tagChk a t) h (if_neg hne)

/-- Settles O20: with the checks passed and no flag enabled, the elements of the run are written in order. -/
theorem conversion : Obligations.Conversion := by
  intro s x k p st d a b t r sf srcs h hst hc y hy
  have hw : cvtWord d a b t r sf (x.cx (.strand k)) (s.begun x) = _ := withPlot_begun h _
  have hst' : p.counted.regs.strand? k = some st := hst
  have hc' : cvtCheck p.counted.regs k d a b t (r == .sr) = .ok srcs := hc
  have hq : fpWrite k (y.1.zipIdx.map (fun z => (regPlus d z.2, ⟨z.1, t⟩))) y.2 p.counted =
      (p.counted.modRegs (fun g => (y.1.zipIdx.foldl (fun g z => g.setV k (regPlus d z.2) ⟨z.1, t⟩) g).orFpf y.2), .done) := by
    rw [fpWrite, List.foldl_map, if_neg (by rw [arithRaised_iff]; exact not_not.2 hy)]; rfl
  refine runWord_done (f := cvtWord d a b t r sf) h ?_
  simp only [Issue.cx, hst', hc'] at hw
  exact hw.trans (congrArg (fun z : Plot × Res => ((s.begun x).setPlot z.1, z.2)) hq)

end Sys2Proof.Machine
end

section
/-! # The cross-lane words (R105–R111) -/
namespace Sys2Proof.Machine

/-- MXQ's sources and its salt have tags that it accepts (R110). -/
theorem mxqTags_ok {n : Nat} {a b : Reg} (p : Plot) (k : Nat)
    (h : ∀ r ∈ ((List.range n).map (fun j => (regPlus a j, fpAccepts))) ++ (if b = 0#6 then [] else [(b, indexAccepts)]),
      r.2 (p.regs.v k r.1).tag = true) : mxqTags n a b p k = none := by
  have hsrc : tagFault fpAccepts (tagsOf p.regs k ((List.range n).map (regPlus a))) = none := by
    refine tagFault_tagsOk fun r hr => ?_
    obtain ⟨j, hj, rfl⟩ := List.mem_map.1 hr
    exact h (regPlus a j, fpAccepts) (List.mem_append_left _ (List.mem_map.2 ⟨j, hj, rfl⟩))
  simp only [mxqTags, hsrc]
  split
  · rfl
  · next hb =>
    refine tagFault_tagsOk fun r hr => ?_
    obtain rfl := List.mem_singleton.1 hr
    exact h (r, indexAccepts) (List.mem_append_right _ (by simp [hb]))

theorem crosses_mxq {i : Instr} {f : MxFmt} {d a b : Reg} (he : ∀ s, exec i s = runWord i (mxqWord f d a b) s) :
    Crosses i (((List.range (Tag.count f.tag)).map (fun j => (regPlus a j, fpAccepts))) ++ (if b = 0#6 then [] else [(b, indexAccepts)]))
      (fun s p ms =>
        let y := mxqCohort f (if b = 0#6 then .rne else .sr) (s.keysOf p)[0] (ms.map (fun st =>
          ⟨(List.range (Tag.count f.tag)).map (fun j => (p.regs.v st.key (regPlus a j)).val), (p.regs.v st.key b).val, elemIndex p st⟩))
        (y.1.map (fun o => ⟨[(d, ⟨o.elems, f.tag⟩), (regPlus d 1, ⟨o.scale, .e8m0x4⟩)], []⟩), y.2)) :=
  crosses_of mxqTags_ok (fun _ _ _ _ => rfl) he

section
variable {i : Instr} {src : List (Reg × (Tag → Bool))} {out : State → Plot → List Strand → List XOut × Fl}

/-- A cross-lane word that checks the tags of the sources it names. -/
theorem crosses_tags (he : ∀ s, exec i s = runWord i (crossLane (crossTags src) out) s)
    (ho : ∀ s x p ms, out (s.begun x) p.counted ms = out s p ms := by intros; rfl) : Crosses i src out :=
  crosses_of crossTags_ok ho he

/-- A cross-lane word that takes every tag. -/
theorem crosses_any (he : ∀ s, exec i s = runWord i (crossLane noCheck out) s)
    (ho : ∀ s x p ms, out (s.begun x) p.counted ms = out s p ms := by intros; rfl) : Crosses i [] out :=
  crosses_of (fun _ _ _ => rfl) ho he

end

end Sys2Proof.Machine

namespace Sys2Proof
open Machine

/-- Settles O21: each word is a rendezvous with its own check of tags and its own results. -/
theorem crossLane : Obligations.CrossLane := by
  refine ⟨fun d a b => ⟨crosses_tags fun _ => rfl, crosses_tags fun _ => rfl, crosses_tags fun _ => rfl, crosses_tags fun _ => rfl,
    fun l => crosses_any fun _ => rfl, fun f => crosses_any fun _ => rfl, fun g f => crosses_any fun _ => rfl,
    fun g f => crosses_any fun _ => rfl, crosses_tags fun _ => rfl, crosses_tags fun _ => rfl, crosses_tags fun _ => rfl,
    crosses_tags fun _ => rfl⟩, fun d a b => ⟨?_, crosses_tags fun _ => rfl⟩⟩
  intro i f hi
  simp only [List.mem_cons, List.not_mem_nil, or_false, Prod.mk.injEq] at hi
  obtain ⟨rfl, rfl⟩ | ⟨rfl, rfl⟩ | ⟨rfl, rfl⟩ := hi
  · exact crosses_mxq fun _ => rfl
  · exact crosses_mxq fun _ => rfl
  · exact crosses_mxq fun _ => rfl

end Sys2Proof
end

section
/-! # The entry of the frontier that goes first (R277) -/
namespace Sys2Proof.Machine

theorem chosenEntry_eq (p : Plot) : p.chosenEntry = (p.regs.frontier.filter p.entryReady).foldl (best p) none := rfl

/-- Settles O41: the chosen entry is the best of the ready ones, and the order of entries is total. -/
theorem chosenEntryIsFirst : Obligations.ChosenEntryIsFirst := by
  intro p e h
  rw [chosenEntry_eq] at h
  cases hl : p.regs.frontier.filter p.entryReady with
  | nil => rw [hl] at h; cases h
  | cons x l =>
    rw [hl] at h
    obtain ⟨hmem, hx, hrest⟩ := best_fold p l x e h
    have hready : ∀ f, f ∈ x :: l ↔ f ∈ p.regs.frontier ∧ p.entryReady f = true := fun f => by rw [← hl, List.mem_filter]
    have he : e ∈ x :: l := List.mem_cons.2 hmem
    refine ⟨((hready e).1 he).1, ((hready e).1 he).2, fun f hf hr => goes_total p e f ?_⟩
    rcases List.mem_cons.1 ((hready f).2 ⟨hf, hr⟩) with rfl | hfl
    · exact hx
    · exact hrest f hfl

end Sys2Proof.Machine
end

section
/-! # Bytes that a read and a write of storage change (R167, R176, Table 7-3) -/
namespace Sys2Proof.Machine

theorem writeAt_dev {s : State} {l : Loc} (h : l.space = .dev) (pav : Nat) (data : List Byte) (sc : Scope) :
    s.writeAt pav l data sc = s.writeDev pav l.addr data sc := by
  simp only [State.writeAt, h]

theorem writeAt_path {s : State} {l : Loc} (h : l.space = .path) (pav : Nat) (data : List Byte) (sc : Scope) :
    s.writeAt pav l data sc = s.l2Write l.addr data := by
  simp only [State.writeAt, h]

theorem readAt_path {s : State} {l : Loc} (h : l.space = .path) (pav n : Nat) (sc : Scope) :
    s.readAt pav l n sc = s.l2Read l.addr n := by
  simp only [State.readAt, h]

/-- A space other than device memory is read as it lies. -/
theorem readAt_own {s : State} {l : Loc} (h : l.space ≠ .dev ∧ l.space ≠ .path) (pav n : Nat) (sc : Scope) :
    s.readAt pav l n sc = (s, cellsGet (s.mem.cells l.space) l.addr n) := by
  unfold State.readAt
  split
  · next e => exact absurd e h.1
  · next e => exact absurd e h.2
  · rfl

theorem l2Write_only (s : State) (pa : Nat) (data : List Byte) :
    ({ s.l2Write pa data with mem := s.mem, pavs := s.pavs } : State) = s ∧
    ∀ sp, sp ≠ .dev → (s.l2Write pa data).mem.cells sp = s.mem.cells sp := by
  obtain ⟨d, l, b, e⟩ := l2Write_rest s pa data
  rw [e]
  refine ⟨rfl, fun sp hsp => ?_⟩
  cases sp with
  | dev => exact absurd rfl hsp
  | host | spad | csp | priv | path => rfl

theorem Byteless.only {pav : Nat} {s t : State} (h : Byteless pav s t) :
    ({ t with mem := s.mem, pavs := s.pavs } : State) = s ∧ (∀ sp, t.mem.cells sp = s.mem.cells sp) ∧ ∀ a, t.l2Byte a = s.l2Byte a := by
  obtain ⟨⟨l, x, rfl⟩, hb, -⟩ := h
  exact ⟨rfl, fun sp => by cases sp <;> rfl, hb⟩

/-- At a wider scope the pavilion's own writes to the line have drained, and the read takes the L2's bytes. -/
theorem readDev_far_bytes {s : State} {pav pa n : Nat} {sc : Scope} (hn : nearScope sc = false) (hq : (s.pav pav).wtq = []) :
    (s.readDev pav pa n sc).2 = byteRun s.l2Byte pa n := by
  obtain ⟨l, e, -⟩ := drains_empty hq (pa / 128) ((pa + n - 1) / 128)
  unfold State.readDev
  rw [if_neg (by simp [hn]), e]
  have hb : ({ s with pavs := l } : State).l2Byte = s.l2Byte := by funext a; rfl
  simp only [l2Read_bytes, hb]

/-- Settles O14: each space by the lemma on its storage. -/
theorem bytesReadAndWritten : Obligations.BytesReadAndWritten := by
  intro s pav l sc hs
  refine ⟨fun data hd => writeAt_other pav data sc hs hd, fun data hd hn => ?_, fun data hd hp => ?_, fun n hd => ?_, fun n hd => ?_⟩
  · obtain ⟨x, e, hq⟩ := writeDev_near (s := s) (pav := pav) (pa := l.addr) (data := data) hn
    rw [writeAt_dev hd]
    exact ⟨by rw [e], hq⟩
  · rcases hd with ⟨hd, hn, hq⟩ | hd
    · obtain ⟨x, m, e, hc, -, -, hb⟩ := writeDev_far hs hn hq hp
      rw [writeAt_dev hd]
      exact ⟨by rw [e], fun sp hsp => by rw [e]; exact hc sp hsp, hb⟩
    · rw [writeAt_path hd]
      obtain ⟨hrest, hc⟩ := l2Write_only s l.addr data
      exact ⟨hrest, hc, fun a ha => l2Byte_l2Write hs l.addr data a hp ha⟩
  · obtain ⟨hdev, hpath, -⟩ := owns hd
    exact readAt_own ⟨hdev, hpath⟩ pav n sc
  · have hbyteless : Byteless pav s (s.readAt pav l n sc).1 := byteless_readAt fun h => by
      rcases hd with ⟨-, hd⟩ | hd
      · exact hd
      · rw [hd] at h; cases h
    obtain ⟨hrest, hc, hb⟩ := hbyteless.only
    refine ⟨hrest, hc, hb, fun hfar => ?_⟩
    rcases hd with ⟨hd, hq⟩ | hd
    · have hn : nearScope sc = false := hfar.resolve_right (by simp [hd])
      have hr : s.readAt pav l n sc = s.readDev pav l.addr n sc := by simp only [State.readAt, hd]
      rw [hr]
      exact readDev_far_bytes hn (hq.resolve_left (by simp [hn]))
    · rw [readAt_path hd]
      exact l2Read_bytes s l.addr n

end Sys2Proof.Machine
end

section
/-! # The frame of an access that lands or is performed (R296, R297) -/
namespace Sys2Proof.Machine

/-- A release drains nothing: it is near, or the pavilion's queue is empty. -/
theorem releaseIf_empty {s : State} {pav : Nat} {sc : Scope} (b : Bool) (h : nearScope sc = true ∨ (s.pav pav).wtq = []) :
    ∃ l, (if b = true then s.releaseAt pav sc else s) = { s with pavs := l } ∧
      ((s.pav pav).wtq = [] → (({ s with pavs := l } : State).pav pav).wtq = []) := by
  unfold State.releaseAt
  by_cases hr : b = true ∧ nearScope sc = false
  · have hn : ¬nearScope sc = true := by simp [hr.2]
    obtain ⟨l, e, hl⟩ := drainWhere_empty (h.resolve_left hn) (fun _ => true)
    rw [if_pos hr.1, if_neg hn]
    exact ⟨l, e, fun _ => hl⟩
  · refine ⟨s.pavs, ?_, id⟩
    split
    · next hb => rw [if_pos (by simpa [hb] using hr)]
    · rfl

theorem byteless_releaseIf {s : State} {pav : Nat} {sc : Scope} (b : Bool) (h : nearScope sc = true ∨ (s.pav pav).wtq = []) :
    Byteless pav s (if b = true then s.releaseAt pav sc else s) := by
  obtain ⟨l, e, hl⟩ := releaseIf_empty b h
  rw [e]
  exact ⟨⟨l, _, rfl⟩, fun _ => rfl, hl⟩

theorem byteless_acquireAt (s : State) (pav : Nat) (sc : Scope) : Byteless pav s (s.acquireAt pav sc) := by
  unfold State.acquireAt
  split
  · exact .refl pav s
  · exact byteless_modPav s pav _ (fun _ => rfl) (fun _ => rfl)

theorem noted_acquireIf {s t : State} {pav : Nat} (b : Bool) (sc : Scope) (h : Noted pav s t) :
    Noted pav s (if b = true then t.acquireAt pav sc else t) := by
  split
  · exact h.trans (byteless_acquireAt t pav sc).noted
  · exact h

/-- What a load finds is noted against the LDIs of its launch (R179). -/
theorem noted_observed (s : State) (pav k : Nat) (b : Prop) [Decidable b] (ps : List (Loc × Nat)) (d : List Byte) :
    Noted pav s (if b then (s.staleParts k ps d).1.noteLdi k ps (s.staleParts k ps d).2 else (s.staleParts k ps d).1) := by
  split
  · exact (noted_staleParts pav k ps s d).trans (noted_noteLdi ..)
  · exact noted_staleParts pav k ps s d

/-- A load other than an ATOM notes what it has read, and changes no byte. -/
theorem noted_performLoad {s : State} {p : Plot} {l : PLoad} {ps : List (Loc × Nat)} (ha : l.isAtom = false)
    (hq : (s.pav p.pav).wtq = []) : Noted p.pav s (s.performLoad p l ps).1 := by
  have hrel := byteless_releaseIf (sc := l.scope) l.release (.inr hq)
  have hread := fun sc => hrel.trans (readParts_frame (sc := sc) (l := ps) (hrel.2.2 hq))
  unfold State.performLoad
  cases hk : l.kind with
  | atom op b c => simp [PLoad.isAtom, hk] at ha
  | _ =>
    dsimp only
    exact noted_acquireIf l.acquire l.scope ((hread _).noted.trans (noted_observed ..))

/-- What the end of an access leaves, where its plot's registers become `h` and no strand is gathered. -/
theorem finish_access {s : State} {id : Nat} {p : Plot} {f : Plot → Plot} {h : Regs} (hp : s.plot? id = some p)
    (hf : ∀ q, (f q).id = q.id) (e : f p = p.modRegs (fun _ => h)) (hz : Quiet (p.modRegs (fun _ => h))) (he : h.front.ag.phase ≠ .exited) :
    (∃ l, (s.modPlot id f).finish id = { s with plots := l }) ∧ (∀ j, j ≠ id → ((s.modPlot id f).finish id).plot? j = s.plot? j) ∧
    ∃ q, ((s.modPlot id f).finish id).plot? id = some q ∧ (∀ k r, q.regs.v k r = h.v k r) ∧ (∀ r, q.regs.s r = h.s r) ∧
      (∀ u x, q.regs.flag u x = h.flag u x) ∧ q.regs.fpf = h.fpf := by
  have hq : (s.modPlot id f).plot? id = some (p.modRegs fun _ => h) := by
    rw [plot?_modPlot s id f hf, hp, Option.map_some, e]
  obtain ⟨e1, e2⟩ := finish_eq hq hz ⟨(.front, h.front.ag), List.mem_cons_self .., he⟩
  refine ⟨⟨_, e1⟩, fun j hj => ?_, _, e2, ?_⟩
  · rw [e1, plot?_modPlot_ne _ _ id_ended hj, plot?_modPlot_ne _ _ hf hj]
  · exact reads_body (congrArg Plot.regs (body_ended hz.gathered))

theorem Noted.cells {pav : Nat} {s t : State} (h : Noted pav s t) (sp : Space) : t.mem.cells sp = s.mem.cells sp := by
  obtain ⟨⟨l, x, f, i, rfl⟩, -, -⟩ := h
  cases sp <;> rfl

theorem modBoth_of_ck {p : Plot} (h : p.ck = none) (f : Regs → Regs) : p.modBoth f = p.modRegs f := by
  simp only [Plot.modBoth, Plot.modRegs, h, Option.map_none]

/-- A load that lands on good bytes. -/
theorem land_of_parts {s : State} {p : Plot} {w : Who} {a : Agent} {l : PLoad} {ps : List (Loc × Nat)} (hk : l.kind ≠ .cycles)
    (hl : l.parts = some ps) (hb : s.badPart 0 ps = none) :
    s.land p w a l = (s.performLoad p l ps).1.modPlot p.id
      (fun q => q.modBoth (fun g => g.landed w l (s.performLoad p l ps).2 false)) := by
  unfold State.land
  rw [hl]
  cases hc : l.kind with
  | cycles => exact absurd hc hk
  | _ => simp only [hb]

/-- The store is outstanding no more. -/
def Regs.performed (g : Regs) (w : Who) (y : PStore) : Regs :=
  g.modAgent w (fun a => { a with stores := a.stores.filter (fun z => z.seq != y.seq) })

theorem front_performed (g : Regs) (w : Who) (y : PStore) : (g.performed w y).front.ag.phase = g.front.ag.phase :=
  front_modAgent fun _ => rfl

theorem exec_storePerformed {s s1 : State} {id i : Nat} {w : Who} {p : Plot} {a : Agent} {y : PStore} (hp : s.plot? id = some p)
    (ha : p.real.agent? w = some a) (hy : a.stores[i]? = some y) (hm : p.real.mayPerform w a y = true)
    (hd : s.dma true y.span = (true, s1)) :
    exec (.storePerformed id w i) s =
      .next ((((if y.release = true then s1.releaseAt p.pav y.scope else s1).writeParts p.pav y.scope y.parts).modPlot id
        (fun q => q.modBoth (fun g => g.performed w y))).finish id) := by
  show execStorePerformed id w i s = _
  simp only [execStorePerformed, hp, ha, hy, hm, hd, Bool.not_true, Bool.false_eq_true, if_false]
  rfl

theorem exec_loadDataLands {s s1 : State} {id i : Nat} {w : Who} {p : Plot} {a : Agent} {l : PLoad} (hp : s.plot? id = some p)
    (ha : p.real.agent? w = some a) (hl : a.loads[i]? = some l) (hm : p.real.mayLand w a l = true)
    (hd : s.dma false (l.parts.getD []) = (true, s1)) :
    exec (.loadDataLands id w i) s = .next ((s1.land p w a l).finish id) := by
  show execLoadDataLands id w i s = _
  simp only [execLoadDataLands, hp, ha, hl, hm, hd, if_true]

theorem real_of_ck {p : Plot} (h : p.ck = none) : p.real = p.regs := by
  simp only [Plot.real, h, Option.getD_none]

theorem plot?_id {s : State} {id : Nat} {p : Plot} (h : s.plot? id = some p) : p.id = id := by
  simpa using List.find?_some h

/-- Settles O15: an access's bytes by their frame, its plot by what the end of the access leaves. -/
theorem accessesFrame : Obligations.AccessesFrame := by
  intro s t id i w p a hs hp hck ha hz hf
  have hr := real_of_ck hck
  have hid := plot?_id hp
  refine ⟨fun y s1 hy hm hd hq hl h => ?_, fun l ps s1 hl hm hps hk hatom hh hd hb hq h => ?_⟩
  · obtain ⟨b, rfl⟩ := dma_rest hd
    obtain ⟨x, eu, hx⟩ := releaseIf_empty (s := { s with budgets := b }) (pav := p.pav) (sc := y.scope) y.release hq
    rw [exec_storePerformed hp (hr ▸ ha) hy (hr ▸ hm) hd, eu] at h
    injection h with h
    subst h
    obtain ⟨⟨x', m, ew⟩, hcells, hbytes⟩ := writeParts_frame (s := { s with budgets := b, pavs := x }) (pav := p.pav) (sc := y.scope) (l := y.parts) hs
      (hq.imp_right hx) hl
    have hreads := reads_modAgent p.regs w (fun a => { a with stores := a.stores.filter (fun z => z.seq != y.seq) }) (fun _ => rfl)
    rw [ew] at hcells hbytes ⊢
    obtain ⟨⟨l, el⟩, hother, q, hqp, hv, hs', hfl, hfp⟩ := finish_access (s := { s with budgets := b, pavs := x', mem := m }) (f := fun q => q.modBoth (fun g => g.performed w y))
      (h := p.regs.performed w y) hp (fun _ => rfl) (modBoth_of_ck hck _)
      (quiet_modAgent hz (fun _ => ⟨rfl, rfl⟩) (fun _ => rfl)) (by rw [front_performed]; exact hf)
    refine ⟨fun sp b hsp hb => ?_, fun b hb' hb => ?_, hother, q, hqp, ?_⟩
    · rw [el]; exact hcells sp b hsp hb
    · rw [el]; exact hbytes b hb' hb
    · exact ⟨fun k r => (hv k r).trans (hreads.1 k r), fun r => (hs' r).trans (hreads.2.1 r), fun u f => (hfl u f).trans (hreads.2.2.1 u f), hfp.trans hreads.2.2.2⟩
  · obtain ⟨b, rfl⟩ := dma_rest hd
    rw [exec_loadDataLands hp (hr ▸ ha) hl (hr ▸ hm) (by rw [hps]; exact hd), land_of_parts hk hps hb, hid] at h
    injection h with h
    subst h
    obtain ⟨⟨x, y, f, k, e⟩, hbytes, -⟩ := noted_performLoad (s := { s with budgets := b }) (p := p) (ps := ps) hatom hq
    rw [e] at hbytes ⊢
    generalize (({ s with budgets := b } : State).performLoad p l ps).2 = v
    have hreads := reads_landed p.regs w l v hh
    obtain ⟨hz', hf'⟩ := quiet_landed (w := w) (l := l) (v := v) hz
    obtain ⟨⟨j, ej⟩, hother, q, hqp, hv, hs', hfl, hfp⟩ := finish_access
      (s := { s with budgets := b, pavs := x, free := f, mem := { s.mem with sectors := y, invs := k } })
      (f := fun q => q.modBoth (fun g => g.landed w l v false)) (h := p.regs.landed w l v false) hp (fun _ => rfl) (modBoth_of_ck hck _)
      hz' (by rw [hf']; exact hf)
    refine ⟨fun sp c _ => ?_, fun c => ?_, hother, q, hqp, ?_⟩
    · rw [ej]; cases sp <;> rfl
    · rw [ej]; exact hbytes c
    · exact ⟨fun k r hn => (hv k r).trans (hreads.1 k r hn), fun r hn => (hs' r).trans (hreads.2.1 r hn),
        fun u f => (hfl u f).trans (hreads.2.2.1 u f), hfp.trans hreads.2.2.2⟩

end Sys2Proof.Machine
end

section
/-! # The word that issues, and the step that issues it (R30, R45, R53, R272, R278) -/
namespace Sys2Proof.Machine

theorem classify_unassigned {w : Word} (h : majorAssigned (majOf w).toNat = false) (st : Stream) (cls : Nat) (lit : Option Word) (last : Bool) :
    classify st cls w lit last = ⟨.illegalEncoding 4 w, w, 4⟩ := by
  simp only [classify, h, Bool.not_false, if_true]

theorem classify_misplaced {w : Word} {st : Stream} {cls : Nat} {last : Bool} (h : majorAssigned (majOf w).toNat = true)
    (hp : placeOk st cls w last = false) (lit : Option Word) : classify st cls w lit last = ⟨.illegalEncoding 5 w, w, 4⟩ := by
  simp only [classify, h, hp, Bool.not_true, Bool.not_false, Bool.false_eq_true, if_false, if_true]

theorem classify_decoded {w : Word} {st : Stream} {cls : Nat} {last : Bool} {lit : Option Word} {i : Instr}
    (h : majorAssigned (majOf w).toNat = true) (hp : placeOk st cls w last = true) (hd : decodeWord w lit = .ok i) :
    classify st cls w lit last = ⟨i, w, if takesLiteral w then 8 else 4⟩ := by
  simp only [classify, h, hp, hd, Bool.not_true, Bool.false_eq_true, if_false]

theorem classify_refused {w : Word} {st : Stream} {cls : Nat} {last : Bool} {lit : Option Word} {e : Reject}
    (h : majorAssigned (majOf w).toNat = true) (hp : placeOk st cls w last = true) (hd : decodeWord w lit = .error e) :
    classify st cls w lit last = ⟨.illegalEncoding e.row w, w, 4⟩ := by
  simp only [classify, h, hp, hd, Bool.not_true, Bool.false_eq_true, if_false]

/-- A word without a literal, or without room for one, is classified alone. -/
theorem nextWord_alone {s : State} {p : Plot} {st : Stream} {c : Clause} {pc : Word} {m : Rd Word} (hm : s.codeWord p pc = .ok m)
    (h : takesLiteral m.val = false ∨ decide (pc.toNat + 8 ≤ c.stop) = false) :
    s.nextWord p st c pc = .ok ⟨classify st (hdrCls c.hw) m.val none (!decide (pc.toNat + 8 ≤ c.stop)), m.notes, m.s⟩ := by
  have hn : (takesLiteral m.val && decide (pc.toNat + 8 ≤ c.stop)) = false := by
    rw [Bool.and_eq_false_iff]; exact h
  simp only [State.nextWord, hm, hn, Bool.false_eq_true, if_false]

theorem nextWord_literal {s : State} {p : Plot} {st : Stream} {c : Clause} {pc : Word} {m l : Rd Word} (hm : s.codeWord p pc = .ok m)
    (ht : takesLiteral m.val = true) (hr : decide (pc.toNat + 8 ≤ c.stop) = true) (hl : m.s.codeWord p (pc + 4#32) = .ok l) :
    s.nextWord p st c pc =
      .ok ⟨classify st (hdrCls c.hw) m.val (some l.val) (!decide (pc.toNat + 8 ≤ c.stop)), m.notes ++ l.notes, l.s⟩ := by
  simp only [State.nextWord, hm, ht, hr, hl, Bool.and_true, if_true]

theorem issueFor_of_nextWord {s : State} {id : Nat} {p : Plot} {b : Issuer} {w : Who} {a : Agent} {c : Clause} {n : Rd NextWord}
    (hp : s.plot? id = some p) (ha : p.agent? w = some a) (hc : a.clause = some c) (hn : s.nextWord p (streamOf w) c a.pc = .ok n) :
    (n.notes = [] → issueFor s id b w = exec n.val.instr { n.s with issue := some ⟨p.id, b, a.pc, n.val.word, n.val.len⟩ }) ∧
    (∀ d v l, n.notes = (d, v) :: l → issueFor s id b w = .next (n.s.fetchFails p b ⟨.mchk, d, v, a.pc, true⟩)) := by
  unfold issueFor
  rw [hp]
  unfold issueAt
  simp only [ha, hc, hn]
  exact ⟨fun h => by rw [h], fun d v l h => by rw [h]⟩

theorem step_of_agenda {s : State} {t : Turn} {rest : List Turn} (h : s.agenda = t :: rest) :
    step s = settled (runTurn { s with agenda := rest } t) := by
  show s.turn = _
  simp only [State.turn, h]

/-- The bundle whose turn it is takes up its next word (R278). -/
theorem laneTurn_goes {s : State} {id : Nat} {p : Plot} {w : Who} {ws : List Who} (hp : s.plot? id = some p)
    (hw : p.issuers .bundle = w :: ws) (hr : p.resident = true) (hrun : p.run = .running ∨ p.run = .runahead)
    (hl : s.waitedLongest p = true) : laneTurn s id = issuedNow id (issueFor ((s.wake id).modPlot id Plot.takesUp) id .bundle w) := by
  simp only [laneTurn, hp, hl, if_true, laneGo, hw]
  rw [if_pos ⟨hr, hrun⟩]

/-- The front thread that has the bed's uniform slot issues its next word (R272). -/
theorem frontTurn_goes {s : State} {id : Nat} {p : Plot} (hp : (s.readyFront id).plot? id = some p)
    (hr : (s.readyFront id).frontReady p = true) (hs : (s.readyFront id).hasSlot p = true) :
    frontTurn s id = frontGo (s.readyFront id) p := by
  simp only [frontTurn, hp, hr, hs, Bool.and_self, if_true]

/-- Settles O4: the word by its class, the step by the turn it takes. -/
theorem stepRunsDecoded : Obligations.StepRunsDecoded := by
  refine ⟨fun s p st c pc m hm => ⟨fun hmaj hpl => ⟨fun h => ?_, fun l i ht hr hl hd => ?_⟩, fun ht => ?_⟩,
    fun s rest id p0 p a c n => ⟨fun w ws hag hp0 hw hres hrun hlong hp ha hc hn => ?_, fun p1 hag hp1 hready hslot hp ha hc hn => ?_⟩⟩
  · rw [nextWord_alone hm h]
    exact ⟨fun i hd => by rw [classify_decoded hmaj hpl hd], fun e hd => by rw [classify_refused hmaj hpl hd]⟩
  · rw [nextWord_literal hm ht hr hl, classify_decoded hmaj hpl hd, if_pos ht]
  · rw [nextWord_alone hm (.inl ht)]
    exact ⟨fun hmaj => by rw [classify_unassigned hmaj], fun hmaj hpl => by rw [classify_misplaced hmaj hpl]⟩
  · obtain ⟨hok, hbad⟩ := issueFor_of_nextWord (b := .bundle) hp ha hc hn
    have hstep : step s = settled (laneTurn { s with agenda := rest } id) := step_of_agenda hag
    rw [hstep, laneTurn_goes hp0 hw hres hrun hlong]
    exact ⟨fun h => by rw [hok h], fun d v l h => by rw [hbad d v l h]⟩
  · obtain ⟨hok, hbad⟩ := issueFor_of_nextWord (b := .front) (w := .front) hp ha hc hn
    have hstep : step s = settled (frontTurn { s with agenda := rest } id) := step_of_agenda hag
    rw [hstep, frontTurn_goes hp1 hready hslot, frontGo]
    exact ⟨fun h => by rw [hok h], fun d v l h => by rw [hbad d v l h]⟩

end Sys2Proof.Machine
end

section
/-! # What reset leaves, and what a new plot starts with (R348, R365, Table 2-4) -/
namespace Sys2Proof.Machine

/-- Storage with nothing listed outside host memory is sound where the host's is. -/
theorem sound_ofHost {s : State} {h : List Host.Cell} (e : s.mem = { Store.reset with host := h }) (hw : Memory.wf h = true) : s.sound := by
  refine ⟨?_, fun y hy => ?_⟩
  · rw [e]
    simp only [Store.wf, Store.reset, hw]
    rfl
  · rw [e] at hy; exact absurd hy (List.not_mem_nil)

/-- Settles O6: reset lists nothing, and MODULE_RESET starts from it. -/
theorem resetState : Obligations.ResetState := by
  have hcells : ∀ pa, cellGet Store.reset.dev pa = 0#8 := fun _ => rfl
  refine ⟨⟨rfl, rfl, rfl, rfl, rfl, rfl, rfl, rfl, rfl, rfl, rfl, rfl, hcells⟩, sound_ofHost (h := []) rfl rfl, fun s hw => ?_⟩
  exact ⟨s.moduleReset, exec_moduleReset s, ⟨rfl, rfl, rfl, rfl, rfl, rfl, rfl, rfl, rfl, rfl, rfl, rfl, hcells⟩, sound_ofHost rfl hw, rfl⟩

/-- A strand but for the yield that its place on the frontier notes. -/
def Strand.yielding (st : Strand) (y : Bool) : Strand := { st with ag := { st.ag with yieldNext := y } }

/-- Strands put on the frontier, and a front thread, banks and flags as they were. -/
theorem joins_fields (l : List Strand) : ∀ g : Regs, ∃ f : Strand → Bool,
    (l.foldl (fun g st => g.join st.key false) g).strands = g.strands.map (fun st => st.yielding (f st)) ∧
    (l.foldl (fun g st => g.join st.key false) g).front = g.front ∧ (l.foldl (fun g st => g.join st.key false) g).fpf = g.fpf := by
  induction l with
  | nil => exact fun g => ⟨fun st => st.ag.yieldNext, (List.map_id g.strands).symm, rfl, rfl⟩
  | cons x l ih =>
    intro g
    obtain ⟨h, hh, hs, hf, -, hp⟩ := join_fields g x.key false
    obtain ⟨f, e, ef, ep⟩ := ih (g.join x.key false)
    rw [hs] at e
    rw [hf] at ef
    rw [hp] at ep
    rcases hh with rfl | rfl
    · exact ⟨f, e, ef, ep⟩
    · refine ⟨fun st => f (if st.key == x.key then st.yielding false else st), e.trans ?_, ef, ep⟩
      show (List.map _ _).map _ = _
      rw [List.map_map]
      refine List.map_congr_left fun st _ => ?_
      simp only [Function.comp_apply]
      split <;> rfl

/-- A strand of a grid plot, at its entry. -/
def Launch.strandAt (l : Launch) (i : Nat) : Strand :=
  { Strand.start i (BitVec.ofNat 32 i) (i / 32) (i % 32) l.lane 0 with cohort := some (BitVec.ofNat 4 (i / 32)) }

theorem Launch.plot_strands (l : Launch) (i : Nat) :
    ∃ f : Strand → Bool, (l.plot i).regs.strands = (List.range l.n).map (fun k => (l.strandAt k).yielding (f (l.strandAt k))) := by
  obtain ⟨f, e, -, -⟩ := joins_fields l.strands { (Plot.fresh 0 l.ctx 0 (Front.at l.uni l.uniRegs 0)).regs with strands := l.strands }
  exact ⟨f, e.trans (List.map_map ..)⟩

theorem Launch.plot_front (l : Launch) (i : Nat) : (l.plot i).regs.front = Front.at l.uni l.uniRegs 0 ∧ (l.plot i).regs.fpf = 0#32 := by
  obtain ⟨f, -, e, ep⟩ := joins_fields l.strands { (Plot.fresh 0 l.ctx 0 (Front.at l.uni l.uniRegs 0)).regs with strands := l.strands }
  exact ⟨e, ep⟩

theorem Launch.plot_s (l : Launch) (i : Nat) (r : Reg) :
    (l.plot i).regs.s r = if r = 0#6 then 0#64 else l.preload.getD (r.toNat - 1) 0#64 := by
  unfold Regs.s
  rw [(l.plot_front i).1]
  split
  · rfl
  · next h =>
    have h0 : r.toNat ≠ 0 := fun e => h (BitVec.eq_of_toNat_eq e)
    show l.uniRegs[r.toNat] = _
    simp only [Launch.uniRegs, Vector.getElem_mapFinIdx, h0, if_false, Vector.getElem_replicate]

/-- A strand of a new plot has its registers zero and RAW and its flags 0. -/
theorem Launch.plot_strand? (l : Launch) (i : Nat) {k : Nat} {st : Strand} (h : (l.plot i).regs.strand? k = some st) :
    st.regs = Vector.replicate 64 VReg.zero ∧ st.flags = Vector.replicate 4 false ∧ st.ag.handler = false := by
  obtain ⟨f, e⟩ := l.plot_strands i
  have hm := List.mem_of_find?_eq_some h
  rw [e] at hm
  obtain ⟨j, -, rfl⟩ := List.mem_map.1 hm
  exact ⟨rfl, rfl, rfl⟩

theorem Launch.plot_v (l : Launch) (i k : Nat) (r : Reg) : (l.plot i).regs.v k r = VReg.zero := by
  unfold Regs.v
  split
  · next st h =>
    obtain ⟨hr, -, hh⟩ := l.plot_strand? i h
    simp only [hh, banked, Bool.false_and, Bool.false_eq_true, if_false, hr, Vector.getElem_replicate]
  · rfl

theorem Launch.plot_flag (l : Launch) (i k : Nat) (f : BitVec 2) : (l.plot i).regs.flag (.strand k) f = false := by
  unfold Regs.flag
  simp only
  split
  · next st h =>
    obtain ⟨-, hf, hh⟩ := l.plot_strand? i h
    simp only [hh, Bool.false_eq_true, if_false, hf, Vector.getElem_replicate]
  · rfl

theorem Launch.plot_flagFront (l : Launch) (i : Nat) (f : BitVec 2) : (l.plot i).regs.flag .front f = false := by
  unfold Regs.flag
  rw [(l.plot_front i).1]
  exact Vector.getElem_replicate _

/-- The end of a turn leaves a live, quiet plot as it was, but for where its agents stand and its bed's bookkeeping. -/
theorem finish_body {s : State} {id : Nat} {p : Plot} (hp : s.plot? id = some p) (hz : Quiet p)
    (he : ∃ y ∈ p.regs.agents, y.2.phase ≠ .exited) : ∃ q, (s.finish id).plot? id = some q ∧ q.body = p.body :=
  ⟨_, (finish_eq hp hz he).2, body_ended hz.gathered⟩

/-- A plot that comes onto a bed with the registers of `p`, at the end of the turn. -/
theorem finish_appended {s t : State} {p q : Plot} (h : s.plot? s.ids = none) (hz : Quiet p)
    (he : ∃ y ∈ p.regs.agents, y.2.phase ≠ .exited) (ht : t.plots = s.plots ++ [q]) (hid : q.id = s.ids) (hr : q.regs = p.regs) {n : Nat}
    (hn : q.tileS32 = List.replicate n false) :
    ∃ q', (t.finish s.ids).plot? s.ids = some q' ∧ q'.regs.body = p.regs.body ∧ ∀ k, q'.tileS32At k = false := by
  have hq : t.plot? s.ids = some q := by
    rw [State.plot?, ht, List.find?_append, show s.plots.find? _ = none from h]
    exact List.find?_cons_of_pos (p := fun p : Plot => p.id == s.ids) (beq_iff_eq.2 hid)
  have hz' : Quiet q := ⟨fun w a ha => hz.mchk w a (by rw [Plot.agent?, ← hr]; exact ha), by rw [hr]; exact hz.gathered⟩
  obtain ⟨q', hq', hb⟩ := finish_body hq hz' (by rw [hr]; exact he)
  refine ⟨q', hq', (congrArg Plot.regs hb).trans (congrArg Regs.body hr), fun k => ?_⟩
  have ht : q'.tileS32 = List.replicate n false := (congrArg Plot.tileS32 hb).trans hn
  rw [Plot.tileS32At, ht, List.getD_eq_getElem?_getD, List.getElem?_replicate]
  split <;> rfl

/-- A plot put on a bed has its registers as they were, and its tiles tagged F32. -/
theorem install_plot {s : State} {p : Plot} (pav bed rows n : Nat) (h : s.plot? s.ids = none) (hz : Quiet p)
    (he : ∃ y ∈ p.regs.agents, y.2.phase ≠ .exited) :
    ∃ q, (s.install p pav bed rows n).plot? s.ids = some q ∧ q.regs.body = p.regs.body ∧ ∀ k, q.tileS32At k = false := by
  have hplots : (((s.claimTiles pav p.ctx ((s.freeTiles pav).take n)).claimPart pav p.ctx).invalidateL1 pav).plots = s.plots := by
    rw [State.invalidateL1, plots_modPav, plots_claimPart, plots_claim]
  exact finish_appended h hz he (congrArg (· ++ [_]) hplots) rfl rfl rfl

/-- Settles O7: a grid plot from its launch, then its place on a bed, then s0. -/
theorem startRegisters : Obligations.StartRegisters := by
  refine ⟨fun l i => ?_, fun s p pav bed rows n h hz he => install_plot pav bed rows n h hz he, fun g x => ⟨rfl, rfl⟩⟩
  obtain ⟨f, e⟩ := l.plot_strands i
  obtain ⟨hfront, hfpf⟩ := l.plot_front i
  refine ⟨by rw [e]; simp, hfpf, fun b hb => ?_, l.plot_flagFront i, l.plot_s i, by rw [hfront]; rfl, fun st hst => ?_⟩
  · show (Vector.replicate 16 Barrier.reset)[b]? = _
    simp [hb]
  · rw [e] at hst
    obtain ⟨j, -, rfl⟩ := List.mem_map.1 hst
    exact ⟨rfl, rfl, rfl, rfl, fun r f => ⟨l.plot_v i _ r, l.plot_flag i _ f⟩⟩

end Sys2Proof.Machine
end

section
/-! # The checks of an access and the words that make one (R217–R224) -/
namespace Sys2Proof.Machine

theorem pieceLocs_cons (s : State) (p : Plot) (w : Who) (x : DWord × Nat) (l : List (DWord × Nat)) :
    s.pieceLocs p w (x :: l) = match regionOf x.1 with
      | .beyond => none
      | .window win off =>
        (s.windowLoc p (keyOf w) win off x.2).bind (fun y => (s.pieceLocs p w l).map (fun r => (x, some y) :: r))
      | .global _ => (s.pieceLocs p w l).map (fun r => (x, none) :: r) := by
  rw [State.pieceLocs.eq_2]
  generalize s.pieceLocs p w l = r
  cases regionOf x.1 with
  | beyond => rfl
  | window win off =>
    simp only
    cases hw : s.windowLoc p (keyOf w) win off x.2 <;> cases r <;> simp [hw]
  | global va => cases r <;> rfl

/-- What a piece reaches by translation at `va`, its location then taken by `f` (R218, R195, R386). -/
def State.findAt (s : State) (p : Plot) (a : DWord) (n : Nat) (write : Bool) (va : Nat) (f : Loc → Loc) : Except Res Reach :=
  match s.translateFor p va n write with
  | (.at x, s1) => .ok ⟨some [(f x, n)], none, s1⟩
  | (.unregistered pa, s1) => .ok ⟨none, some (5, BitVec.ofNat 64 pa), s1⟩
  | (.refused, s1) => .ok ⟨none, some (8, a), s1⟩
  | (.miss, _) => .error (.hold (.ats [⟨va, write⟩]))
  | (.denied, _) => .error (.hold (.page [⟨va, write⟩]))
  | (.absent pa, _) => .error (.hold (.absent pa))

/-- What one piece reaches: in a window at its place there, a private one by translation, and elsewhere by translation. -/
def State.pieceAt (s : State) (p : Plot) (write : Bool) (a : DWord) (n : Nat) (o : Option Loc) : Except Res Reach :=
  match o with
  | some x => if x.space = .priv then s.findAt p a n write (s.privVa p x) Loc.onPath else .ok ⟨some [(x, n)], none, s⟩
  | none => s.findAt p a n write a.toNat id

/-- What a first piece and the rest reach together. -/
def Reach.and (x y : Reach) : Reach :=
  ⟨(match x.parts, y.parts with | some u, some v => some (u ++ v) | _, _ => none), x.mchk.or y.mchk, y.s⟩

theorem Reach.and_nil (x : Reach) : x.and ⟨some [], none, x.s⟩ = x := by
  obtain ⟨parts, mchk, s⟩ := x
  cases parts <;> cases mchk <;> simp [Reach.and]

theorem reachPieces_cons (s : State) (p : Plot) (write : Bool) (a : DWord) (n : Nat) (o : Option Loc)
    (l : List ((DWord × Nat) × Option Loc)) :
    s.reachPieces p write (((a, n), o) :: l) =
      (s.pieceAt p write a n o).bind (fun x => (x.s.reachPieces p write l).map x.and) := by
  have h : s.reachPieces p write (((a, n), o) :: l) = match s.pieceAt p write a n o with
      | .error r => .error r
      | .ok x => match x.s.reachPieces p write l with
        | .error r => .error r
        | .ok y => .ok (x.and y) := by cases o <;> rfl
  rw [h]
  cases s.pieceAt p write a n o with
  | error r => rfl
  | ok x =>
    simp only [Except.bind]
    cases x.s.reachPieces p write l <;> rfl

theorem reachPieces_one (s : State) (p : Plot) (write : Bool) (a : DWord) (n : Nat) (o : Option Loc) :
    s.reachPieces p write [((a, n), o)] = s.pieceAt p write a n o := by
  rw [reachPieces_cons]
  cases s.pieceAt p write a n o with
  | error r => rfl
  | ok x => exact congrArg Except.ok x.and_nil

theorem findAt_at {s s1 : State} {p : Plot} {a : DWord} {n va : Nat} {write : Bool} {x : Loc}
    (h : s.translateFor p va n write = (.at x, s1)) (f : Loc → Loc) : s.findAt p a n write va f = .ok ⟨some [(f x, n)], none, s1⟩ := by
  simp only [State.findAt, h]

/-- The answer of one piece, by what its translation comes to. -/
theorem findAt_answer (s : State) (p : Plot) (a : DWord) (n : Nat) (write : Bool) (va : Nat) (f : Loc → Loc) :
    match s.translateFor p va n write with
    | (.at x, s1) => s.findAt p a n write va f = .ok ⟨some [(f x, n)], none, s1⟩
    | (.unregistered pa, s1) => s.findAt p a n write va f = .ok ⟨none, some (5, BitVec.ofNat 64 pa), s1⟩
    | (.refused, s1) => s.findAt p a n write va f = .ok ⟨none, some (8, a), s1⟩
    | (.miss, _) => s.findAt p a n write va f = .error (.hold (.ats [⟨va, write⟩]))
    | (.denied, _) => s.findAt p a n write va f = .error (.hold (.page [⟨va, write⟩]))
    | (.absent pa, _) => s.findAt p a n write va f = .error (.hold (.absent pa)) := by
  unfold State.findAt
  obtain ⟨t, s1⟩ := s.translateFor p va n write
  cases t <;> rfl

theorem reach_aligned {s : State} {p : Plot} {w : Who} {ea : DWord} {n align : Nat} {store : Bool} (h : ea.toNat % align = 0) :
    s.reach p w ea n align store = (s.checkPieces p w ea store (pieces ea n)).bind (s.reachPieces p store) := by
  unfold State.reach
  rw [if_neg (not_not.2 h)]
  cases s.checkPieces p w ea store (pieces ea n) <;> rfl

section
variable {s : State} {p : Plot} {w : Who} {ea : DWord} {store : Bool} {l : List (DWord × Nat)} {r : List ((DWord × Nat) × Option Loc)}
  (hl : s.pieceLocs p w l = some r)
include hl

/-- A piece outside the windows that touches the name range. -/
theorem checkPieces_named (h : r.any (fun x => x.2.isNone && s.touchesName p.ctx x.1.1.toNat x.1.2) = true) :
    s.checkPieces p w ea store l = .error (illegalEntry ea) := by
  simp only [State.checkPieces, hl, if_pos h]

section
variable (hname : ¬ r.any (fun x => x.2.isNone && s.touchesName p.ctx x.1.1.toNat x.1.2) = true)
include hname

theorem checkPieces_locked {a : DWord} (h : r.findSome? (fun x => s.lockHit p x.1.1 x.1.2 x.2 store) = some a) :
    s.checkPieces p w ea store l = .error (.trap .range 0 a) := by
  simp only [State.checkPieces, hl, if_neg hname, h]

theorem checkPieces_free (h : r.findSome? (fun x => s.lockHit p x.1.1 x.1.2 x.2 store) = none) :
    s.checkPieces p w ea store l = .ok r := by
  simp only [State.checkPieces, hl, if_neg hname, h]

end

end

/-- Settles O22: alignment, then the checks over the pieces, then each piece's translation. -/
theorem accessChecks : Obligations.AccessChecks := by
  intro s p w ea n align store
  refine ⟨fun h => if_pos h, fun h hl => ?_, fun r h hl => ?_, fun a k l => ?_, fun a k o => ?_, fun a b x y s1 s2 h1 h2 => ?_⟩
  · show s.reach p w ea n align store = _
    simp only [reach_aligned h, State.checkPieces, hl]
    rfl
  · show ite _ (s.reach p w ea n align store = _) _
    rw [reach_aligned h]
    split
    next hname => exact congrArg (Except.bind · _) (checkPieces_named hl hname)
    next hname =>
      split
      next a hlock => exact congrArg (Except.bind · _) (checkPieces_locked hl hname hlock)
      next hfree => exact congrArg (Except.bind · _) (checkPieces_free hl hname hfree)
  · rw [pieceLocs_cons]
    cases regionOf a <;> rfl
  · simp only [reachPieces_one]
    refine ⟨fun ho => ?_, fun x ho hx => ?_, fun x ho hx => ?_⟩ <;> subst ho
    · exact findAt_answer s p a k store a.toNat id
    · simp only [State.pieceAt, if_pos hx]
      exact findAt_answer ..
    · exact if_neg hx
  · rw [reachPieces_cons, show s.pieceAt p store a 4 none = _ from findAt_at h1 id]
    show Except.map _ (s1.reachPieces p store [((b, 4), none)]) = _
    rw [reachPieces_one, show s1.pieceAt p store b 4 none = _ from findAt_at h2 id]
    rfl

end Sys2Proof.Machine
end
section
/-! # Loads, stores and atomics join their agent's outstanding accesses (R219, R222–R224, R297) -/
namespace Sys2Proof.Machine

theorem issueLoad_running {p : Plot} (h : p.run = .running) (s : State) (w : Who) (l : PLoad) :
    s.issueLoad p.counted w l = (s.withLoad p w l, .done) :=
  if_neg (by rw [show p.counted.run = p.run from rfl, h]; nofun)

theorem loadWord_done {s : State} {i : Instr} {x : Issue} {w : Who} {p : Plot} (h : Issues s i x w p) {ag : Agent}
    (ha : p.agent? w = some ag) (hl : ag.loads.length < 32) (kind : LoadKind) (acq : Bool) (d : Reg) {a : Reg} {z : Size} {win : Win}
    (sc : Scope) {off : BitVec 6} {r : Reach}
    (hr : (s.begun x).reach p.counted w (p.regs.ea w a z win off) (sizeBytes z) (alignOf w (sizeBytes z)) false = .ok r) :
    runWord i (loadWord kind acq d a z win sc off) s = .next ((r.s.withLoad p w (mkLoad ag p.counted w kind d (sizeBytes z) r.parts
      (p.regs.ea w a z win off) (narrowScope (p.regs.ea w a z win off) sc) acq false r.mchk)).retired x w) := by
  have ha' : p.counted.agent? (x.cx w).who = some ag := ha
  refine runWord_done h ?_
  rw [loadWord, withPlot_begun h]
  have hr' : (s.begun x).reach p.counted (x.cx w).who (p.counted.regs.ea (x.cx w).who a z win off) (sizeBytes z)
    (if streamOf (x.cx w).who = .lane then min (sizeBytes z) 4 else sizeBytes z) false = .ok r := hr
  simp only [ha', hr']
  rw [if_neg (Nat.not_le.2 hl)]
  exact issueLoad_running h.running ..

theorem storeWord_done {s : State} {i : Instr} {x : Issue} {w : Who} {p : Plot} (h : Issues s i x w p) {ag : Agent}
    (ha : p.agent? w = some ag) (hl : ag.storeCount < 32) (rel : Bool) (d : Reg) {a : Reg} {z : Size} {win : Win}
    (sc : Scope) {off : BitVec 6} {r : Reach}
    (hr : (s.begun x).reach p.counted w (p.regs.ea w a z win off) (sizeBytes z) (alignOf w (sizeBytes z)) true = .ok r) :
    runWord i (storeWord rel d a z win sc off) s = .next ((r.s.issueStore p.counted w
      (r.parts.map (fun l => dealBytes l (p.regs.storeBytes w d (sizeBytes z)))) (narrowScope (p.regs.ea w a z win off) sc) rel
      r.mchk).retired x w) := by
  have ha' : p.counted.agent? (x.cx w).who = some ag := ha
  refine runWord_done h ?_
  rw [storeWord, withPlot_begun h]
  have hr' : (s.begun x).reach p.counted (x.cx w).who (p.counted.regs.ea (x.cx w).who a z win off) (sizeBytes z)
    (if streamOf (x.cx w).who = .lane then min (sizeBytes z) 4 else sizeBytes z) true = .ok r := hr
  simp only [ha', hr']
  simp only [if_neg (Nat.not_le.2 hl)]
  rfl

/-- Settles O23: each is a load word of its own kind. -/
theorem loadsIssue : Obligations.LoadsIssue := by
  intro s x w p ag d a z win sc off i kind acq r hi h ha hl ea hr
  simp only [List.mem_cons, List.not_mem_nil, or_false, Prod.mk.injEq] at hi
  obtain ⟨rfl, rfl, rfl⟩ | ⟨rfl, rfl, rfl⟩ | ⟨rfl, rfl, rfl⟩ := hi <;> exact loadWord_done h ha hl _ _ d sc hr

/-- Settles O24: both are store words. -/
theorem storesIssue : Obligations.StoresIssue := by
  intro s x w p ag d a z win sc off i rel r hi h ha hl ea hr
  simp only [List.mem_cons, List.not_mem_nil, or_false, Prod.mk.injEq] at hi
  obtain ⟨rfl, rfl⟩ | ⟨rfl, rfl⟩ := hi <;> exact storeWord_done h ha hl _ d sc hr

/-- What an ATOM of an aligned location with translation `l` comes to (R222, R224). -/
theorem atomWord_reached {s : State} {i : Instr} {x : Issue} {w : Who} {p : Plot} (h : Issues s i x w p) {ag : Agent}
    (ha : p.agent? w = some ag) (hl : ag.loads.length < 32) (hs : ag.storeCount < 32) (op : AtomOp) (d : Reg) {a : Reg} (b : Reg) (ar : Bool)
    (sc : Scope) {l : Loc} {s1 : State} {n : Nat} (hn : n = if streamOf w = .uniform ∧ op ≠ .fadd then 8 else 4)
    (hr : (s.begun x).reach p.counted w (p.regs.wide w a) n n true = .ok ⟨some [(l, n)], none, s1⟩) :
    atomWord op d a b ar sc (x.cx w) (s.begun x) =
      if l.space == .host && !hostAtom op then ((s.begun x), illegalEntry (p.regs.wide w a))
      else (s1.withLoad p w { mkLoad ag p.counted w
        (if l.space == .host && op == .incw then LoadKind.atom .add 1#64 0#64 else .atom op (p.regs.zx w b) (p.regs.zx w (regPlus b 1)))
        d n (some [(l, n)]) (p.regs.wide w a) (if l.space == .host then .sys else narrowScope (p.regs.wide w a) sc) ar ar none with
        pair := false }, .done) := by
  have ha' : p.counted.agent? (x.cx w).who = some ag := ha
  subst hn
  have hr' : (s.begun x).reach p.counted (x.cx w).who (p.counted.regs.wide (x.cx w).who a)
    (if streamOf (x.cx w).who = .uniform ∧ op ≠ .fadd then 8 else 4) (if streamOf (x.cx w).who = .uniform ∧ op ≠ .fadd then 8 else 4)
    true = .ok ⟨some [(l, if streamOf w = .uniform ∧ op ≠ .fadd then 8 else 4)], none, s1⟩ := hr
  rw [atomWord, withPlot_begun h]
  simp only [ha', hr', if_neg (not_or.2 ⟨Nat.not_le.2 hl, Nat.not_le.2 hs⟩)]
  rw [issueLoad_running h.running]
  rfl

/-- The words of Table 9-4, each with the operation it names. -/
theorem exec_atom {i : Instr} {op : AtomOp} {d a b : Reg} {ar : Bool} {sc : Scope}
    (hi : (i, op) ∈ [(Instr.atomAdd d a b ar sc, AtomOp.add), (.atomAnd d a b ar sc, .and), (.atomOr d a b ar sc, .or),
      (.atomXor d a b ar sc, .xor), (.atomMins d a b ar sc, .mins), (.atomMaxs d a b ar sc, .maxs), (.atomMinz d a b ar sc, .minz),
      (.atomMaxz d a b ar sc, .maxz), (.atomXchg d a b ar sc, .xchg), (.atomCas d a b ar sc, .cas), (.atomFadd d a b ar sc, .fadd),
      (.atomIncw d a b ar sc, .incw)]) (s : State) : exec i s = runWord i (atomWord op d a b ar sc) s := by
  simp only [List.mem_cons, List.not_mem_nil, or_false, Prod.mk.injEq] at hi
  obtain ⟨rfl, rfl⟩ | ⟨rfl, rfl⟩ | ⟨rfl, rfl⟩ | ⟨rfl, rfl⟩ | ⟨rfl, rfl⟩ | ⟨rfl, rfl⟩ | ⟨rfl, rfl⟩ | ⟨rfl, rfl⟩ | ⟨rfl, rfl⟩ |
    ⟨rfl, rfl⟩ | ⟨rfl, rfl⟩ | ⟨rfl, rfl⟩ := hi <;> rfl

/-- Settles O25: an ATOM of its operation, by where its location lies. -/
theorem atomsIssue : Obligations.AtomsIssue := by
  intro s x w p ag d a b ar sc i op l s1 hi h ha hl hs n ea hr
  have hw := atomWord_reached h ha hl hs op d b ar sc rfl hr
  rw [exec_atom hi]
  refine ⟨fun hsp => runWord_done h ?_, fun hsp hop => runWord_done h ?_, fun hsp hop => runWord_trap (t := s.begun x) h ?_⟩
  · rw [hw]
    simp only [beq_false_of_ne hsp, Bool.false_and, Bool.false_eq_true, if_false]
    rfl
  · rw [hw]
    simp only [hsp, hop, beq_self_eq_true, Bool.true_and, Bool.not_true, Bool.false_eq_true, if_false, if_true, beq_iff_eq]
    rfl
  · rw [hw]
    simp only [hsp, hop]
    rfl

end Sys2Proof.Machine
end

section
/-! # Fences, prefetch and STMX; what a landing load and a performed store do (R220, R225–R227, R296, R297) -/
namespace Sys2Proof.Machine

/-- The last arrival of a cohort whose computation succeeds (R106). -/
theorem runWord_rendezvous {s : State} {i : Instr} {x : Issue} {k : Nat} {co : BitVec 4} {p : Plot} (h : Meets s i x k co p)
    {check : Plot → Nat → Option Res} {compute : Plot → List Strand → State → Meet} {t : State} (hc : check p.counted k = none)
    (ho : compute p.counted (p.regs.membersOf co) (s.begun x) = .ok t) :
    runWord i (rendezvous check compute) s = .next (t.released x k (p.regs.membersOf co)) := by
  refine runWord_done h.issues ?_
  have hl : p.counted.regs.lockedOf k = some co := h.locked
  have ha : allArrived (p.counted.regs.membersOf co) k (x.cx (.strand k)).pc = true := h.arrived
  have ho' : compute p.counted (p.counted.regs.membersOf co) (s.begun x) = .ok t := ho
  rw [rendezvous, withPlot_begun h.issues]
  show (match check p.counted k with | some r => _ | none => _) = _
  simp only [hc, hl, ha, ho', Bool.not_true, Bool.false_eq_true, if_false]
  rfl

/-- FENCE of a kind whose accesses are performed. -/
theorem fenceWord_done {s : State} {i : Instr} {x : Issue} {w : Who} {p : Plot} (h : Issues s i x w p) {ag : Agent}
    (ha : p.agent? w = some ag) {k : FenceKind} (sc : Scope) (hl : ag.loads = []) (hs : k = .acq ∨ ag.stores = []) :
    fenceWord k sc (x.cx w) (s.begun x) = match k with
      | .rel => ((s.begun x).releaseAt p.pav sc, .done)
      | .acq => ((s.begun x).acquireAt p.pav sc, .done)
      | .full => (((s.begun x).releaseAt p.pav sc).acquireAt p.pav sc, .done)
      | .view => ((((s.begun x).releaseAt p.pav sc).acquireAt p.pav sc).syncViews, .done) := by
  have ha' : p.counted.agent? (x.cx w).who = some ag := ha
  have hc : (!ag.loads.isEmpty || (k != .acq && !ag.stores.isEmpty)) = false := by
    rcases hs with rfl | hs
    · simp [hl]
    · simp [hl, hs]
  rw [fenceWord, withPlot_begun h]
  simp only [ha', hc, Bool.false_eq_true, if_false]
  cases k <;> rfl

theorem exec_fences {s : State} {x : Issue} {w : Who} {p : Plot} {ag : Agent} (sc : Scope) (ha : p.agent? w = some ag)
    (hl : ag.loads = []) :
    (Issues s (.fenceAcq sc) x w p → exec (.fenceAcq sc) s = .next (((s.begun x).acquireAt p.pav sc).retired x w)) ∧
    (Issues s (.fenceRel sc) x w p → ag.stores = [] →
      exec (.fenceRel sc) s = .next (((s.begun x).releaseAt p.pav sc).retired x w)) ∧
    (Issues s (.fenceFull sc) x w p → ag.stores = [] →
      exec (.fenceFull sc) s = .next ((((s.begun x).releaseAt p.pav sc).acquireAt p.pav sc).retired x w)) ∧
    (Issues s (.fenceView sc) x w p → ag.stores = [] →
      exec (.fenceView sc) s = .next (((((s.begun x).releaseAt p.pav sc).acquireAt p.pav sc).syncViews).retired x w)) :=
  ⟨fun h => runWord_done h (fenceWord_done h ha sc hl (.inl rfl)), fun h hs => runWord_done h (fenceWord_done h ha sc hl (.inr hs)),
    fun h hs => runWord_done h (fenceWord_done h ha sc hl (.inr hs)), fun h hs => runWord_done h (fenceWord_done h ha sc hl (.inr hs))⟩

theorem pf_window {s : State} {x : Issue} {w : Who} {p : Plot} {a : Reg} {l2 : Bool} (h : Issues s (.pf a l2) x w p)
    (hr : ∀ va, regionOf (p.regs.wide w a) ≠ .global va) : exec (.pf a l2) s = .next ((s.begun x).retired x w) := by
  refine runWord_done h (f := pfWord a l2) ?_
  rw [pfWord, withPlot_begun h]
  show (match regionOf (p.regs.wide w a) with | .global va => _ | _ => _) = _
  cases hg : regionOf (p.regs.wide w a) with
  | global va => exact absurd hg (hr va)
  | window _ _ => rfl
  | beyond => rfl

theorem pf_global {s : State} {x : Issue} {w : Who} {p : Plot} {a : Reg} {l2 : Bool} (h : Issues s (.pf a l2) x w p) {va : Nat}
    (hr : regionOf (p.regs.wide w a) = .global va) (hn : s.touchesName p.ctx va 1 = false) :
    ((s.lockHit p (p.regs.wide w a) 1 none true).isSome = true → exec (.pf a l2) s = .next ((s.begun x).retired x w)) ∧
    (∀ l s1, s.lockHit p (p.regs.wide w a) 1 none true = none → (s.begun x).translateFor p.counted va 1 false = (.at l, s1) → l.space = .dev →
      exec (.pf a l2) s =
        .next ((if l2 then s1.l2Fill l.addr else (s1.l2Fill l.addr).l1Need p.pav (l.addr / 128)).retired x w)) := by
  have hr' : regionOf (p.counted.regs.wide (x.cx w).who a) = .global va := hr
  have hn' : (s.begun x).touchesName p.counted.ctx va 1 = false := hn
  refine ⟨fun hl => runWord_done h (f := pfWord a l2) ?_, fun l s1 hl ht hd => runWord_done h (f := pfWord a l2) ?_⟩
  · have hl' : ((s.begun x).lockHit p.counted (p.counted.regs.wide (x.cx w).who a) 1 none true).isSome = true := hl
    rw [pfWord, withPlot_begun h]
    simp only [hr', hn', hl', Bool.false_eq_true, if_false, if_true]
  · have hl' : (s.begun x).lockHit p.counted (p.counted.regs.wide (x.cx w).who a) 1 none true = none := hl
    rw [pfWord, withPlot_begun h]
    simp only [hr', hn', hl', ht, hd, Option.isSome_none, Bool.false_eq_true, if_false, if_true]
    rfl

theorem stmxTags_none {d : Reg} {p : Plot} {k : Nat} (hd : mxTag (p.regs.v k d).tag = true)
    (hs : scaleTag (p.regs.v k (regPlus d 1)).tag = true) : stmxTags d p k = none :=
  crossTags_ok p k (by simp [hd, hs])

/-- What the cohort of an STMX computes, both ranges aligned, checked and reached. -/
theorem stmxWord_computes (d a b : Reg) (sc : Scope) : ∃ compute, stmxWord d a b sc = rendezvous (stmxTags d) compute ∧
    ∀ {q : Plot} {t : State} {ms : List Strand} {lead : Strand} {le lg : List ((DWord × Nat) × Option Loc)} {re rg : Reach},
      let w := Who.strand lead.key
      let nb := if (q.regs.v lead.key d).tag = .e2m1x8 then 8 else 4
      ms.find? (fun st => st.lane == 0) = some lead → ms.any (fun st => decide (32 < st.ag.storeCount + stmxCount nb st)) = false →
      (q.regs.wide w a).toNat % 128 = 0 → (q.regs.wide w b).toNat % nb = 0 →
      t.checkPieces q w (q.regs.wide w a) true [(q.regs.wide w a, 128)] = .ok le →
      t.checkPieces q w (q.regs.wide w b) true [(q.regs.wide w b, nb)] = .ok lg →
      t.reachPieces q true le = .ok re → re.s.reachPieces q true lg = .ok rg →
      compute q ms t =
        .ok (stmxStores d (narrowScope (q.regs.wide w a) sc) (narrowScope (q.regs.wide w b) sc) nb q ms re rg rg.s) := by
  refine ⟨_, rfl, fun {q t ms lead le lg re rg} => ?_⟩
  intro w nb hlead hroom hea hga hle hlg hre hrg
  simp only [hlead, hea, hga, hle, hlg, hre, hrg, hroom, w, nb, ne_eq, not_true_eq_false, if_false, Bool.false_eq_true]

/-- Settles O26: the fences, PF by its address, and STMX at the last arrival. -/
theorem fencesPrefetchAndStmx : Obligations.FencesPrefetchAndStmx := by
  refine ⟨⟨fun s x w p ag sc ha hl => exec_fences sc ha hl, fun s x w p a l2 h => ⟨pf_window h, fun va => pf_global h⟩⟩, ?_⟩
  intro s x k co p d a b sc lead le lg re rg h hd hs ms w ea ga nb hlead hroom hea hga hle hlg hre hrg
  have hroom' : ms.any (fun st => decide (32 < st.ag.storeCount + stmxCount nb st)) = false := by
    refine List.any_eq_false.2 fun st hst => ?_
    have := of_decide_eq_true (List.all_eq_true.1 hroom st hst)
    simpa using this
  obtain ⟨compute, hw, hc⟩ := stmxWord_computes d a b sc
  show runWord _ (stmxWord d a b sc) s = _
  rw [hw]
  exact runWord_rendezvous (compute := compute) h (stmxTags_none hd hs) (hc (q := p.counted) hlead hroom' hea hga hle hlg hre hrg)

/-- Settles O27: the load or the store, and the end of its turn. -/
theorem accessesPerform : Obligations.AccessesPerform := by
  refine ⟨fun s s1 id i w p a l ps hp ha hl hm hps hk hd hb => ?_, fun s s1 id i w p a y hp ha hy hm hd => exec_storePerformed hp ha hy hm hd⟩
  rw [exec_loadDataLands hp ha hl hm (by rw [hps]; exact hd), land_of_parts hk hps hb]

end Sys2Proof.Machine
end

section
/-! # The version words on a name of the context (R204–R212, R221, R228) -/
namespace Sys2Proof.Machine

/-- VER words whose name and entry are good, by what their operation on the entry comes to. -/
theorem vopenWord_begun {s : State} {x : Issue} {w : Who} {p : Plot} {d a b : Reg} {r : VRegion} (h : Issues s (.vopen d a b) x w p)
    (hn : s.nameRange p.ctx (p.regs.wide w a).toNat = some r) (hb : s.entryBad r (r.pageOf (p.regs.wide w a).toNat) = none) :
    let e := r.entry (r.pageOf (p.regs.wide w a).toNat)
    let step := p.regs.zx w b
    vopenWord d a b (x.cx w) (s.begun x) =
      if e.opened step then
        ((s.begun x).modPlot x.plot (fun q => q.modRegs (fun g => (g.setWide w d 0#64).setFlag w 0#2 false)), .done)
      else match (s.begun x).slotFor r e with
        | none => (s.begun x, .block (.version (p.regs.wide w a) step true false))
        | some k => (((s.begun x).setVEntry r.num { e with h := some step, slots := e.slots.set k ⟨.opened, step⟩ }).modPlot x.plot
            (fun q => q.modRegs (fun g => (g.setWide w d (BitVec.ofNat 64 (r.slotAddr e.page k))).setFlag w 0#2 true)), .done) := by
  rw [vopenWord, verWord_begun h hn hb]
  rfl

/-- VCOMMIT and VRETIRE close the OPEN slot of the step, or find none. -/
theorem closeSlot_some {b : Reg} {goal : SlotState} {c : Cx} {p : Plot} {r : VRegion} {e : VPage} {s : State} {k : Nat}
    (h : e.openSlot (p.regs.zx c.who b) = some k) : closeSlot b goal c p r e s =
      ((s.setVEntry r.num { e with slots := e.slots.set k ⟨goal, p.regs.zx c.who b⟩ }).modPlot c.plot
        (fun q => q.modRegs (fun g => g.setFlag c.who 0#2 true)), .done) := by
  simp only [closeSlot, h]

theorem closeSlot_none {b : Reg} {goal : SlotState} {c : Cx} {p : Plot} {r : VRegion} {e : VPage} {s : State}
    (h : e.openSlot (p.regs.zx c.who b) = none) :
    closeSlot b goal c p r e s = (s.modPlot c.plot (fun q => q.modRegs (fun g => g.setFlag c.who 0#2 false)), .done) := by
  simp only [closeSlot, h]

/-- An aligned LDV on a good name and entry, by what it resolves to. -/
theorem ldvWord_begun {s : State} {x : Issue} {w : Who} {p : Plot} {ag : Agent} {d a b : Reg} {z : Size} {sc : Scope} {m : LdvMode}
    {r : VRegion} (h : Issues s (.ldv d a b z sc m) x w p) (ha : p.agent? w = some ag)
    (hn : s.nameRange p.ctx (p.regs.wide w a).toNat = some r) (hb : s.entryBad r (r.pageOf (p.regs.wide w a).toNat) = none)
    (hal : (p.regs.wide w a).toNat % sizeBytes z = 0) {o : Resolved}
    (ho : s.resolve r (r.entry (r.pageOf (p.regs.wide w a).toNat)) (p.regs.zx w b) (m == .exact) = o) :
    ldvWord d a b z sc m (x.cx w) (s.begun x) = match o with
      | .slot k => (s.begun x).issueVersioned p.counted w ag d (sizeBytes z) sc r (r.pageOf (p.regs.wide w a).toNat) k
          (((p.regs.wide w a).toNat - r.nameBase) % 65536)
      | .stale => (s.begun x, .trap .stale 0 (p.regs.wide w a))
      | .wait =>
        if m = .nowait then ((s.begun x).modPlot x.plot (fun p => p.modRegs (fun g => g.setFlag w 0#2 false)), .done)
        else (s.begun x, .block (.version (p.regs.wide w a) (p.regs.zx w b) false (m == .exact))) := by
  have ha' : p.counted.agent? (x.cx w).who = some ag := ha
  have hn' : (s.begun x).nameAt p.counted (p.counted.regs.wide (x.cx w).who a) = .ok r := by
    show (match s.nameRange p.ctx (p.regs.wide w a).toNat with | some r => _ | none => _) = _
    rw [hn]
  have hb' : (s.begun x).entryBad r (r.pageOf (p.counted.regs.wide (x.cx w).who a).toNat) = none := hb
  have hal' : ¬(p.counted.regs.wide (x.cx w).who a).toNat % sizeBytes z ≠ 0 := not_not.2 hal
  have ho' : (s.begun x).resolve r (r.entry (r.pageOf (p.counted.regs.wide (x.cx w).who a).toNat)) (p.counted.regs.zx (x.cx w).who b)
    (m == .exact) = o := ho
  rw [ldvWord, withPlot_begun h]
  simp only [ha', hn', hb', ho', if_neg hal']
  cases o <;> rfl

theorem issueVersioned_at {s s1 : State} {p : Plot} {w : Who} {a : Agent} {d : Reg} {n : Nat} {sc : Scope} {r : VRegion} {page k off : Nat}
    {l : Loc} (hr : p.run = .running) (ha : a.loads.length < 32)
    (hl : s.lockHit p (BitVec.ofNat 64 (r.slotAddr page k + off)) n none false = none)
    (ht : s.translateFor p (BitVec.ofNat 64 (r.slotAddr page k + off)).toNat n false = (.at l, s1)) :
    s.issueVersioned p w a d n sc r page k off =
      ((s1.modPlot p.id (fun q => q.modRegs (fun g => g.setFlag w 0#2 true))).withLoad p w
        (mkLoad a p w (.versioned r.num page k) d n (some [(l, n)]) (BitVec.ofNat 64 (r.slotAddr page k + off)) sc true false none), .done) := by
  have hp : s.reachPieces p false [((BitVec.ofNat 64 (r.slotAddr page k + off), n), none)] = .ok ⟨some [(l, n)], none, s1⟩ :=
    (reachPieces_one ..).trans (findAt_at ht id)
  have hn : ¬p.run = .runahead := by rw [hr]; nofun
  unfold State.issueVersioned
  simp only [hl, hp, if_neg (Nat.not_le.2 ha)]
  exact if_neg hn

/-- Settles O28: each VER word by its operation on the entry, LDV by what it resolves to. -/
theorem versionWordsAndLoads : Obligations.VersionWordsAndLoads := by
  refine ⟨?_, ?_⟩
  · intro s x w p d a b sc r name step e t put hn hb
    refine ⟨fun h ho => runWord_done h (f := vopenWord d a b) ?_, fun k h ho hk => runWord_done h (f := vopenWord d a b) ?_,
      fun h ho hk => runWord_block h (f := vopenWord d a b) ?_, fun k h hd hk => runWord_done h (f := vcommitWord a b sc) ?_,
      fun k h hk => runWord_done h (f := vretireWord a b) ?_, fun h hk => runWord_done h (f := vretireWord a b) ?_,
      fun h => runWord_done h (f := vqueryWord d a) ?_⟩
    · exact (vopenWord_begun h hn hb).trans (if_pos ho)
    · refine (vopenWord_begun h hn hb).trans ((if_neg (by rw [ho]; nofun)).trans ?_)
      simp only [show (s.begun x).slotFor r (r.entry (r.pageOf (p.regs.wide w a).toNat)) = some k from hk]
      rfl
    · refine (vopenWord_begun h hn hb).trans ((if_neg (by rw [ho]; nofun)).trans ?_)
      simp only [show (s.begun x).slotFor r (r.entry (r.pageOf (p.regs.wide w a).toNat)) = none from hk]
      rfl
    · have hd' : p.counted.drained (x.cx w).who = true := hd
      rw [vcommitWord, verWord_begun h hn hb, if_neg (by rw [hd']; nofun)]
      exact closeSlot_some hk
    · rw [vretireWord, verWord_begun h hn hb]
      exact closeSlot_some hk
    · rw [vretireWord, verWord_begun h hn hb]
      exact closeSlot_none hk
    · rw [vqueryWord, verWord_begun h hn hb]
      rfl
  · intro s x w p ag d a b z sc m r h ha name step page t hn hb hal
    refine ⟨fun k l s1 ho hl => ?_, fun ho => runWord_trap (t := s.begun x) h (f := ldvWord d a b z sc m) ?_,
      fun ho hm => runWord_done h (f := ldvWord d a b z sc m) ?_, fun ho hm => runWord_block h (f := ldvWord d a b z sc m) ?_⟩
    · intro va hlock ht
      exact runWord_done h (f := ldvWord d a b z sc m)
        ((ldvWord_begun h ha hn hb hal ho).trans (issueVersioned_at (p := p.counted) h.running hl hlock ht))
    · exact ldvWord_begun h ha hn hb hal ho
    · exact (ldvWord_begun h ha hn hb hal ho).trans (if_pos hm)
    · exact (ldvWord_begun h ha hn hb hal ho).trans (if_neg hm)

end Sys2Proof.Machine
end

section
/-! # Branches and jumps (R284, R303, R304) -/
namespace Sys2Proof.Machine

/-- A word after which its members divide (R284). -/
theorem runWordThen_left {s : State} {i : Instr} {x : Issue} {w : Who} {p : Plot} (h : Issues s i x w p) {f : WordFn}
    (post : Nat → List Who → State → State) {t : State} (hf : f (x.cx w) (s.begun x) = (t, .left)) :
    runWordThen i f post s = .next ((post x.plot [w] t).finish x.plot) := by
  rw [runWordThen_serve h]
  simp only [serve, hf]
  rfl

/-- The entry at a target whose clause map has been read: it goes on, or the transferring word raises ILLEGAL (R303). -/
theorem entryAt_enters {s : State} {p : Plot} {t : Word} {r : Rd Bool} (h : s.checkEntry p t = .ok r) (he : r.val = true ∨ r.notes ≠ []) :
    s.entryAt p t = .ok r.s := by
  rw [entryAt_ok h, enters_true he]; rfl

theorem entryAt_refuses {s : State} {p : Plot} {t : Word} {r : Rd Bool} (h : s.checkEntry p t = .ok r)
    (he : ¬(r.val = true ∨ r.notes ≠ [])) : s.entryAt p t = .error (illegal 1 (t.setWidth 64)) := by
  rw [entryAt_ok h, enters_false he]; rfl

section
variable {s : State} {i : Instr} {x : Issue} {w : Who} {p : Plot} {c : Cond} {o : BitVec 22} {r : Rd Bool} {t : Word}

/-- BR by its target `t`. -/
theorem branchWord_enters (h : Issues s i x w p) (ht : branchNext p.counted (x.cx w) c o = t)
    (hr : (s.begun x).checkEntry p.counted t = .ok r) (he : r.val = true ∨ r.notes ≠ []) :
    branchWord c o (x.cx w) (s.begun x) = (r.s, .jump t) := by
  rw [branchWord, withPlot_begun h]
  simp only [ht, entryAt_enters hr he]

theorem branchWord_refuses (h : Issues s i x w p) (ht : branchNext p.counted (x.cx w) c o = t)
    (hr : (s.begun x).checkEntry p.counted t = .ok r) (he : ¬(r.val = true ∨ r.notes ≠ [])) :
    branchWord c o (x.cx w) (s.begun x) = (s.begun x, illegal 1 (t.setWidth 64)) := by
  rw [branchWord, withPlot_begun h]
  simp only [ht, entryAt_refuses hr he]

theorem callWord_enters (h : Issues s i x w p) (ht : branchNext p.counted (x.cx w) c o = t)
    (hr : (s.begun x).checkEntry p.counted t = .ok r) (he : r.val = true ∨ r.notes ≠ []) :
    callWord c o (x.cx w) (s.begun x) =
      ((if condTrue p.regs w c then r.s.regsOf x (fun g => g.link w x.pc) else r.s), .jump t) := by
  rw [callWord, withPlot_begun h]
  simp only [ht, entryAt_enters hr he]
  rfl

theorem callWord_refuses (h : Issues s i x w p) (ht : branchNext p.counted (x.cx w) c o = t)
    (hr : (s.begun x).checkEntry p.counted t = .ok r) (he : ¬(r.val = true ∨ r.notes ≠ [])) :
    callWord c o (x.cx w) (s.begun x) = (s.begun x, illegal 1 (t.setWidth 64)) := by
  rw [callWord, withPlot_begun h]
  simp only [ht, entryAt_refuses hr he]

/-- BRX of a strand alone leaves the strand where BR leaves it. -/
theorem exec_brx_alone {k : Nat} {ag : Agent} (h : Issues s (.brx c o) x (.strand k) p) (ha : p.agent? (.strand k) = some ag)
    (hc : ag.clause.isSome = true) (hp : r.s.plot? x.plot = some p.counted) (ht : branchNext p.counted (x.cx (.strand k)) c o = t)
    (hr : (s.begun x).checkEntry p.counted t = .ok r) (he : r.val = true ∨ r.notes ≠ []) :
    exec (.brx c o) s = .next (r.s.jumped x (.strand k) t) := by
  have hw : brxWord c o (x.cx (.strand k)) (s.begun x) =
      (r.s.modPlot x.plot (fun p => p.modAgent (.strand k) (fun a => { a with phase := .exiled, pc := t })), .left) := by
    rw [brxWord, withPlot_begun h]
    simp only [ht, entryAt_enters hr he]
    rfl
  refine (runWordThen_left (f := brxWord c o) h (divide c) hw).trans ?_
  rw [brx_one h.alone h.first hp ha hc]
  rfl

/-- JR, RET and CALLR by the value `v` of their register. -/
theorem jumpWord_high {a : Reg} {links : Bool} (h : Issues s i x w p) (hv : p.regs.zx w a >>> 32 ≠ 0#64) :
    jumpWord a links (x.cx w) (s.begun x) = (s.begun x, illegalEntry (p.regs.zx w a)) := by
  have hh : high32 p.counted (x.cx w).who a = some (illegalEntry (p.regs.zx w a)) := if_neg hv
  rw [jumpWord, withPlot_begun h]
  simp only [hh]

theorem jumpWord_refuses {a : Reg} {links : Bool} (h : Issues s i x w p) (hv : p.regs.zx w a >>> 32 = 0#64)
    (hr : (s.begun x).checkEntry p.counted ((p.regs.zx w a).setWidth 32) = .ok r) (he : ¬(r.val = true ∨ r.notes ≠ [])) :
    jumpWord a links (x.cx w) (s.begun x) = (s.begun x, illegal 1 (((p.regs.zx w a).setWidth 32).setWidth 64)) := by
  have hh : high32 p.counted (x.cx w).who a = none := if_pos hv
  have hr' : (s.begun x).checkEntry p.counted (low32 p.counted (x.cx w).who a) = .ok r := hr
  rw [jumpWord, withPlot_begun h]
  simp only [hh, entryAt_refuses hr' he]
  rfl

theorem jumpWord_enters {a : Reg} {links : Bool} (h : Issues s i x w p) (hv : p.regs.zx w a >>> 32 = 0#64)
    (hr : (s.begun x).checkEntry p.counted ((p.regs.zx w a).setWidth 32) = .ok r) (he : r.val = true ∨ r.notes ≠ []) :
    jumpWord a links (x.cx w) (s.begun x) = match tag32 p.counted w a with
      | some e => (s.begun x, e)
      | none => ((if links then r.s.regsOf x (fun g => g.link w x.pc) else r.s), .jump ((p.regs.zx w a).setWidth 32)) := by
  have hh : high32 p.counted (x.cx w).who a = none := if_pos hv
  have hr' : (s.begun x).checkEntry p.counted (low32 p.counted (x.cx w).who a) = .ok r := hr
  rw [jumpWord, withPlot_begun h]
  simp only [hh, entryAt_enters hr' he]
  rfl

end

theorem tag32_ok {p : Plot} {w : Who} {a : Reg} (h : tagsOk indexAccepts p.regs w [a]) : tag32 p w a = none :=
  tagFault_ok fun r hr => by rw [List.mem_singleton.1 hr]; exact h a (List.mem_singleton_self a)

theorem tag32_format {p : Plot} {w : Who} {a : Reg} (h : indexAccepts (p.regs.tagOf w a) = false) :
    tag32 p w a = some (.trap .format 0 (BitVec.ofNat 64 (a.toNat + 256 * Tag.code (p.regs.tagOf w a)))) := by
  simp only [tag32, tagFault, h]
  rfl

/-- JR, RET and CALLR are one word each, of the register they name. -/
theorem exec_jumps {i : Instr} {a : Reg} {links : Bool}
    (hi : (i, a, links) ∈ [(Instr.jr a, a, false), (.ret, 63#6, false), (.callr a, a, true)]) (s : State) :
    exec i s = runWord i (jumpWord a links) s := by
  simp only [List.mem_cons, List.not_mem_nil, or_false, Prod.mk.injEq] at hi
  obtain ⟨rfl, -, rfl⟩ | ⟨rfl, rfl, rfl⟩ | ⟨rfl, -, rfl⟩ := hi <;> rfl

/-- Settles O29: each by its target. -/
theorem branchesAndJumps : Obligations.BranchesAndJumps := by
  refine ⟨?_, ?_⟩
  · intro s x w p c o r taken t enters hr
    refine ⟨fun h he => runWord_jump h (branchWord_enters h rfl hr he), fun h he => runWord_trap h (branchWord_refuses h rfl hr he),
      fun h he => runWord_jump h (callWord_enters h rfl hr he), fun h he => runWord_trap h (callWord_refuses h rfl hr he), ?_⟩
    rintro ag k rfl ha hc hp h he
    exact exec_brx_alone h ha hc hp rfl hr he
  · intro s x w p i a links hi h
    rw [exec_jumps hi]
    refine ⟨fun hv => runWord_trap h (jumpWord_high h hv), fun r hv => ?_⟩
    intro t enters hr
    refine ⟨fun he ht => runWord_jump h ?_, fun he ht => runWord_trap (t := s.begun x) h ?_, fun he => runWord_trap h (jumpWord_refuses h hv hr he)⟩
    · rw [jumpWord_enters h hv hr he, show tag32 p.counted w a = none from tag32_ok ht]
    · rw [jumpWord_enters h hv hr he, show tag32 p.counted w a = _ from tag32_format (p := p.counted) ht]
      rfl

end Sys2Proof.Machine
end

section
/-! # WAIT, exits, cohorts, SPAWN and REORDER (R289, R293, R299, R305–R310) -/
namespace Sys2Proof.Machine

/-- A meaning on the plot alone that sees to its agent itself. -/
theorem runWord_onPlot_left {s : State} {i : Instr} {x : Issue} {w : Who} {p q : Plot} (h : Issues s i x w p)
    {f : Cx → Plot → Plot × Res} (hf : f (x.cx w) p.counted = (q, .left)) :
    runWord i (onPlot f) s = .next (((s.begun x).setPlot q).finish x.plot) := by
  refine runWord_left h ?_
  rw [onPlot_begun h, hf]

/-- JOIN of a strand, by whether it is in the cohort or there is room (R308). -/
theorem exec_join {s : State} {x : Issue} {k : Nat} {p : Plot} {st : Strand} {co : BitVec 4} (h : Issues s (.join co) x (.strand k) p)
    (hst : p.regs.strand? k = some st) :
    exec (.join co) s = .next (s.wrote x (.strand k) p (fun g =>
      if st.cohort = some co ∨ (g.cohort co).length < 32 then
        ((g.setFlag (.strand k) 0#2 true).modStrand k (fun st => { st with cohort := some co })).unlockCheck
      else g.setFlag (.strand k) 0#2 false)) := by
  refine runWord_onPlot h ?_
  have hst' : p.counted.regs.strand? k = some st := hst
  dsimp only [Issue.cx]
  simp only [hst', Plot.modRegs]
  by_cases hroom : st.cohort = some co ∨ (p.counted.regs.cohort co).length < 32
  · have hb : (st.cohort == some co || decide ((p.counted.regs.cohort co).length < 32)) = true := by simpa using hroom
    simp only [hb, if_pos hroom, if_true]
  · have hb : (st.cohort == some co || decide ((p.counted.regs.cohort co).length < 32)) = false := by simpa using hroom
    simp only [hb, if_neg hroom, Bool.false_eq_true, if_false]

theorem zx_strand_high (g : Regs) (k : Nat) (a : Reg) : g.zx (.strand k) a >>> 32 = 0#64 := by
  refine BitVec.eq_of_toNat_eq ?_
  have : (g.v k a).val.toNat < 2 ^ 32 := (g.v k a).val.isLt
  simp only [Regs.zx, BitVec.toNat_ushiftRight, BitVec.toNat_setWidth, Nat.shiftRight_eq_div_pow, BitVec.toNat_ofNat]
  omega

theorem zx_strand_low (g : Regs) (k : Nat) (a : Reg) : (g.zx (.strand k) a).setWidth 32 = (g.v k a).val := by
  simp only [Regs.zx, BitVec.setWidth_setWidth_of_le _ (by omega : 32 ≤ 64), BitVec.setWidth_eq]

/-- Settles O30: WAIT by its counts, the others by their effect on the plot. -/
theorem waitExitAndCohorts : Obligations.WaitExitAndCohorts := by
  refine ⟨fun s x w p ag ld st cp tl h ha hl hs hc ht => runWord_done h (f := waitWord ld st cp tl) ?_,
    fun s x w p h => runWord_onPlot h rfl, fun s x w p h => runWord_onPlot h ?_, fun s x k p h => runWord_onPlot_left h rfl,
    fun s x p h => runWord_onPlot_left h rfl, fun s x k p st co h hst => exec_join h hst,
    fun s x k p h => runWord_onPlot h rfl⟩
  · have ha' : p.counted.agent? (x.cx w).who = some ag := ha
    have hm : p.counted.countsMet ag ld.toNat st.toNat cp.toNat tl.toNat = true := by
      show (waitMet ag.loads.length ld.toNat && waitMet ag.storeCount st.toNat && waitMet p.copies.length cp.toNat &&
        waitMet p.tops.length tl.toNat) = true
      rw [hl, hs, hc, ht]; rfl
    rw [waitWord, withPlot_begun h]
    simp only [ha', hm, if_true]
  · cases w <;> rfl

section
variable {s : State} {x : Issue} {k : Nat} {p : Plot} {st : Strand} {a : Reg} {r : Rd Bool}

/-- The strands that SPAWN makes for the strand `st` of `p`, at the target `t` (R293, R309). -/
def Plot.spawned (p : Plot) (k : Nat) (st : Strand) (t : Word) : List Strand :=
  (List.range 32).map (fun i =>
    { st.spawn (fun j => (p.regs.v k (BitVec.ofNat 6 j)).val) (p.nextKey + i) p.rows.length i t 0 with
      area := p.regs.freeAreas.getD i 0 })

/-- SPAWN counts, and says in f0 whether it made its strands. -/
def Regs.spawnSays (g : Regs) (k : Nat) (ok : Bool) : Regs :=
  (g.modStrand k (fun st => { st with spawns := st.spawns + 1 })).setFlag (.strand k) 0#2 ok

/-- A plot with the strands that SPAWN has made on a row. -/
def Plot.withSpawned (q : Plot) (k : Nat) (row : Nat) (new : List Strand) : Plot :=
  { q with
    rows := q.rows ++ [row]
    nextKey := q.nextKey + 32
    regs := new.foldl (fun g y => g.join y.key false) (({ q.regs with strands := q.regs.strands ++ new } : Regs).spawnSays k true) }

/-- SPAWN of a strand that may spawn, by its target and the rows that are free. -/
theorem spawnWord_begun (h : Issues s (.spawn a) x (.strand k) p) (hst : p.regs.strand? k = some st) (hs : st.spawned = false)
    (hd : st.ag.drained = true) (ht : tagsOk indexAccepts p.regs (.strand k) [a])
    (hr : (s.begun x).checkEntry p.counted (p.regs.v k a).val = .ok r) :
    spawnWord a (x.cx (.strand k)) (s.begun x) =
      if r.val = true ∨ r.notes ≠ [] then
        match r.s.freeRows p.pav p.bed with
        | row :: _ =>
          if p.rows.length < 16 then
            (r.s.modPlot x.plot (fun q => q.withSpawned k row (p.spawned k st (p.regs.v k a).val)), .done)
          else (r.s.regsOf x (fun g => g.spawnSays k false), .done)
        | [] => (r.s.regsOf x (fun g => g.spawnSays k false), .done)
      else (s.begun x, illegal 1 ((p.regs.v k a).val.setWidth 64)) := by
  have hst' : p.counted.regs.strand? k = some st := hst
  have hlow : low32 p.counted (.strand k) a = (p.regs.v k a).val := zx_strand_low ..
  have htag : tag32 p.counted (.strand k) a = none := tag32_ok ht
  rw [spawnWord, withPlot_begun h]
  by_cases he : r.val = true ∨ r.notes ≠ []
  · rw [if_pos he]
    simp only [Issue.cx, hst', hs, hlow, htag, hd, entryAt_enters hr he, Bool.false_eq_true, if_false, Bool.not_true]
    rfl
  · rw [if_neg he]
    simp only [Issue.cx, hst', hs, hlow, entryAt_refuses hr he, Bool.false_eq_true, if_false]

end

/-- Settles O31: RDV, SPAWN by its target and its room, REORDER. -/
theorem rendezvousSpawnReorder : Obligations.RendezvousSpawnReorder := by
  refine ⟨fun s x k co p h hd => runWord_rendezvous h ?_ rfl, ?_, fun s x k p a n h ht => runWord_onPlot_left h ?_⟩
  · have hd' : p.counted.drained (.strand k) = true := hd
    rw [hd', Bool.true_or, if_pos rfl]
  · intro s x k p st a r h hst hs hd ht t made enters hr
    have hw := spawnWord_begun h hst hs hd ht hr
    refine ⟨fun he => runWord_trap h (f := spawnWord a) (hw.trans (if_neg he)), fun he hf => runWord_done h (f := spawnWord a) ?_, fun row rest he hf => ?_⟩
    · rw [hw, if_pos he]
      rcases hf with hf | hf
      · rw [hf]; rfl
      · split
        · exact if_neg (Nat.not_lt.2 hf)
        · rfl
    · intro hrow new
      refine runWord_done h (f := spawnWord a) ?_
      rw [hw, if_pos he, hf]
      exact if_pos hrow
  · have hw : word32 p.counted (.strand k) a = .ok (p.regs.v k a).val := by
      rw [word32_ok (zx_strand_high ..) ht, zx_strand_low]
    show (match word32 p.counted (.strand k) a with | .error r => _ | .ok key => _) = _
    rw [hw]
    rfl

end Sys2Proof.Machine
end

section
/-! # The decision queue and the special registers (R311, R312, R320) -/
namespace Sys2Proof.Machine

/-- A meaning on the plot alone that blocks its agent. -/
theorem runWord_onPlot_block {s : State} {i : Instr} {x : Issue} {w : Who} {p q : Plot} (h : Issues s i x w p)
    {f : Cx → Plot → Plot × Res} {k : Wait} (hf : f (x.cx w) p.counted = (q, .block k)) :
    runWord i (onPlot f) s = .next (((s.begun x).setPlot q).waits x w k) := by
  refine runWord_block h ?_
  rw [onPlot_begun h, hf]

section
variable {s : State} {x : Issue} {w : Who} {k : Nat} {p : Plot} {d a : Reg}

/-- The strand has taken an entry of the queue. -/
def Regs.took (g : Regs) (k : Nat) (d : Reg) (y : Word) : Regs := (g.setV k d ⟨y, .raw⟩).setFlag (.strand k) 0#2 true

theorem took_front (g : Regs) (k : Nat) (d : Reg) (y : Word) : (g.took k d y).front = g.front := (setFlag_front ..).trans (setV_front ..)

/-- POPQ where the queue has an entry, by whether the front thread is blocked at a PUSHQ. -/
theorem exec_popq_cons {y : Word} {rest : List Word} (h : Issues s (.popq d) x (.strand k) p) (hq : p.dq = y :: rest) :
    (¬(p.regs.front.ag.phase = .blocked ∧ p.regs.front.ag.wait = .pushq) →
      exec (.popq d) s = .next (s.wroteP x (.strand k) { (p.counted.modRegs (fun g => g.took k d y)) with dq := rest })) ∧
    (p.regs.front.ag.phase = .blocked ∧ p.regs.front.ag.wait = .pushq → exec (.popq d) s = .next (s.wroteP x (.strand k)
      { (p.counted.modRegs (fun g => (g.took k d y).reenter .front (g.took k d y).front.ag.pc)) with dq := rest })) := by
  have hpop : ∀ c : Prop, [Decidable c] → (c ↔ p.regs.front.ag.phase = .blocked ∧ p.regs.front.ag.wait = .pushq) →
      exec (.popq d) s = .next (s.wroteP x (.strand k) { (p.counted.modRegs (fun g =>
        if c then (g.took k d y).reenter .front (g.took k d y).front.ag.pc else g.took k d y)) with dq := rest }) := by
    intro c _ hc
    have hq' : p.counted.dq = y :: rest := hq
    have hcond : ((p.counted.regs.took k d y).front.ag.phase = .blocked ∧ (p.counted.regs.took k d y).front.ag.wait = .pushq) ↔ c := by
      rw [took_front]; exact hc.symm
    refine runWord_onPlot h ?_
    dsimp only [Issue.cx]
    rw [hq']
    show ({ (p.counted.modRegs fun g => if (g.took k d y).front.ag.phase = .blocked ∧ (g.took k d y).front.ag.wait = .pushq then
      (g.took k d y).reenter .front (g.took k d y).front.ag.pc else g.took k d y) with dq := rest }, Res.done) = _
    simp only [Plot.modRegs, hcond]
  refine ⟨fun hp => ?_, fun hp => ?_⟩
  · simpa using hpop False (by simpa using hp)
  · simpa using hpop True (by simpa using hp)

theorem exec_popq_nil (h : Issues s (.popq d) x (.strand k) p) (hq : p.dq = []) :
    (p.regs.front.ag.phase = .exited →
      exec (.popq d) s = .next (s.wrote x (.strand k) p (fun g => g.setFlag (.strand k) 0#2 false))) ∧
    (p.regs.front.ag.phase ≠ .exited → exec (.popq d) s = .next (((s.begun x).setPlot p.counted).waits x (.strand k) (.popq d))) := by
  have hq' : p.counted.dq = [] := hq
  refine ⟨fun hp => runWord_onPlot h ?_, fun hp => runWord_onPlot_block h ?_⟩
  · have hp' : p.counted.regs.front.ag.phase = .exited := hp
    dsimp only [Issue.cx]
    simp only [hq', hp', if_true]
  · have hp' : ¬p.counted.regs.front.ag.phase = .exited := hp
    dsimp only [Issue.cx]
    simp only [hq', if_neg hp']

theorem exec_peekq (h : Issues s (.peekq d) x (.strand k) p) :
    exec (.peekq d) s = .next (s.wrote x (.strand k) p (fun g =>
      match p.dq with
      | y :: _ => (g.setV k d ⟨y, .raw⟩).setFlag (.strand k) 0#2 true
      | [] => g.setFlag (.strand k) 0#2 false)) := by
  refine runWord_onPlot h ?_
  dsimp only [Issue.cx]
  show (match p.dq with | y :: _ => _ | [] => _) = _
  cases p.dq <;> rfl

/-- PUSHQ of a word, by the POPQ that has waited longest and the room in the queue. -/
theorem exec_pushq (h : Issues s (.pushq a) x w p) (hd : p.drained w = true) (hv : p.regs.zx w a >>> 32 = 0#64)
    (ht : tagsOk indexAccepts p.regs w [a]) :
    let y := (p.regs.zx w a).setWidth 32
    (∀ k d, p.regs.longestPop = some (k, d) →
      exec (.pushq a) s = .next (s.wrote x w p (fun g =>
        ((g.setV k d ⟨y, .raw⟩).setFlag (.strand k) 0#2 true).retire (.strand k) 4))) ∧
    (p.regs.longestPop = none → p.dq.length < 64 → exec (.pushq a) s = .next (s.wroteP x w { p.counted with dq := p.dq ++ [y] })) ∧
    (p.regs.longestPop = none → 64 ≤ p.dq.length → exec (.pushq a) s = .next (((s.begun x).setPlot p.counted).waits x w .pushq)) := by
  intro y
  have hw : word32 p.counted (x.cx w).who a = .ok y := word32_ok hv ht
  have hd' : p.counted.drained (x.cx w).who = true := hd
  refine ⟨fun k d hl => runWord_onPlot h ?_, fun hl hn => runWord_onPlot h ?_, fun hl hn => runWord_onPlot_block h ?_⟩
  · have hl' : p.counted.regs.longestPop = some (k, d) := hl
    simp only [hw, hd', hl', Bool.not_true, Bool.false_eq_true, if_false]
    rfl
  · have hl' : p.counted.regs.longestPop = none := hl
    have hn' : ¬64 ≤ p.counted.dq.length := Nat.not_le.2 hn
    simp only [hw, hd', hl', if_neg hn', Bool.not_true, Bool.false_eq_true, if_false]
    rfl
  · have hl' : p.counted.regs.longestPop = none := hl
    have hn' : 64 ≤ p.counted.dq.length := hn
    simp only [hw, hd', hl', if_pos hn', Bool.not_true, Bool.false_eq_true, if_false]

end

/-- Settles O32: POPQ by the queue, PEEKQ, PUSHQ. -/
theorem decisionQueue : Obligations.DecisionQueue :=
  ⟨fun _ _ _ _ _ h => ⟨fun _ _ hq => exec_popq_cons h hq, fun hq => (exec_popq_nil h hq).1, fun hq => (exec_popq_nil h hq).2⟩,
    fun _ _ _ _ _ h => exec_peekq h, fun _ _ _ _ _ h hd hv ht => exec_pushq h hd hv ht⟩

section
variable {s : State} {x : Issue} {w : Who} {p : Plot} {d a : Reg} {ag : Agent}

theorem exec_movsr {n : BitVec 6} (h : Issues s (.movsr d n) x w p) (ha : p.agent? w = some ag) :
    (n ≠ 17#6 → exec (.movsr d n) s = .next (((s.begun x).regsOf x (fun g =>
      g.setSpecial w d ((s.begun x).special p.counted w n.toNat))).retired x w)) ∧
    (n = 17#6 → ag.loads.length < 32 → exec (.movsr d n) s = .next (((s.begun x).withLoad p w
      (mkLoad ag p.counted w .cycles d 4 none 0#64 .plot false false none)).retired x w)) := by
  have ha' : p.counted.agent? (x.cx w).who = some ag := ha
  refine ⟨fun hn => runWord_done h (f := movsrWord d n) ?_, fun hn hl => runWord_done h (f := movsrWord d n) ?_⟩
  · rw [movsrWord, withPlot_begun h]
    simp only [ha', hn, false_and, if_false]
    rfl
  · have hrun : p.counted.run = .running := h.running
    rw [movsrWord, withPlot_begun h]
    simp only [ha', hn, hrun, and_self, if_true, if_neg (Nat.not_le.2 hl)]
    exact issueLoad_running h.running ..

/-- A value below 2 ^ n has no bit from n on. -/
theorem ushiftRight_eq_zero {y : DWord} {n : Nat} : y >>> n = 0#64 ↔ y.toNat < 2 ^ n := by
  rw [← BitVec.toNat_inj, BitVec.toNat_ushiftRight, Nat.shiftRight_eq_div_pow, BitVec.toNat_ofNat, Nat.zero_mod,
    Nat.div_eq_zero_iff]
  have := Nat.two_pow_pos n
  omega

/-- MOVRS of srFPF (R312, R44). -/
theorem exec_movrs_fpf (h : Issues s (.movrs a 21#6) x w p) (ha : p.agent? w = some ag) :
    ((p.regs.zx w a).toNat < 32 →
      exec (.movrs a 21#6) s = .next (s.wrote x w p (fun g => { g with fpf := (p.regs.zx w a).setWidth 32 }))) ∧
    (32 ≤ (p.regs.zx w a).toNat → exec (.movrs a 21#6) s = .next (s.traps x w .illegal 11 (p.regs.zx w a))) := by
  have ha' : p.counted.agent? (x.cx w).who = some ag := ha
  refine ⟨fun hv => runWord_onPlot h ?_, fun hv => runWord_onPlot_trap (q := p.counted) h ?_⟩
  · have hv' : p.counted.regs.zx (x.cx w).who a >>> 5 = 0#64 := ushiftRight_eq_zero.2 hv
    simp only [ha', hv', if_true]
    rfl
  · have hv' : ¬p.counted.regs.zx (x.cx w).who a >>> 5 = 0#64 := fun e => Nat.not_lt.2 hv (ushiftRight_eq_zero.1 e)
    simp only [ha', if_neg hv', if_true]
    rfl

/-- MOVRS of srTPC, in handler mode and outside it. -/
theorem exec_movrs_tpc (h : Issues s (.movrs a 19#6) x w p) (ha : p.agent? w = some ag) :
    (ag.handler = true → (p.regs.zx w a).toNat < 2 ^ 32 → exec (.movrs a 19#6) s =
      .next (s.wroteP x w (p.counted.modAgent w (fun b => { b with tpc := (p.regs.zx w a).setWidth 32 })))) ∧
    (ag.handler = false → exec (.movrs a 19#6) s = .next (s.traps x w .illegal 8 (x.word.setWidth 64))) := by
  have ha' : p.counted.agent? (x.cx w).who = some ag := ha
  have hn : ¬(19#6 : BitVec 6) = 21#6 := by decide
  refine ⟨fun hh hv => runWord_onPlot h ?_, fun hh => runWord_onPlot_trap (q := p.counted) h ?_⟩
  · have hv' : p.counted.regs.zx (x.cx w).who a >>> 32 = 0#64 := ushiftRight_eq_zero.2 hv
    simp only [ha', hn, hh, hv', Bool.not_true, Bool.false_eq_true, if_false, if_true]
    rfl
  · simp only [ha', hn, hh, Bool.not_false, if_false, if_true]
    rfl

theorem exec_rkset {n : BitVec 2} (h : Issues s (.rkset a n) x w p) (ho : p.origin = .grid) :
    exec (.rkset a n) s = .next (((s.begun x).modLaunch p.launch (fun l =>
      { l with rk := l.rk.set n.toNat (p.regs.wide w a) n.isLt })).retired x w) := by
  have ho' : p.counted.origin = .grid := ho
  refine runWord_done h (f := rksetWord a n) ?_
  rw [rksetWord, withPlot_begun h]
  simp only [ho']
  rfl

end

/-- Settles O33: each word by the register it names. -/
theorem specialRegisters : Obligations.SpecialRegisters :=
  ⟨fun _ _ _ _ _ _ _ h ha => exec_movsr h ha,
    fun _ _ _ _ _ _ ha => ⟨fun h => (exec_movrs_fpf h ha).1, fun h => (exec_movrs_fpf h ha).2, fun h => (exec_movrs_tpc h ha).1,
      fun h => (exec_movrs_tpc h ha).2⟩,
    fun _ _ _ _ _ _ h ho => exec_rkset h ho⟩

end Sys2Proof.Machine
end

section
/-! # The barrier words (R313–R316) -/
namespace Sys2Proof.Machine

theorem bar_setBar (q : Plot) {n : Nat} (b : Barrier) (h : n < 16) : (q.setBar n b).bar n = b := by
  simp [Plot.bar, Plot.setBar, h]

theorem bar_wakeBar (q : Plot) (n m : Nat) : (q.wakeBar n).bar m = q.bar m := by
  unfold Plot.wakeBar
  split <;> rfl

/-- The phases that have gone since a token was given (R314). -/
def Barrier.gone (b : Barrier) (t : Word) : Nat := (b.phase.toNat + 2 ^ 31 - t.toNat % 2 ^ 31) % 2 ^ 31

theorem passed_iff (b : Barrier) (t : Word) : b.passed t = true ↔ 1 ≤ b.gone t ∧ b.gone t ≤ 2 ^ 30 - 1 := by
  unfold Barrier.passed
  rw [Bool.and_eq_true, decide_eq_true_iff, decide_eq_true_iff]
  rfl

theorem phase_lt {v : Word} (h : v.getLsbD 31 = false) : v.toNat < 2 ^ 31 := by
  have hm : v.msb = false := by rw [BitVec.msb_eq_getLsbD_last]; exact h
  have := BitVec.toNat_lt_of_msb_false hm
  simpa using this

/-- A token of the phase that runs has not passed. -/
theorem not_passed_phase {b : Barrier} (h : b.phase.getLsbD 31 = false) : b.passed b.phase = false := by
  have hl := phase_lt h
  have : ¬b.passed b.phase = true := by
    rw [passed_iff, Barrier.gone]
    omega
  simpa using this

/-- A token of the phase before has passed. -/
theorem passed_next {b : Barrier} {v : Word} (hv : v.getLsbD 31 = false)
    (hb : b.phase = BitVec.ofNat 32 ((v.toNat + 1) % 2 ^ 31)) : b.passed v = true := by
  have hl := phase_lt hv
  rw [passed_iff, Barrier.gone, hb, BitVec.toNat_ofNat]
  omega

/-- The barrier after the last arrival. -/
def Barrier.turned (b : Barrier) : Barrier := { b with arrived := 0, phase := BitVec.ofNat 32 ((b.phase.toNat + 1) % 2 ^ 31) }

section
variable {p : Plot} {n : Nat} {b : Barrier}

theorem arrive_lost (hb : p.bar n = b) (h : b.state ≠ .active) :
    p.arrive n = (p.setBar n { b with stray := min (b.stray + 1) 63 }, none) := by
  simp only [Plot.arrive, hb, if_pos h]

theorem arrive_counts (hb : p.bar n = b) (h : b.state = .active) (hn : b.arrived + 1 ≠ b.expected) :
    p.arrive n = (p.setBar n { b with arrived := b.arrived + 1 }, some b.phase) := by
  simp only [Plot.arrive, hb, if_neg (not_not.2 h), if_neg hn]

theorem arrive_last (hb : p.bar n = b) (h : b.state = .active) (hn : b.arrived + 1 = b.expected) :
    p.arrive n = ((p.setBar n b.turned).wakeBar n, some b.phase) := by
  simp only [Plot.arrive, hb, if_neg (not_not.2 h), if_pos hn]
  rfl

variable {c : Cx} {d : Reg} {t : Word} {sync : Bool}

theorem barAwait_invalid (hb : p.bar n = b) (h : t.getLsbD 31 = true ∨ b.state ≠ .active) :
    barAwait c p d n t sync = (p.modRegs (fun g => g.barResult c.who d 0x80000000#32 false), .done) := by
  simp only [barAwait, hb, if_pos h]
  rfl

theorem barAwait_passed (hb : p.bar n = b) (ht : t.getLsbD 31 = false) (hs : b.state = .active) (h : b.passed t = true) :
    barAwait c p d n t sync = (p.modRegs (fun g => g.barResult c.who d b.phase true), .done) := by
  simp only [barAwait, hb, ht, hs, h, ne_eq, not_true_eq_false, or_self, if_false, if_true, Bool.false_eq_true]

theorem barAwait_blocks (hb : p.bar n = b) (ht : t.getLsbD 31 = false) (hs : b.state = .active) (h : b.passed t = false) :
    barAwait c p d n t sync = (p, .block (.barrier n d t sync)) := by
  simp only [barAwait, hb, ht, hs, h, ne_eq, not_true_eq_false, or_self, if_false, Bool.false_eq_true]

end

section
variable {s : State} {x : Issue} {w : Who} {p : Plot} {d : Reg} {n : BitVec 4}

/-- BAR.INIT with an expected count in range. -/
theorem exec_barInit (h : Issues s (.barInit d n) x w p) (h1 : 1 ≤ (p.regs.zx w d).toNat) (h2 : (p.regs.zx w d).toNat ≤ 1023)
    (ht : tagsOk indexAccepts p.regs w [d]) :
    (p.wtr n.toNat = false → exec (.barInit d n) s = .next (s.wroteP x w (p.counted.setBar n.toNat
      { p.bar n.toNat with expected := (p.regs.zx w d).toNat, arrived := 0, stray := 0, state := .active }))) ∧
    (p.wtr n.toNat = true → exec (.barInit d n) s = .next (s.traps x w .busy 0 (n.setWidth 64))) := by
  have hv : ¬(p.counted.regs.zx (x.cx w).who d = 0#64 ∨ 1023 < (p.counted.regs.zx (x.cx w).who d).toNat) := by
    rintro (e | e)
    · exact absurd (show (p.regs.zx w d).toNat = 0 by rw [show p.regs.zx w d = 0#64 from e]; rfl) (by omega)
    · exact absurd e (Nat.not_lt.2 h2)
  have htag : tag32 p.counted (x.cx w).who d = none := tag32_ok ht
  refine ⟨fun hw => runWord_onPlot h ?_, fun hw => runWord_onPlot_trap (q := p.counted) h ?_⟩
  · have hw' : p.counted.wtr n.toNat = false := hw
    simp only [if_neg hv, htag, hw', Bool.false_eq_true, if_false]
    rfl
  · have hw' : p.counted.wtr n.toNat = true := hw
    simp only [if_neg hv, htag, hw', if_true]

theorem exec_barInit_illegal (h : Issues s (.barInit d n) x w p) (hv : (p.regs.zx w d).toNat = 0 ∨ 1023 < (p.regs.zx w d).toNat) :
    exec (.barInit d n) s = .next (s.traps x w .illegal 11 (p.regs.zx w d)) := by
  refine runWord_onPlot_trap (q := p.counted) h ?_
  have hv' : p.counted.regs.zx (x.cx w).who d = 0#64 ∨ 1023 < (p.counted.regs.zx (x.cx w).who d).toNat :=
    hv.imp_left fun e => BitVec.eq_of_toNat_eq e
  simp only [if_pos hv']
  rfl

/-- BAR.ARRIVE by what its arrival comes to. -/
theorem exec_barArrive (h : Issues s (.barArrive d n) x w p) (hd : p.drained w = true) {q : Plot} {o : Option Word}
    (ha : p.counted.arrive n.toNat = (q, o)) :
    (∀ t, o = some t → exec (.barArrive d n) s = .next (s.wroteP x w (q.modRegs (fun g => g.barResult w d t true)))) ∧
    (o = none → exec (.barArrive d n) s = .next (s.wroteP x w (q.modRegs (fun g => g.barResult w d 0x80000000#32 false)))) := by
  have hd' : p.counted.drained (x.cx w).who = true := hd
  refine ⟨fun t ht => runWord_onPlot h ?_, fun ht => runWord_onPlot h ?_⟩
  all_goals
    simp only [hd', ha, ht, Bool.not_true, Bool.false_eq_true, if_false]
    rfl

/-- BAR.WAIT by its wait on the token. -/
theorem barWaitWord_await (h : Issues s (.barWait d n) x w p) (hv : p.regs.zx w d >>> 32 = 0#64) (ht : tagsOk indexAccepts p.regs w [d])
    {q : Plot} {r : Res} (hr : barAwait (x.cx w) p.counted d n.toNat ((p.regs.zx w d).setWidth 32) false = (q, r)) :
    barWaitWord d n (x.cx w) (s.begun x) = ((s.begun x).setPlot q, r) := by
  have hw : word32 p.counted (x.cx w).who d = .ok ((p.regs.zx w d).setWidth 32) := word32_ok hv ht
  rw [barWaitWord, onPlot_begun h]
  simp only [hw, hr]

/-- BAR.SYNC that arrives now, by its arrival and its wait. -/
theorem barSyncWord_arrives (h : Issues s (.barSync d n) x w p) (hk : p.keptToken w n.toNat = none) (hd : p.drained w = true) {q : Plot}
    {o : Option Word} (ha : p.counted.arrive n.toNat = (q, o)) {q' : Plot} {r : Res}
    (hr : (match o with
      | none => (q.modRegs (fun g => g.barResult w d 0x80000000#32 false), Res.done)
      | some t => barAwait (x.cx w) q d n.toNat t true) = (q', r)) :
    barSyncWord d n (x.cx w) (s.begun x) = ((s.begun x).setPlot q', r) := by
  have hk' : p.counted.keptToken (x.cx w).who n.toNat = none := hk
  have hd' : p.counted.drained (x.cx w).who = true := hd
  rw [barSyncWord, onPlot_begun h]
  simp only [hk', hd', ha, Bool.not_true, Bool.false_eq_true, if_false]
  cases o with
  | none => exact congrArg (fun y : Plot × Res => ((s.begun x).setPlot y.1, y.2)) hr
  | some t => exact congrArg (fun y : Plot × Res => ((s.begun x).setPlot y.1, y.2)) hr

/-- BAR.SYNC issued again, by its wait on the token that it keeps. -/
theorem barSyncWord_kept (h : Issues s (.barSync d n) x w p) {u : Word} (hk : p.keptToken w n.toNat = some u) {q : Plot} {r : Res}
    (hr : barAwait (x.cx w) (p.counted.modAgent w (fun a => { a with wait := .none })) d n.toNat u true = (q, r)) :
    barSyncWord d n (x.cx w) (s.begun x) = ((s.begun x).setPlot q, r) := by
  have hk' : p.counted.keptToken (x.cx w).who n.toNat = some u := hk
  have hr' : barAwait (x.cx w) (p.counted.modAgent (x.cx w).who (fun a => { a with wait := .none })) d n.toNat u true = (q, r) := hr
  rw [barSyncWord, onPlot_begun h]
  simp only [hk', hr']

end

/-- Settles O34: each word by the barrier it finds. -/
theorem barrierWords : Obligations.BarrierWords := by
  intro s x w p d n b give y t gone
  have hn : n.toNat < 16 := n.isLt
  have hb : p.counted.bar n.toNat = b := rfl
  refine ⟨fun h h1 h2 ht => exec_barInit h h1 h2 ht, fun h hv => exec_barInit_illegal h hv,
    fun h hd => ⟨fun hs hl => (exec_barArrive h hd (arrive_counts hb hs hl)).1 _ rfl,
      fun hs hl => (exec_barArrive h hd (arrive_last hb hs hl)).1 _ rfl, fun hs => (exec_barArrive h hd (arrive_lost hb hs)).2 rfl⟩,
    fun h hv ht => ⟨fun hi => ?_, fun h31 hs h1 h2 => ?_, fun h31 hs hg => ?_⟩,
    fun h hk hd => ⟨fun hs => ?_, fun hs hl h31 => ?_, fun hs hl h31 => ?_⟩, fun u h hk => ?_,
    fun h => runWord_onPlot h rfl, fun h => runWord_onPlot h rfl⟩
  · exact runWord_done h (barWaitWord_await h hv ht (barAwait_invalid hb hi))
  · exact runWord_done h (barWaitWord_await h hv ht (barAwait_passed hb h31 hs ((passed_iff ..).2 ⟨h1, h2⟩)))
  · exact runWord_block h (barWaitWord_await h hv ht (barAwait_blocks hb h31 hs (Bool.eq_false_iff.2 fun e => hg ((passed_iff ..).1 e))))
  · exact runWord_done h (barSyncWord_arrives h hk hd (arrive_lost hb hs) rfl)
  · exact runWord_block h (barSyncWord_arrives h hk hd (arrive_counts hb hs hl)
      (barAwait_blocks (bar_setBar _ _ hn) h31 hs (not_passed_phase (b := { b with arrived := b.arrived + 1 }) h31)))
  · exact runWord_done h (barSyncWord_arrives h hk hd (arrive_last hb hs hl)
      (barAwait_passed ((bar_wakeBar ..).trans (bar_setBar _ _ hn)) h31 hs (passed_next h31 rfl)))
  · have hq : (p.counted.modAgent w (fun a => { a with wait := .none })).bar n.toNat = b := rfl
    exact ⟨fun hi => runWord_done h (barSyncWord_kept h hk (barAwait_invalid hq hi)),
      fun h31 hs hp => runWord_done h (barSyncWord_kept h hk (barAwait_passed hq h31 hs hp)),
      fun h31 hs hp => runWord_block h (barSyncWord_kept h hk (barAwait_blocks hq h31 hs hp))⟩

end Sys2Proof.Machine
end

section
/-! # Words that raise traps, and the entry of a trap (R318, R321, R379) -/
namespace Sys2Proof.Machine

/-- Settles O36: each word's meaning is the trap it raises. -/
theorem raisedByWords : Obligations.RaisedByWords := fun s x _ _ =>
  ⟨fun _ h => runWord_trap (t := s.begun x) h rfl, fun _ h => runWord_trap (t := s.begun x) h rfl, fun h => exec_ud h,
    fun _ _ h => runWord_trap (t := s.begun x) h rfl⟩

/-- The agent as it stands at a clause boundary, with what its entry of the frontier has noted of its yield. -/
def Agent.cameToWait (a : Agent) (pc : Word) (y : Bool) : Agent :=
  { a with pc := pc, clause := none, phase := .waiting, wait := .none, yieldNext := y, since := 0, visit := a.visit + 1 }

theorem boundary_agent {g : Regs} {w : Who} {a : Agent} (h : g.agent? w = some a) (pc : Word) (y : Bool) :
    ∃ z, (g.boundary w pc y).agent? w = some (a.cameToWait pc z) := by
  cases w with
  | front =>
    obtain rfl : g.front.ag = a := Option.some_inj.1 h
    exact ⟨false, rfl⟩
  | strand k =>
    obtain ⟨f, hf, e⟩ := agent?_join (g.modAgent (.strand k) fun a =>
      { a with pc := pc, clause := none, phase := .waiting, wait := .none, yieldNext := false, since := 0, visit := a.visit + 1 }) k y (.strand k)
    have hb : (g.boundary (.strand k) pc y).agent? (.strand k) = some (f (a.cameToWait pc false)) := by
      refine e.trans ?_
      rw [agent?_modAgent, h]
      rfl
    rcases hf (a.cameToWait pc false) with e | e
    · exact ⟨false, by rw [hb, e]⟩
    · exact ⟨y, by rw [hb, e]; rfl⟩

theorem agent?_join_ne (g : Regs) {k : Nat} {v : Who} (h : v ≠ .strand k) (y : Bool) : (g.join k y).agent? v = g.agent? v := by
  obtain ⟨u, hu, hs, hf, -, -⟩ := join_fields g k y
  have e : (g.join k y).agent? v = u.agent? v := by
    cases v with
    | front => simp only [Regs.agent?, hf]
    | strand j => simp only [Regs.agent?, Regs.strand?, hs]
  rcases hu with rfl | rfl
  · exact e
  · exact e.trans (agent?_modAgent_ne _ _ _ _ h)

theorem boundary_others (g : Regs) (w : Who) (pc : Word) (y : Bool) {v : Who} (h : v ≠ w) :
    (g.boundary w pc y).agent? v = g.agent? v := by
  cases w with
  | front => exact agent?_modAgent_ne g .front v _ h
  | strand k => exact (agent?_join_ne _ h y).trans (agent?_modAgent_ne g (.strand k) v _ h)

/-- What two sets of registers share where only agents and the frontier differ: the strands but for their agents, the front thread's
registers and flags, the bank and srFPF. -/
def Regs.SameStore (g h : Regs) : Prop :=
  h.strands.map (fun st => (st.key, st.sid, st.row, st.lane, st.cohort, st.regs, st.flags)) =
    g.strands.map (fun st => (st.key, st.sid, st.row, st.lane, st.cohort, st.regs, st.flags)) ∧
  h.front.regs = g.front.regs ∧ h.front.flags = g.front.flags ∧ h.banks = g.banks ∧ h.fpf = g.fpf

theorem Regs.SameStore.trans {g h i : Regs} (a : g.SameStore h) (b : h.SameStore i) : g.SameStore i := by
  obtain ⟨a1, a2, a3, a4, a5⟩ := a
  obtain ⟨b1, b2, b3, b4, b5⟩ := b
  exact ⟨b1.trans a1, b2.trans a2, b3.trans a3, b4.trans a4, b5.trans a5⟩

theorem sameStore_join (g : Regs) (k : Nat) (y : Bool) : g.SameStore (g.join k y) := by
  obtain ⟨u, hu, hs, hf, hb, hp⟩ := join_fields g k y
  unfold Regs.SameStore
  rw [hs, hf, hb, hp]
  rcases hu with rfl | rfl
  · exact ⟨rfl, rfl, rfl, rfl, rfl⟩
  · exact modAgent_rest g (.strand k) _

theorem sameStore_boundary (g : Regs) (w : Who) (pc : Word) (y : Bool) : g.SameStore (g.boundary w pc y) := by
  cases w with
  | front => exact modAgent_rest g .front _
  | strand k => exact Regs.SameStore.trans (modAgent_rest g (.strand k) _) (sameStore_join _ k y)

theorem causeWord_eq (w : Who) (t : Trap) :
    causeWord w t = BitVec.ofNat 32 (t.cls.code + 2 ^ 8 * (if w = .front then 1 else 0) + 2 ^ 16 * t.detail) := by
  unfold causeWord
  split <;> rfl

/-- Settles O37: the trap's registers are written, then the agent stands at the handler's entry. -/
theorem trapEntry : Obligations.TrapEntry := by
  intro g w t entry a h
  rw [takeTrap_eq_boundary]
  have ha : (g.modAgent w (Agent.takesTrap w t)).agent? w = some (a.takesTrap w t) := by rw [agent?_modAgent, h]; rfl
  obtain ⟨z, hz⟩ := boundary_agent ha entry false
  refine ⟨⟨_, hz, rfl, rfl, rfl, rfl, causeWord_eq w t, rfl, rfl, rfl, rfl, rfl, rfl, rfl, rfl⟩, fun v hv => ?_, ?_⟩
  · rw [boundary_others _ _ _ _ hv, agent?_modAgent_ne _ _ _ _ hv]
  · exact Regs.SameStore.trans (modAgent_rest g w _) (sameStore_boundary _ w entry false)

end Sys2Proof.Machine
end

section
/-! # Traps held, delivered and returned from (R319, R376–R380) -/
namespace Sys2Proof.Machine

/-- A trap is held; one of an agent in handler mode halts the plot as well (R380). -/
theorem recordTrap_eq {s : State} {id : Nat} {w : Who} {p : Plot} {a : Agent} (hp : s.plot? id = some p) (ha : p.agent? w = some a) (t : Trap) :
    let held := s.modPlot id (fun p => p.modRegs (fun g => g.holdTrap w t))
    (a.handler = false → s.recordTrap id w t = held) ∧
    (a.handler = true → s.recordTrap id w t = held.modPlot id (fun p => { p with halt := some (p.halt.getD (w, t)) })) := by
  refine ⟨fun h => ?_, fun h => ?_⟩ <;> simp only [State.recordTrap, hp, ha, h, if_true, Bool.false_eq_true, if_false]
  rfl

/-- A recorded trap of an agent out of handler mode goes to the handler's entry, or halts the plot where there is none (R379, R380). -/
theorem deliverOne_recorded {s : State} {p : Plot} {w : Who} {a : Agent} {t : Trap} {e : Rd (Option Word)} (hp : s.plot? p.id = some p)
    (ha : p.agent? w = some a) (hh : a.handler = false) (ht : t.recorded = true) (he : s.handlerEntry p (streamOf w) = .ok e) :
    s.deliverOne p w t = .next ((match e.val with
      | some entry => (e.s.raiseNotes p.id w e.notes).modPlot p.id (fun q => q.modRegs (fun g => (g.takeTrap w t entry).settle))
      | none => (e.s.raiseNotes p.id w e.notes).haltPlot p.id w t).finish p.id) := by
  simp only [State.deliverOne, ht, if_true, State.deliver, hp, ha, hh, he, Bool.false_eq_true, if_false]
  cases e.val <;> rfl

/-- Where no agent of a stream is in handler mode, its trap is delivered. -/
theorem exec_trapDelivery_front {s : State} {p : Plot} {t : Trap} (hp : s.plot? p.id = some p) (hr : s.runsPlain p = true)
    (hh : p.regs.front.ag.handler = false) (ht : p.regs.front.ag.trap = some t) :
    exec (.trapDelivery p.id true) s = s.deliverOne p .front t := by
  have hf : p.slotFree true = true := by simp [Plot.slotFree, hh]
  show execTrapDelivery p.id true s = _
  simp only [execTrapDelivery, hp, hr, hf, ht, Bool.not_true, Bool.or_self, Bool.false_eq_true, if_false, if_true]

theorem exec_trapDelivery_strand {s : State} {p : Plot} {st : Strand} {t : Trap} (hp : s.plot? p.id = some p) (hr : s.runsPlain p = true)
    (hh : ∀ y ∈ p.regs.strands, y.ag.handler = false) (ht : s.firstTrap p = some (st, t)) :
    exec (.trapDelivery p.id false) s = s.deliverOne p (.strand st.key) t := by
  have hf : p.slotFree false = true := by
    have hany : p.regs.strands.any (fun st => st.isLive && st.ag.handler) = false :=
      List.any_eq_false.2 fun y hy => by simp [hh y hy]
    simp only [Plot.slotFree, hany, Bool.false_eq_true, if_false, Bool.not_false]
  show execTrapDelivery p.id false s = _
  simp only [execTrapDelivery, hp, hr, hf, ht, Bool.not_true, Bool.or_self, Bool.false_eq_true, if_false]

/-- Settles O38: the trap is held; the plot that halts is saved; the trap that is first is delivered. -/
theorem trapsRecordedAndDelivered : Obligations.TrapsRecordedAndDelivered := by
  refine ⟨fun s id w p a t hp ha => recordTrap_eq hp ha t, fun s p w t hh hn => ?_, fun s p t e hp hr hh ht hrec he => ?_,
    fun s p st t e hp hr hh ht ha hst => ⟨fun hrec he => ?_, fun hrec => ?_⟩⟩
  · simp only [State.haltOne, hh, hn, if_true]
    rfl
  · rw [exec_trapDelivery_front hp hr hh ht]
    exact deliverOne_recorded hp rfl hh hrec he
  · rw [exec_trapDelivery_strand hp hr hh ht]
    exact deliverOne_recorded hp ha (hh st hst) hrec he
  · rw [exec_trapDelivery_strand hp hr hh ht]
    simp only [State.deliverOne, hrec, Bool.false_eq_true, if_false]

section
variable {s : State} {x : Issue} {w : Who} {p : Plot} {a : Agent}

/-- The agent leaves handler mode for the clause boundary at srTPC, and what the reads have met is reported to it. -/
def State.leavesHandler (u : State) (x : Issue) (w : Who) (tpc : Word) (notes : List (Nat × DWord)) : State :=
  ((u.regsOf x (fun g => g.leaveHandler w tpc)).raiseNotes x.plot w notes).finish x.plot

theorem exec_eret_outside (h : Issues s .eret x w p) (ha : p.agent? w = some a) (hh : a.handler = false) :
    exec .eret s = .next (s.traps x w .illegal 11 (x.word.setWidth 64)) := by
  have ha' : p.counted.agent? (x.cx w).who = some a := ha
  refine runWord_trap (t := s.begun x) h (f := eretWord) ?_
  rw [eretWord, withPlot_begun h]
  simp only [ha', hh, Bool.not_false, if_true]
  rfl

theorem exec_eret_badOffset (h : Issues s .eret x w p) (ha : p.agent? w = some a) (hh : a.handler = true)
    (ho : (s.begun x).offsetOk p.counted a.tpc = false) :
    exec .eret s = .next (s.traps x w .illegal 1 (a.tpc.setWidth 64)) := by
  have ha' : p.counted.agent? (x.cx w).who = some a := ha
  refine runWord_trap (t := s.begun x) h (f := eretWord) ?_
  rw [eretWord, withPlot_begun h]
  simp only [ha', hh, ho, Bool.not_true, Bool.not_false, Bool.false_eq_true, if_false, if_true]
  rfl

variable {m : Rd Bool}

/-- ERET to a clause header, or to a word whose place in the clause map cannot be read. -/
theorem exec_eret_header (h : Issues s .eret x w p) (ha : p.agent? w = some a) (hh : a.handler = true)
    (ho : (s.begun x).offsetOk p.counted a.tpc = true) (hm : (s.begun x).mapBit p.counted a.tpc = .ok m)
    (hv : m.val = true ∨ m.notes ≠ []) : exec .eret s = .next (m.s.leavesHandler x w a.tpc m.notes) := by
  have ha' : p.counted.agent? (x.cx w).who = some a := ha
  refine runWord_left h (f := eretWord) (t := (m.s.regsOf x (fun g => g.leaveHandler w a.tpc)).raiseNotes x.plot w m.notes) ?_
  rw [eretWord, withPlot_begun h]
  simp only [ha', hh, ho, hm, enters_true hv, Bool.not_true, Bool.false_eq_true, if_false, if_true]
  rfl

/-- ERET to a word that is no clause header, by the nearest header below it. -/
theorem eretWord_below (h : Issues s .eret x w p) (ha : p.agent? w = some a) (hh : a.handler = true)
    (ho : (s.begun x).offsetOk p.counted a.tpc = true) (hm : (s.begun x).mapBit p.counted a.tpc = .ok m) (hv : m.val = false)
    (hn : m.notes = []) {b : Rd (Option Word)} (hb : m.s.headerBelow p.counted a.tpc 15 = .ok b) :
    eretWord (x.cx w) (s.begun x) = match b.val with
      | none =>
        if b.notes.isEmpty then (s.begun x, illegal 1 (a.tpc.setWidth 64))
        else ((b.s.regsOf x (fun g => g.leaveHandler w a.tpc)).raiseNotes x.plot w b.notes, .left)
      | some hpc => match b.s.codeWord p.counted hpc with
        | .error e => (s.begun x, .hold e)
        | .ok hw =>
          if !hw.notes.isEmpty then ((hw.s.regsOf x (fun g => g.leaveHandler w a.tpc)).raiseNotes x.plot w hw.notes, .left)
          else if hpc.toNat + 4 + 4 * hdrCnt hw.val ≤ a.tpc.toNat then (s.begun x, illegal 1 (a.tpc.setWidth 64))
          else (hw.s.regsOf x (fun g => g.leaveHandlerAt w a.tpc ⟨hpc, hw.val⟩), .left) := by
  have ha' : p.counted.agent? (x.cx w).who = some a := ha
  rw [eretWord, withPlot_begun h]
  simp only [ha', hh, ho, hm, hv, hn, hb, List.isEmpty_nil, Bool.or_self, Bool.not_true, Bool.false_eq_true, if_false]
  rfl

theorem not_isEmpty {α : Type} {l : List α} (h : l ≠ []) : l.isEmpty = false := by simpa using h

end

/-- Settles O39: ERET by the mode, then by what its reads of the code find. -/
theorem trapReturn : Obligations.TrapReturn := by
  intro s x w p a h ha t leaves illegal
  refine ⟨fun hh => exec_eret_outside h ha hh, fun hh ho => exec_eret_badOffset h ha hh ho, fun m hh ho hm =>
    ⟨fun hv => exec_eret_header h ha hh ho hm hv, fun b hv hn hb => ?_⟩⟩
  have hw := eretWord_below h ha hh ho hm hv hn hb
  refine ⟨fun hbv hbn => ?_, fun hbv hbn => ?_, fun hd hpc hbv hc => ?_⟩
  · rw [hbv, hbn] at hw
    exact runWord_trap h hw
  · rw [hbv] at hw
    simp only [not_isEmpty hbn, Bool.false_eq_true, if_false] at hw
    exact runWord_left h hw
  · rw [hbv] at hw
    simp only [hc] at hw
    refine ⟨fun hdn => ?_, fun hdn hs => ?_, fun hdn hs => ?_⟩
    · simp only [not_isEmpty hdn, Bool.not_false, if_true] at hw
      exact runWord_left h hw
    · simp only [hdn, List.isEmpty_nil, Bool.not_true, Bool.false_eq_true, if_false, if_pos hs] at hw
      exact runWord_trap h hw
    · simp only [hdn, List.isEmpty_nil, Bool.not_true, Bool.false_eq_true, if_false, if_neg (Nat.not_le.2 hs)] at hw
      exact runWord_left h hw

end Sys2Proof.Machine
end

section
/-! # Arrival words and slot rings (R241–R243) -/
namespace Sys2Proof.Machine

section
variable {s : State} {x : Issue} {w : Who} {p : Plot} {d a b : Reg} {off : Nat}

theorem exec_ainit (h : Issues s (.ainit a b) x w p) (ho : (s.begun x).awtOff p.counted w a 16 = .ok off) :
    exec (.ainit a b) s = .next (((((s.begun x).setSpadWord p.counted off ((p.regs.zx w b).setWidth 32)).setSpadWord p.counted (off + 4)
      0#32).setSpadWord p.counted (off + 12) 0#32).retired x w) := by
  have ho' : (s.begun x).awtOff p.counted (x.cx w).who a 16 = .ok off := ho
  refine runWord_done h (f := ainitWord a b) ?_
  rw [ainitWord, withPlot_begun h]
  simp only [ho']
  rfl

/-- An arrival word by its three words: the count, less its target as often as it holds it, and the generation, on by as many (R241). -/
theorem arriveWord_eq (s : State) (p : Plot) (off n : Nat) :
    let target := (s.spadWord p off).toNat
    let count := (s.spadWord p (off + 4)).toNat + n
    s.arriveWord p off n = (s.setSpadWord p (off + 4) (BitVec.ofNat 32 (if target = 0 then count else count % target))).setSpadWord p (off + 8)
      (BitVec.ofNat 32 ((s.spadWord p (off + 8)).toNat + (if target = 0 then 0 else count / target))) := by
  intro target count
  show (s.setSpadWord p (off + 4) (BitVec.ofNat 32 (arriveCount target count _).1)).setSpadWord p (off + 8)
    (BitVec.ofNat 32 (arriveCount target count _).2) = _
  unfold arriveCount
  by_cases ht : target = 0
  · have hc : BitVec.ofNat 32 (count % 2 ^ 32) = BitVec.ofNat 32 count := BitVec.eq_of_toNat_eq (by simp)
    simp only [if_pos ht, hc, Nat.add_zero]
  · simp only [if_neg ht]

/-- An AWT word whose effect ends it. -/
theorem awt_done {i : Instr} {n lo len : Nat} {f : Cx → Plot → Nat → State → State × Res} {u : State} (h : Issues s i x w p)
    (ho : (s.begun x).awtOff p.counted w a n = .ok off) (hf : f (x.cx w) p.counted off (s.begun x) = (u, .done)) :
    runWord i (awtWord a n lo len f) s = .next ((u.reportSpad p.counted w 1 (off + lo) len).retired x w) :=
  runWord_done h (awt_begun h ho hf fun _ => nofun)

/-- An AWT word whose effect is to wait. -/
theorem awt_block {i : Instr} {n lo len : Nat} {f : Cx → Plot → Nat → State → State × Res} {u : State} {k : Wait} (h : Issues s i x w p)
    (ho : (s.begun x).awtOff p.counted w a n = .ok off) (hf : f (x.cx w) p.counted off (s.begun x) = (u, .block k)) :
    runWord i (awtWord a n lo len f) s = .next ((u.reportSpad p.counted w 1 (off + lo) len).waits x w k) :=
  runWord_block h (awt_begun h ho hf fun _ => nofun)

theorem exec_aadd (h : Issues s (.aadd a b) x w p) (ho : (s.begun x).awtOff p.counted w a 16 = .ok off) (hd : p.drained w = true) :
    exec (.aadd a b) s = .next (((((s.begun x).arriveWord p.counted off ((p.regs.zx w b).setWidth 32).toNat).reportSpad p.counted w 1
      (off + 0) 12).retired x w)) := by
  have hd' : p.counted.drained (x.cx w).who = true := hd
  refine awt_done (n := 16) (lo := 0) (len := 12) h ho ?_
  simp only [hd', Bool.not_true, Bool.false_eq_true, if_false]
  rfl

theorem exec_await (h : Issues s (.await d a b) x w p) (ho : (s.begun x).awtOff p.counted w a 16 = .ok off) :
    let gen := (s.begun x).spadWord p.counted (off + 8)
    let low := (p.regs.zx w b).setWidth 32
    exec (.await d a b) s = .next (if (gen - low).toNat < 2 ^ 31 then
        (((s.begun x).regsOf x (fun g => g.setR w d .z32 gen)).reportSpad p.counted w 1 (off + 8) 4).retired x w
      else ((s.begun x).reportSpad p.counted w 1 (off + 8) 4).waits x w (.await off low)) := by
  intro gen low
  by_cases hg : (gen - low).toNat < 2 ^ 31
  · have hg' : (s.begun x).awaited p.counted off low = true := decide_eq_true hg
    rw [if_pos hg]
    refine awt_done (n := 16) (lo := 8) (len := 4) h ho ?_
    show (if (s.begun x).awaited p.counted off low then _ else _) = _
    rw [if_pos hg']
    rfl
  · have hg' : (s.begun x).awaited p.counted off low = false := decide_eq_false hg
    rw [if_neg hg]
    refine awt_block (n := 16) (lo := 8) (len := 4) h ho ?_
    show (if (s.begun x).awaited p.counted off low then _ else _) = _
    rw [hg']
    rfl

theorem exec_rinit (h : Issues s (.rinit d a) x w p) (ho : (s.begun x).awtOff p.counted w a 32 = .ok off) :
    exec (.rinit d a) s = .next (if (s.begun x).ringOk p.counted off = true then
        (((((((s.begun x).setSpadWord p.counted (off + 12) 0#32).setSpadWord p.counted (off + 16) 0#32).setSpadWord p.counted (off + 20)
          0#32).regsOf x (fun g => (g.setR w d .z32 0#32).setFlag w 0#2 true))).reportSpad p.counted w 1 (off + 0) 12).retired x w
      else (((s.begun x).regsOf x (fun g => (g.setR w d .z32 1#32).setFlag w 0#2 false)).reportSpad p.counted w 1 (off + 0) 12).retired x w) := by
  cases hr : (s.begun x).ringOk p.counted off with
  | true =>
    refine awt_done (n := 32) (lo := 0) (len := 12) h ho ?_
    simp only [hr, if_true]
    rfl
  | false =>
    refine awt_done (n := 32) (lo := 0) (len := 12) h ho ?_
    simp only [hr, Bool.false_eq_true, if_false]
    rfl

theorem exec_rwaitf (h : Issues s (.rwaitf d a) x w p) (ho : (s.begun x).awtOff p.counted w a 32 = .ok off) :
    let word := fun o => (s.begun x).spadWord p.counted (off + o)
    let read := fun (u : State) => u.reportSpad p.counted w 1 (off + 0) 24
    exec (.rwaitf d a) s = .next (
      if word 12 ≠ word 16 then (read ((s.begun x).regsOf x (fun g => (g.setR w d .z32 (word 0 + BitVec.ofNat 32
        ((word 4).toNat * ((word 16).toNat % (word 8).toNat)))).setFlag w 0#2 true))).retired x w
      else if word 20 &&& 0xFF#32 ≠ 0#32 then (read ((s.begun x).regsOf x (fun g => g.setFlag w 0#2 false))).retired x w
      else (read (s.begun x)).waits x w (.ring off)) := by
  intro word read
  by_cases hi : word 12 ≠ word 16
  · rw [if_pos hi]
    refine awt_done (n := 32) (lo := 0) (len := 24) h ho ?_
    exact if_pos hi
  · have hready : (s.begun x).ringReady p.counted off = (word 20 &&& 0xFF#32 != 0#32) := by
      show (word 12 != word 16 || _) = _
      rw [not_not.1 hi, bne_self_eq_false, Bool.false_or]
    rw [if_neg hi]
    by_cases hs : word 20 &&& 0xFF#32 ≠ 0#32
    · rw [if_pos hs]
      refine awt_done (n := 32) (lo := 0) (len := 24) h ho ((if_neg hi).trans ?_)
      rw [hready, if_pos (bne_iff_ne.2 hs)]
      rfl
    · rw [if_neg hs]
      refine awt_block (n := 32) (lo := 0) (len := 24) h ho ((if_neg hi).trans ?_)
      rw [hready, if_neg (fun e => hs (bne_iff_ne.1 e))]

theorem exec_rrel (h : Issues s (.rrel a) x w p) (ho : (s.begun x).awtOff p.counted w a 32 = .ok off) :
    let word := fun o => (s.begun x).spadWord p.counted (off + o)
    let read := fun (u : State) => u.reportSpad p.counted w 1 (off + 12) 8
    exec (.rrel a) s = .next (if word 16 ≠ word 12 then
        (read (((s.begun x).setSpadWord p.counted (off + 16) (word 16 + 1#32)).regsOf x (fun g => g.setFlag w 0#2 true))).retired x w
      else (read ((s.begun x).regsOf x (fun g => g.setFlag w 0#2 false))).retired x w) := by
  intro word read
  by_cases hi : word 16 ≠ word 12
  · have hb : ((s.begun x).spadWord p.counted (off + 16) != (s.begun x).spadWord p.counted (off + 12)) = true := bne_iff_ne.2 hi
    rw [if_pos hi]
    refine awt_done (n := 32) (lo := 12) (len := 8) h ho ?_
    simp only [hb, if_true]
    rfl
  · have hb : ((s.begun x).spadWord p.counted (off + 16) != (s.begun x).spadWord p.counted (off + 12)) = false :=
      bne_eq_false_iff_eq.2 (not_not.1 hi)
    rw [if_neg hi]
    refine awt_done (n := 32) (lo := 12) (len := 8) h ho ?_
    simp only [hb, Bool.false_eq_true, if_false]
    rfl

end

/-- Settles O35: each word at the place that its register names. -/
theorem arrivalWordsAndRings : Obligations.ArrivalWordsAndRings := by
  intro s x w p d a b off t word low read ha hlt
  refine ⟨fun hm hl => ?_, fun hm hl => ?_⟩
  · have ho : t.awtOff p.counted w a 16 = .ok off := awtOff_ok ha hlt hm hl
    refine ⟨fun h => exec_ainit h ho, fun h hd => ?_, fun h => exec_await h ho⟩
    rw [exec_aadd h ho hd, arriveWord_eq]
    rfl
  · have ho : t.awtOff p.counted w a 32 = .ok off := awtOff_ok ha hlt hm hl
    exact ⟨fun h => exec_rinit h ho, fun h => exec_rwaitf h ho, fun h => exec_rrel h ho,
      fun h => awt_done (n := 32) (lo := 12) (len := 12) h ho rfl⟩

end Sys2Proof.Machine
end

section
/-! # Bundles, the regrouper and the timers of a bed (R107, R276–R290) -/
namespace Sys2Proof.Machine

section
variable {s : State} {id : Nat} {p : Plot}

/-- The bundle of the chosen entry forms where the bed admits the plot (R277, R278). -/
theorem formBundle_chosen {q : Plot} {e : Entry} (hp : s.plot? id = some p) (hm : s.mayIssue p = true) (hb : p.bundle = none)
    (hq : ((s.enterAll id).releaseBlocked id).plot? id = some q) (he : q.chosenEntry = some e) :
    s.formBundle id =
      if ((s.enterAll id).releaseBlocked id).admits q then
        ((((s.enterAll id).releaseBlocked id).setPlot (q.form e ((s.enterAll id).releaseBlocked id).words)).setBed
          { ((s.enterAll id).releaseBlocked id).bed q.pav q.bed with row := some q.place }).finish id
      else (s.enterAll id).releaseBlocked id := by
  simp only [State.formBundle, hp, hm, hb, hq, he, Bool.not_true, Option.isSome_none, Bool.or_self, Bool.false_eq_true, if_false]

theorem admits_iff (hm : s.mayIssue p = true) (hb : p.bundle = none) :
    s.admits p = true ↔ ((s.onBed p.pav p.bed).filter (fun q =>
      q.id != p.id && s.wantsPlace q && decide (q.turnAfter (s.bed p.pav p.bed).row < p.turnAfter (s.bed p.pav p.bed).row))).length +
        s.inFlight p.pav p.bed < 8 := by
  simp only [State.admits, hm, hb, Option.isNone_none, Bool.true_and, decide_eq_true_eq]

theorem exec_agePromotion (hp : s.plot? id = some p) (addr : Word) :
    exec (.agePromotion id addr) s = .next (s.setPlot (p.modRegs (fun g => { g with frontier := g.frontier.map (fun e =>
      if e.addr == addr && decide (p.fair ≤ e.age) then
        { e with promoted := if p.nofair then e.promoted else some (e.promoted.getD p.pcyc), yielded := false } else e) }))) := by
  show execAgePromotion id addr s = _
  simp only [execAgePromotion, hp]
  rfl

variable (hp : s.plot? id = some p) (hr : s.runsPlain p = true)
include hp hr

theorem exec_regrouperRelease {addr : Word} (hm : p.moves = []) (hg : p.gathering = false) (hf : p.fullGroup addr = true) :
    exec (.regrouperRelease id addr) s = .next ((s.setPlot (p.releaseAt addr)).finish id) := by
  show execRegrouperRelease id addr s = _
  simp only [execRegrouperRelease, hp, hr, hm, Plot.regroup, hg, hf, List.isEmpty_nil, Bool.and_self, if_true, Bool.false_eq_true, if_false]

theorem exec_exileWaitExpiry {addr : Word} (hm : p.moves = [])
    (hd : (p.exilesAt addr).any (fun st => decide (st.ag.since + 512 ≤ p.pcyc)) = true) :
    exec (.exileWaitExpiry id addr) s = .next ((s.setPlot (p.releaseAt addr)).finish id) := by
  show execExileWaitExpiry id addr s = _
  simp only [execExileWaitExpiry, hp, hr, hm, hd, List.isEmpty_nil, Bool.and_self, if_true]

theorem exec_regrouperMove {m : Move} {rest : List Move} (hm : p.moves = m :: rest) :
    exec (.regrouperMove id) s = .next ((s.setPlot (({ p with moves := rest } : Plot).modRegs (fun g =>
      (g.modStrand m.key (fun st => { st with row := m.row, lane := m.lane })).unlockCheck))).finish id) := by
  show execRegrouperMove id s = _
  simp only [execRegrouperMove, hp, hr, hm, if_true]

theorem exec_rendezvousTimeout {co : BitVec 4} {ms : List Strand}
    (hm : (p.regs.cohort co).filter (fun st => st.ag.phase == .blocked && st.ag.wait == .rendezvous) = ms)
    (hd : ms.any (fun st => decide (st.ag.blockedAt + 2 ^ 20 ≤ s.cycles p.pav)) = true) :
    exec (.rendezvousTimeout id co) s = .next ((ms.foldl (fun s st =>
      s.recordTrap id (.strand st.key) ⟨.cohort, 0, 1#64, st.ag.pc, true⟩) s).finish id) := by
  show execRendezvousTimeout id co s = _
  simp only [execRendezvousTimeout, hp, hr, hm, hd, Bool.and_self, if_true]

theorem exec_reorderTimeout {t : Nat} (ht : p.gatherAt = some t) (hd : t + 2 ^ 20 ≤ p.pcyc) :
    exec (.reorderTimeout id) s = .next (((p.regs.strands.filter (fun st => st.ag.phase == .gathered)).foldl (fun s st =>
      s.recordTrap id (.strand st.key) ⟨.cohort, 0, 3#64, st.ag.pc, true⟩) (s.setPlot { p with gatherAt := none })).finish id) := by
  show execReorderTimeout id s = _
  simp only [execReorderTimeout, hp, hr, ht, decide_eq_true hd, Bool.and_self, if_true]

end

/-- Settles O40: the forming of bundles and promotion, then the regrouper and the timers. -/
theorem bundlesAndRegrouping : Obligations.BundlesAndRegrouping := by
  refine ⟨⟨fun s id p q e hp hm hb => ?_, fun s p hm hb => admits_iff hm hb, fun s id addr p hp => exec_agePromotion hp addr⟩,
    fun s id p hp hr => ⟨fun addr hm hg hf => exec_regrouperRelease hp hr hm hg hf, fun addr hm hd => exec_exileWaitExpiry hp hr hm hd,
      fun m rest hm => exec_regrouperMove hp hr hm, fun co => exec_rendezvousTimeout hp hr rfl, fun t ht hd => exec_reorderTimeout hp hr ht hd⟩⟩
  intro s1 hq he ms
  have hform : exec (.bundleFormation id) s = .next (s.formBundle id) := rfl
  rw [hform, formBundle_chosen hp hm hb hq he]
  exact ⟨fun ha => congrArg _ (if_pos ha), fun ha => congrArg _ (if_neg (by rw [ha]; nofun))⟩

end Sys2Proof.Machine
end

section
/-! # The words of the matrix engine (R127–R134) -/
namespace Sys2Proof.Machine

section
variable {s : State} {x : Issue} {w : Who} {p : Plot} {d a b : Reg} {pr : Pair} {k : BitVec 4}

/-- A word whose meaning comes down to issuing a tile operation that there is room for, in the state u. -/
theorem runWord_tile {i : Instr} (h : Issues s i x w p) {f : Cx → Plot → State → State × Res} {u : State} {kind : TileKind}
    {locks : List (Bool × Range)} {n : Nat} {s32 : Bool} (hr : u.tileRoom p w locks.length)
    (hf : f (x.cx w) p.counted (s.begun x) = u.issueTile p.counted w kind locks n s32) :
    runWord i (withPlot f) s = .next ((u.tileIssued p.counted kind locks n s32).retired x w) :=
  runWord_done h ((withPlot_begun h f).trans (hf.trans (issueTile_room hr kind n s32)))

theorem exec_mma {locks : List (Bool × Range)} (h : Issues s (.mma d a b pr k) x w p) (hd : tilesIn p [d] = true)
    (hy : (s.begun x).operandOk p.counted pr true (k.toNat + 1) (p.regs.zx w b) = true) (hs : p.tileS32At d.toNat = pairS32 pr)
    (hx : (s.begun x).operandOk p.counted pr false (k.toNat + 1) (p.regs.zx w a) = true)
    (hl : (s.begun x).operandLocks p.counted pr false (k.toNat + 1) (p.regs.zx w a) (List.range 64) ++
      (s.begun x).operandLocks p.counted pr true (k.toNat + 1) (p.regs.zx w b) (List.range 64) = locks)
    (hr : (s.begun x).tileRoom p w locks.length) :
    exec (.mma d a b pr k) s = .next (((s.begun x).tileIssued p.counted (.mma d.toNat (p.regs.zx w a) (p.regs.zx w b) none pr (k.toNat + 1))
      locks d.toNat (pairS32 pr)).retired x w) := by
  subst hl
  refine runWord_tile h hr ?_
  have hd' : tilesIn p.counted [d] = true := hd
  have hx' : (s.begun x).operandOk p.counted pr false (k.toNat + 1) (p.counted.regs.zx (x.cx w).who a) = true := hx
  have hy' : (s.begun x).operandOk p.counted pr true (k.toNat + 1) (p.counted.regs.zx (x.cx w).who b) = true := hy
  have hs' : (p.counted.tileS32At d.toNat != pairS32 pr) = false := bne_eq_false_iff_eq.2 hs
  simp only [hd', hx', hy', hs', Bool.not_true, Bool.false_eq_true, if_false]
  rfl

/-- MMAG with a list whose entries each name a stored row in the context's part, or none (R122). -/
theorem exec_mmag {locks : List (Bool × Range)} {idx : List Nat} {u : State} (h : Issues s (.mmag d a b pr k) x w p)
    (hd : tilesIn p [d] = true) (hy : (s.begun x).operandOk p.counted pr true (k.toNat + 1) (p.regs.zx w b) = true)
    (hs : p.tileS32At d.toNat = pairS32 pr) (hx : operandFields pr false (k.toNat + 1) (p.regs.zx w a) true = true)
    (hi : (s.begun x).indexList p.counted (p.regs.zx w (regPlus a 1)) = some idx)
    (hrow : ∀ i < 64, idx.getD i 0 ≠ 0xFFFF →
      (s.begun x).rowOk p.counted pr false (k.toNat + 1) (p.regs.zx w a) (idx.getD i 0) = true)
    (hl : (s.begun x).operandLocks p.counted pr false (k.toNat + 1) (p.regs.zx w a) (idx.filter (fun j => j != 0xFFFF)) ++
      (s.begun x).operandLocks p.counted pr true (k.toNat + 1) (p.regs.zx w b) (List.range 64) = locks)
    (hu : (s.begun x).reportBad p.counted ((s.begun x).badSpan p.counted .spad (p.regs.zx w (regPlus a 1)).toNat 128) = u)
    (hr : u.tileRoom p w locks.length) :
    exec (.mmag d a b pr k) s = .next ((u.tileIssued p.counted (.mma d.toNat (p.regs.zx w a) (p.regs.zx w b) (some idx) pr (k.toNat + 1))
      locks d.toNat (pairS32 pr)).retired x w) := by
  subst hl hu
  refine runWord_tile h hr ?_
  obtain ⟨hdr, -, -⟩ := hr
  have hd' : tilesIn p.counted [d] = true := hd
  have hdr' : p.counted.drained (x.cx w).who = true := hdr
  have hx' : operandFields pr false (k.toNat + 1) (p.counted.regs.zx (x.cx w).who a) true = true := hx
  have hi' : (s.begun x).indexList p.counted (p.counted.regs.zx (x.cx w).who (regPlus a 1)) = some idx := hi
  have hy' : (s.begun x).operandOk p.counted pr true (k.toNat + 1) (p.counted.regs.zx (x.cx w).who b) = true := hy
  have hs' : (p.counted.tileS32At d.toNat != pairS32 pr) = false := bne_eq_false_iff_eq.2 hs
  have hrows : (List.range 64).find? (fun i => idx.getD i 0 != 0xFFFF &&
      !(s.begun x).rowOk p.counted pr false (k.toNat + 1) (p.counted.regs.zx (x.cx w).who a) (idx.getD i 0)) = none := by
    refine List.find?_eq_none.2 fun i hi hbad => ?_
    obtain ⟨hne, hno⟩ := (Bool.and_eq_true _ _).mp hbad
    have hok : (s.begun x).rowOk p.counted pr false (k.toNat + 1) (p.counted.regs.zx (x.cx w).who a) (idx.getD i 0) = true :=
      hrow i (List.mem_range.1 hi) (bne_iff_ne.1 hne)
    rw [hok] at hno
    exact Bool.false_ne_true hno
  simp only [hd', hx', hdr', hi', hrows, hy', hs', Bool.not_true, Bool.false_eq_true, if_false]
  rfl

theorem exec_tzero {f32 : Bool} (h : Issues s (.tzero d f32) x w p) (hd : tilesIn p [d] = true) (hr : (s.begun x).tileRoom p w 0) :
    exec (.tzero d f32) s = .next (((s.begun x).tileIssued p.counted (.tzero d.toNat) [] d.toNat (!f32)).retired x w) := by
  refine runWord_tile h hr ?_
  have hd' : tilesIn p.counted [d] = true := hd
  simp only [hd', Bool.not_true, Bool.false_eq_true, if_false]
  rfl

theorem exec_tld {f32 : Bool} {locks : List (Bool × Range)} (h : Issues s (.tld d a f32) x w p) (hd : tilesIn p [d] = true)
    (hu : (s.begun x).tileWordOk p.counted (p.regs.zx w a) = true)
    (hl : ((s.begun x).tileRange p.counted (p.regs.zx w a)).map (fun r => (false, r)) = locks)
    (hr : (s.begun x).tileRoom p w locks.length) :
    exec (.tld d a f32) s = .next
      (((s.begun x).tileIssued p.counted (.tld d.toNat (p.regs.zx w a) (!f32)) locks d.toNat (!f32)).retired x w) := by
  subst hl
  refine runWord_tile h hr ?_
  have hd' : tilesIn p.counted [d] = true := hd
  have hu' : (s.begun x).tileWordOk p.counted (p.counted.regs.zx (x.cx w).who a) = true := hu
  simp only [hd', hu', Bool.not_true, Bool.false_eq_true, if_false]
  rfl

theorem exec_tst {locks : List (Bool × Range)} (h : Issues s (.tst d a) x w p) (hd : tilesIn p [d] = true)
    (hu : (s.begun x).tileWordOk p.counted (p.regs.zx w a) = true)
    (hl : ((s.begun x).tileRange p.counted (p.regs.zx w a)).map (fun r => (true, r)) = locks)
    (hr : (s.begun x).tileRoom p w locks.length) :
    exec (.tst d a) s = .next (((s.begun x).tileIssued p.counted (.tst d.toNat (p.regs.zx w a) (p.tileS32At d.toNat)) locks d.toNat
      (p.tileS32At d.toNat)).retired x w) := by
  subst hl
  refine runWord_tile h hr ?_
  have hd' : tilesIn p.counted [d] = true := hd
  have hu' : (s.begun x).tileWordOk p.counted (p.counted.regs.zx (x.cx w).who a) = true := hu
  simp only [hd', hu', Bool.not_true, Bool.false_eq_true, if_false]
  rfl

theorem exec_tscal (h : Issues s (.tscal d a) x w p) (hd : tilesIn p [d] = true) (hs : p.tileS32At d.toNat = false)
    (hr : (s.begun x).tileRoom p w 0) :
    exec (.tscal d a) s = .next
      (((s.begun x).tileIssued p.counted (.tscal d.toNat ((p.regs.zx w a).setWidth 32)) [] d.toNat false).retired x w) := by
  refine runWord_tile h hr ?_
  have hd' : tilesIn p.counted [d] = true := hd
  have hs' : p.counted.tileS32At d.toNat = false := hs
  simp only [hd', hs', Bool.not_true, Bool.false_eq_true, if_false]
  rfl

theorem exec_tadd (h : Issues s (.tadd d a b) x w p) (hd : tilesIn p [d, a, b] = true) (hs : p.tileS32At b.toNat = p.tileS32At a.toNat)
    (hr : (s.begun x).tileRoom p w 0) :
    exec (.tadd d a b) s = .next (((s.begun x).tileIssued p.counted (.tadd d.toNat a.toNat b.toNat (p.tileS32At a.toNat)) [] d.toNat
      (p.tileS32At a.toNat)).retired x w) := by
  refine runWord_tile h hr ?_
  have hd' : tilesIn p.counted [d, a, b] = true := hd
  have hs' : (p.counted.tileS32At b.toNat != p.counted.tileS32At a.toNat) = false := bne_eq_false_iff_eq.2 hs
  simp only [hd', hs', Bool.not_true, Bool.false_eq_true, if_false]
  rfl

end

theorem exec_matrixOpComplete {s : State} {id : Nat} {p : Plot} {o : TileOp} (hp : s.plot? id = some p) (ho : s.tileReady p = some o) :
    let r := s.runTile p o
    exec (.matrixOpComplete id) s = .next ((((r.1.modPlot id (fun q =>
      { (q.modBoth (fun g => g.orFpf r.2)) with tops := q.tops.filter (fun y => y.id != o.id) })).dropLocks p o.id).endDrained id o.kind).finish id) := by
  show execMatrixOpComplete id s = _
  simp only [execMatrixOpComplete, hp, ho]

/-- Once TZERO is performed, no element of the tile is stored, so each reads as zero. -/
theorem dense_runTile_tzero (s : State) (p : Plot) (d n : Nat) (f : BitVec 5) (hp : p.pav < 320) {k : Nat} (hk : k < 4096) :
    (((s.runTile p ⟨n, .tzero d, 0, f⟩).1.tile p d).dense)[k]? = some 0#32 := by
  show ((s.setTile p d { s.tile p d with bits := [], bad := [] }).tile p d).dense[k]? = _
  rw [tile_setTile _ _ _ _ hp]
  simp [Tile.dense, hk]

/-- A pair without formats is S8 × S8: its block adds the products, as integers, modulo 2^32. -/
theorem mmaStep_of_integer {pr : Pair} (h : pairFmts pr = none) (a b : List Nat × Nat) (t : Word) :
    mmaStep pr a b t = (t + BitVec.ofInt 32 ((a.1.zip b.1).map (fun y => (BitVec.ofNat 8 y.1).toInt * (BitVec.ofNat 8 y.2).toInt)).sum, 0#5) := by
  simp only [mmaStep, h, List.sum_eq_foldl, List.foldl_map]

/-- Settles O42: each word comes down to issuing its tile operation in a queue with room; the rest is what running the operation does. -/
theorem matrixWords : Obligations.MatrixWords := by
  refine ⟨?_, fun s id p o hp ho => exec_matrixOpComplete hp ho, fun s p d n f hp k hk => dense_runTile_tzero s p d n f hp hk, ?_,
    fun u v i j t => mmaStep_of_integer rfl (u, i) (v, j) t⟩
  · intro s x w p d a b pr k f32 t kb u v rows from_ now
    refine ⟨fun hd hy hs => ⟨fun hx h hr => exec_mma h hd hy hs hx rfl hr,
        fun idx hx hi hrow h hr => exec_mmag h hd hy hs hx hi hrow rfl rfl hr⟩,
      fun hd h hr => exec_tzero h hd hr, fun hd hu => ⟨fun h hr => exec_tld h hd hu rfl hr, fun h hr => exec_tst h hd hu rfl hr⟩,
      fun hd hs h hr => exec_tscal h hd hs hr, fun hd hs h hr => exec_tadd h hd hs hr⟩
  · intro s p d a b n f hp ha hb k hk
    rw [runTile_tadd_of_sound ha hb, tile_setTile _ _ _ _ hp, dense_write _ _ _ _ hk, if_neg Bool.false_ne_true, tileMap_getD _ _ hk]
    rfl

end Sys2Proof.Machine
end

section
/-! # CPY and DRAIN issue their copies (R229–R232, R135, R136) -/
namespace Sys2Proof.Machine

def Completion.isRing (c : Completion) : Bool := match c with | .ring .. => true | _ => false

/-- What a CPY copies, by its registers and its record: before it has read the list of a GATHER. -/
def State.cpyJob (t : State) (p : Plot) (w : Who) (op : CopyOp) (comp : Completion) (v : Word) (b : Reg) (la : Layout) (coords : List Nat) :
    BoxJob :=
  ⟨op, la, coords, [], windowBase (if comp.isRing && op.fills then .spad else locWin v) + BitVec.ofNat 64 (locOff v),
    if locFmt v = 0 then la.fmt else locFmt v, (locRnd v).getD .rne, t.keyAt p.counted la.rk, p.regs.wide w b, [], true⟩

/-- What a CPY does once it has its record, in the state s1 that reading it leaves. -/
def State.cpyRecord (t s1 : State) (p : Plot) (w : Who) (comp : Completion) (job : BoxJob) (off : Nat) (reg creg : DWord) : State × Res :=
  if !s1.recordOk p.counted (keyOfWho w) job (comp.isRing && job.op.fills) 0 then (s1.badRecord p.counted comp, .done)
  else if job.op = .gather then
    match s1.gatherList p.counted off job.layout.box1 with
    | none => (t, illegalEntry reg)
    | some idx =>
      match s1.badSpan p.counted .spad off (4 * job.layout.box1) with
      | some (o, bad) => (((s1.logError bad 4).raiseMchk p.counted.id w 4 (windowBase .spad + BitVec.ofNat 64 o)).complete p.counted comp 3, .done)
      | none => s1.startCopy p.counted w comp { job with idx := idx } creg none
  else s1.startCopy p.counted w comp job creg none

section
variable {s s1 : State} {x : Issue} {w : Who} {p : Plot} {i : Instr} {op : CopyOp} {d a b : Reg} {sc : Scope} {comp comp' : Completion}
  {coords idx : List Nat} {off : Nat} {reg creg : DWord} {bytes : List Byte} {job : BoxJob} {t : State}

/-- A CPY whose registers pass their checks comes to its record. -/
theorem cpyWord_begun (h : Issues s i x w p) (hd : p.drained w = true) (hu : p.regs.zx w d >>> 32 = 0#64)
    (hv : p.regs.zx w (regPlus d 1) >>> 32 = 0#64)
    (hc : (s.begun x).completionOf p.counted ((p.regs.zx w d).setWidth 32) = some comp)
    (hl : (s.begun x).localRegOk p.counted ((p.regs.zx w (regPlus d 1)).setWidth 32) (comp.isRing || decide (op = .linr)) = true)
    (hco : cpyCoords p.counted w b op = .ok (coords, off, reg)) (hsc : op = .publ ∨ op = .pull → sc = .grove)
    (hrec : (s.begun x).loadRecord p.counted w (p.regs.wide w a) 64 sc = .ok (s1, bytes)) :
    cpyWord op d a b sc (x.cx w) (s.begun x) = (s.begun x).cpyRecord s1 p w comp
      ((s.begun x).cpyJob p w op comp ((p.regs.zx w (regPlus d 1)).setWidth 32) b (Layout.ofBytes bytes) coords) off reg
      (((p.regs.zx w d).setWidth 32).setWidth 64) := by
  have hd' : p.counted.drained (x.cx w).who = true := hd
  have hu' : reg32 p.counted (x.cx w).who d = .ok ((p.regs.zx w d).setWidth 32) := reg32_ok hu
  have hv' : reg32 p.counted (x.cx w).who (regPlus d 1) = .ok ((p.regs.zx w (regPlus d 1)).setWidth 32) := reg32_ok hv
  have hco' : cpyCoords p.counted (x.cx w).who b op = .ok (coords, off, reg) := hco
  have hsc' : ¬ ((op = .publ ∨ op = .pull) ∧ sc ≠ .grove) := fun e => e.2 (hsc e.1)
  have hrec' : (s.begun x).loadRecord p.counted (x.cx w).who (p.counted.regs.wide (x.cx w).who a) 64 sc = .ok (s1, bytes) := hrec
  rw [cpyWord, withPlot_begun h]
  simp only [hd', hu', hc, hv', hco', if_neg hsc', hrec', Bool.not_true, Bool.false_eq_true, if_false]
  exact if_neg (Bool.eq_false_iff.1 (congrArg not hl))

theorem cpyRecord_bad (hr : s1.recordOk p.counted (keyOfWho w) job (comp.isRing && job.op.fills) 0 = false) :
    t.cpyRecord s1 p w comp job off reg creg = (s1.complete p.counted comp 2, .done) := by
  simp only [State.cpyRecord, hr, Bool.not_false, if_true]; rfl

/-- A GATHER whose list holds an uncorrectable byte ends ERRORED (R240). -/
theorem cpyRecord_badList {o : Nat} {bad : Loc} (hr : s1.recordOk p.counted (keyOfWho w) job (comp.isRing && job.op.fills) 0 = true)
    (ho : job.op = .gather) (hg : s1.gatherList p.counted off job.layout.box1 = some idx)
    (hb : s1.badSpan p.counted .spad off (4 * job.layout.box1) = some (o, bad)) :
    t.cpyRecord s1 p w comp job off reg creg =
      (((s1.logError bad 4).raiseMchk p.id w 4 (windowBase .spad + BitVec.ofNat 64 o)).complete p.counted comp 3, .done) := by
  simp only [State.cpyRecord, hr, Bool.not_true, Bool.false_eq_true, if_false, if_pos ho, hg, hb]; rfl

/-- A CPY whose record passes starts its copy, with the list it has read where it is a GATHER. -/
theorem cpyRecord_start (hr : s1.recordOk p.counted (keyOfWho w) job (comp.isRing && job.op.fills) 0 = true) (hidx : job.idx = [])
    (hg : if job.op = .gather then s1.gatherList p.counted off job.layout.box1 = some idx ∧
      s1.badSpan p.counted .spad off (4 * job.layout.box1) = none else idx = []) :
    t.cpyRecord s1 p w comp job off reg creg = s1.startCopy p.counted w comp { job with idx := idx } creg none := by
  by_cases ho : job.op = .gather
  · obtain ⟨hl, hb⟩ := (if_pos ho).mp hg
    simp only [State.cpyRecord, hr, Bool.not_true, Bool.false_eq_true, if_false, if_pos ho, hl, hb]
  · have hi : idx = job.idx := ((if_neg ho).mp hg).trans hidx.symm
    simp only [State.cpyRecord, hr, Bool.not_true, Bool.false_eq_true, if_false, if_neg ho, hi]

end

theorem exec_cpy {i : Instr} {op : CopyOp} {d a b : Reg} {l : Bool} {sc : Scope}
    (hi : (i, op) ∈ [(Instr.cpyTload d a b l sc, CopyOp.tload), (.cpyTstore d a b l sc, .tstore), (.cpyTaddf d a b l sc, .taddf),
      (.cpyLinr d a b l sc, .linr), (.cpyGather d a b l sc, .gather), (.cpyPubl d a b l sc, .publ), (.cpyPull d a b l sc, .pull)]) (s : State) :
    exec i s = runWord i (cpyWord op d a b sc) s := by
  simp only [List.mem_cons, List.not_mem_nil, or_false, Prod.mk.injEq] at hi
  obtain ⟨rfl, rfl⟩ | ⟨rfl, rfl⟩ | ⟨rfl, rfl⟩ | ⟨rfl, rfl⟩ | ⟨rfl, rfl⟩ | ⟨rfl, rfl⟩ | ⟨rfl, rfl⟩ := hi <;> rfl

/-- What a DRAIN does once it has its record. -/
def State.drainRecord (s1 : State) (p : Plot) (comp : Completion) (job : BoxJob) (creg : DWord) (code : Nat) (tile : TileKind) : State × Res :=
  if !s1.recordOk p.counted none job false code then (s1.badRecord p.counted comp, .done)
  else s1.startCopy p.counted .front comp job creg (some tile)

/-- A word of a DRAIN's box coordinates holds two of them. -/
def coordHalves (v : DWord) : List Nat := [v.toNat % 2 ^ 32, v.toNat / 2 ^ 32]

/-- What a DRAIN copies (R135). -/
def State.drainJob (t : State) (p : Plot) (b : Reg) (m : DrainMode) (r : DrainRnd) (s32 : Bool) (la : Layout) : BoxJob :=
  ⟨.drain m s32, la, coordHalves (p.regs.s b) ++ coordHalves (p.regs.s (regPlus b 1)), [], 0#64, if s32 then 1 else 3, r, t.keyAt p.counted la.rk, 0#64,
    [], false⟩

theorem drainWord_begun {s s1 : State} {x : Issue} {p : Plot} {d a b : Reg} {m : DrainMode} {r : DrainRnd} {dst : DrainDst}
    {comp : Completion} {bytes : List Byte} (h : Issues s (.drain d a b m r dst) x .front p) (hd : p.drained .front = true)
    (ht : tilesIn p [d] = true) (hr : dst = .s32 → r = .rne) (hs : p.tileS32At d.toNat = decide (dst = .s32))
    (hc : (s.begun x).drainCompletion p.counted (p.regs.s (regPlus a 1)) = some comp)
    (hrec : (s.begun x).loadRecord p.counted .front (p.regs.s a) 64 .dev = .ok (s1, bytes)) :
    drainWord d a b m r dst (x.cx .front) (s.begun x) = s1.drainRecord p comp
      ((s.begun x).drainJob p b m r (decide (dst = .s32)) (Layout.ofBytes bytes)) (p.regs.s (regPlus a 1)) (drainCode dst)
      (.drainRead d.toNat p.nextOp (decide (dst = .s32)) (decide (m = .storez))) := by
  have hd' : p.counted.drained (x.cx .front).who = true := hd
  have ht' : tilesIn p.counted [d] = true := ht
  have hr' : ¬ (decide (dst = .s32) = true ∧ r ≠ .rne) := fun e => e.2 (hr (of_decide_eq_true e.1))
  have hs' : (p.counted.tileS32At d.toNat != decide (dst = .s32)) = false := bne_eq_false_iff_eq.2 hs
  have hc' : (s.begun x).drainCompletion p.counted (p.counted.regs.s (regPlus a 1)) = some comp := hc
  have hrec' : (s.begun x).loadRecord p.counted (x.cx .front).who (p.counted.regs.s a) 64 .dev = .ok (s1, bytes) := hrec
  rw [drainWord, withPlot_begun h]
  simp only [ht', if_neg hr', hc', hs', hd', hrec', Bool.not_true, Bool.false_eq_true, if_false]
  rfl

theorem drainRecord_bad {s1 : State} {p : Plot} {comp : Completion} {job : BoxJob} {creg : DWord} {code : Nat} {tile : TileKind}
    (h : s1.recordOk p.counted none job false code = false) :
    s1.drainRecord p comp job creg code tile = (s1.complete p.counted comp 2, .done) := by
  simp only [State.drainRecord, h, Bool.not_false, if_true]; rfl

/-- A DRAIN completes to an arrival word, or to nothing (R135). -/
theorem drainCompletion_not_ring {t : State} {p : Plot} {v : DWord} {comp : Completion} (h : t.drainCompletion p v = some comp) (o n : Nat) :
    comp ≠ .ring o n := by
  rintro rfl
  simp only [State.drainCompletion] at h
  split at h
  · exact nomatch h
  · split at h
    · split at h <;> exact nomatch h
    · split at h <;> exact nomatch h

theorem drainRecord_start {s1 : State} {p : Plot} {comp : Completion} {job : BoxJob} {creg : DWord} {code : Nat} {tile : TileKind}
    (h : s1.recordOk p.counted none job false code = true) (hc : ∀ o n, comp ≠ .ring o n) (hlen : p.copies.length < 32)
    (htops : p.tops.length < 8) :
    let c0 : CopyRec := ⟨p.nextOp, .front, comp, .box job, [], 0#5, 0, false, [], [], [], s1.words⟩
    let c : CopyRec := { c0 with chunks := chunksOf (s1.piecesOf p.counted c0 job) }
    let locks := s1.copyLocks p.counted c job
    s1.lockRoom p.pav locks.length = true →
    s1.drainRecord p comp job creg code tile = (s1.copyIssued p.counted c locks [⟨p.nextOp + 1, tile, 0, 0#5⟩], .done) := by
  intro c0 c locks hroom
  simp only [State.drainRecord, h, Bool.not_true, Bool.false_eq_true, if_false]
  refine (startCopy_ok (comp' := comp) creg ?_ (some tile) hlen (fun _ _ => htops) hroom).1 fun e => nomatch e
  cases comp with
  | ring o n => exact absurd rfl (hc o n)
  | _ => rfl

/-- Settles O43: the words come to their record, and from there to a copy's start, or to its end at once. -/
theorem copiesAndDrainIssue : Obligations.CopiesAndDrainIssue := by
  constructor
  · intro s s1 x w p i op d a b l sc comp comp' coords idx off reg bytes hi h hd t u v ring hu hv hc hl hco hsc hrec la slots job job' c0 c
      locks t1
    have hword := cpyWord_begun h hd hu hv hc hl hco hsc hrec
    rw [exec_cpy hi]
    refine ⟨fun hr => runWord_done h (hword.trans (cpyRecord_bad hr)), fun hr => ⟨fun o bad ho hg hb =>
      runWord_done h (hword.trans (cpyRecord_badList hr ho hg hb)), fun hg hcomp hlen hroom => ?_⟩⟩
    have hstart := hword.trans (cpyRecord_start hr rfl hg)
    obtain ⟨hsome, hnone⟩ := startCopy_ok (((p.regs.zx w d).setWidth 32).setWidth 64) hcomp none hlen nofun hroom
    exact ⟨fun hne => runWord_done h (hstart.trans (hsome fun _ => hne)),
      fun q he hq => runWord_done h (hstart.trans (hnone q rfl he hq))⟩
  · intro s s1 x p d a b m r dst comp bytes h hd t s32 half ht hr hs hc hrec la job c0 c locks
    have hword := drainWord_begun h hd ht hr hs hc hrec
    exact ⟨fun hbad => runWord_done h (hword.trans (drainRecord_bad hbad)),
      fun hok hlen htops hroom => runWord_done h (hword.trans (drainRecord_start hok (drainCompletion_not_ring hc) hlen htops hroom))⟩

end Sys2Proof.Machine
end

section
/-! # The delivery of a copy's chunk (R237, R239, R240) -/
namespace Sys2Proof.Machine

section
variable {s s1 s2 : State} {id op chunk : Nat} {p : Plot} {c : CopyRec} {b : BoxJob} {k : Chunk}

/-- A chunk whose turn it is ends its event as delivering it ends. -/
theorem exec_copyChunkDelivered (hc : s.copy? id op = some (p, c)) (hk : c.chunks.find? (fun k => k.idx == chunk && !k.done) = some k)
    (he : c.ended = false) (hrun : (k.sent || s.enginesRun p.ctx) = true) (hw : s.lockWait p c.id = false) (hj : c.job = .box b)
    (hr : b.ready = true) (hd : s.deliverChunk p c b chunk = .next s1) :
    exec (.copyChunkDelivered id op chunk) s = .next (s1.finish id) := by
  show execCopyChunkDelivered id op chunk s = _
  simp only [execCopyChunkDelivered, hc, hk, he, hrun, hw, hj, hr, hd, Bool.not_true, Bool.or_self, Bool.false_eq_true, if_false]

theorem deliverChunk_errored (ha : (s.hunt p c b chunk).1.absent = none)
    (h : (s.hunt p c b chunk).1.err = true ∨ ((s.hunt p c b chunk).1.refused ≠ [] ∧ b.reduces = false)) :
    s.deliverChunk p c b chunk = .next (s.endCopy p c 3) := by
  simp only [State.deliverChunk, ha]
  by_cases he : (s.hunt p c b chunk).1.err = true
  · rw [if_pos he]; rfl
  · obtain ⟨hne, hred⟩ := h.resolve_left he
    simp only [if_neg he, not_isEmpty hne, hred, Bool.not_false, if_true, Bool.false_eq_true, if_false]
    rfl

theorem deliverChunk_refused (ha : (s.hunt p c b chunk).1.absent = none) (he : (s.hunt p c b chunk).1.err = false)
    (hr : (s.hunt p c b chunk).1.refused ≠ []) (hb : b.reduces = true) :
    s.deliverChunk p c b chunk = .next ((s.hunt p c b chunk).1.s.chunkDone p.id c.id chunk true) := by
  simp only [State.deliverChunk, ha, he, not_isEmpty hr, hb, Bool.not_false, Bool.false_eq_true, if_false, if_true]

theorem deliverChunk_faulted (ha : (s.hunt p c b chunk).1.absent = none) (he : (s.hunt p c b chunk).1.err = false)
    (hr : (s.hunt p c b chunk).1.refused = []) (hf : (s.hunt p c b chunk).1.faults ≠ []) :
    s.deliverChunk p c b chunk = .next ((s.hunt p c b chunk).1.s.faultChunk p c b.reduces (s.hunt p c b chunk).1.faults) := by
  simp only [State.deliverChunk, ha, he, hr, not_isEmpty hf, List.isEmpty_nil, Bool.not_true, Bool.not_false, Bool.false_eq_true,
    if_false, if_true]

/-- The state in which the units of a chunk have been moved, and their flags noted. -/
def State.movedChunk (p : Plot) (c : CopyRec) (m : Moved) (dst : List (Loc × Nat)) : State :=
  (m.s.heal dst).modCopy p.id c.id (fun c => { c with fl := c.fl ||| m.fl })

/-- A chunk whose bytes are all found, and that both engines can move. -/
theorem deliverChunk_moved (ha : (s.hunt p c b chunk).1.absent = none) (he : (s.hunt p c b chunk).1.err = false)
    (hr : (s.hunt p c b chunk).1.refused = []) (hf : (s.hunt p c b chunk).1.faults = []) (hw : (s.hunt p c b chunk).1.waits = [])
    (h1 : (s.hunt p c b chunk).1.s.dma false ((s.hunt p c b chunk).2.flatMap (fun y => y.src)) = (true, s1))
    (h2 : s1.dma true ((s.hunt p c b chunk).2.flatMap (fun y => y.dst)) = (true, s2)) :
    let m := (s.hunt p c b chunk).2.foldl (b.move p) ⟨s2, 0#5, none⟩
    let t := State.movedChunk p c m ((s.hunt p c b chunk).2.flatMap (fun y => y.dst))
    (m.bad = none → s.deliverChunk p c b chunk = .next (t.chunkDone p.id c.id chunk false)) ∧
    (∀ ea l q e, m.bad = some (ea, l) → t.copy? p.id c.id = some (q, e) →
      s.deliverChunk p c b chunk = .next (((t.logError l 4).raiseMchk p.id c.who 4 ea).endCopy q e 3)) := by
  intro m t
  refine ⟨fun hb => ?_, fun ea l q e hb ht => ?_⟩
  all_goals simp only [State.deliverChunk, ha, he, hr, hf, hw, h1, h2, List.isEmpty_nil, Bool.not_true, Bool.false_eq_true, if_false]
  all_goals
    have hm : (s.hunt p c b chunk).2.foldl (b.move p) ⟨s2, 0#5, none⟩ = m := rfl
    simp only [hm, hb]
  · rfl
  · have ht' : ((m.s.heal ((s.hunt p c b chunk).2.flatMap (fun y => y.dst))).modCopy p.id c.id
      (fun c => { c with fl := c.fl ||| m.fl })).copy? p.id c.id = some (q, e) := ht
    simp only [ht']
    rfl

/-- Settles O44, by what the search for the chunk's bytes has met. -/
theorem chunksDeliver : Obligations.ChunksDeliver := by
  intro s id op chunk p c b k hc hk he hrun hw hj hr h placed dst ha
  have deliver := fun t => exec_copyChunkDelivered (s1 := t) hc hk he hrun hw hj hr
  refine ⟨fun hbad => deliver _ (deliverChunk_errored ha hbad), fun hne href hred => deliver _ (deliverChunk_refused ha hne href hred),
    fun hne href hf => deliver _ (deliverChunk_faulted ha hne href hf), ?_⟩
  intro s1 s2 hne href hf hwait h1 h2 m t
  obtain ⟨hgood, hbad⟩ := deliverChunk_moved ha hne href hf hwait h1 h2
  exact ⟨fun hm => deliver _ (hgood hm), fun ea l q e hm ht => deliver _ (hbad ea l q e hm ht)⟩

end

end Sys2Proof.Machine
end

section
/-! # The FAB words and RFENCE (R252, R253, R255) -/
namespace Sys2Proof.Machine

section
variable {s : State} {x : Issue} {w : Who} {p : Plot}

/-- The copy of a fabric operation, or of a CONTRIB, as it is issued. -/
def State.fabCopy (t : State) (p : Plot) (w : Who) (comp : Completion) (f : FabJob) : CopyRec :=
  ⟨p.nextOp, w, comp, .fab f, f.chunks, 0#5, 0, false, [], [], [], t.words⟩

/-- The lock on the local range of a fabric operation (R180). -/
def State.fabLocks (t : State) (p : Plot) (w : Who) (f : FabJob) : List (Bool × Range) :=
  (t.eaRange p.counted (keyOfWho w) (some (f.lea.toNat, f.lea.toNat + f.op.span f.bytes - 1))).map (fun r => (f.op.lands, r))

/-- A fabric operation that there is room for starts (R253). -/
theorem startFab_room (t : State) {comp : Completion} {f : FabJob} (hlen : p.copies.length < 32)
    (hlock : t.lockRoom p.pav (t.fabLocks p w f).length = true) (hroom : t.fabRoom p.counted f.op f.group (f.targets.headD 0)) :
    t.startFab p.counted w comp f = ((t.copyIssued p.counted (t.fabCopy p w comp f) (t.fabLocks p w f) []).fabStarted p f.op f.group
      (f.targets.headD 0) p.nextOp, .done) := by
  have hlen' : decide (32 ≤ p.counted.copies.length) = false := decide_eq_false (Nat.not_le.2 hlen)
  have hlock' : t.lockRoom p.counted.pav ((t.eaRange p.counted (keyOfWho w)
    (some (f.lea.toNat, f.lea.toNat + f.op.span f.bytes - 1))).map (fun r => (f.op.lands, r))).length = true := hlock
  obtain ⟨op, group, targets, remote, lea, n, step⟩ := f
  cases op with
  | recv ch =>
    have hfull := decide_eq_false (Nat.not_le.2 hroom)
    simp only [State.startFab, hlen', hlock', hfull, Bool.not_true, Bool.or_self, Bool.false_eq_true, if_false]
    simp only [State.copyIssued, List.append_nil]
    rfl
  | _ =>
    have hfull : t.freeTag.isNone = false := by
      have htag : t.freeTag.isSome = true := hroom
      rw [← Option.not_isSome, htag]; rfl
    simp only [State.startFab, hlen', hlock', hfull, Bool.not_true, Bool.or_self, Bool.false_eq_true, if_false]
    simp only [State.copyIssued, List.append_nil]
    rfl

/-- The remote and the local address of a FAB word: in the lane stream, from the group's base and from the scratchpad's window (R252). -/
def fabPlaces (p : Plot) (w : Who) (g : Group) (a : Reg) : DWord × DWord :=
  if streamOf w = .lane then (g.fb + p.regs.zx w (regPlus a 1), windowBase .spad + p.regs.zx w (regPlus a 2))
  else (p.regs.zx w (regPlus a 1), p.regs.zx w (regPlus a 2))

theorem fabPlaces_eq (p : Plot) (w : Who) (g : Group) (a : Reg) :
    (if decide (streamOf w = .lane) then g.fb + p.regs.zx w (regPlus a 1) else p.regs.zx w (regPlus a 1)) = (fabPlaces p w g a).1 ∧
    (if decide (streamOf w = .lane) then windowBase .spad + p.regs.zx w (regPlus a 2) else p.regs.zx w (regPlus a 2)) =
      (fabPlaces p w g a).2 := by
  unfold fabPlaces
  by_cases hl : streamOf w = .lane
  · simp only [hl, decide_true, if_true, and_self]
  · simp only [hl, decide_false, Bool.false_eq_true, if_false, and_self]

/-- The byte count of a FAB word, beside its format field. -/
def fabBytes (p : Plot) (w : Who) (a : Reg) : Nat := (p.regs.zx w (regPlus a 3)).toNat % 2 ^ 24

/-- The transfer registers of a FAB word pass their checks, and name the operation (R252, R253). -/
structure FabRegsOk (t : State) (p : Plot) (w : Who) (a : Reg) (g : Group) (pick : Nat → Option FabOp) (op : FabOp) : Prop where
  remote : (fabPlaces p w g a).1.toNat % 4 = 0
  near : (fabPlaces p w g a).2.toNat % 4 = 0
  pick : pick ((p.regs.zx w (regPlus a 3)).toNat / 2 ^ 24 % 16) = some op
  top : p.regs.zx w (regPlus a 3) >>> 28 = 0#64
  nonzero : fabBytes p w a ≠ 0
  words : fabBytes p w a % 4 = 0
  width : op.widthOk (fabBytes p w a) = true
  range : t.linrOk p.counted (keyOfWho w) (fabPlaces p w g a).2 (op.span (fabBytes p w a)) = true

/-- A FAB word whose registers pass their checks comes to the start of its operation. -/
theorem fabWord_begun {i : Instr} {mcast : Bool} {pick : Nat → Option FabOp} {op : FabOp} {d a : Reg} {comp : Completion} {g : Group}
    {targets : List Nat} (h : Issues s i x w p) (hd : p.drained w = true) (hu : p.regs.zx w d >>> 32 = 0#64)
    (hc : (s.begun x).completionOf p.counted ((p.regs.zx w d).setWidth 32) = some comp) (hring : ∀ o n, comp ≠ .ring o n)
    (ht : (s.begun x).fabTargets p.counted mcast (p.regs.zx w (regPlus a 0)) = some (g, targets))
    (hr : FabRegsOk (s.begun x) p w a g pick op) :
    fabWord mcast pick d a (x.cx w) (s.begun x) = (s.begun x).startFab p.counted w comp
      ⟨op, g.num, targets, (fabPlaces p w g a).1, (fabPlaces p w g a).2, fabBytes p w a, 0#64⟩ := by
  obtain ⟨h1, h2, h3, h4, h5, h6, h7, h8⟩ := hr
  have hd' : p.counted.drained (x.cx w).who = true := hd
  have hu' : reg32 p.counted (x.cx w).who d = .ok ((p.regs.zx w d).setWidth 32) := reg32_ok hu
  have ht' : (s.begun x).fabTargets p.counted mcast (p.counted.regs.zx (x.cx w).who (regPlus a 0)) = some (g, targets) := ht
  have h3' : pick ((p.counted.regs.zx (x.cx w).who (regPlus a 3)).toNat / 2 ^ 24 % 16) = some op := h3
  have h456 : ¬ (p.counted.regs.zx (x.cx w).who (regPlus a 3) >>> 28 ≠ 0#64 ∨
      (p.counted.regs.zx (x.cx w).who (regPlus a 3)).toNat % 2 ^ 24 = 0 ∨
      (p.counted.regs.zx (x.cx w).who (regPlus a 3)).toNat % 2 ^ 24 % 4 ≠ 0 ∨
      (!op.widthOk ((p.counted.regs.zx (x.cx w).who (regPlus a 3)).toNat % 2 ^ 24)) = true) := by
    rintro (e | e | e | e)
    · exact e h4
    · exact h5 e
    · exact e h6
    · exact Bool.eq_false_iff.1 (congrArg not h7) e
  obtain ⟨e1, e2⟩ := fabPlaces_eq p w g a
  have e1' : (if decide (streamOf (x.cx w).who = .lane) = true then g.fb + p.counted.regs.zx (x.cx w).who (regPlus a 1)
    else p.counted.regs.zx (x.cx w).who (regPlus a 1)) = (fabPlaces p w g a).1 := e1
  have e2' : (if decide (streamOf (x.cx w).who = .lane) = true then windowBase .spad + p.counted.regs.zx (x.cx w).who (regPlus a 2)
    else p.counted.regs.zx (x.cx w).who (regPlus a 2)) = (fabPlaces p w g a).2 := e2
  have h1' : ¬ (fabPlaces p w g a).1.toNat % 4 ≠ 0 := not_not.2 h1
  have h2' : ¬ (fabPlaces p w g a).2.toNat % 4 ≠ 0 := not_not.2 h2
  rw [fabWord, withPlot_begun h]
  cases comp with
  | ring o n => exact absurd rfl (hring o n)
  | _ =>
    simp only [hd', hu', hc, ht', e1', e2', if_neg h1', if_neg h2', h3', if_neg h456, Bool.not_true, Bool.false_eq_true, if_false]
    exact if_neg (Bool.eq_false_iff.1 (congrArg not h8))

end

theorem exec_fab {i : Instr} {mcast : Bool} {pick : Nat → Option FabOp} {d a : Reg} {l : Bool} {ch : BitVec 6}
    (hi : (i, mcast, pick) ∈ [(Instr.fabRwrite d a l, false, plainField .rwrite), (.fabRread d a l, false, plainField .rread),
      (.fabRadd d a l, false, raddField), (.fabRatom d a l, false, fun f => (atomOpOf f).map FabOp.ratom),
      (.fabMcast d a l, true, plainField .mcast), (.fabSend d a ch l, false, plainField (.send ch.toNat)),
      (.fabRecv d a ch l, false, plainField (.recv ch.toNat))]) (s : State) : exec i s = runWord i (fabWord mcast pick d a) s := by
  simp only [List.mem_cons, List.not_mem_nil, or_false, Prod.mk.injEq] at hi
  obtain ⟨rfl, rfl, rfl⟩ | ⟨rfl, rfl, rfl⟩ | ⟨rfl, rfl, rfl⟩ | ⟨rfl, rfl, rfl⟩ | ⟨rfl, rfl, rfl⟩ | ⟨rfl, rfl, rfl⟩ | ⟨rfl, rfl, rfl⟩ := hi <;> rfl

theorem fenced_iff (p : Plot) (w : Who) : p.fenced w = true ↔ ∀ c ∈ p.copies, c.isFab = true → c.who = w → c.ended = true := by
  simp [Plot.fenced, or_iff_not_imp_left]

theorem exec_fabRfence {s : State} {x : Issue} {w : Who} {p : Plot} {l : Bool} (h : Issues s (.fabRfence l) x w p) (hd : p.drained w = true) :
    exec (.fabRfence l) s = .next (if p.fenced w then ((s.begun x).releaseAt p.pav .pod).retired x w else (s.begun x).waits x w .rfence) := by
  have hd' : p.counted.drained (x.cx w).who = true := hd
  cases hf : p.fenced w with
  | true =>
    have hf' : p.counted.fenced (x.cx w).who = true := hf
    refine runWord_done h (f := rfenceWord) ?_
    rw [rfenceWord, withPlot_begun h]
    simp only [hd', hf', Bool.not_true, Bool.false_eq_true, if_false, if_true]
    rfl
  | false =>
    have hf' : p.counted.fenced (x.cx w).who = false := hf
    refine runWord_block h (f := rfenceWord) ?_
    rw [rfenceWord, withPlot_begun h]
    simp only [hd', hf', Bool.not_true, Bool.false_eq_true, if_false]

/-- Settles O45: a FAB word by the registers it reads, RFENCE by what it waits for. -/
theorem fabricWords : Obligations.FabricWords := by
  constructor
  · intro s x w p i mcast pick op d a l ch comp g targets hi h hd t u reg hu hc hring ht remote lea n h1 h2 h3 h4 h5 h6 h7 h8 f locks s1
      hlen hlock hroom
    have hplaces : fabPlaces p w g a = (remote, lea) := by
      simp only [fabPlaces, remote, lea]
      split <;> rfl
    have hregs : FabRegsOk t p w a g pick op := by
      refine ⟨?_, ?_, h3, h4, h5, h6, h7, ?_⟩ <;> rw [hplaces] <;> assumption
    have hword := fabWord_begun h hd hu hc hring ht hregs
    rw [hplaces] at hword
    rw [exec_fab hi]
    exact runWord_done h (hword.trans (startFab_room t (f := f) hlen hlock hroom))
  · intro s x w p l h hd ended
    rw [exec_fabRfence h hd]
    exact ⟨fun he => by rw [if_pos ((fenced_iff p w).2 he)], fun he => by rw [if_neg (mt (fenced_iff p w).1 he)]⟩

end Sys2Proof.Machine
end

section
/-! # The COLL words and CONTRIB (R257, R258, R269) -/
namespace Sys2Proof.Machine

/-- A word that only says in uf0 whether it was accepted. -/
def State.flagged (t : State) (x : Issue) (ok : Bool) : State := (t.regsOf x (fun g => g.setFlag .front 0#2 ok)).retired x .front

section
variable {s s1 : State} {x : Issue} {p : Plot} {d a b : Reg} {co : Coll} {g : Group} {bytes : List Byte}

/-- COPEN of a bucket that is open already is refused with code 4. -/
theorem exec_copen_opened (h : Issues s (.copen d a b) x .front p)
    (hrec : (s.begun x).loadRecord p.counted .front (p.regs.s a) 128 .dev = .ok (s1, bytes))
    (hco : s1.readDescriptor p.counted bytes = some co) (hg : s1.group? p.ctx co.group = some g) (ho : g.bucketState co.bucket = .opened) :
    exec (.copen d a b) s = .next ((s1.regsOf x (fun g => (g.setS d 0x10004#64).setFlag .front 0#2 false)).retired x .front) := by
  have hrec' : (s.begun x).loadRecord p.counted (x.cx .front).who (p.counted.regs.s a) 128 .dev = .ok (s1, bytes) := hrec
  have hg' : s1.group? p.counted.ctx co.group = some g := hg
  refine runWord_done h (f := copenWord d a b) ?_
  rw [copenWord, withPlot_begun h]
  simp only [hrec', hco, hg', if_pos ho]
  rfl

theorem exec_copen_fresh {n : Nat} (h : Issues s (.copen d a b) x .front p)
    (hrec : (s.begun x).loadRecord p.counted .front (p.regs.s a) 128 .dev = .ok (s1, bytes))
    (hco : s1.readDescriptor p.counted bytes = some co) (hg : s1.group? p.ctx co.group = some g) (ho : g.bucketState co.bucket ≠ .opened)
    (hn : (List.range 64).find? (fun h => (s1.coll? p.ctx h).isNone) = some n) (hslots : s1.slotsUsed + co.elems ≤ 1048576) :
    exec (.copen d a b) s = .next (((({ s1 with
      colls := s1.colls ++ [({ co with handle := n } : Coll).openStep (co.isHome g.own) (p.regs.s b) s1.unitCycles] } : State).modGroup
        p.ctx co.group (fun g => g.setBucket co.bucket .opened)).regsOf x (fun g =>
          (g.setS d (BitVec.ofNat 64 n)).setFlag .front 0#2 true)).retired x .front) := by
  have hrec' : (s.begun x).loadRecord p.counted (x.cx .front).who (p.counted.regs.s a) 128 .dev = .ok (s1, bytes) := hrec
  have hg' : s1.group? p.counted.ctx co.group = some g := hg
  have hn' : (List.range 64).find? (fun h => (s1.coll? p.counted.ctx h).isNone) = some n := hn
  refine runWord_done h (f := copenWord d a b) ?_
  rw [copenWord, withPlot_begun h]
  simp only [hrec', hco, hg', if_neg ho, hn', if_neg (Nat.not_lt.2 hslots)]
  rfl

/-- A COLL word on a handle that is not open is refused in uf0. -/
theorem runWord_coll_none {i : Instr} (h : Issues s i x .front p) (hc : s.coll? p.ctx (p.regs.s a).toNat = none)
    (f : Cx → Plot → Coll → State → State × Res) : runWord i (collWord a f) s = .next ((s.begun x).flagged x false) :=
  runWord_done h (collWord_none h hc f)

section
variable (hc : s.coll? p.ctx (p.regs.s a).toNat = some co)
include hc

theorem exec_cwait_ended (h : Issues s (.cwait d a) x .front p) (he : co.ended = true) :
    exec (.cwait d a) s = .next ((((s.begun x).invalidateL1 p.pav).regsOf x
      (fun g => (g.setS d co.step).setFlag .front 0#2 true)).retired x .front) := by
  refine runWord_done h (f := cwaitWord d a) ((collWord_some h hc _).trans ?_)
  simp only [Coll.answers, he, Bool.true_or, Bool.not_true, Bool.false_eq_true, if_false, if_true]
  rfl

theorem exec_cwait_waits (h : Issues s (.cwait d a) x .front p) (he : co.ended = false) (hs : co.shorts = 0) :
    exec (.cwait d a) s = .next ((s.begun x).waits x .front (.collective co.handle false)) := by
  refine runWord_block h (f := cwaitWord d a) ((collWord_some h hc _).trans ?_)
  simp only [Coll.answers, he, hs, Nat.lt_irrefl, decide_false, Bool.or_self, Bool.not_false, if_true]

/-- A CWAIT takes a SHORT of a step that has not ended. -/
theorem exec_cwait_short (h : Issues s (.cwait d a) x .front p) (he : co.ended = false) (hs : 0 < co.shorts) :
    exec (.cwait d a) s = .next (((((s.begun x).modColl p.ctx co.handle (fun co => { co with shorts := co.shorts - 1 })).invalidateL1
      p.pav).regsOf x (fun g => (g.setS d co.step).setFlag .front 0#2 false)).retired x .front) := by
  refine runWord_done h (f := cwaitWord d a) ((collWord_some h hc _).trans ?_)
  simp only [Coll.answers, he, decide_eq_true hs, Bool.or_true, Bool.not_true, Bool.false_eq_true, if_false]
  rfl

theorem exec_cstat (h : Issues s (.cstat d a) x .front p) :
    exec (.cstat d a) s = .next (((s.begun x).regsOf x (fun g =>
      (g.setS d (BitVec.ofNat 64 (co.statusWord co.stateCode))).setFlag .front 0#2 true)).retired x .front) :=
  runWord_done h (f := cstatWord d a) (collWord_some h hc _)

/-- A chunk that the greenhouse holds for the collective. -/
def Coll.keeps (co : Coll) (h : HeldChunk) : Bool := h.group == co.group && h.bucket == co.bucket

/-- The status that CCLOSE writes counts the chunks it drops. -/
def State.lastStatus (t : State) (co : Coll) : Coll :=
  { co with dropped := co.dropped + (t.greenhouse.filter co.keeps).length }

theorem exec_cclose_waits (h : Issues s (.cclose a) x .front p) (hn : (s.begun x).contributing p.ctx co.handle = false)
    (hw : (s.begun x).unitWrite co co.statusAddr (((s.begun x).lastStatus co).statusBlock 4) = (.wait, s1)) :
    exec (.cclose a) s = .next (s1.waits x .front (.collective co.handle true)) := by
  have hn' : (s.begun x).contributing p.counted.ctx co.handle = false := hn
  have hw' : (s.begun x).unitWrite co co.statusAddr ({ co with dropped := co.dropped +
    ((s.begun x).greenhouse.filter (fun h : HeldChunk => h.group == co.group && h.bucket == co.bucket)).length }.statusBlock 4) = (.wait, s1) := hw
  refine runWord_block h (f := ccloseWord a) ((collWord_some h hc _).trans ?_)
  simp only [hn', hw', Bool.false_eq_true, if_false]

theorem exec_cclose_ok (h : Issues s (.cclose a) x .front p) (hn : (s.begun x).contributing p.ctx co.handle = false)
    (hw : (s.begun x).unitWrite co co.statusAddr (((s.begun x).lastStatus co).statusBlock 4) = (.ok, s1)) :
    exec (.cclose a) s = .next (((({ s1 with
      colls := s1.colls.filter (fun y => !(y.ctx == p.ctx && y.handle == co.handle))
      greenhouse := s1.greenhouse.filter (fun h => !co.keeps h) } : State).modGroup p.ctx co.group
        (fun g => g.setBucket co.bucket .closed))).flagged x true) := by
  have hn' : (s.begun x).contributing p.counted.ctx co.handle = false := hn
  have hw' : (s.begun x).unitWrite co co.statusAddr ({ co with dropped := co.dropped +
    ((s.begun x).greenhouse.filter (fun h : HeldChunk => h.group == co.group && h.bucket == co.bucket)).length }.statusBlock 4) = (.ok, s1) := hw
  refine runWord_done h (f := ccloseWord a) ((collWord_some h hc _).trans ?_)
  simp only [hn', hw', Bool.false_eq_true, if_false]
  rfl

theorem exec_crepost_refused (h : Issues s (.crepost a) x .front p) (he : co.ended = false) :
    exec (.crepost a) s = .next ((s.begun x).flagged x false) := by
  refine runWord_done h (f := crepostWord a) ((collWord_some h hc _).trans ?_)
  simp only [he, Bool.not_false, if_true]
  rfl

/-- The next step of a collective is open, and the chunks held for it have entered, in arrival order (R269). -/
def State.reposted (t : State) (ctx : Nat) (co : Coll) (g : Group) : State :=
  (t.greenhouse.filter co.keeps).foldl (fun s h => s.enterHeld g ctx co.handle h)
    (({ t with greenhouse := t.greenhouse.filter (fun h => !co.keeps h) } : State).modColl ctx co.handle
      (fun co => co.openStep (co.isHome g.own) (co.step + 1#64) t.unitCycles))

theorem exec_crepost_ended (h : Issues s (.crepost a) x .front p) (he : co.ended = true)
    (hg : (s.begun x).group? p.ctx co.group = some g) (hp : ((s.begun x).reposted p.ctx co g).pumpColl p.ctx co.handle = .ok s1) :
    exec (.crepost a) s = .next (s1.flagged x true) := by
  have hg' : (s.begun x).group? p.counted.ctx co.group = some g := hg
  refine runWord_done h (f := crepostWord a) ((collWord_some h hc _).trans ?_)
  simp only [he, Bool.not_true, Bool.false_eq_true, if_false, hg']
  refine Eq.trans (b := match ((s.begun x).reposted p.ctx co g).pumpColl p.ctx co.handle with
    | .ok s4 => collFlag (x.cx .front) true s4 | .error pa => (s.begun x, .hold (.absent pa))) rfl ?_
  rw [hp]
  rfl

/-- CONTRIB of a step no later than the last is refused. -/
theorem exec_contrib_late {l : DWord} (h : Issues s (.contrib d a b) x .front p) (hl : co.lastContrib = some l)
    (hle : (p.regs.s b).toNat ≤ l.toNat) : exec (.contrib d a b) s = .next ((s.begun x).flagged x false) := by
  have hle' : decide ((p.counted.regs.s b).toNat ≤ l.toNat) = true := decide_eq_true hle
  refine runWord_done h (f := contribWord d a b) ((collWord_some h hc _).trans ?_)
  simp only [hl, hle', if_true]
  rfl

/-- The engine operation of a CONTRIB. -/
def Coll.contribJob (co : Coll) (step : DWord) : FabJob :=
  ⟨.contrib co.handle, co.group, [], 0#64, co.contribAddr, co.elems * co.esz, step⟩

theorem exec_contrib {comp : Completion} (h : Issues s (.contrib d a b) x .front p)
    (hl : ∀ l, co.lastContrib = some l → l.toNat < (p.regs.s b).toNat) (hd : p.regs.s d >>> 32 = 0#64)
    (hcomp : (s.begun x).completionOf p.counted ((p.regs.s d).setWidth 32) = some comp) (hring : ∀ o n, comp ≠ .ring o n)
    (hok : (s.begun x).linrOk p.counted none co.contribAddr (co.elems * co.esz) = true) (hdr : p.drained .front = true)
    (hlen : p.copies.length < 32)
    (hlock : (s.begun x).lockRoom p.pav ((s.begun x).fabLocks p .front (co.contribJob (p.regs.s b))).length = true)
    (htag : (s.begun x).freeTag.isSome = true) :
    exec (.contrib d a b) s = .next ((((s.begun x).copyIssued p.counted ((s.begun x).fabCopy p .front comp (co.contribJob (p.regs.s b)))
      ((s.begun x).fabLocks p .front (co.contribJob (p.regs.s b))) []).modColl p.ctx co.handle
        (fun co => { co with lastContrib := some (p.regs.s b) })).flagged x true) := by
  have hd' : ¬ p.counted.regs.s d >>> 32 ≠ 0#64 := not_not.2 hd
  have hcomp' : (s.begun x).completionOf p.counted ((p.counted.regs.s d).setWidth 32) = some comp := hcomp
  have hdr' : p.counted.drained (x.cx .front).who = true := hdr
  have hlate : (match co.lastContrib with | some t => decide ((p.counted.regs.s b).toNat ≤ t.toNat) | none => false) = false := by
    cases hl' : co.lastContrib with
    | none => rfl
    | some l => exact decide_eq_false (Nat.not_le.2 (hl l hl'))
  have hstart : (s.begun x).startFab p.counted (x.cx .front).who comp
      ⟨.contrib co.handle, co.group, [], 0#64, co.contribAddr, co.elems * co.esz, p.counted.regs.s b⟩ = _ :=
    startFab_room (s.begun x) (f := co.contribJob (p.regs.s b)) hlen hlock htag
  refine runWord_done h (f := contribWord d a b) ((collWord_some h hc _).trans ?_)
  refine (if_neg (Bool.eq_false_iff.1 hlate)).trans ((if_neg hd').trans ?_)
  cases comp with
  | ring o n => exact absurd rfl (hring o n)
  | _ =>
    simp only [hcomp', hok, hdr', hstart, Bool.not_true, Bool.false_eq_true, if_false]
    rfl

end

end

/-- Settles O46, word by word. -/
theorem collectiveWords : Obligations.CollectiveWords := by
  intro s x p d a b t flagged
  refine ⟨fun s1 bytes co g n h hrec hco hg => ⟨exec_copen_opened h hrec hco hg, fun ho hn hs => exec_copen_fresh h hrec hco hg ho hn hs⟩,
    fun hc => ⟨fun h => runWord_coll_none h hc _, fun h => runWord_coll_none h hc _, fun h => runWord_coll_none h hc _,
      fun h => runWord_coll_none h hc _, fun h => runWord_coll_none h hc _⟩, fun co hc => ?_⟩
  refine ⟨exec_cwait_ended hc, exec_cwait_waits hc, exec_cwait_short hc, exec_cstat hc, ?_, exec_crepost_refused hc,
    fun g s4 h he hg hp => exec_crepost_ended hc h he hg hp, fun l h hl hle => exec_contrib_late hc h hl hle, ?_⟩
  · intro s1 h hn mine last
    exact ⟨exec_cclose_waits hc h hn, exec_cclose_ok hc h hn⟩
  · intro comp h hl hd hcomp hring hok hdr f locks hlen hlock htag
    exact exec_contrib hc h hl hd hcomp hring hok hdr hlen hlock htag

end Sys2Proof.Machine
end

section
/-! # The STEP words (R338, R339) -/
namespace Sys2Proof.Machine

/-- A STEP word ends with its result in D and its flag in uf0. -/
def State.stepped (t : State) (x : Issue) (d : Reg) (v : DWord) (ok : Bool) : State :=
  (t.regsOf x (fun g => (g.setS d v).setFlag .front 0#2 ok)).retired x .front

section
variable {s : State} {x : Issue} {p : Plot} {d a b : Reg} {g : Group} {m : Member}

/-- A STEP word on a group of the context, whose meaning gives a result. -/
theorem runWord_step {i : Instr} {f : Cx → Plot → Group → Member → State → State × Res} {t : State} {v : DWord} {ok : Bool}
    (h : Issues s i x .front p) (ha : (p.regs.s a).toNat < 8) (hg : s.group? p.ctx (p.regs.s a).toNat = some g)
    (hm : g.members[g.own]? = some m) (hf : f (x.cx .front) p.counted g m (s.begun x) = stepResult (x.cx .front) d v ok t) :
    runWord i (stepWord a f) s = .next (t.stepped x d v ok) :=
  runWord_done h ((stepWord_ok h ha hg hm f).trans hf)

/-- A LIVE member whose step exceeds m + L is held, and no other (R338). -/
theorem holds_iff (hm : g.members[g.own]? = some m) : g.holds = true ↔ m.state = .live ∧ g.m.toNat + g.lead < m.step.toNat := by
  have hm' : g.self? = some m := hm
  simp [Group.holds, hm']

section
variable (ha : (p.regs.s a).toNat < 8) (hg : s.group? p.ctx (p.regs.s a).toNat = some g) (hm : g.members[g.own]? = some m)
include ha hg hm

theorem exec_sadv_stays (h : Issues s (.sadv d a) x .front p)
    (hs : m.state = .left ∨ (m.state = .absent ∧ m.step.toNat + 1 + g.lead < g.m.toNat)) :
    exec (.sadv d a) s = .next ((s.begun x).stepped x d m.step false) := by
  refine runWord_step h ha hg hm ?_
  obtain hl | ⟨habs, hlt⟩ := hs
  · exact if_pos hl
  · have hl : ¬ m.state = .left := fun e => nomatch habs.symm.trans e
    have hr : m.state = .absent ∧ (!g.reaches (m.step.toNat + 1)) = true :=
      ⟨habs, congrArg not (decide_eq_false (Nat.not_le.2 hlt))⟩
    exact (if_neg hl).trans (if_pos hr)

theorem exec_sadv_moves (h : Issues s (.sadv d a) x .front p)
    (hs : m.state = .live ∨ (m.state = .absent ∧ g.m.toNat ≤ m.step.toNat + 1 + g.lead)) :
    let next := if m.step = allOnes - 1#64 then m.step else m.step + 1#64
    exec (.sadv d a) s = .next ((((s.begun x).modGroup g.ctx g.num (fun g => g.moved next .live)).sendStep g next).stepped x d next true) := by
  intro next
  refine runWord_step h ha hg hm ?_
  have hl : ¬ m.state = .left := by
    rintro e
    obtain hl | ⟨habs, -⟩ := hs
    · exact nomatch hl.symm.trans e
    · exact nomatch habs.symm.trans e
  have hr : ¬ (m.state = .absent ∧ (!g.reaches (m.step.toNat + 1)) = true) := by
    rintro ⟨habs, hno⟩
    obtain hlive | ⟨-, hle⟩ := hs
    · exact nomatch habs.symm.trans hlive
    · have hyes : g.reaches (m.step.toNat + 1) = true := decide_eq_true hle
      rw [hyes] at hno
      exact nomatch hno
  exact (if_neg hl).trans (if_neg hr)

theorem exec_swait_waits (h : Issues s (.swait d a) x .front p) (hh : g.holds = true) :
    exec (.swait d a) s = .next ((s.begun x).waits x .front (.lead g.num)) :=
  runWord_block h ((stepWord_ok h ha hg hm _).trans (if_pos hh))

theorem exec_swait_goes (h : Issues s (.swait d a) x .front p) (hh : ¬ g.holds = true) :
    exec (.swait d a) s = .next ((s.begun x).stepped x d g.minWord (decide (m.state = .live))) :=
  runWord_step h ha hg hm (if_neg hh)

theorem exec_speer {q : Member} (h : Issues s (.speer d a b) x .front p) (hq : g.members[(p.regs.s b).toNat]? = some q) :
    exec (.speer d a b) s = .next ((s.begun x).stepped x d q.step (decide (q.state = .live))) := by
  have hq' : g.members[(p.counted.regs.s b).toNat]? = some q := hq
  refine runWord_done h (f := speerWord d a b) ((stepWord_ok h ha hg hm _).trans ?_)
  simp only [hq']
  rfl

theorem exec_speer_none (h : Issues s (.speer d a b) x .front p) (hq : g.members[(p.regs.s b).toNat]? = none) :
    exec (.speer d a b) s = .next (s.traps x .front .illegal 11 (p.regs.s b)) := by
  have hq' : g.members[(p.counted.regs.s b).toNat]? = none := hq
  refine runWord_trap (t := s.begun x) (f := speerWord d a b) h ((stepWord_ok h ha hg hm _).trans ?_)
  simp only [hq']
  rfl

theorem exec_smin (h : Issues s (.smin d a) x .front p) :
    exec (.smin d a) s = .next ((s.begun x).stepped x d g.minWord g.min?.isSome) :=
  runWord_step h ha hg hm rfl

theorem exec_sabs_stays (h : Issues s (.sabs d a b) x .front p) (hs : m.state = .left ∨ (p.regs.s b).toNat < m.step.toNat) :
    exec (.sabs d a b) s = .next ((s.begun x).stepped x d m.step (decide (m.state = .live))) :=
  runWord_step h ha hg hm (if_pos hs)

theorem exec_sabs_leaves (h : Issues s (.sabs d a b) x .front p) (hl : m.state ≠ .left) (hle : m.step.toNat ≤ (p.regs.s b).toNat)
    (ho : p.regs.s b = allOnes) :
    exec (.sabs d a b) s = .next ((((s.begun x).modGroup g.ctx g.num (fun g => g.moved m.step .left)).sendStep g (p.regs.s b)).stepped
      x d m.step false) := by
  have hs : ¬ (m.state = .left ∨ (p.counted.regs.s b).toNat < m.step.toNat) := fun e => e.elim hl (Nat.not_lt.2 hle)
  exact runWord_step h ha hg hm ((if_neg hs).trans (if_pos ho))

theorem exec_sabs_live (h : Issues s (.sabs d a b) x .front p) (hl : m.state = .live) (hle : m.step.toNat ≤ (p.regs.s b).toNat)
    (ho : p.regs.s b ≠ allOnes) :
    exec (.sabs d a b) s = .next ((((s.begun x).modGroup g.ctx g.num (fun g => g.moved (p.regs.s b) .live)).sendStep g (p.regs.s b)).stepped
      x d (p.regs.s b) true) := by
  have hs : ¬ (m.state = .left ∨ (p.counted.regs.s b).toNat < m.step.toNat) :=
    fun e => e.elim (fun e => nomatch hl.symm.trans e) (Nat.not_lt.2 hle)
  have hst : (if (m.state = .absent && g.reaches (p.counted.regs.s b).toNat) then MemberState.live else m.state) = .live := by
    simp only [hl, ite_self]
  refine runWord_step h ha hg hm ((if_neg hs).trans ((if_neg ho).trans ?_))
  simp only [hst]
  rfl

theorem exec_slead_none (h : Issues s (.slead d a) x .front p) (hn : g.min? = none) :
    exec (.slead d a) s = .next ((s.begun x).stepped x d allOnes false) := by
  refine runWord_done h (f := sleadWord d a) ((stepWord_ok h ha hg hm _).trans ?_)
  simp only [hn]
  rfl

theorem exec_slead_some {n : Nat} (h : Issues s (.slead d a) x .front p) (hn : g.min? = some n) :
    exec (.slead d a) s = .next ((s.begun x).stepped x d (BitVec.ofInt 64 ((n : Int) + g.lead - m.step.toNat))
      (decide (m.step.toNat ≤ n + g.lead))) := by
  have hdec : decide (0 ≤ (n : Int) + g.lead - m.step.toNat) = decide (m.step.toNat ≤ n + g.lead) := decide_eq_decide.2 (by omega)
  refine runWord_done h (f := sleadWord d a) ((stepWord_ok h ha hg hm _).trans ?_)
  simp only [hn, hdec]
  rfl

end

end

/-- Settles O47, word by word. -/
theorem stepWords : Obligations.StepWords := by
  intro s x p d a b g m ha hg hm t y res ones
  refine ⟨fun h => ⟨fun hl => exec_sadv_stays ha hg hm h (.inl hl), fun habs hlt => exec_sadv_stays ha hg hm h (.inr ⟨habs, hlt⟩),
      exec_sadv_moves ha hg hm h⟩,
    fun h => ⟨fun hl hlt => exec_swait_waits ha hg hm h ((holds_iff hm).2 ⟨hl, hlt⟩),
      fun hno => exec_swait_goes ha hg hm h (mt (holds_iff hm).1 hno)⟩,
    fun h => ⟨fun q => exec_speer ha hg hm h, exec_speer_none ha hg hm h⟩, exec_smin ha hg hm,
    fun h => ⟨exec_sabs_stays ha hg hm h, exec_sabs_leaves ha hg hm h, exec_sabs_live ha hg hm h⟩,
    fun h => ⟨exec_slead_none ha hg hm h, fun n => exec_slead_some ha hg hm h⟩⟩

end Sys2Proof.Machine
end

section
/-! # The TRL words (R328, R329, R332) -/
namespace Sys2Proof.Machine

theorem high32_ok {p : Plot} {w : Who} {a : Reg} (h : p.regs.zx w a >>> 32 = 0#64) : high32 p w a = none := if_pos h

/-- The plot is a stage group of the trellis whose stage may not emit to stage k. -/
def Plot.barredFrom (p : Plot) (tr : Trellis) (k : Nat) : Prop :=
  ∃ j qj, p.stageOf tr = some j ∧ tr.stage? j = some qj ∧ qj.succ.getLsbD k = false

section
variable {s t : State} {x : Issue} {w : Who} {p : Plot} {d a b : Reg} {tr : Trellis} {k : Nat} {q : Stage} {emits : Bool}

section
variable (hi : tagsOk indexAccepts p.regs w [a]) (hz : p.regs.zx w a >>> 32 = 0#64)
include hi hz

theorem trlTarget_none (ht : t.targetOf p.ctx ((p.regs.zx w a).setWidth 32) = none) :
    t.trlTarget p.counted w a emits = .error (illegalEntry (((p.regs.zx w a).setWidth 32).setWidth 64)) := by
  have htag : tag32 p.counted w a = none := tag32_ok hi
  have hhigh : high32 p.counted w a = none := high32_ok hz
  have ht' : t.targetOf p.counted.ctx (low32 p.counted w a) = none := ht
  simp only [State.trlTarget, htag, hhigh, ht']
  rfl

/-- A target that is a stage, and that the emitter may emit to where it would: what is left is the record's depth. -/
theorem trlTarget_some (ht : t.targetOf p.ctx ((p.regs.zx w a).setWidth 32) = some (tr, k)) (hq : tr.stage? k = some q)
    (hb : emits = true → (∀ j, p.stageOf tr = some j → (tr.stage? j).isSome = true) ∧ ¬ p.barredFrom tr k) :
    t.trlTarget p.counted w a emits = if (emits && decide (q.maxDepth < p.emitDepth tr w)) = true then
        .error (.trap .depth 0 (BitVec.ofNat 64 (((p.regs.zx w a).setWidth 32).toNat + 2 ^ 32 * (p.emitDepth tr w % 32))))
      else .ok (tr, k, p.emitDepth tr w) := by
  have htag : tag32 p.counted w a = none := tag32_ok hi
  have hhigh : high32 p.counted w a = none := high32_ok hz
  have ht' : t.targetOf p.counted.ctx (low32 p.counted w a) = some (tr, k) := ht
  have hbar : (emits && (match p.counted.stageOf tr with
      | some j => match tr.stage? j with | some q => !q.succ.getLsbD k | none => true
      | none => false)) = false := by
    cases emits with
    | false => rfl
    | true =>
      obtain ⟨hstage, hno⟩ := hb rfl
      have hcounted : p.counted.stageOf tr = p.stageOf tr := rfl
      rw [hcounted]
      cases hj : p.stageOf tr with
      | none => rfl
      | some j =>
        obtain ⟨qj, hqj⟩ := Option.isSome_iff_exists.1 (hstage j hj)
        simp only [hqj, Bool.true_and, Bool.not_eq_false']
        exact Bool.not_eq_false _ ▸ fun hs => hno ⟨j, qj, hj, hqj, hs⟩
  simp only [State.trlTarget, htag, hhigh, ht', hq]
  exact (if_neg (Bool.eq_false_iff.1 hbar)).trans rfl

end

/-- EMIT and EMITW report the tag of their target before anything else. -/
theorem emitWord_format {i : Instr} {n : Nat} {limit : Plot → Who → Except Res Nat} (h : Issues s i x (.strand n) p)
    (hi : indexAccepts (p.regs.v n a).tag = false) :
    runWord i (emitWord a b limit) s =
      .next (s.traps x (.strand n) .format 0 (BitVec.ofNat 64 (a.toNat + 256 * Tag.code (p.regs.v n a).tag))) := by
  have htag : tag32 p.counted (x.cx (.strand n)).who a = _ := tag32_format (w := .strand n) hi
  refine runWord_trap (t := s.begun x) h (f := emitWord a b limit) ?_
  rw [emitWord, withPlot_begun h]
  simp only [htag]
  rfl

/-- What EMIT and EMITW do with the limit n once their checks have passed. -/
def emitted (c : Cx) (p : Plot) (tr : Trellis) (k depth n : Nat) (a b : Reg) (s : State) : State × Res :=
  let flag := fun (s : State) (ok : Bool) => s.modPlot c.plot (fun p => p.modRegs (fun g => g.setFlag c.who 0#2 ok))
  if !p.drained c.who then (s, .hold .stall)
  else if tr.room k then (flag (s.emitFrom p tr.id k depth (p.regs.recordWords c.who b)) true, .done)
  else if n = 0 then (flag s false, .done)
  else (s, .block (.emitw a b n))

theorem emitWord_begun {i : Instr} {n : Nat} {limit : Plot → Who → Except Res Nat} (h : Issues s i x w p)
    (hi : tagsOk indexAccepts p.regs w [a]) (hl : limit p.counted w = .ok n) :
    emitWord a b limit (x.cx w) (s.begun x) = match (s.begun x).trlTarget p.counted w a true with
      | .error r => (s.begun x, r)
      | .ok (tr, k, depth) => emitted (x.cx w) p.counted tr k depth n a b (s.begun x) := by
  have htag : tag32 p.counted (x.cx w).who a = none := tag32_ok hi
  have hl' : limit p.counted (x.cx w).who = .ok n := hl
  rw [emitWord, withPlot_begun h]
  simp only [htag, hl']
  rfl

/-- EMIT, with n = 0, and EMITW of a record that is not too deep for a stage that it may go to. -/
theorem runWord_emitted {i : Instr} {n : Nat} {limit : Plot → Who → Except Res Nat} (h : Issues s i x w p)
    (hi : tagsOk indexAccepts p.regs w [a]) (hl : limit p.counted w = .ok n)
    (ht : (s.begun x).trlTarget p.counted w a true = .ok (tr, k, p.emitDepth tr w)) (hd : p.drained w = true) :
    runWord i (emitWord a b limit) s = .next (
      if tr.room k then (((s.begun x).emitFrom p.counted tr.id k (p.emitDepth tr w) (p.regs.recordWords w b)).regsOf x
        (fun g => g.setFlag w 0#2 true)).retired x w
      else if n = 0 then ((s.begun x).regsOf x (fun g => g.setFlag w 0#2 false)).retired x w
      else (s.begun x).waits x w (.emitw a b n)) := by
  have hd' : p.counted.drained (x.cx w).who = true := hd
  have hword : emitWord a b limit (x.cx w) (s.begun x) =
      emitted (x.cx w) p.counted tr k (p.emitDepth tr w) n a b (s.begun x) := by
    rw [emitWord_begun h hi hl, ht]
  simp only [emitted, hd', Bool.not_true, Bool.false_eq_true, if_false] at hword
  by_cases hr : tr.room k = true
  · rw [if_pos hr] at hword ⊢
    exact runWord_done h hword
  · rw [if_neg hr] at hword ⊢
    by_cases hn : n = 0
    · rw [if_pos hn] at hword ⊢
      exact runWord_done h hword
    · rw [if_neg hn] at hword ⊢
      exact runWord_block h hword

theorem emitLimit_ok (hi : tagsOk indexAccepts p.regs w [d]) : emitLimit d p.counted w = .ok ((p.regs.zx w d).setWidth 32).toNat := by
  have htag : tag32 p.counted w d = none := tag32_ok hi
  simp only [emitLimit, htag]
  rfl

theorem exec_qstat {depth : Nat} (h : Issues s (.qstat d a) x w p) (ht : (s.begun x).trlTarget p.counted w a false = .ok (tr, k, depth))
    (hq : tr.stage? k = some q) :
    exec (.qstat d a) s = .next (((s.begun x).regsOf x (fun g => (match w with
      | .front => g.setS d (BitVec.ofNat 64 (q.recs.length + 2 ^ 32 * (tr.pool - tr.held)))
      | .strand _ => g.setR w d .z32 (BitVec.ofNat 32 q.recs.length)).setFlag w 0#2 (tr.room k))).retired x w) := by
  have ht' : (s.begun x).trlTarget p.counted (x.cx w).who a false = .ok (tr, k, depth) := ht
  refine runWord_done h (f := qstatWord d a) ?_
  rw [qstatWord, withPlot_begun h]
  simp only [ht', hq]
  cases w <;> rfl

theorem exec_depth {depth : Nat} (h : Issues s (.depth d a) x w p) (ht : (s.begun x).trlTarget p.counted w a false = .ok (tr, k, depth))
    (hq : tr.stage? k = some q) :
    let left := BitVec.ofInt 64 ((q.maxDepth : Int) - depth)
    exec (.depth d a) s = .next (((s.begun x).regsOf x (fun g => (match w with
      | .front => g.setS d left
      | .strand _ => g.setR w d .s32 (left.setWidth 32)).setFlag w 0#2 (decide (depth ≤ q.maxDepth)))).retired x w) := by
  have ht' : (s.begun x).trlTarget p.counted (x.cx w).who a false = .ok (tr, k, depth) := ht
  intro left
  refine runWord_done h (f := depthWord d a) ?_
  rw [depthWord, withPlot_begun h]
  simp only [ht', hq, Int.ofNat_le]
  cases w <;> rfl

end

/-- Settles O48: each word by the target that it reads. -/
theorem trellisWords : Obligations.TrellisWords := by
  intro s x w p d a b tr k q t u depth barred flagged
  refine ⟨?_, fun hi hz => ⟨fun ht h => ?_, fun ht hq hst => ⟨fun hb hdeep h => ?_, fun hb hle hd => ?_, fun h => ?_, fun h => ?_⟩⟩⟩
  · rintro n rfl hi e
    exact ⟨fun h => emitWord_format h hi, fun h => emitWord_format h hi⟩
  · refine runWord_trap (t := t) h (f := emitWord a b fun _ _ => .ok 0) ?_
    rw [emitWord_begun h hi rfl, trlTarget_none (t := s.begun x) hi hz ht]
    rfl
  · have htr : t.trlTarget p.counted w a true = .error (.trap .depth 0 (BitVec.ofNat 64 (u.toNat + 2 ^ 32 * (depth % 32)))) :=
      (trlTarget_some hi hz ht hq fun _ => ⟨hst, hb⟩).trans (if_pos (decide_eq_true hdeep))
    refine runWord_trap (t := t) h (f := emitWord a b fun _ _ => .ok 0) ?_
    rw [emitWord_begun h hi rfl, htr]
  · have htr : t.trlTarget p.counted w a true = .ok (tr, k, depth) :=
      (trlTarget_some hi hz ht hq fun _ => ⟨hst, hb⟩).trans (if_neg (Bool.eq_false_iff.1 (decide_eq_false (Nat.not_lt.2 hle))))
    exact ⟨fun h => runWord_emitted (n := 0) (limit := fun _ _ => .ok 0) h hi rfl htr hd, fun h hl => runWord_emitted h hi (emitLimit_ok hl) htr hd⟩
  · exact exec_qstat h (trlTarget_some hi hz ht hq nofun) hq
  · exact exec_depth h (trlTarget_some hi hz ht hq nofun) hq

end Sys2Proof.Machine
end

section
/-! # The packets without a launch or a registration (R343–R347, R353) -/
namespace Sys2Proof.Machine

section
variable {s s1 s2 : State} {k : Pk} {x : Queue}

theorem exec_packetNop (h : Heads s k 0 x s1) (ha : s1.canAdvance k) : exec (.packetNop k.ctx k.q) s = .next (s1.advanced k) :=
  take_ok (ops := fun op => op == 0) (f := fun _ s => .take s) h rfl (by decide) rfl ha

theorem exec_signal (h : Heads s k 3 x s1) (hal : k.wide 8 % 8 = 0)
    (hs : s1.signal k.ctx (k.va 8) (k.bits 4 0 1 == 0) (k.va 16) = (.ok, s2)) (ha : s2.canAdvance k) :
    exec (.signal k.ctx k.q) s = .next (s2.advanced k) := by
  refine take_ok (ops := fun op => op == 3) (f := signalPacket) h rfl (by decide) ((if_neg (not_not.2 hal)).trans ?_) ha
  simp only [State.signalOr, hs]

/-- A WAITSIG reads its word, and goes on where the word has come up to its value. -/
theorem waitsigPacket_eq {l : List Byte} (hal : k.wide 8 % 8 = 0) (hr : s1.gateRead k.ctx (k.va 8) 8 = (.ok, s2, l)) :
    waitsigPacket k s1 = if (BitVec.ofNat 64 (leNat l) - k.va 16).msb then .hold s2 else .take s2 :=
  (if_neg (not_not.2 hal)).trans (block_ok hr _)

/-- A later read of a waiting queue is the same read. -/
theorem exec_waitsigPoll (h : Heads s k 4 x s1) (hw : x.waiting = true) : exec (.waitsigPoll k.ctx k.q) s = exec (.waitsig k.ctx k.q) s := by
  show execWaitsigPoll k.ctx k.q s = execWaitsig k.ctx k.q s
  simp only [execWaitsigPoll, h.queue, hw, if_true]
  rfl

theorem exec_waitsig_goes {l : List Byte} (h : Heads s k 4 x s1) (hal : k.wide 8 % 8 = 0)
    (hr : s1.gateRead k.ctx (k.va 8) 8 = (.ok, s2, l)) (hv : (BitVec.ofNat 64 (leNat l) - k.va 16).msb = false) (ha : s2.canAdvance k) :
    exec (.waitsig k.ctx k.q) s = .next (s2.advanced k) :=
  take_ok (ops := fun op => op == 4) h rfl (by decide) ((waitsigPacket_eq hal hr).trans (if_neg (Bool.eq_false_iff.1 hv))) ha

theorem exec_waitsig_holds {l : List Byte} (h : Heads s k 4 x s1) (hal : k.wide 8 % 8 = 0)
    (hr : s1.gateRead k.ctx (k.va 8) 8 = (.ok, s2, l)) (hv : (BitVec.ofNat 64 (leNat l) - k.va 16).msb = true) :
    exec (.waitsig k.ctx k.q) s = .next (s2.modQueue k.ctx k.q (fun x => { x with waiting := true })) :=
  hold_ok (ops := fun op => op == 4) h rfl (by decide) ((waitsigPacket_eq hal hr).trans (if_pos hv))

/-- BUFDEP of mode 2 takes the handle out of the table. -/
theorem exec_bufdep_forget {c : Context} (h : Heads s k 5 x s1) (hc : s1.ctx? k.ctx = some c) (hm : k.bits 4 16 2 = 2)
    (ha : (s1.modCtx k.ctx (fun c => { c with handles := c.handles.filter (fun y => y.num != k.bits 4 0 16) })).canAdvance k) :
    exec (.bufdep k.ctx k.q) s =
      .next ((s1.modCtx k.ctx (fun c => { c with handles := c.handles.filter (fun y => y.num != k.bits 4 0 16) })).advanced k) := by
  refine take_ok (ops := fun op => op == 5) (f := bufdepPacket) h rfl (by decide) ?_ ha
  simp only [bufdepPacket, hc, hm]

/-- BUFDEP of modes 0 and 1 goes on once the handle's writer has completed, and its readers where the mode asks for them. -/
theorem bufdepPacket_waits {c : Context} (hc : s1.ctx? k.ctx = some c) (hm : k.bits 4 16 2 < 2)
    (hh : ∀ h, c.handle? (k.bits 4 0 16) = some h → s1.writerDone h = true ∧ (k.bits 4 16 2 = 0 ∨ s1.readersDone h = true)) :
    bufdepPacket k s1 = .take s1.invalidateAll := by
  have hmode : k.bits 4 16 2 = 0 ∨ k.bits 4 16 2 = 1 := by omega
  simp only [bufdepPacket, hc]
  cases he : c.handle? (k.bits 4 0 16) with
  | none => obtain hm | hm := hmode <;> simp only [hm]
  | some e =>
    obtain ⟨hwriter, hreaders⟩ := hh e he
    obtain hm | hm := hmode
    · simp only [hm, hwriter, beq_self_eq_true, Bool.true_or, Bool.and_self, if_true]
    · have hread : s1.readersDone e = true := hreaders.resolve_left (by omega)
      simp only [hm, hwriter, hread, Bool.or_true, Bool.and_self, if_true]

theorem exec_rkinit (h : Heads s k 9 x s1) (hs : s1.modCtx k.ctx (fun c =>
      { c with rk := c.rk.mapFinIdx (fun i v _ => if Nat.testBit (k.bits 4 0 4) i then k.va (8 + 8 * i) else v) }) = s2)
    (ha : s2.canAdvance k) : exec (.rkinit k.ctx k.q) s = .next (s2.advanced k) := by
  subst hs
  exact take_ok (ops := fun op => op == 9) (f := rkinitPacket) h rfl (by decide) rfl ha

section
variable {own y : Queue} (ho : s1.queue? k.ctx k.q = some own) (hp : own.privq = true)
  (hy : s1.queue? (k.bits 4 0 6) (k.bits 4 6 4) = some y) (hv : k.va 16 = 0#64)
include ho hp hy hv

/-- REPAIR of a queue in ERROR gives it its read index, and the queue goes on (R347). -/
theorem exec_repair_mends (h : Heads s k 10 x s1) (he : y.error = true) (hle : (y.wr - BitVec.ofNat 32 (k.word 8)).toNat ≤ 2 ^ y.log2)
    (hw : s1.gateWrite (k.bits 4 0 6) y.readWord (natBytes (BitVec.ofNat 32 (k.word 8)).toNat 4) = (.ok, s2))
    (ha : (s2.modQueue (k.bits 4 0 6) (k.bits 4 6 4) (fun x =>
      { x with rd := BitVec.ofNat 32 (k.word 8), error := false, waiting := false })).canAdvance k) :
    exec (.repair k.ctx k.q) s = .next ((s2.modQueue (k.bits 4 0 6) (k.bits 4 6 4) (fun x =>
      { x with rd := BitVec.ofNat 32 (k.word 8), error := false, waiting := false })).advanced k) := by
  refine take_ok (ops := fun op => op == 10) (f := repairPacket) h rfl (by decide) ?_ ha
  simp only [repairPacket, ho, hp, hy, hv, he, if_neg (Nat.not_lt.2 hle), State.writeReadWord, hw, Bool.not_true, Bool.false_eq_true, if_false,
    if_true]

theorem exec_repair_passes (h : Heads s k 10 x s1) (he : y.error = false) (ha : s1.canAdvance k) :
    exec (.repair k.ctx k.q) s = .next (s1.advanced k) := by
  refine take_ok (ops := fun op => op == 10) (f := repairPacket) h rfl (by decide) ?_ ha
  simp only [repairPacket, ho, hp, hy, hv, he, Bool.not_true, Bool.false_eq_true, if_false, if_true]

end

/-- An opcode above 10 puts its queue in ERROR, with reason 1 (R345). -/
theorem exec_unknownOpPacket {op : Nat} (h : Heads s k op x s1) (hop : 11 ≤ op) :
    exec (.unknownOpPacket k.ctx k.q) s = .next (s1.queueError k.ctx k.q op 1 (BitVec.ofNat 32 (k.word 0)) 0) := by
  obtain ⟨hplacing, hswitch, hen, herr, hne⟩ := h.goes
  have hne' : (x.rd == x.wr) = false := beq_eq_false_iff_ne.2 hne
  have hk : (⟨k.ctx, k.q, k.bytes⟩ : Pk) = k := rfl
  show takePacket k.ctx k.q (fun op => decide (11 ≤ op)) (fun _ s => .hold s) s = _
  simp only [takePacket, h.queue, hplacing, hswitch, hen, herr, hne', h.read, hk, h.opcode, decide_eq_true hop, if_pos hop, Bool.not_true,
    Bool.or_self, Bool.false_eq_true, if_false]

/-- Settles O49, packet by packet. -/
theorem packetsTaken : Obligations.PacketsTaken := by
  intro s s1 k x
  refine ⟨exec_packetNop, fun s2 h => exec_signal h, fun s2 l h hal hr => ⟨fun hv ha => ?_, fun hv => ?_⟩,
    fun c h hc => ⟨exec_bufdep_forget h hc, fun hm hh ha => take_ok (ops := fun op => op == 5) h rfl (by decide) (bufdepPacket_waits hc hm hh) ha⟩,
    fun h ha => exec_rkinit h rfl ha, fun own y s2 h ho hp hy hv => ⟨exec_repair_mends ho hp hy hv h, exec_repair_passes ho hp hy hv h⟩,
    fun op h hop => exec_unknownOpPacket h hop⟩
  · have hgo := exec_waitsig_goes h hal hr hv ha
    exact ⟨hgo, fun hw => (exec_waitsigPoll h hw).trans hgo⟩
  · have hhold := exec_waitsig_holds h hal hr hv
    exact ⟨hhold, fun hw => (exec_waitsigPoll h hw).trans hhold⟩

end

end Sys2Proof.Machine
end

section
/-! # Launches and registrations (R189, R192, R202, R248, R322, R334, R348–R350, R413) -/
namespace Sys2Proof.Machine

section
variable {s s1 s2 s3 s4 : State} {k : Pk} {x : Queue} {c : Context}

theorem launchPacket_ok {args : List Byte} (hc : s1.ctx? k.ctx = some c) (hlim : s1.launchLimit c k = none) :
    let p := k.bits 44 0 6
    let h := k.bits 44 6 5
    let ws := (List.range h).map (fun i => leField args (8 * p + 4 * i) 4)
    let hs := ws.map handleEntry
    s1.gateRead k.ctx (k.va 48) (8 * p + 4 * h) = (.ok, s2, args) → (∀ w ∈ ws, w < 2 ^ 18) →
    c.handles.length + (c.newHandles hs).length ≤ 4096 → hs.all (s2.handleFree c) = true →
    launchPacket k s1 = .take ((if hs.any (fun e => (c.handle? e.1).isSome) then s2.invalidateAll else s2).addLaunch (s2.newLaunch c k args hs)) := by
  intro p h ws hs hread hws hlen hfree
  have hws' : ws.any (fun w => w / 2 ^ 18 != 0) = false := by
    refine List.any_eq_false.2 fun w hw => ?_
    rw [Nat.div_eq_of_lt (hws w hw)]
    exact Bool.false_ne_true
  simp only [launchPacket, hc, hlim]
  refine (block_ok hread _).trans ((if_neg (Bool.eq_false_iff.1 hws')).trans ((if_neg (Nat.not_lt.2 hlen)).trans (if_neg ?_)))
  exact Bool.eq_false_iff.1 (congrArg not hfree)

/-- A LAUNCH with a field past its limit is an error of reason 3 at that field. -/
theorem launchPacket_limit {off : Nat} (hc : s1.ctx? k.ctx = some c) (hlim : s1.launchLimit c k = some off) :
    launchPacket k s1 = .error s1 3 off := by
  simp only [launchPacket, hc, hlim]

theorem findSome_zipIdx_none {α β : Type} {l : List α} {f : α → Option β} {g : α × Nat → β → β} (h : ∀ y ∈ l, f y = none) :
    l.zipIdx.findSome? (fun x => (f x.1).map (g x)) = none :=
  findSome_none fun y hy => by rw [h y.1 (List.mem_of_getElem? (List.mem_zipIdx_iff_getElem?.1 hy)), Option.map_none]

theorem trellisPacket_ok {h e b : List Byte} {seeds : List (List Word × Nat)} (hc : s1.ctx? k.ctx = some c)
    (hal : (k.va 8).toNat % 64 = 0) (hread : s1.gateRead k.ctx (k.va 8) 64 = (.ok, s2, h)) (hres : trellisReserved h = none)
    (hlim : s2.trellisLimit h = none) :
    let n := leField h 0 2 % 128
    let entries := (List.range n).map (fun i => sliceBytes e i 64)
    let count := leField h 32 8 % 2 ^ 21
    s2.gateRead k.ctx (k.va 8 + 64#64) (64 * n) = (.ok, s3, e) → (∀ y ∈ entries, stageReserved y = none ∧ s3.stageLimit y = none) →
    s3.gateRead k.ctx (BitVec.ofNat 64 (leField h 24 8)) (64 * count) = (.ok, s4, b) →
    (List.range count).mapM (fun i => seedOf n (sliceBytes b i 64)) = some seeds →
    seedsFit (entries.map stageOf) (leField h 8 8 % 2 ^ 23) seeds = true →
    trellisPacket k s1 = .take (s4.addTrellis c k h (entries.map stageOf) seeds) := by
  intro n entries count hreadE hentries hreadB hseeds hfit
  have hreserved := findSome_zipIdx_none (g := fun x o => 64 * (1 + x.2) + o) (fun y hy => (hentries y hy).1)
  have hlimits := findSome_zipIdx_none (g := fun x o => 64 * (1 + x.2) + o) (fun y hy => (hentries y hy).2)
  simp only [trellisPacket, hc]
  refine (if_neg (not_not.2 hal)).trans ((block_ok hread _).trans ?_)
  simp only [hres, hlim]
  refine (block_ok hreadE _).trans ?_
  simp only [entries, n] at hreserved hlimits
  simp only [hreserved, hlimits]
  refine (block_ok hreadB _).trans ?_
  simp only [n, count] at hseeds
  simp only [hseeds]
  exact if_pos hfit

/-- VIEWREG marks a registered region for removal. -/
theorem viewregPacket_removes {v : ViewRegion} (hb : k.bits 4 16 1 = 1) (hv : s1.views.find? (fun r => r.num == k.bits 4 0 10) = some v) :
    viewregPacket k s1 = .take { s1 with views := s1.views.map (fun r => if r.num == k.bits 4 0 10 then
      { r with removing := r.removing.or (some (s1.launches.map (fun l => l.id))) } else r) } := by
  simp only [viewregPacket, if_pos hb, hv]
  rfl

/-- The view region that a VIEWREG registers. -/
def Pk.viewRegion (k : Pk) : ViewRegion := ⟨k.bits 4 0 10, k.wide 8, k.word 16, k.word 20, k.bits 24 0 3, none⟩

theorem viewregPacket_registers (hb : k.bits 4 16 1 = 0) (hlim : s1.viewLimit k.viewRegion.num k.viewRegion = none) :
    viewregPacket k s1 = .take { s1.clearView k.viewRegion with views := (s1.clearView k.viewRegion).views ++ [k.viewRegion] } := by
  have hlim' : s1.viewLimit (k.bits 4 0 10) ⟨k.bits 4 0 10, k.wide 8, k.word 16, k.word 20, k.bits 24 0 3, none⟩ = none := hlim
  simp only [viewregPacket, hb, Nat.zero_ne_one, if_false, hlim']
  rfl

end

/-- An address, in any view, of device memory in the region's extent. -/
abbrev ViewRegion.Mine (r : ViewRegion) (a : Nat) : Prop := r.base ≤ a % 2 ^ 50 ∧ a % 2 ^ 50 < r.base + r.extent

theorem mine_iff (r : ViewRegion) (a : Nat) :
    (decide (r.base ≤ a % 2 ^ 50) && decide (a % 2 ^ 50 < r.base + r.extent)) = true ↔ r.Mine a := by
  rw [Bool.and_eq_true, decide_eq_true_iff, decide_eq_true_iff]

/-- An address of the row view is one below 2^50. -/
theorem aperture_zero_iff (a : Nat) : (apertureOf a == 0) = true ↔ a < 2 ^ 50 := by
  simp [apertureOf]

section
variable (s : State) (r : ViewRegion)

/-- The dirty sectors that clearing a region writes back are those of its extent in the row view. -/
theorem clearView_dev :
    (s.clearView r).mem.dev =
      ((s.mem.sectors.filter (fun y => decide (r.Mine y.addr) && decide (y.addr < 2 ^ 50))).foldl State.writeBack s).mem.dev := by
  have hfilter : s.mem.sectors.filter (fun y => decide (r.Mine y.addr) && decide (y.addr < 2 ^ 50)) =
      s.mem.sectors.filter (fun x => (decide (r.base ≤ x.addr % 2 ^ 50) && decide (x.addr % 2 ^ 50 < r.base + r.extent)) &&
        apertureOf x.addr == 0) := by
    refine List.filter_congr fun y _ => Bool.eq_iff_iff.2 ?_
    rw [Bool.and_eq_true, Bool.and_eq_true, mine_iff, aperture_zero_iff, decide_eq_true_iff, decide_eq_true_iff]
  rw [hfilter]
  rfl

theorem mem_clearView_sectors (y : Sector) : y ∈ (s.clearView r).mem.sectors ↔ y ∈ s.mem.sectors ∧ ¬ r.Mine y.addr := by
  obtain ⟨dev, hdev⟩ := writeBacks_rest (s.mem.sectors.filter (fun x =>
    (decide (r.base ≤ x.addr % 2 ^ 50) && decide (x.addr % 2 ^ 50 < r.base + r.extent)) && apertureOf x.addr == 0)) s
  have hsectors : (s.clearView r).mem.sectors = s.mem.sectors.filter (fun x =>
      !(decide (r.base ≤ x.addr % 2 ^ 50) && decide (x.addr % 2 ^ 50 < r.base + r.extent))) := by
    simp only [State.clearView, hdev]
  rw [hsectors, List.mem_filter, Bool.not_eq_true', ← Bool.not_eq_true, mine_iff]

/-- Once a region is cleared, a line of its extent in an L1 is one of the row view. -/
theorem clearView_l1 {v : Pavilion} (hv : v ∈ (s.clearView r).pavs) {y : Line} (hy : y ∈ v.l1) (hm : r.Mine (128 * y.addr)) :
    128 * y.addr < 2 ^ 50 := by
  simp only [State.clearView, List.mem_map] at hv
  obtain ⟨v0, -, rfl⟩ := hv
  have hkeep := (List.mem_filter.1 hy).2
  rw [(mine_iff r _).2 hm, Bool.not_true, Bool.or_false, aperture_zero_iff] at hkeep
  exact hkeep

end

section
variable {s s1 s2 : State} {k : Pk}

theorem verregPacket_removes {r : VRegion} (hb : k.bits 4 15 1 = 1)
    (hr : s1.vregs.find? (fun r => r.num == k.bits 4 0 8 && r.ctx == k.ctx) = some r) :
    verregPacket k s1 = .take { s1.writeEntries r r.entries with
      vregs := (s1.writeEntries r r.entries).vregs.filter (fun y => y.num != k.bits 4 0 8) } := by
  simp only [verregPacket, if_pos hb, hr]

/-- The versioned region that a VERREG registers. -/
def Pk.versionRegion (k : Pk) : VRegion :=
  ⟨k.bits 4 0 8, k.ctx, k.wide 16, k.bits 8 0 17, k.bits 4 8 4, k.wide 24, k.wide 32, k.wide 40, k.bits 4 12 3, []⟩

theorem verregPacket_registers (hb : k.bits 4 15 1 = 0) (hlim : s1.versionLimit k.versionRegion = none) :
    let s2 := s1.writeEntries k.versionRegion ((List.range k.versionRegion.pages).map k.versionRegion.entry)
    verregPacket k s1 = .take { s2 with vregs := s2.vregs ++ [k.versionRegion] } := by
  have hlim' : s1.versionLimit ⟨k.bits 4 0 8, k.ctx, k.wide 16, k.bits 8 0 17, k.bits 4 8 4, k.wide 24, k.wide 32, k.wide 40,
    k.bits 4 12 3, []⟩ = none := hlim
  intro s2
  simp only [verregPacket, hb, Nat.zero_ne_one, if_false, hlim']
  rfl

theorem collregPacket_removes {g : Group} (hb : k.bits 4 3 1 = 1) (hg : s1.group? k.ctx (k.bits 4 0 3) = some g) :
    collregPacket k s1 = .take { s1 with groups := s1.groups.filter (fun g => g.num != k.bits 4 0 3) } := by
  simp only [collregPacket, if_pos hb, hg]

theorem collregPacket_registers {l : List Byte} {ms : List Member} (hb : k.bits 4 3 1 = 0) (hg : s1.groupNum? (k.bits 4 0 3) = none)
    (hlead : k.bits 4 4 3 ≤ 6) (hlo : 26 ≤ k.bits 4 7 6) (hhi : k.bits 4 7 6 ≤ 40) (hn : 1 ≤ k.bits 8 0 13) (hn' : k.bits 8 0 13 ≤ 4096)
    (hown : k.bits 8 16 13 < k.bits 8 0 13) (hread : s1.gateRead k.ctx (k.va 16) (16 * k.bits 8 0 13) = (.ok, s2, l))
    (hms : (List.range (k.bits 8 0 13)).mapM (fun i => memberOf s2.unitCycles (sliceBytes l i 16)) = some ms) :
    collregPacket k s1 = .take { s2 with groups := s2.groups ++
      [⟨k.bits 4 0 3, k.ctx, k.bits 8 16 13, k.bits 4 4 3, 2 ^ k.bits 4 7 6, k.va 24, ms, 0#64, [], s2.unitCycles⟩] } := by
  have hlimits : firstBroken [
      (4, (s1.groupNum? (k.bits 4 0 3)).isSome || decide (6 < k.bits 4 4 3) || decide (k.bits 4 7 6 < 26) || decide (40 < k.bits 4 7 6)),
      (8, k.bits 8 0 13 == 0 || decide (4096 < k.bits 8 0 13) || decide (k.bits 8 0 13 ≤ k.bits 8 16 13))] = none := by
    refine firstBroken_nil fun y hy => ?_
    obtain rfl | rfl := List.mem_pair.1 hy
    · simp only [hg, Option.isSome_none, Bool.false_or, Bool.or_eq_false_iff, decide_eq_false_iff_not]
      omega
    · simp only [Bool.or_eq_false_iff, beq_eq_false_iff_ne, decide_eq_false_iff_not]
      omega
  simp only [collregPacket, hb, Nat.zero_ne_one, if_false, hlimits]
  refine (block_ok hread _).trans ?_
  simp only [hms]

end

/-- Settles O50: each packet is taken with the effect that its checks lead to. -/
theorem launchesAndRegistrations : Obligations.LaunchesAndRegistrations := by
  constructor
  · intro s s1 s2 k x c hc
    refine ⟨?_, fun off h hlim => err_ok (ops := fun op => op == 1) h rfl (by decide) (launchPacket_limit hc hlim), ?_⟩
    · intro args h hlim p n ws hs hread hws hlen hfree named s3 ha
      exact take_ok (ops := fun op => op == 1) h rfl (by decide) (launchPacket_ok hc hlim hread hws hlen hfree) ha
    · intro s3 s4 hd e b seeds h hal hread hres hlim n entries count hreadE hentries hreadB hseeds hfit s5 ha
      exact take_ok (ops := fun op => op == 2) h rfl (by decide)
        (trellisPacket_ok hc hal hread hres hlim hreadE hentries hreadB hseeds hfit) ha
  · intro s s1 k x
    refine ⟨fun h => ⟨?_, ?_⟩, fun h => ⟨?_, ?_⟩, fun h => ⟨?_, ?_⟩⟩
    · intro v hb hv s2 ha
      exact take_ok (ops := fun op => op == 6) h rfl (by decide) (viewregPacket_removes hb hv) ha
    · intro hb r mine dirty s2 hlim
      exact ⟨clearView_dev s1 r, mem_clearView_sectors s1 r, fun v hv y hy hm => clearView_l1 s1 r hv hy hm,
        fun ha => take_ok (ops := fun op => op == 6) h rfl (by decide) (viewregPacket_registers hb hlim) ha⟩
    · intro r hb hr s2 s3 ha
      exact take_ok (ops := fun op => op == 7) h rfl (by decide) (verregPacket_removes hb hr) ha
    · intro hb r s2 s3 hlim ha
      exact take_ok (ops := fun op => op == 7) h rfl (by decide) (verregPacket_registers hb hlim) ha
    · intro g hb hg s2 ha
      exact take_ok (ops := fun op => op == 8) h rfl (by decide) (collregPacket_removes hb hg) ha
    · intro s2 l ms hb hg hlead hlo hhi hn hn' hown hread hms s3 ha
      exact take_ok (ops := fun op => op == 8) h rfl (by decide)
        (collregPacket_registers hb hg hlead hlo hhi hn hn' hown hread hms) ha

end Sys2Proof.Machine
end

section
/-! # Doorbells, budgets, ages and timers (R193, R208, R327, R330, R343, R354) -/
namespace Sys2Proof.Machine

section
variable {s : State}

theorem exec_doorbell {ctx q : Nat} {wi : Word} {x : Queue} (hx : s.queue? ctx q = some x) (he : x.en = true) :
    let s1 := s.modQueue ctx q (fun x => { x with wr := wi })
    exec (.doorbell ctx q wi) s =
      .next (if !x.error && decide (2 ^ x.log2 < (wi - x.rd).toNat) then s1.queueError ctx q 0 3 0#32 0 else s1) := by
  intro s1
  show execDoorbell ctx q wi s = _
  simp only [execDoorbell, hx, he, Bool.not_true, Bool.false_eq_true, if_false]
  exact (apply_ite Host.Outcome.next _ _ _).symm

theorem exec_viewRemoveEffect {region : Nat} {r : ViewRegion} {l : List Nat} (hr : s.views.find? (fun r => r.num == region) = some r)
    (hl : r.removing = some l) (hd : ∀ id ∈ l, s.liveLaunch id = false) :
    exec (.viewRemoveEffect region) s = .next { s.syncViews with views := s.syncViews.views.filter (fun x => x.num != region) } := by
  have hd' : l.any s.liveLaunch = false := List.any_eq_false.2 fun id hid => Bool.eq_false_iff.1 (hd id hid)
  show execViewRemoveEffect region s = _
  simp only [execViewRemoveEffect, hr, hl, hd', Bool.false_eq_true, if_false]

/-- The clock of an activity's budget, and its period: the lodge's for activity 4, die 0's for the others (Table 14-9). -/
theorem budgetClock_fin (s : State) (i : Fin 6) :
    s.budgetClock i = if i = 4 then (s.lodgeCycles s.mgmt.eastActive, 1000) else (s.dieCycles 0, 940) := by
  have hi : ((i : Nat) = 4) = (i = 4) := propext ⟨fun h => Fin.ext h, fun h => congrArg Fin.val h⟩
  simp only [State.budgetClock, hi]

/-- A budget is refilled, at the limit set last, where its period is over. -/
theorem exec_budgetPeriod (s : State) (i : Fin 6) :
    let b := s.budgets[i]
    let now := if i = 4 then s.lodgeCycles s.mgmt.eastActive else s.dieCycles 0
    let full : Budget := ⟨b.nextLimit, b.nextLimit, [], b.throttle, [], now⟩
    exec (.budgetPeriod i) s =
      .next (if b.since + (if i = 4 then 1000 else 940) ≤ now then { s with budgets := s.budgets.set i full } else s) := by
  intro b now full
  have hclock : s.budgetClock i = (now, if i = 4 then 1000 else 940) := by
    rw [budgetClock_fin]
    by_cases hi : i = 4
    · simp only [now, hi, if_true]
    · simp only [now, hi, if_false]
  have hover : s.periodOver i b = decide (b.since + (if i = 4 then 1000 else 940) ≤ now) := by
    simp only [State.periodOver, hclock]
  have hexec : exec (.budgetPeriod i) s = .next (s.refill i) := dif_pos i.isLt
  rw [hexec]
  by_cases ho : b.since + (if i = 4 then 1000 else 940) ≤ now
  · have hb : s.budget i = full := by
      refine (if_pos (hover.trans (decide_eq_true ho))).trans ?_
      rw [hclock]
    rw [if_pos ho, State.refill, hb]
  · have hb : s.budget i = b := if_neg (Bool.eq_false_iff.1 (hover.trans (decide_eq_false ho)))
    rw [if_neg ho, State.refill, hb]
    have hset : s.budgets.set i b = s.budgets := Vector.set_getElem_self ..
    rw [hset]

theorem exec_queueAgeExpiry {handle stage : Nat} {t : Trellis} {q : Stage} {r : Record} {rs : List Record}
    (ht : s.liveTrellis handle = some t) (hq : t.stage? stage = some q) (hc : q.state = .collecting) (hr : q.recs = r :: rs)
    (ha : q.timer ≤ s.leadCycles - r.at_) :
    exec (.queueAgeExpiry handle stage) s =
      .next (s.modTrellis t.id (fun t => t.modStage stage (fun q => { q with state := .launchable }))) := by
  have hage : q.state = .collecting ∧ q.timer ≤ q.age s.leadCycles := ⟨hc, by simpa only [Stage.age, hr] using ha⟩
  show execQueueAgeExpiry handle stage s = _
  simp only [execQueueAgeExpiry, ht, hq, if_pos hage]

section
variable {plot : Nat} {who : Who} {p : Plot} {a : Agent} (hp : s.plot? plot = some p) (ha : p.agent? who = some a)
  (hb : a.phase = .blocked)
include hp ha hb

theorem exec_emitwTimeout {x y : Reg} {n : Nat} (hw : a.wait = .emitw x y n) (hrun : p.run = .running) (hres : p.resident = true)
    (hn : a.blockedAt + n ≤ s.cycles p.pav) :
    exec (.emitwTimeout plot who) s =
      .next ((s.modPlot plot (fun p => p.modRegs (fun g => (g.setFlag who 0#2 false).retire who 4))).finish plot) := by
  show execEmitwTimeout plot who s = _
  simp only [execEmitwTimeout, hp, ha, hb, hw]
  exact if_pos ⟨hrun, hres, hn⟩

theorem exec_versionWaitTimeout {name st : DWord} {o e : Bool} {n : Nat} (hw : a.wait = .version name st o e) (hawake : p.awake = true)
    (hs : s.silenceOf p name = some n) (hn : a.blockedAt + n ≤ s.cycles p.pav) :
    exec (.versionWaitTimeout plot who) s = .next (if s.versionReady p name st o e then s
      else (s.recordTrap plot who ⟨.stale, 0, name, a.pc, true⟩).finish plot) := by
  show execVersionWaitTimeout plot who s = _
  simp only [execVersionWaitTimeout, hp, ha, hb, hw, hs]
  cases hr : s.versionReady p name st o e with
  | true => exact if_neg fun h => Bool.noConfusion (h.2.2)
  | false => exact if_pos ⟨hawake, hn, rfl⟩

end

/-- Settles O51, event by event. -/
theorem launcherEvents : Obligations.LauncherEvents := by
  intro s
  refine ⟨fun ctx q wi x hx he => ?_, fun region r l => exec_viewRemoveEffect, exec_budgetPeriod s,
    fun handle stage t q r rs => exec_queueAgeExpiry, fun plot who p a hp ha hb hrun hres => ⟨fun x y n hw hn =>
      exec_emitwTimeout hp ha hb hw hrun hres hn, fun name st o e n hw hs hn => exec_versionWaitTimeout hp ha hb hw ?_ hs hn⟩⟩
  · have h := exec_doorbell (wi := wi) hx he
    refine ⟨fun hok => h.trans (congrArg _ (if_neg ?_)), fun hne hlt => h.trans (congrArg _ (if_pos ?_))⟩
    · rw [Bool.and_eq_true, Bool.not_eq_true', decide_eq_true_iff]
      rintro ⟨hne, hlt⟩
      exact hok.elim (fun he => Bool.noConfusion (hne.symm.trans he)) (Nat.not_le.2 hlt)
    · rw [hne, Bool.not_false, Bool.true_and]
      exact decide_eq_true hlt
  · simp [Plot.awake, hrun, hres]

end

end Sys2Proof.Machine
end

section
/-! # Placement and completion (R295, R329–R331, R333, R348, R349, R351) -/
namespace Sys2Proof.Machine

section
variable {s s1 : State}

/-- A launch draws a power token where it takes tiles, and one for each of the eight plots of a gang (R22). -/
theorem want_draw_of_placeable {g : Bool} {ok : Want → Bool} {l : Launch} (h : s.placeable g ok = some l) :
    l.want.draw = if l.tiles = 0 then 0 else if g then 8 else 1 := by
  show (if l.tiles = 0 then 0 else if l.gang then 8 else 1) = _
  rw [placeable_gang h]

theorem exec_plotPlacement_one {l : Launch} {pav bed : Nat}
    (hl : s.placeable false (fun w => s.fits w pav bed && s.pavFree pav w.tiles) = some l)
    (ht : s.drawTokens (if l.tiles = 0 then 0 else 1) = (true, s1)) :
    exec (.plotPlacement pav [bed]) s = .next (s1.placeNext l.id pav bed) := by
  have ht' : s.drawTokens l.want.draw = (true, s1) := by rw [want_draw_of_placeable hl]; exact ht
  show execPlotPlacement pav [bed] s = _
  simp only [execPlotPlacement, hl, ht']

theorem exec_plotPlacement_gang {l : Launch} {pav : Nat} {beds : List Nat} (hlen : beds.length = 8) (hpav : pav % 8 = 0)
    (hl : s.placeable true (fun w => (beds.zipIdx.map (fun x => (pav + x.2, x.1))).all
      (fun x => s.fits w x.1 x.2 && s.pavFree x.1 w.tiles)) = some l)
    (ht : s.drawTokens (if l.tiles = 0 then 0 else 8) = (true, s1)) :
    exec (.plotPlacement pav beds) s =
      .next ((beds.zipIdx.map (fun x => (pav + x.2, x.1))).foldl (fun s x => s.placeNext l.id x.1 x.2) s1) := by
  have ht' : s.drawTokens l.want.draw = (true, s1) := by rw [want_draw_of_placeable hl]; exact ht
  have hplace : ¬ (beds.length ≠ 8 ∨ pav % 8 ≠ 0) := fun h => h.elim (fun h => h hlen) (fun h => h hpav)
  obtain _ | ⟨b0, _ | ⟨b1, beds⟩⟩ := beds
  · exact nomatch hlen
  · exact nomatch hlen
  · show execPlotPlacement pav (b0 :: b1 :: beds) s = _
    simp only [execPlotPlacement, if_neg hplace, hl, ht']

theorem exec_stageGroupStart {handle stage pav bed : Nat} {t : Trellis} {l : Launch} {q : Stage} (ht : s.liveTrellis handle = some t)
    (hc : t.code = some l) (hq : t.stage? stage = some q) (hs : q.state = .launchable) (hg : s.liveGroups t < t.groups)
    (hf : s.fits (t.want l q) pav bed = true) (hp : s.pavFree pav q.tiles = true) (hi : s.inTurn (t.want l q) = true)
    (hb : s.stageBefore t l stage q = false) (hd : s.drawTokens (if q.tiles = 0 then 0 else 1) = (true, s1)) :
    let recs := q.recs.take q.thr
    exec (.stageGroupStart handle stage pav bed) s =
      .next (((s1.takeRecords t stage recs.length q).install (t.groupPlot stage q recs) pav bed 1 q.tiles).serveWaiters t.id 8192) := by
  have hd' : s.drawTokens (t.want l q).draw = (true, s1) := hd
  intro recs
  show execStageGroupStart handle stage pav bed s = _
  simp only [execStageGroupStart, ht, hc, hq, hs, decide_true, decide_eq_true hg, hf, hp, hi, hb, Bool.not_false, Bool.and_self, if_true, hd']
  rfl

theorem completeSignal_ok {ctx queue : Nat} {va : DWord} (h : s.drainEverything.signal ctx va true 1#64 = (.ok, s1)) :
    s.completeSignal ctx queue va = .ok (some s1) := by
  simp only [State.completeSignal, h]

theorem exec_launchCompletion {id : Nat} {l : Launch} (hl : s.launch? id = some l) (hr : l.retired = l.nx * l.ny * l.nz)
    (hs : l.signal = 0#64 ∧ s1 = s.drainEverything ∨ l.signal ≠ 0#64 ∧ s.drainEverything.signal l.ctx l.signal true 1#64 = (.ok, s1)) :
    exec (.launchCompletion id) s = .next (s1.endLaunch l) := by
  have hr' : ¬ l.retired ≠ l.total := not_not.2 hr
  show execLaunchCompletion id s = _
  simp only [execLaunchCompletion, hl, if_neg hr']
  obtain ⟨h0, rfl⟩ | ⟨h0, hsig⟩ := hs
  · rw [if_pos h0]
  · simp only [if_neg h0, completeSignal_ok hsig]

theorem exec_trellisCompletion {handle : Nat} {t : Trellis} (ht : s.liveTrellis handle = some t) (hd : s.trellisDone t = true)
    (hs : s.drainEverything.signal t.ctx t.signal true 1#64 = (.ok, s1)) :
    exec (.trellisCompletion handle) s =
      .next (({ s1 with trellises := s1.trellises.filter (fun x => x.id != t.id) }.untake t.ctx t.queue t.id).endLdi t.id) := by
  show execTrellisCompletion handle s = _
  simp only [execTrellisCompletion, ht, hd, if_true, completeSignal_ok hs]

/-- Settles O52, event by event. -/
theorem placementAndCompletion : Obligations.PlacementAndCompletion := by
  intro s
  refine ⟨fun l pav bed s1 => exec_plotPlacement_one, fun l pav beds s1 hlen hpav => ?_, ?_, fun id l s1 => exec_launchCompletion,
    fun handle t s1 => exec_trellisCompletion⟩
  · exact exec_plotPlacement_gang hlen hpav
  · intro handle stage pav bed t l q s1 ht hc hq hs hg hf hp hi hb hd
    exact exec_stageGroupStart ht hc hq hs hg hf hp hi hb hd

end

end Sys2Proof.Machine
end

section
/-! # The states of a plot under faults, and translations (R302, R359, R361–R363, R382–R389, R392, R422) -/
namespace Sys2Proof.Machine

section
variable {s s1 t : State} {plot : Nat} {p : Plot}

theorem exec_runaheadLimit (hp : s.plot? plot = some p) (hr : p.run = .runahead) (he : p.aheadDone = true ∨ s.isResident p.ctx = false) :
    exec (.runaheadLimit plot) s = .next (s.setPlot p.rollback) := by
  have hends : p.run = .runahead ∧ (p.aheadDone = true ∨ (!s.isResident p.ctx) = true) := ⟨hr, he.imp_right (congrArg not)⟩
  show execRunaheadLimit plot s = _
  simp only [execRunaheadLimit, hp, if_pos hends]

theorem exec_plotPark (hp : s.plot? plot = some p) (hr : p.run = .rollback) (hq : p.regs.quiet = true) :
    exec (.plotPark plot) s = .next (((s.savePlot p).modPlot plot (fun q =>
      { q with run := .parked, batch := [], prg := some s.xl.nextGroup })).addGroup p.ctx p.batch (some plot) none) := by
  have hparks : p.run = .rollback ∧ p.regs.quiet = true := ⟨hr, hq⟩
  show execPlotPark plot s = _
  simp only [execPlotPark, hp, if_pos hparks]

section
variable {g : PageGroup} (hg : s.xl.groups.find? (fun x => x.id == g.id && x.pasid == g.pasid && x.sent) = some g)
include hg

/-- A page group leaves the list of those sent when it is answered. -/
theorem exec_pageRequestResponse (r : PrgResponse) :
    let s1 := { s with xl := { s.xl with groups := s.xl.groups.filter (fun h => h.id != g.id) } }
    let s2 := if decide (r = .success) then g.pages.foldl (fun s n => s.dropPage g.pasid n.page) s1 else s1
    exec (.pageRequestResponse g.pasid g.id r) s = pumped ((s2.answerGroup g (decide (r = .success))).sendGroups.goOn) := by
  intro s1 s2
  show execPageRequestResponse g.pasid g.id r s = _
  simp only [execPageRequestResponse, hg]
  rfl

end

/-- What the answer to a parked plot's group tells it. -/
theorem answerGroup_plot {u : State} {g : PageGroup} (hp : g.plot = some plot) (hc : g.copy = none) (ok : Bool) :
    u.answerGroup g ok = u.modPlot plot (fun q => if q.prg = some g.id ∧ q.run = .parked then
      if u.isResident q.ctx then q.responded ok g.pages else { q with heldResponse := some (ok, g.pages), prg := none } else q) := by
  simp only [State.answerGroup, hp, hc]

section
variable {bed : Nat} (hp : s.plot? plot = some p) (hw : s.awaitsReturn p = true) (hf : s.returnFits p bed = true)
  (ht : s.tokenTurn p = true)
include hp hw hf ht

theorem exec_plotReturn_spoiled {l : Loc} (hl : s.spoiled p = some l) : exec (.plotReturn plot bed) s = .next (s.failRestore p l) := by
  show execPlotReturn plot bed s = _
  simp only [execPlotReturn, hp, hw, hf, ht, Bool.not_true, Bool.or_self, Bool.false_eq_true, if_false, hl]

theorem exec_plotReturn_resumes (hl : s.spoiled p = none) (hd : s.drawTokens (if p.tiles.isEmpty || p.token then 0 else 1) = (true, s1)) :
    let tiles := (s1.freeTiles p.pav).take p.tiles.length
    let q := { p with bed := bed, rows := (s1.freeRows p.pav bed).take p.rows.length, tiles := tiles, token := !tiles.isEmpty }
    exec (.plotReturn plot bed) s = .next ((((s1.restoreTiles p tiles).invalidateL1 p.pav).setPlot q.resume).finish plot) := by
  intro tiles q
  show execPlotReturn plot bed s = _
  simp only [execPlotReturn, hp, hw, hf, ht, Bool.not_true, Bool.or_self, Bool.false_eq_true, if_false, hl, hd]
  rfl

end

section
variable {q : AtsReq} (hq : s.xl.reqs.find? (fun x => x.id == q.id) = some q)
include hq

/-- A completion that an invalidation has overtaken fills nothing. -/
theorem exec_atsTranslationCompletion_stale (hs : q.stale = true) (r : AtsResult) :
    exec (.atsTranslationCompletion q.id r) s = .next { s with xl := { s.xl with reqs := s.xl.reqs.filter (fun x => x.id != q.id) } } := by
  show execAtsTranslationCompletion q.id r s = _
  simp only [execAtsTranslationCompletion, hq, hs, if_true]

theorem exec_atsTranslationCompletion_grant (hs : q.stale = false) (addr : DWord) (log2 : Nat) (rd wr : Bool) :
    exec (.atsTranslationCompletion q.id (.grant addr log2 rd wr)) s =
      pumped ((State.fillAtc { s with xl := { s.xl with reqs := s.xl.reqs.filter (fun x => x.id != q.id) } } q
        (grantEntry q addr log2 rd wr)).goOn) := by
  show execAtsTranslationCompletion q.id (.grant addr log2 rd wr) s = _
  simp only [execAtsTranslationCompletion, hq, hs, Bool.false_eq_true, if_false]

theorem exec_atsTranslationCompletion_refused (hs : q.stale = false) {r : AtsResult} (hr : r = .unsupported ∨ r = .abort) :
    let s2 := State.dropPage { s with xl := { s.xl with reqs := s.xl.reqs.filter (fun x => x.id != q.id) } } q.pasid q.page
    exec (.atsTranslationCompletion q.id r) s =
      pumped (({ s2 with xl := { s2.xl with denied := s2.xl.denied ++ [⟨q.pasid, q.page⟩] } } : State).goOn) := by
  intro s2
  show execAtsTranslationCompletion q.id r s = _
  obtain rfl | rfl := hr
  all_goals
    simp only [execAtsTranslationCompletion, hq, hs, Bool.false_eq_true, if_false]
    rfl

end

/-- The range of addresses that an invalidation of 2^log2 bytes names. -/
def invRange (pasid : Nat) (every : Bool) (va : DWord) (log2 : Nat) : InvRange :=
  ⟨pasid, every, va.toNat / 2 ^ log2 * 2 ^ log2, va.toNat / 2 ^ log2 * 2 ^ log2 + 2 ^ log2⟩

/-- The state that an invalidation leaves: its range is purged, and the accesses that may have used it are marked. -/
def State.invalidated (s : State) (itag : Nat) (x : InvRange) : State :=
  let s1 := (s.purge x).markAccesses itag x
  { s1 with xl := { s1.xl with invals := s1.xl.invals ++ [⟨itag, 0, s.dieCycles 0⟩] } }

theorem exec_atsInvalidateRequest (hp : s.mgmt.powered = true) (itag pasid : Nat) (every : Bool) (va : DWord) (log2 : Nat) :
    exec (.atsInvalidateRequest itag pasid every va log2) s = .next (s.invalidated itag (invRange pasid every va log2)) := by
  show execAtsInvalidateRequest itag pasid every va log2 s = _
  simp only [execAtsInvalidateRequest, hp, Bool.not_true, Bool.false_eq_true, if_false]
  rfl

/-- A filter by what an invalidation spares leaves nothing that it hits. -/
theorem not_hit_of_mem_filter {α : Type} {l : List α} {hits : α → Bool} {y : α} (h : y ∈ l.filter (fun y => !hits y)) : hits y = false :=
  Bool.not_eq_true' _ ▸ (List.mem_filter.1 h).2

section
variable (s) (itag : Nat) (x : InvRange)

theorem invalidated_atc {v : Pavilion} (hv : v ∈ (s.invalidated itag x).pavs) {e : AtcEntry} (he : e ∈ v.atc) : x.hitsEntry e = false := by
  obtain ⟨v0, -, rfl⟩ := List.mem_map.1 hv
  exact not_hit_of_mem_filter he

theorem invalidated_grove {g : Nat × AtcEntry} (hg : g ∈ (s.invalidated itag x).xl.grove) : x.hitsEntry g.2 = false :=
  not_hit_of_mem_filter (hits := fun g : Nat × AtcEntry => x.hitsEntry g.2) hg

theorem invalidated_device {e : AtcEntry} (he : e ∈ (s.invalidated itag x).xl.device) : x.hitsEntry e = false :=
  not_hit_of_mem_filter he

theorem invalidated_denied {d : Denied} (hd : d ∈ (s.invalidated itag x).xl.denied) : x.hitsPage d.pasid d.page = false :=
  not_hit_of_mem_filter (hits := fun d : Denied => x.hitsPage d.pasid d.page) hd

theorem invalidated_reqs {q : AtsReq} (hq : q ∈ (s.invalidated itag x).xl.reqs) (hh : x.hitsPage q.pasid q.page = true) : q.stale = true := by
  obtain ⟨q0, -, rfl⟩ := List.mem_map.1 hq
  exact Bool.or_eq_true_iff.2 (.inr hh)

end

theorem exec_invalidateCompletion {itag : Nat} {v : Inval} (hp : s.mgmt.powered = true) (hv : v ∈ s.xl.invals) (hi : v.itag = itag)
    (hw : s.waitsFor itag = false) :
    let s1 := (s.pavs.map Pavilion.num).foldl State.drainAll s
    exec (.invalidateCompletion itag) s =
      .next (State.emit { s1 with xl := { s1.xl with invals := s1.xl.invals.filter (fun v => v.itag != itag) } } (.invalidateDone itag)) := by
  intro s1
  have hany : s.xl.invals.any (fun v => v.itag == itag) = true := List.any_eq_true.2 ⟨v, hv, beq_iff_eq.2 hi⟩
  show execInvalidateCompletion itag s = _
  simp only [execInvalidateCompletion, hp, hany, hw, Bool.not_false, Bool.and_self, if_true]
  rfl

/-- Dies without power answer no invalidation (R422). -/
theorem exec_invalidations_unpowered (hp : s.mgmt.powered = false) (itag pasid : Nat) (every : Bool) (va : DWord) (log2 : Nat) :
    exec (.atsInvalidateRequest itag pasid every va log2) s = .next s ∧ exec (.invalidateCompletion itag) s = .next s := by
  constructor
  · exact if_pos (congrArg not hp)
  · refine if_neg (Bool.eq_false_iff.1 ?_)
    rw [hp, Bool.false_and, Bool.false_and]

end

/-- Settles O53: the plots' states, then the translations. -/
theorem plotStatesAndTranslations : Obligations.PlotStatesAndTranslations := by
  constructor
  · intro s plot p hp
    refine ⟨exec_runaheadLimit hp, exec_plotPark hp, ?_, fun bed hw hf ht => ⟨fun l hl => exec_plotReturn_spoiled hp hw hf ht hl,
      fun s1 hl hd => exec_plotReturn_resumes hp hw hf ht hl hd⟩⟩
    intro g hg hgp hgc s1 s2 told served refused
    have hs : exec (.pageRequestResponse g.pasid g.id .success) s = pumped served.goOn :=
      (exec_pageRequestResponse hg .success).trans (congrArg (fun u : State => pumped u.sendGroups.goOn) (answerGroup_plot hgp hgc true))
    have hr : exec (.pageRequestResponse g.pasid g.id .invalid) s = pumped refused.goOn :=
      (exec_pageRequestResponse hg .invalid).trans (congrArg (fun u : State => pumped u.sendGroups.goOn) (answerGroup_plot hgp hgc false))
    exact ⟨fun h => hs.trans (pumped_ok (goOn_rests h)), fun h => hr.trans (pumped_ok (goOn_rests h)),
      fun t h => hs.trans (pumped_ok h), fun t h => hr.trans (pumped_ok h)⟩
  · intro s
    refine ⟨fun q hq => ⟨exec_atsTranslationCompletion_stale hq, fun addr log2 rd wr hs => ?_, fun r hs hr => ?_⟩,
      fun itag pasid every va log2 hp => ⟨_, exec_atsInvalidateRequest hp itag pasid every va log2, ?_⟩,
      fun itag v hp hv hi hw => exec_invalidateCompletion hp hv hi hw, exec_invalidations_unpowered⟩
    · have h := exec_atsTranslationCompletion_grant hq hs addr log2 rd wr
      exact ⟨fun hr => h.trans (pumped_ok (goOn_rests hr)), fun t ht => h.trans (pumped_ok ht)⟩
    · have h := exec_atsTranslationCompletion_refused hq hs hr
      exact ⟨fun hr => h.trans (pumped_ok (goOn_rests hr)), fun t ht => h.trans (pumped_ok ht)⟩
    · exact ⟨fun v hv e he => invalidated_atc s itag _ hv he, fun g => invalidated_grove s itag _, fun e => invalidated_device s itag _,
        fun d => invalidated_denied s itag _, fun q => invalidated_reqs s itag _, rfl, rfl⟩

end Sys2Proof.Machine
end

section
/-! # Requests at their target (R250, R251, R254, R256) -/
namespace Sys2Proof.Machine

/-- The reply to a request goes back to its sender. -/
def State.answered (t : State) (h : FabHdr) (r : ReplyBody) : State := t.sendOn h.src 1 (fun via => .reply h.src via h.tag h.gen r)

/-- The reply to a request that is applied once is remembered, in place of an older one under its tag and generation (R251). -/
def State.answeredOnce (t : State) (h : FabHdr) (r : ReplyBody) : State :=
  let others := t.fab.applied.filter (fun x => !(x.src == h.src && x.tag == h.tag && x.gen == h.gen))
  State.answered { t with fab := { t.fab with applied := ⟨h.src, h.tag, h.gen, r, t.unitCycles⟩ :: others } } h r

section
variable {s t : State} {h : FabHdr} {g : Group} {body : ReqBody} {r : ReplyBody}

/-- A request applied before is answered as before, and does nothing else. -/
theorem serve_remembered (hr : s.remembered h = some r) (body : ReqBody) : s.serve h body = .next (s.answered h r) := by
  simp only [State.serve, hr]
  rfl

theorem serve_answered (hn : s.remembered h = none) (hb : s.serveBody h.group h.member body = .ok (.reply r, t))
    (ho : body.once r = false) : s.serve h body = .next (t.answered h r) :=
  serve_ok hn hb fun r' hr => by cases hr; exact ho

theorem serve_answeredOnce (hn : s.remembered h = none) (hb : s.serveBody h.group h.member body = .ok (.reply r, t))
    (ho : body.once r = true) : s.serve h body = .next (t.answeredOnce h r) := serve_once hn hb ho

/-- Every request but a RATOM is served as it stands; a RATOM of an operation and a width of Table 9-4 is. -/
theorem exec_ratomRequest {op : BitVec 4} {o : AtomOp} {n : Nat} (ho : atomOpOf op.toNat = some o) (hw : (FabOp.ratom o).widthOk n = true)
    (va b c : DWord) : exec (.ratomRequest h va op n b c) s = s.serve h (.ratom va o n b c) := by
  show execRatomRequest h va op n b c s = _
  simp only [execRatomRequest, ho, hw, if_true]

section
variable (hg : s.groupNum? h.group = some g)
include hg

theorem serveBody_write {va : DWord} {data : List Byte} (hw : s.gateWrite g.ctx va data = (.ok, t)) :
    s.serveBody h.group h.member (.rwrite va data) = .ok (.reply (.ack data.length), t) ∧
    s.serveBody h.group h.member (.mcast va data) = .ok (.reply (.ack data.length), t) := by
  constructor
  all_goals
    simp only [State.serveBody, hg, hw]
    rfl

theorem serveBody_write_refused {va : DWord} {data : List Byte} {x : Nat} (hw : s.gateWrite g.ctx va data = (.refused x, t)) :
    s.serveBody h.group h.member (.rwrite va data) = .ok (.reply .refused, t) := by
  simp only [State.serveBody, hg, hw]
  rfl

theorem serveBody_read {va : DWord} {n : Nat} {l : List Byte} (hr : s.gateRead g.ctx va n = (.ok, t, l)) :
    s.serveBody h.group h.member (.rread va n) = .ok (.reply (.data l), t) := by
  simp only [State.serveBody, hg, hr]
  rfl

theorem serveBody_radd {va : DWord} {fmt : BitVec 4} {data l : List Byte} (hf : fmt = 1#4 ∨ fmt = 3#4 ∨ fmt = 4#4)
    (hu : s.gateUpdate g.ctx va data.length (raddBytes fmt.toNat data) = (.ok, t, l)) :
    s.serveBody h.group h.member (.radd va fmt.toNat data) = .ok (.reply (.ack data.length), t) := by
  have hf' : fmt.toNat = 1 ∨ fmt.toNat = 3 ∨ fmt.toNat = 4 :=
    hf.imp (congrArg BitVec.toNat) (Or.imp (congrArg BitVec.toNat) (congrArg BitVec.toNat))
  simp only [State.serveBody, hg, if_pos hf', hu]
  rfl

/-- An atomic on the module's own memory is what the operation makes of the old bytes (R254). -/
theorem serveBody_ratom {va b c : DWord} {o : AtomOp} {n : Nat} {l : List Byte}
    (hh : (s.gateFind g.ctx va n true).parts.any (fun x => x.1.space == .host) = false)
    (hu : s.gateUpdate g.ctx va n (fun old => natBytes (atomNew o n (leNat old) b.toNat c.toNat) n) = (.ok, t, l)) :
    s.serveBody h.group h.member (.ratom va o n b c) = .ok (.reply (.data l), t) := by
  simp only [State.serveBody, hg, hh, Bool.false_and, Bool.false_eq_true, false_and, if_false, hu]
  rfl

theorem serveBody_send {ch : Nat} {data : List Byte} {q : Posted} {p : Plot} {c : CopyRec} {f : FabJob} {parts : List (Loc × Nat)}
    (hq : s.pruneFab.fab.posted.find? (fun x => x.is g.ctx ch g.num h.member) = some q)
    (hc : s.pruneFab.copy? q.plot q.copy = some (p, c)) (hj : c.job = .fab f) (hr : s.pruneFab.isResident p.ctx = true)
    (hlen : data.length ≤ f.bytes) (hl : s.pruneFab.fabLocal p c f.lea data.length true = .ok (t, some parts)) :
    s.serveBody h.group h.member (.send ch data) = .ok (.reply (.ack data.length),
      (((t.engineWrites p.pav parts data).fabDone p.id c.id 0 data.length).finish p.id).pruneFab) := by
  simp only [State.serveBody, hg, State.takeMessage, hq, hc, hj, hr, Bool.not_true, Bool.false_eq_true, if_false, Nat.min_eq_left hlen, hl,
    if_neg (Nat.not_lt.2 hlen), List.take_length]

/-- A message that no posted buffer is for is answered RECEIVER-NOT-READY. -/
theorem serve_send_notReady {ch : Nat} {data : List Byte} (hn : s.remembered h = none)
    (hq : s.pruneFab.fab.posted.find? (fun x => x.is g.ctx ch g.num h.member) = none) :
    s.serve h (.send ch data) = .next (s.pruneFab.sendOn h.src 1 (fun via => .notReady h.src via h.tag h.gen)) := by
  have hb : s.serveBody h.group h.member (.send ch data) = .ok (.notReady, s.pruneFab) := by
    simp only [State.serveBody, hg, State.takeMessage, hq]
  exact serve_ok hn hb nofun

end

end

/-- Settles O54, request by request. -/
theorem requestsServed : Obligations.RequestsServed := by
  intro s h g hg seen answered once
  refine ⟨fun r hr va data fmt n ch => ⟨serve_remembered hr _, serve_remembered hr _, fun op o m b c ho hw => ?_, serve_remembered hr _,
    serve_remembered hr _, serve_remembered hr _⟩, fun hn => ⟨fun va data t hw => ?_, fun va data x t hw => ?_, fun va n t l hr => ?_,
    fun va fmt data t l hf hu => ?_, fun va op o n b c t l ho hw hh hu => ?_, ?_, fun ch data hq => serve_send_notReady hg hn hq⟩⟩
  · exact (exec_ratomRequest ho hw va b c).trans (serve_remembered hr _)
  · obtain ⟨hwrite, hmcast⟩ := serveBody_write hg hw
    exact ⟨serve_answered hn hwrite rfl, serve_answered hn hmcast rfl⟩
  · exact serve_answered hn (serveBody_write_refused hg hw) rfl
  · exact serve_answered hn (serveBody_read hg hr) rfl
  · exact serve_answeredOnce hn (serveBody_radd hg hf hu) rfl
  · exact (exec_ratomRequest ho hw va b c).trans (serve_answeredOnce hn (serveBody_ratom hg hh hu) rfl)
  · intro ch data q p c f t parts hq hc hj hr hlen hl
    exact serve_answeredOnce hn (serveBody_send hg hq hc hj hr hlen hl) rfl

end Sys2Proof.Machine
end

section
/-! # Answers, retry timers and ports (R245, R249–R251, R391, R421, R422) -/
namespace Sys2Proof.Machine

section
variable {s t1 : State} {tag : BitVec 12} {gen : BitVec 4} {t : TagReq}

/-- An answer that matches no tag, or one of another generation, is counted. -/
theorem matched_stale (h : ∀ t, s.tag? tag = some t → t.gen ≠ gen) :
    s.matched tag gen = .error { s with fab := { s.fab with staleReply := satInc s.fab.staleReply } } := by
  unfold State.matched
  cases ht : s.tag? tag with
  | none => rfl
  | some t => exact if_neg (h t ht)

theorem exec_answers_stale (h : ∀ t, s.tag? tag = some t → t.gen ≠ gen) :
    let s1 := { s with fab := { s.fab with staleReply := satInc s.fab.staleReply } }
    (∀ r, exec (.fabricReply tag gen r) s = .next s1) ∧ exec (.receiverNotReadyReply tag gen) s = .next s1 ∧
      exec (.closedReply tag gen) s = .next s1 ∧ exec (.resyncAnswer tag gen) s = .next s1 := by
  have hm := matched_stale h
  refine ⟨fun r => ?_, ?_, ?_, ?_⟩
  · show execFabricReply tag gen r s = _
    simp only [execFabricReply, hm]
  · show execReceiverNotReadyReply tag gen s = _
    simp only [execReceiverNotReadyReply, hm]
  · show execClosedReply tag gen s = _
    simp only [execClosedReply, hm]
  · show execResyncAnswer tag gen s = _
    simp only [execResyncAnswer, hm]

section
variable (ht : s.tag? tag = some t) (hg : t.gen = gen) (hl : t.landing = none)
include ht hg

theorem matched_ok : s.matched tag gen = .ok t := by
  simp only [State.matched, ht, if_pos hg]

include hl

theorem exec_fabricReply (r : ReplyBody) : exec (.fabricReply tag gen r) s = s.landTag t (.reply r) := by
  show execFabricReply tag gen r s = _
  simp only [execFabricReply, matched_ok ht hg, hl, Option.isSome_none, Bool.false_eq_true, if_false]

theorem exec_closedReply : exec (.closedReply tag gen) s = s.landTag t .closed := by
  show execClosedReply tag gen s = _
  simp only [execClosedReply, matched_ok ht hg, hl, Option.isSome_none, Bool.false_eq_true, if_false]

theorem exec_receiverNotReadyReply (hw : t.waiting = false) :
    exec (.receiverNotReadyReply tag gen) s = .next ((match t.owner with | .copy plot copy _ => s.faultedAt plot copy | .unit => s).modTag tag
      (fun t => { t with waiting := true, sentAt := s.unitCycles })) := by
  have hready : (t.waiting || t.landing.isSome) = false := by rw [hw, hl]; rfl
  show execReceiverNotReadyReply tag gen s = _
  simp only [execReceiverNotReadyReply, matched_ok ht hg]
  exact if_neg (Bool.eq_false_iff.1 hready)

end

/-- An answer to a message of the reduction unit ends it. -/
theorem landTag_unit (ho : t.owner = .unit) (htag : t.tag = tag) (a : Answer) :
    s.landTag t a = .next ((s.unitEnds t false).releaseTag tag) := by
  simp only [State.landTag, ho, htag]

section
variable {plot copy chunk : Nat} {p : Plot} {c : CopyRec} {f : FabJob}

/-- An answer that settles its chunk frees the tag. -/
theorem landTag_settled {a : Answer} (ho : t.owner = .copy plot copy chunk) (htag : t.tag = tag)
    (hs : s.settleChunk plot copy chunk a = .ok (t1, true)) : s.landTag t a = .next (((t1.releaseTag tag).finish plot).pruneFab) := by
  simp only [State.landTag, ho, hs, htag, fabEnd]

section
variable (hc : s.copy? plot copy = some (p, c)) (hj : c.job = .fab f) (he : c.ended = false)
include hc hj he

theorem settleChunk_ack (n : Nat) : s.settleChunk plot copy chunk (.reply (.ack n)) = .ok (s.fabDone plot copy chunk n, true) := by
  simp only [State.settleChunk, hc, hj, he, Bool.false_eq_true, if_false]

theorem settleChunk_errored : s.settleChunk plot copy chunk (.reply .errored) = .ok (s.endCopy p c stErrored, true) := by
  simp only [State.settleChunk, hc, hj, he, Bool.false_eq_true, if_false]

theorem settleChunk_closed : s.settleChunk plot copy chunk .closed = .ok (s.endCopy p c stErrored, true) := by
  simp only [State.settleChunk, hc, hj, he, Bool.false_eq_true, if_false]

/-- A refused page leaves a RADD or MCAST PARTIAL, and ends another operation ERRORED (R254, R390). -/
theorem settleChunk_refused : s.settleChunk plot copy chunk (.reply .refused) =
    .ok (if f.op.mayPart then s.chunkDone plot copy chunk true else s.endCopy p c stErrored, true) := by
  simp only [State.settleChunk, hc, hj, he, Bool.false_eq_true, if_false]
  cases f.op.mayPart <;> rfl

theorem settleChunk_data {d : List Byte} {parts : List (Loc × Nat)} (hp : (s.pav p.pav).parts.contains p.ctx = true)
    (hf : s.fabLocal p c (f.lea + BitVec.ofNat 64 (f.cut chunk).1) d.length true = .ok (t1, some parts)) :
    s.settleChunk plot copy chunk (.reply (.data d)) = .ok ((t1.engineWrites p.pav parts d).fabDone plot copy chunk d.length, true) := by
  simp only [State.settleChunk, hc, hj, he, hp, hf, Bool.not_true, Bool.false_eq_true, if_false]

end

end

section
variable (ht : s.tag? tag = some t)
include ht

theorem exec_backoffExpiry (hw : t.waiting = true) (hb : t.sentAt + t.backoff ≤ s.unitCycles) :
    let t1 := { t with waiting := false, sentAt := s.unitCycles, backoff := min (2 * t.backoff) (2 ^ 20), attempts := 1 }
    exec (.backoffExpiry tag) s = .next ((s.modTag tag (fun _ => t1)).transmit t1) := by
  intro t1
  have hover : t.waiting = true ∧ t.sentAt + t.backoff ≤ s.unitCycles := ⟨hw, hb⟩
  show execBackoffExpiry tag s = _
  simp only [execBackoffExpiry, ht, if_pos hover]
  rfl

theorem exec_requestRetryTimeout (hl : t.landing = none) (hw : t.waiting = false) (hs : t.sentAt + 2 ^ 18 ≤ s.unitCycles)
    (ha : t.attempts < 8) :
    let t1 := { t with sentAt := s.unitCycles, attempts := t.attempts + 1 }
    exec (.requestRetryTimeout tag) s = .next ((s.modTag tag (fun _ => t1)).transmit t1) := by
  intro t1
  have hearly : ¬ (t.waiting = true ∨ t.landing.isSome = true ∨ s.unitCycles < t.sentAt + 2 ^ 18) := by
    rw [hw, hl]
    rintro (h | h | h)
    · exact nomatch h
    · exact nomatch h
    · exact Nat.not_lt.2 hs h
  show execRequestRetryTimeout tag s = _
  simp only [execRequestRetryTimeout, ht, if_neg hearly, if_pos ha]
  rfl

end

theorem exec_relayForward (src dst : Nat) (msg : List Byte) : exec (.relayForward src dst msg) s =
    .next (if s.mgmt.powered = true ∧ s.portLive dst = true then s.emit (.forward dst src dst msg) else s) := by
  by_cases hf : s.mgmt.powered = true ∧ s.portLive dst = true
  · rw [if_pos hf]
    exact if_pos (Bool.and_eq_true_iff.2 hf)
  · rw [if_neg hf]
    exact if_neg (mt Bool.and_eq_true_iff.1 hf)

/-- Only what has been remembered for 2^22 cycles, under the tag and generation of its sender, is forgotten (R251). -/
theorem mem_forgotten (s : State) (src : Nat) (tag : BitVec 12) (gen : BitVec 4) (x : Applied) :
    x ∈ s.fab.applied.filter (fun x => !(x.src == src && x.tag == tag && x.gen == gen && decide (x.at_ + 2 ^ 22 ≤ s.unitCycles))) ↔
      x ∈ s.fab.applied ∧ ¬ (x.src = src ∧ x.tag = tag ∧ x.gen = gen ∧ x.at_ + 2 ^ 22 ≤ s.unitCycles) := by
  rw [List.mem_filter, Bool.not_eq_true', ← Bool.not_eq_true]
  simp only [Bool.and_eq_true, beq_iff_eq, decide_eq_true_iff, and_assoc]

end

/-- Settles O55, by the answer or the timer. -/
theorem requesterAndPorts : Obligations.RequesterAndPorts := by
  intro s tag gen
  refine ⟨exec_answers_stale, fun t ht hg hl htag => ⟨fun ho => ⟨fun r => (exec_fabricReply ht hg hl r).trans (landTag_unit ho htag _),
      (exec_closedReply ht hg hl).trans (landTag_unit ho htag _)⟩, ?_, exec_receiverNotReadyReply ht hg hl, exec_backoffExpiry ht,
      exec_requestRetryTimeout ht hl⟩, fun src => ⟨_, rfl, mem_forgotten s src tag gen⟩, exec_relayForward,
    fun port => (apply_ite Host.Outcome.next _ _ _).symm⟩
  intro plot copy chunk p c f ho hc hj he
  refine ⟨fun n => (exec_fabricReply ht hg hl _).trans (landTag_settled ho htag (settleChunk_ack hc hj he n)),
    (exec_fabricReply ht hg hl _).trans (landTag_settled ho htag (settleChunk_errored hc hj he)),
    (exec_fabricReply ht hg hl _).trans (landTag_settled ho htag (settleChunk_refused hc hj he)),
    (exec_closedReply ht hg hl).trans (landTag_settled ho htag (settleChunk_closed hc hj he)), fun d t1 parts hp hf =>
      (exec_fabricReply ht hg hl _).trans (landTag_settled ho htag (settleChunk_data hc hj he hp hf))⟩

end Sys2Proof.Machine
end

section
/-! # What reaches a progress group's view (R335–R337, Table 13-9) -/
namespace Sys2Proof.Machine

section
variable {g : Group} {i now : Nat} {m : Member} {step : DWord}

theorem onStep_leaves (hm : g.members[i]? = some m) (hl : m.state ≠ .left) (hs : step = allOnes) :
    g.onStep i step now = ((g.modMember i (fun m => { m with state := .left })).settle, false) := by
  simp only [Group.onStep, hm, if_neg hl, if_pos hs]

/-- What a step message of a member that has not left does: it moves the member, and says whether the answer is RESYNC. -/
theorem onStep_moves (hm : g.members[i]? = some m) (hl : m.state ≠ .left) (hs : step ≠ allOnes) :
    g.onStep i step now = ((g.modMember i (fun y => { y with
      step := if m.step.toNat < step.toNat then step else m.step
      state := if m.state == .absent && !g.reaches step.toNat then .absent else .live
      heard := now })).settle, m.state == .absent && !g.reaches step.toNat) := by
  simp only [Group.onStep, hm, if_neg hl, if_neg hs]

theorem onStep_raises (hm : g.members[i]? = some m) (hs : step ≠ allOnes) (hlt : m.step.toNat < step.toNat)
    (hst : m.state = .live ∨ (m.state = .absent ∧ g.m.toNat ≤ step.toNat + g.lead)) :
    g.onStep i step now = ((g.modMember i (fun m => { m with step := step, state := .live, heard := now })).settle, false) := by
  have hl : m.state ≠ .left := by
    rintro e
    obtain h | ⟨h, -⟩ := hst
    · exact nomatch h.symm.trans e
    · exact nomatch h.symm.trans e
  have hback : (m.state == .absent && !g.reaches step.toNat) = false := by
    obtain h | ⟨-, h⟩ := hst
    · rw [h]; rfl
    · have hreach : g.reaches step.toNat = true := decide_eq_true h
      rw [hreach, Bool.not_true, Bool.and_false]
  rw [onStep_moves hm hl hs, hback, if_pos hlt, if_neg Bool.false_ne_true]

/-- The entry y of an ABSENT member, at step m, after a step message below m − L: it stays ABSENT. -/
def Member.lagging (m : Member) (step : DWord) (now : Nat) (y : Member) : Member :=
  { y with step := if m.step.toNat < step.toNat then step else m.step, state := .absent, heard := now }

/-- A step below m − L of an ABSENT member is answered RESYNC. -/
theorem onStep_resyncs (hm : g.members[i]? = some m) (ha : m.state = .absent) (hlt : step.toNat + g.lead < g.m.toNat) (hs : step ≠ allOnes) :
    g.onStep i step now = ((g.modMember i (m.lagging step now)).settle, true) := by
  have hl : m.state ≠ .left := fun e => nomatch ha.symm.trans e
  have hreach : g.reaches step.toNat = false := decide_eq_false (Nat.not_le.2 hlt)
  have hback : (m.state == .absent && !g.reaches step.toNat) = true := by rw [ha, hreach]; rfl
  rw [onStep_moves hm hl hs, hback, if_pos rfl]
  rfl

theorem settle_members (g : Group) : g.settle.members = g.members := by
  unfold Group.settle
  split
  · split <;> rfl
  · rfl

/-- Member i after it has been changed. -/
theorem settle_modMember_getElem? (hm : g.members[i]? = some m) (f : Member → Member) :
    (g.modMember i f).settle.members[i]? = some (f m) := by
  rw [settle_members]
  show (g.members.modify i f)[i]? = _
  rw [List.getElem?_modify_eq, hm]
  rfl

end

section
variable {s : State} {h : FabHdr} {g : Group}

section
variable (hg : s.groupNum? h.group = some g) (hi : h.member < g.members.length) (ho : h.member ≠ g.own)
include hg hi ho

theorem sender_eq : s.sender h = some g := by
  simp only [State.sender, hg, if_pos (And.intro hi ho)]

theorem exec_stepMessage (step : DWord) :
    exec (.stepMessage h step) s =
      .next (if (g.onStep h.member step s.unitCycles).2 then
          (s.modGroup g.ctx g.num (fun _ => (g.onStep h.member step s.unitCycles).1)).sendOn h.src 1
            (fun via => .resync h.src via h.tag h.gen)
        else (s.modGroup g.ctx g.num (fun _ => (g.onStep h.member step s.unitCycles).1)).answer h (.ack 0)) := by
  show execStepMessage h step s = _
  simp only [execStepMessage, sender_eq hg hi ho]

theorem exec_presenceMessage :
    exec (.presenceMessage h) s = .next ((s.modGroup g.ctx g.num (fun g => g.onPresence h.member s.unitCycles)).answer h (.ack 0)) := by
  show execPresenceMessage h s = _
  simp only [execPresenceMessage, sender_eq hg hi ho]

end

section
variable (hg : s.groupNum? h.group = some g)
include hg

theorem exec_silenceTimerExpiry {i : Nat} {m : Member} (hm : g.members[i]? = some m) (hl : m.state = .live)
    (hh : m.heard + g.silence ≤ s.unitCycles) :
    exec (.silenceTimerExpiry h.group i) s =
      .next (s.modGroup g.ctx g.num (fun g => (g.modMember i (fun m => { m with state := .absent })).settle)) := by
  have hsilent : m.state = .live ∧ m.heard + g.silence ≤ s.unitCycles := ⟨hl, hh⟩
  show execSilenceTimerExpiry h.group i s = _
  simp only [execSilenceTimerExpiry, hg, hm, if_pos hsilent]

theorem exec_presenceSend (hb : s.bound g = true) (hs : g.sentAt + 2 ^ 24 ≤ s.unitCycles) :
    exec (.presenceSend h.group) s = .next ((s.modGroup g.ctx g.num (fun g =>
      { g.modMember g.own (fun m => { m with heard := s.unitCycles }) with sentAt := s.unitCycles })).broadcast g .presence) := by
  have hdue : s.bound g = true ∧ g.sentAt + 2 ^ 24 ≤ s.unitCycles := ⟨hb, hs⟩
  show execPresenceSend h.group s = _
  simp only [execPresenceSend, hg, if_pos hdue]

theorem exec_resyncAnswer {t : TagReq} {st : DWord} (ht : s.tag? h.tag = some t) (hgen : t.gen = h.gen) (hb : t.body = .step st)
    (htg : t.group = h.group) :
    exec (.resyncAnswer h.tag h.gen) s =
      .next ((s.modGroup g.ctx g.num (fun g => (g.modMember t.member (fun m => { m with failed := false })).selfAbsent)).releaseTag h.tag) := by
  have hg' : s.groupNum? t.group = some g := by rw [htg]; exact hg
  show execResyncAnswer h.tag h.gen s = _
  simp only [execResyncAnswer, matched_ok ht hgen, hb, hg']

end

end

/-- Settles O56, message by message. -/
theorem progressEvents : Obligations.ProgressEvents := by
  intro s h g
  refine ⟨fun hg hi ho => ?_, fun hg => ⟨fun i m => exec_silenceTimerExpiry hg, exec_presenceSend hg, fun t st => exec_resyncAnswer hg⟩⟩
  intro to_ answered ack m step hm
  have hstep := exec_stepMessage hg hi ho step
  refine ⟨fun hl hs => ?_, fun hst hs hlt => ?_, fun ha hlt hs => ⟨_, ⟨_, settle_modMember_getElem? hm (m.lagging step s.unitCycles), rfl⟩, ?_⟩,
    fun _ => exec_presenceMessage hg hi ho⟩
  · rw [hstep, onStep_leaves hm hl hs]; rfl
  · rw [hstep, onStep_raises hm hs hlt hst]; rfl
  · rw [hstep, onStep_resyncs hm ha hlt hs]; rfl

end Sys2Proof.Machine
end

section
/-! # The events of the reduction unit (R258–R268) -/
namespace Sys2Proof.Machine

section
variable {s : State} {h : FabHdr} {g : Group} {c : Coll}

/-- What an event of the reduction unit comes to when the unit has nothing left to do, or does what it owes. -/
theorem next_of_pumpTag {o : Host.Outcome State Fault Refusal} {u : State} {group bucket : Nat} (h : o = pumped (u.pumpTag group bucket)) :
    ((∀ c ∈ u.colls, c.rests = true) → o = .next u) ∧ ∀ t, u.pumpTag group bucket = .ok t → o = .next t :=
  ⟨fun hr => h.trans (pumped_ok (pumpTag_rests hr ..)), fun _ ht => h.trans (pumped_ok ht)⟩

theorem next_of_pumpColl {o : Host.Outcome State Fault Refusal} {u : State} {ctx handle : Nat} (h : o = pumped (u.pumpColl ctx handle)) :
    ((∀ c ∈ u.colls, c.rests = true) → o = .next u) ∧ ∀ t, u.pumpColl ctx handle = .ok t → o = .next t :=
  ⟨fun hr => h.trans (pumped_ok (pumpColl_rests hr ..)), fun _ ht => h.trans (pumped_ok ht)⟩

section
variable {k : HeldChunk}

theorem arrive_known (hk : s.knows c k = true) : s.arrive g c k = (.reply (.ack k.bytes.length), s) := by
  simp only [State.arrive, hk, if_true]

theorem fate_apply (image : Bool) {step : DWord} (hs : step = c.step) (hc : image = true ∨ c.closed = false) :
    c.fate image step = .apply := by
  subst hs
  have hself : ¬ c.step.toNat = c.step.toNat + 1 := by omega
  have hlater : ¬ c.step.toNat + 1 < c.step.toNat := by omega
  simp only [Coll.fate, if_neg hlater, if_neg hself, if_true]
  obtain rfl | hc := hc
  · rfl
  · rw [hc]
    cases image <;> rfl

theorem fate_hold (image : Bool) {step : DWord} (hs : step.toNat = c.step.toNat + 1) : c.fate image step = .hold := by
  simp only [Coll.fate, hs, Nat.lt_irrefl, if_false, if_true]

theorem fate_later (image : Bool) {step : DWord} (hs : c.step.toNat + 1 < step.toNat) : c.fate image step = .later := if_pos hs

variable (hk : s.knows c k = false)
include hk

theorem arrive_apply (hf : c.fate k.image k.step = .apply) :
    s.arrive g c k = (.reply (.ack k.bytes.length), if k.image then s.enterImage c k else s.enterChunk g c k) := by
  simp only [State.arrive, hk, Bool.false_eq_true, if_false, hf]

theorem arrive_hold (hf : c.fate k.image k.step = .hold) (hr : s.greenRoom k.group k.bucket k.bytes.length = true) :
    s.arrive g c k = (.reply (.ack k.bytes.length), s.hold k) := by
  simp only [State.arrive, hk, Bool.false_eq_true, if_false, hf, hr, if_true]

theorem arrive_later (hf : c.fate k.image k.step = .later) : s.arrive g c k = (.notReady, s) := by
  simp only [State.arrive, hk, Bool.false_eq_true, if_false, hf]

end

section
variable (hg : s.groupNum? h.group = some g)
include hg

theorem tagged_opened {bucket : Nat} (ho : g.bucketState bucket = .opened) (hc : s.collOf g bucket = some c)
    (f : Group → Coll → Answer × State) : s.tagged h.group bucket f = f g c := by
  simp only [State.tagged, hg, ho, hc]

theorem tagged_closed {bucket : Nat} (ho : g.bucketState bucket = .closed) (f : Group → Coll → Answer × State) :
    s.tagged h.group bucket f = (.closed, s) := by
  simp only [State.tagged, hg, ho]

/-- A chunk of the fields of an open tag arrives at it. -/
theorem takeContrib_agrees {x : ContribHdr} {data : List Byte} (ho : g.bucketState x.bucket = .opened)
    (hc : s.collOf g x.bucket = some c) (ha : c.agrees g.own x data.length = true) (hn : h.member < c.n) :
    s.takeContrib h.group h.member x data = s.arrive g c ⟨h.group, x.bucket, h.member, x.step, x.chunk, false, data⟩ := by
  have hok : (!c.agrees g.own x data.length || decide (c.n ≤ h.member)) = false := by
    rw [ha, decide_eq_false (Nat.not_le.2 hn)]; rfl
  exact (tagged_opened hg ho hc _).trans (if_neg (Bool.eq_false_iff.1 hok))

theorem takeImage_ok {bucket : Nat} {step : DWord} {msg : List Byte} {i : ImageHdr} {recs : List Acc} (ho : g.bucketState bucket = .opened)
    (hc : s.collOf g bucket = some c) (hr : c.readImage msg = some (i, recs))
    (hk : s.knows c ⟨h.group, bucket, h.member, step, i.first / 64, true, msg⟩ = false) (hs : step = c.step) :
    s.takeImage h.group h.member bucket step msg = (.reply (.ack msg.length),
      s.modColl c.ctx c.handle (fun c => (c.applyImage h.member i recs).mark ⟨h.member, i.first / 64, true, step⟩)) := by
  refine (tagged_opened hg ho hc _).trans ?_
  simp only [hr]
  refine (arrive_apply hk (fate_apply true hs (.inl rfl))).trans ?_
  simp only [if_true, State.enterImage, hr]

theorem exec_shortMessage {bucket : Nat} {step : DWord} (hi : h.member < g.members.length) (ho : h.member ≠ g.own) :
    exec (.shortMessage h bucket step) s = pumped (((s.takeShort h.group bucket step).answer h (.ack 0)).pumpTag h.group bucket) := by
  show execShortMessage h bucket step s = _
  simp only [execShortMessage, sender_eq hg hi ho]

end

/-- A contribution that comes to the answer a and the state t. -/
theorem exec_contributionChunk {x : ContribHdr} {data : List Byte} {a : Answer} {t : State}
    (hr : s.takeContrib h.group h.member x data = (a, t)) :
    exec (.contributionChunk h x data) s = pumped ((t.reply h a).pumpTag h.group x.bucket) := by
  show execContributionChunk h x data s = _
  simp only [execContributionChunk, hr]

theorem exec_imageChunk {bucket : Nat} {step : DWord} {msg : List Byte} {a : Answer} {t : State}
    (hr : s.takeImage h.group h.member bucket step msg = (a, t)) :
    exec (.imageChunk h bucket step msg) s = pumped ((t.reply h a).pumpTag h.group bucket) := by
  show execImageChunk h bucket step msg s = _
  simp only [execImageChunk, hr]

section
variable {ctx handle : Nat} (hc : s.coll? ctx handle = some c) (hg : s.group? ctx c.group = some g) (ht : c.timer ≠ 0#64)
  (ho : c.closed = false) (hd : c.timerAt + c.timer.toNat ≤ s.unitCycles)
include hc hg ht ho hd

/-- At the timer the home closes a step that has its floor; where it has not, it sends SHORT and starts its timer again (R263). -/
theorem exec_quorumTimerExpiry : exec (.quorumTimerExpiry ctx handle) s =
    if c.floor ≤ c.wholes g.own then pumped ((s.closeStep g c).pumpColl ctx handle)
    else pumped ((((s.modColl ctx handle (fun c => { c with timerAt := s.unitCycles })).broadcast g
      (.short c.bucket c.step)).takeShort c.group c.bucket c.step).pumpColl ctx handle) := by
  have hdue : c.timer ≠ 0#64 ∧ (!c.closed) = true ∧ c.timerAt + c.timer.toNat ≤ s.unitCycles := ⟨ht, congrArg not ho, hd⟩
  show execQuorumTimerExpiry ctx handle s = _
  simp only [execQuorumTimerExpiry, hc, hg, if_pos hdue]

end

end

/-- Settles O57, event by event: each leaves the unit to go on from the state it comes to. -/
theorem collectiveEvents : Obligations.CollectiveEvents := by
  intro s h g hg told ack ends pumps
  refine ⟨?_, ?_, fun bucket step hi ho => next_of_pumpTag (exec_shortMessage hg hi ho), fun ctx handle c hc hgc ht ho hd => ?_,
    fun ctx handle => next_of_pumpColl rfl⟩
  · intro x data i
    refine ⟨fun ho => next_of_pumpTag (exec_contributionChunk (tagged_closed hg ho _)), ?_⟩
    intro c ho hc ha hn chunk
    have hword := takeContrib_agrees hg ho hc ha hn
    exact ⟨fun hk => next_of_pumpTag (exec_contributionChunk (hword.trans (arrive_known hk))),
      fun hk hs hcl => next_of_pumpTag (exec_contributionChunk (hword.trans (arrive_apply hk (fate_apply false hs (.inr hcl))))),
      fun hk hs hroom => next_of_pumpTag (exec_contributionChunk (hword.trans (arrive_hold hk (fate_hold false hs) hroom))),
      fun hk hs => next_of_pumpTag (exec_contributionChunk (hword.trans (arrive_later hk (fate_later false hs))))⟩
  · intro bucket step msg c i recs ho hc hr hk hs put
    exact next_of_pumpTag (exec_imageChunk (takeImage_ok hg ho hc hr hk hs))
  · have htimer := exec_quorumTimerExpiry hc hgc ht ho hd
    exact ⟨fun hfloor => next_of_pumpColl (htimer.trans (if_pos hfloor)),
      fun hfloor => next_of_pumpColl (htimer.trans (if_neg (Nat.not_le.2 hfloor)))⟩

end Sys2Proof.Machine
end

section
/-! The owner interface: claims and the handover, commands of those who are not the owner, the owner's commands, and the switch of a
live update (R364 to R374, R387, R395 to R397). -/

namespace Sys2Proof.Machine

/-! ### Claims and the handover -/

theorem claimsNow_worked (s : State) : s.worked.claimsNow = s.claimsNow := by
  obtain ⟨_, _, _, _, hagenda⟩ := worked_fields s
  unfold State.claimsNow
  rw [worked_mgmt, hagenda]

/-- A claim is handled in the state after the firmware's work, after the claims that go before it. -/
theorem exec_claim_works {s : State} (m : Master) (nonce : DWord) (ek lk : Nat) (h : s.takingOver = false) :
    exec (.claim m nonce ek lk) s = .next
      ((s.claimsNow.filter (fun c => masterCode c.m == 1 && decide (1 < masterCode m)) ++
        s.claimsNow.filter (fun c => masterCode c.m == 2 && decide (2 < masterCode m)) ++
        [Claim.mk m nonce ek lk]).foldl State.takeClaim s.worked) := by
  rw [exec_claim, execClaim, request_works m _ h, claimsNow_worked]

theorem exec_claim_busy {s : State} (m : Master) (nonce : DWord) (ek lk : Nat) (h : s.takingOver = true) :
    exec (.claim m nonce ek lk) s = .next (s.emit (.busy m)) := by
  rw [exec_claim, execClaim, request_busy m _ h]

/-- The first claim that passes elects its sender in the state after the firmware's work. -/
theorem claims_elect {s : State} {l : List Claim} {c : Claim}
    (hc : l.find? (fun c => c.nonce == s.mgmt.nonce && s.mgmt.allows c.m) = some c) (ho : s.mgmt.owner = none) (hm : s.mgmt.moving = none) :
    l.foldl State.takeClaim s.worked = s.worked.commitTo (s.worked.elect c.m c.ecdsa c.lms) := by
  have hall := claims_first (s := s.worked) l (by rw [worked_mgmt, ho]) (by rw [worked_mgmt, hm])
  rw [worked_mgmt, hc] at hall
  exact hall

/-- Claims of which none passes, or that find an owner, change nothing. -/
theorem claims_idle {s : State} {l : List Claim} (h : l.find? (fun c => c.nonce == s.mgmt.nonce && s.mgmt.allows c.m) = none ∨
    s.mgmt.owner ≠ none ∨ s.mgmt.moving ≠ none) : l.foldl State.takeClaim s.worked = s.worked := by
  by_cases hown : s.mgmt.owner ≠ none ∨ s.mgmt.moving ≠ none
  · exact claims_owned l (by rw [worked_mgmt]; exact hown)
  · obtain ⟨ho, hm⟩ := not_or.1 hown
    have hall := claims_first (s := s.worked) l (by rw [worked_mgmt]; exact not_not.1 ho) (by rw [worked_mgmt]; exact not_not.1 hm)
    rw [worked_mgmt, h.resolve_right hown] at hall
    exact hall

/-- The state in which the successor of a handover with RESET is elected (R369). -/
def State.wiped (s : State) : State :=
  let s1 := (s.ctxs.map (fun c => c.slot)).foldl State.removeContext s
  { s1 with
    pavs := s1.pavs.map (fun v => { v with atc := [], tiles := [], parts := [], locks := [] })
    xl := { s1.xl with grove := [], device := [], denied := [], reqs := s1.xl.reqs.map (fun q => { q with stale := true }) }
    mem := { s1.mem with spad := [], csp := [], bad := s1.mem.bad.filter (fun l => l.space != .spad && l.space != .csp) } }

theorem wiped_pavs {s : State} {v : Pavilion} (hv : v ∈ s.wiped.pavs) : v.atc = [] ∧ v.tiles = [] ∧ v.parts = [] := by
  obtain ⟨u, _, rfl⟩ := List.mem_map.1 hv
  exact ⟨rfl, rfl, rfl⟩

theorem exec_handoverResetComplete {s : State} {m : Master} {ek lk : Nat} (h : s.mgmt.moving = some (m, ek, lk)) :
    exec .handoverResetComplete s =
      .next (s.wiped.commitTo ((s.wiped.modMgmt (fun g => { g with moving := none })).elect m ek lk)) := by
  show execHandoverResetComplete s = _
  simp only [execHandoverResetComplete, h, State.wiped]

/-! ### A write of OI_CMD by another master than the owner -/

/-- An operation that the BMC of an unowned module may not write either is refused to all but the owner. -/
theorem execCommand_refused {s : State} {m : Master} {cmd : Word} (ho : s.mgmt.owner ≠ some m) (h11 : cmd.toNat / 2 ^ 24 ≠ 11)
    (h12 : cmd.toNat / 2 ^ 24 ≠ 12) (ht : s.takingOver = false) : execCommand m cmd s = .next (s.worked.refuse m 1 0x4000) := by
  unfold execCommand
  split
  case h_10 h => exact absurd h h11
  case h_11 h => exact absurd h h12
  case h_12 => exact command_refused rfl ho h11 h12 ht
  all_goals
    next h => exact command_refused h ho (by decide) (by decide) ht

theorem exec_writeCommand (m : Master) (cmd : Word) (s : State) : exec (.registerWrite m 0x4000 cmd) s = execCommand m cmd s := rfl

/-- A refusal to another master than the owner: beside the firmware's work, which spends its budget and the lodge's time, only
MGMT_STATUS and the counter of the master change. -/
theorem refused_frame (s : State) (m : Master) :
    let t := s.worked.refuse m 1 0x4000
    { t with mgmt := s.mgmt, clk := s.clk, budgets := s.budgets } = s ∧ t.clk.die = s.clk.die ∧ (∀ k : Fin 6, k ≠ 4 → t.budgets[k] = s.budgets[k]) ∧
    t.mgmt = { s.mgmt with
      status := BitVec.ofNat 32 (2 ^ 24 + masterCode m * 2 ^ 20 + 0x4000)
      refused := s.mgmt.refused.mapFinIdx (fun j v _ => if j + 1 = masterCode m then satInc v else v) } := by
  obtain ⟨hworked, hdie, hbudgets⟩ := worked_eq s
  rw [refuse_eq, worked_mgmt]
  refine ⟨?_, hdie, hbudgets, rfl⟩
  rw [hworked]

/-! ### The owner's commands -/

theorem signatureCode_eq (ecdsa lms : Bool) :
    signatureCode ecdsa lms = if ecdsa && lms then 0 else if lms then 3 else if ecdsa then 4 else 5 := by
  cases ecdsa <;> cases lms <;> rfl

theorem closeCommand_ok {s t : State} {r : Effect} (m : Master) (h : r = .ok t) : s.closeCommand m r = (s.commitTo t).endCommand m 0 := by
  rw [h]; rfl

theorem closeCommand_error {s : State} {r : Effect} {code : Nat} (m : Master) (h : r = .error code) :
    s.closeCommand m r = s.endCommand m code := by
  rw [h]; rfl

theorem ctxFlags_ok {s : State} {slot : Nat} {c : Context} (hc : s.ctx? slot = some c) (h : s.mgmt.argNum 0 4 < 2 ^ 14) :
    s.ctxFlags slot = .ok (s.modCtx slot (fun c => { c with flags := BitVec.ofNat 32 (s.mgmt.argNum 0 4) })) := by
  refine if_neg ?_
  rintro (hnone | hlarge)
  · rw [hc] at hnone; cases hnone
  · exact Nat.not_le.2 h hlarge

theorem stageBytes_ok {s : State} {n : Nat} (hn : s.mgmt.argNum 0 1 = n) (h1 : 1 ≤ n) (h2 : n ≤ 248)
    (h3 : s.mgmt.staging.length + n ≤ 4194304) :
    s.stageBytes = .ok (s.modMgmt (fun g => { g with staging := g.staging ++ (g.arg.toList.drop 8).take n })) := by
  unfold State.stageBytes
  dsimp only
  rw [hn, if_neg (by omega), if_neg (by omega)]

theorem imageLoad_none {s : State} (h : s.source = none) : s.imageLoad = .error 2 := by unfold State.imageLoad; rw [h]

theorem submit_none {s : State} (h : s.source = none) : s.submit = .error 2 := by unfold State.submit; rw [h]

theorem identityLoad_none {s : State} (h : s.source = none) : s.identityLoad = (.error 2, s) := by unfold State.identityLoad; rw [h]

/-- IMAGE_LOAD of bytes that are read: the signatures are checked first, then the version (R371). -/
theorem imageLoad_close {s : State} {img : List Byte} (m : Master) (h : s.source = some img) :
    s.closeCommand m s.imageLoad =
      (let code := signatureCode (Config.waizelEcdsaOk img) (Config.waizelLmsOk img)
       if code ≠ 0 then s.endCommand m code
       else if (Config.imageVersion img).toNat < s.mgmt.fused.toNat then s.endCommand m 2
       else (s.commitTo (s.modMgmt (fun g => g.setStandby ⟨img, false⟩)).taken).endCommand m 0) := by
  unfold State.imageLoad
  rw [h]
  dsimp only
  by_cases hcode : signatureCode (Config.waizelEcdsaOk img) (Config.waizelLmsOk img) ≠ 0
  · rw [if_pos hcode, if_pos hcode]; exact closeCommand_error m rfl
  · rw [if_neg hcode, if_neg hcode]
    by_cases hold : (Config.imageVersion img).toNat < s.mgmt.fused.toNat
    · rw [if_pos hold, if_pos hold]; exact closeCommand_error m rfl
    · rw [if_neg hold, if_neg hold]; exact closeCommand_ok m rfl

/-- STATEMENT of bytes that are read: the signatures by the recorded keys first, then the body (R367). -/
theorem submit_close {s : State} {b : List Byte} {k : Nat × Nat} (m : Master) (h : s.source = some b) (hk : s.mgmt.keys = some k)
    (hlen : 272 ≤ b.length) :
    s.closeCommand m s.submit =
      (let code := signatureCode (Config.ecdsaOk k.1 (b.take 176) ((b.drop 176).take 96)) (Config.lmsOk k.2 (b.take 176) (b.drop 272))
       if code ≠ 0 then s.endCommand m code
       else if s.mgmt.bodyOk (b.take 176) = true then (s.commitTo (s.applyStatement (b.take 176)).taken).endCommand m 0
       else s.endCommand m 2) := by
  obtain ⟨ek, lk⟩ := k
  unfold State.submit
  rw [h, hk]
  dsimp only
  rw [if_neg (Nat.not_lt.2 hlen)]
  by_cases hcode : signatureCode (Config.ecdsaOk ek (b.take 176) ((b.drop 176).take 96)) (Config.lmsOk lk (b.take 176) (b.drop 272)) ≠ 0
  · rw [if_pos hcode, if_pos hcode]; exact closeCommand_error m rfl
  · rw [if_neg hcode, if_neg hcode]
    by_cases hbody : s.mgmt.bodyOk (b.take 176) = true
    · rw [if_pos hbody, if_pos hbody]; exact closeCommand_ok m rfl
    · rw [if_neg hbody, if_neg hbody]; exact closeCommand_error m rfl

/-- IDENTITY_LOAD of bytes that are read: a statement whose signatures fail leaves no owner policy (R372). -/
theorem identityLoad_close {s : State} {st : List Byte} (m : Master) (h : s.source = some st) :
    s.identityLoad.2.closeCommand m s.identityLoad.1 =
      (let code := signatureCode (Config.waizelEcdsaOk st) (Config.waizelLmsOk st)
       if code = 0 then
         (s.commitTo (s.modMgmt (fun g => { g with identity := st, policy := some (Config.identityPolicy st) })).taken).endCommand m 0
       else (s.modMgmt (fun g => { g with policy := none })).endCommand m code) := by
  unfold State.identityLoad
  rw [h]
  dsimp only
  by_cases hcode : signatureCode (Config.waizelEcdsaOk st) (Config.waizelLmsOk st) = 0
  · rw [if_neg (not_not.2 hcode), if_pos hcode]; exact closeCommand_ok m rfl
  · rw [if_pos hcode, if_neg hcode]; exact closeCommand_error m rfl

section
variable {s : State} {m : Master} {cmd : Word} (ht : s.takingOver = false) (ho : s.mgmt.owner = some m) (hs : s.mgmt.switching = false)
  (hm : s.mgmt.moving = none) (hcmd : cmd.toNat / 2 ^ 10 % 2 ^ 14 = 0)
include ht ho hs hm hcmd

/-- A command that the owner may write, and that has its effect: committed, counted, its RESULT 0. -/
theorem plain_done {op : Nat} {f : Nat → Nat → State → Effect} {t : State} (hop : cmd.toNat / 2 ^ 24 = op)
    (h : f (cmd.toNat % 64) (cmd.toNat / 64 % 16) s.worked = .ok t) :
    plainCommand m cmd op f s = .next ((s.worked.commitTo t).endCommand m 0) :=
  (plain_ok ht ho hs hm hcmd hop).trans (congrArg Host.Outcome.next (closeCommand_ok m h))

theorem plain_stopped {op code : Nat} {f : Nat → Nat → State → Effect} (hop : cmd.toNat / 2 ^ 24 = op)
    (h : f (cmd.toNat % 64) (cmd.toNat / 64 % 16) s.worked = .error code) :
    plainCommand m cmd op f s = .next (s.worked.endCommand m code) :=
  (plain_ok ht ho hs hm hcmd hop).trans (congrArg Host.Outcome.next (closeCommand_error m h))

theorem exec_ctxResident {c : Context} (hc : s.worked.ctx? (cmd.toNat % 64) = some c) (hop : cmd.toNat / 2 ^ 24 = 2) :
    (∀ t, Nat.testBit (s.worked.mgmt.argNum 0 4) 0 = true → s.worked.makeResident c = .ok (.ok t) →
      exec (.ctxResident m cmd) s = .next ((s.worked.commitTo t).endCommand m 0)) ∧
    (Nat.testBit (s.worked.mgmt.argNum 0 4) 0 = false → exec (.ctxResident m cmd) s = .next ((s.worked.commitTo
      (s.worked.modCtx (cmd.toNat % 64) (fun c => { c with resident := false })).quiesce).endCommand m 0)) := by
  refine ⟨fun t hbit hres => ?_, fun hbit => ?_⟩
  · show execCtxResident m cmd s = _
    rw [execCtxResident, command_ok ht ho hs hm hcmd hop]
    simp only [hc, hbit, hres, if_true]
  · show execCtxResident m cmd s = _
    rw [execCtxResident, command_ok ht ho hs hm hcmd hop]
    simp only [hc, hbit, Bool.false_eq_true, if_false]

end

/-! ### The switch of a live update -/

/-- What the active lodge has committed the standby imports; then the lodges change places. -/
theorem switch_accepted {s : State} (hs : s.mgmt.switching = true)
    (ha : Config.imageAccepts s.mgmt.standby.image s.mgmt.schema = true) :
    exec .liveUpdateSwitch s = .next (((s.commitTo s).imported.swapped.modMgmt (fun g =>
      { g with schema := Config.imageSchema s.mgmt.standby.image })).endCommand (s.mgmt.owner.getD .host) 0) := by
  rw [exec_switch]
  unfold execLiveUpdateSwitch
  dsimp only
  rw [if_neg (Bool.eq_false_iff.1 (congrArg not hs)), if_pos ha]

theorem switch_refused {s : State} (hs : s.mgmt.switching = true)
    (ha : Config.imageAccepts s.mgmt.standby.image s.mgmt.schema = false) :
    exec .liveUpdateSwitch s = .next (((s.commitTo s).modMgmt (fun g => { g with switching := false })).endCommand
      (s.mgmt.owner.getD .host) 7) := by
  rw [exec_switch]
  unfold execLiveUpdateSwitch
  dsimp only
  rw [if_neg (Bool.eq_false_iff.1 (congrArg not hs)), if_neg (Bool.eq_false_iff.1 ha)]

/-- What a switch leaves of the lodge state table's fields, where the final version has been written and no bank is newer. -/
def State.keepsTable (s t : State) : Prop :=
  t.mgmt.version = s.mgmt.version + 1#64 ∧ t.mgmt.table.toList.any (fun c => c.toList.contains (some (s.bank t.mgmt.version))) = true ∧
  t.mgmt.owner = s.mgmt.owner ∧ t.mgmt.epoch = s.mgmt.epoch ∧ t.mgmt.nonce = s.mgmt.nonce ∧ t.mgmt.keys = s.mgmt.keys ∧
  t.mgmt.policy = s.mgmt.policy ∧ t.mgmt.cap = s.mgmt.cap

section
variable {s : State} (hp : s.mgmt.powered = true) (hv : s.mgmt.version.toNat + 1 < 2 ^ 64)
  (hold : ∀ c ∈ s.mgmt.table.toList, ∀ b ∈ c.toList, ∀ x, b = some x → x.version.toNat ≤ s.mgmt.version.toNat)
include hp hv hold

theorem commitTo_keepsTable : s.keepsTable (s.commitTo s) :=
  ⟨rfl, (commit_newest hp hv hold).2, rfl, rfl, rfl, rfl, rfl, rfl⟩

theorem imported_keepsTable : s.keepsTable (s.commitTo s).imported := by
  obtain ⟨hnewest, htable⟩ := commit_newest hp hv hold
  obtain ⟨iversion, iowner, iepoch, inonce, ikeys, ipolicy, icap⟩ := imported_some hnewest
  obtain ⟨_, _, _, _, _, _, ktable⟩ := imported_fields (s.commitTo s)
  refine ⟨iversion, ?_, iowner, iepoch, inonce, ikeys, ipolicy, icap⟩
  rw [ktable, iversion]
  exact htable

end

/-- The fields that a table records pass the end of a command, and any change of the other management registers. -/
theorem keepsTable_endCommand {s t : State} (m : Master) (code : Nat) (h : s.keepsTable t) : s.keepsTable (t.endCommand m code) := by
  obtain ⟨_, _, hend⟩ := endCommand_eq t m code
  rw [hend]
  exact h

/-- What is left of the state u that is to be in effect, after the lodges change places and the command has ended. -/
theorem switched_fields (u : State) (v : Nat) (m : Master) :
    let t := (u.swapped.modMgmt (fun g => { g with schema := v })).endCommand m 0
    t.mgmt.switching = false ∧ t.mgmt.seq = u.mgmt.seq + 1#32 ∧ t.mem = u.mem ∧ t.plots = u.plots ∧ t.mgmt.eastActive = (!u.mgmt.eastActive) ∧
    t.mgmt.result = 0#8 ∧ ∀ s : State, s.keepsTable u → s.keepsTable t := by
  obtain ⟨emem, eplots, _, eswitching, _, eseq, eeast, eresult⟩ := endCommand_frame (u.swapped.modMgmt (fun g => { g with schema := v })) m 0
  exact ⟨eswitching, eseq, emem, eplots, eeast, eresult, fun s h => keepsTable_endCommand m 0 h⟩

/-- What is left of the state u where the active lodge resumes. -/
theorem resumed_fields (u : State) (m : Master) :
    let t := (u.modMgmt (fun g => { g with switching := false })).endCommand m 7
    t.mgmt.switching = false ∧ t.mgmt.seq = u.mgmt.seq + 1#32 ∧ t.mem = u.mem ∧ t.plots = u.plots ∧ t.mgmt.eastActive = u.mgmt.eastActive ∧
    t.mgmt.result = 7#8 ∧ ∀ s : State, s.keepsTable u → s.keepsTable t := by
  obtain ⟨emem, eplots, _, eswitching, _, eseq, eeast, eresult⟩ := endCommand_frame (u.modMgmt (fun g => { g with switching := false })) m 7
  exact ⟨eswitching, eseq, emem, eplots, eeast, eresult, fun s h => keepsTable_endCommand m 7 h⟩

/-- The switch of a live update, by whether the standby accepts the schema. -/
theorem switch_result {s : State} (hs : s.mgmt.switching = true) :
    ∃ t, exec .liveUpdateSwitch s = .next t ∧ t.mgmt.switching = false ∧
      t.mgmt.seq = s.mgmt.seq + 1#32 ∧ t.mem = s.mem ∧ t.plots = s.plots ∧
      t.mgmt.eastActive = (if Config.imageAccepts s.mgmt.standby.image s.mgmt.schema then !s.mgmt.eastActive else s.mgmt.eastActive) ∧
      t.mgmt.result = (if Config.imageAccepts s.mgmt.standby.image s.mgmt.schema then 0#8 else 7#8) ∧
      (s.mgmt.powered = true → s.mgmt.version.toNat + 1 < 2 ^ 64 →
        (∀ c ∈ s.mgmt.table.toList, ∀ b ∈ c.toList, ∀ x, b = some x → x.version.toNat ≤ s.mgmt.version.toNat) → s.keepsTable t) := by
  obtain ⟨cmem, cplots, _⟩ := commitTo_fields s
  have ceast : (s.commitTo s).mgmt.eastActive = s.mgmt.eastActive := rfl
  have cseq : (s.commitTo s).mgmt.seq = s.mgmt.seq := rfl
  cases ha : Config.imageAccepts s.mgmt.standby.image s.mgmt.schema with
  | true =>
    have hstep := switch_accepted hs ha
    have hkeep := imported_keepsTable (s := s)
    obtain ⟨imem, iplots, ieast, iseq, _, _, _⟩ := imported_fields (s.commitTo s)
    generalize (s.commitTo s).imported = u at hstep hkeep imem iplots ieast iseq
    obtain ⟨fswitching, fseq, fmem, fplots, feast, fresult, fkeeps⟩ :=
      switched_fields u (Config.imageSchema s.mgmt.standby.image) (s.mgmt.owner.getD .host)
    rw [iseq, cseq] at fseq
    rw [ieast, ceast] at feast
    exact ⟨_, hstep, fswitching, fseq, fmem.trans (imem.trans cmem), fplots.trans (iplots.trans cplots), feast, fresult,
      fun hp hv hold => fkeeps s (hkeep hp hv hold)⟩
  | false =>
    have hstep := switch_refused hs ha
    have hkeep := commitTo_keepsTable (s := s)
    generalize s.commitTo s = u at hstep hkeep cmem cplots cseq ceast
    obtain ⟨fswitching, fseq, fmem, fplots, feast, fresult, fkeeps⟩ := resumed_fields u (s.mgmt.owner.getD .host)
    rw [cseq] at fseq
    rw [ceast] at feast
    exact ⟨_, hstep, fswitching, fseq, fmem.trans cmem, fplots.trans cplots, feast, fresult, fun hp hv hold => fkeeps s (hkeep hp hv hold)⟩

/-- Settles O58: claims by the first that passes, refusals by `command_refused`, the owner's commands by the effect of each, and the
switch by the newest bank that a commit leaves. -/
theorem ownershipAndUpdate : Obligations.OwnershipAndUpdate := by
  refine ⟨fun s => ⟨fun m nonce ek lk ht => ?_, fun m nonce ek lk ht => exec_claim_busy m nonce ek lk ht, fun m ek lk hm => ?_⟩,
    fun s m cmd i op hi hop ho ht => ?_, fun s m cmd ht ho hs hm hcmd => ?_, fun s hs => switch_result hs⟩
  · refine ⟨_, exec_claim_works m nonce ek lk ht, fun c hc hown hmov => ?_, claims_idle⟩
    obtain ⟨hfree, hmem, hctxs, hplots, _⟩ := worked_fields s
    obtain ⟨eowner, ekeys, eepoch, enonce, eversion, emem, ectxs, eplots⟩ := elected_fields s.worked c.m c.ecdsa c.lms
    rw [claims_elect hc hown hmov, eowner, ekeys, eepoch, enonce, eversion, emem, ectxs, eplots, worked_mgmt, hfree, hmem, hctxs, hplots]
    exact ⟨rfl, rfl, rfl, rfl, rfl, rfl, rfl, rfl⟩
  · exact ⟨_, exec_handoverResetComplete hm, rfl, rfl, rfl, rfl, rfl, rfl, rfl, fun _ => wiped_pavs⟩
  · have hops : op ≠ 11 ∧ op ≠ 12 ∧ exec i s = .next (s.worked.refuse m 1 0x4000) := by
      simp only [List.mem_cons, List.not_mem_nil, or_false, Prod.mk.injEq] at hi
      rcases hi with ⟨rfl, rfl⟩ | ⟨rfl, rfl⟩ | ⟨rfl, rfl⟩ | ⟨rfl, rfl⟩ | ⟨rfl, rfl⟩ | ⟨rfl, rfl⟩ | ⟨rfl, rfl⟩ | ⟨rfl, rfl⟩ | ⟨rfl, rfl⟩ <;>
        exact ⟨by decide, by decide, command_refused hop ho (by decide) (by decide) ht⟩
    obtain ⟨h11, h12, hword⟩ := hops
    exact ⟨hword, (exec_writeCommand m cmd s).trans (execCommand_refused ho (hop ▸ h11) (hop ▸ h12) ht), refused_frame s m⟩
  · intro w slot done op signed
    have hsigned : ∀ a b, signed a b = signatureCode a b := fun a b => (signatureCode_eq a b).symm
    refine ⟨fun t h hop => plain_done ht ho hs hm hcmd hop h, fun code h hop => plain_stopped ht ho hs hm hcmd hop h,
      fun c t hc hbit hres hop => (exec_ctxResident ht ho hs hm hcmd hc hop).1 t hbit hres,
      fun c hc hbit hop => (exec_ctxResident ht ho hs hm hcmd hc hop).2 hbit,
      fun c hc hlt hop => plain_done ht ho hs hm hcmd hop (ctxFlags_ok hc hlt),
      fun hop => plain_done ht ho hs hm hcmd hop rfl, fun t h hop => plain_done ht ho hs hm hcmd hop h,
      fun img hsrc hbad hop => ?_, fun hoff hop => ?_, fun hoff hop => plain_done ht ho hs hm hcmd hop (if_neg (Bool.eq_false_iff.1 hoff)),
      fun b k hsrc hbad hk hlen hop => ?_, fun st hsrc hbad hop => ?_, fun l hbad => ⟨fun hop => ?_, fun hop => ?_, fun hop => ?_⟩,
      fun n hn h1 h2 h3 hop => plain_done ht ho hs hm hcmd hop (stageBytes_ok hn h1 h2 h3)⟩
    · simp only [hsigned]
      rw [exec_imageLoad, execImageLoad, command_ok ht ho hs hm hcmd hop, logged_clean hbad, imageLoad_close m hsrc]
    · exact (command_ok ht ho hs hm hcmd hop).trans (if_neg (Bool.eq_false_iff.1 hoff))
    · simp only [hsigned]
      rw [exec_statement, execStatement, command_ok ht ho hs hm hcmd hop, logged_clean hbad, submit_close m hsrc hk hlen]
    · simp only [hsigned]
      rw [exec_identityLoad, execIdentityLoad, command_ok ht ho hs hm hcmd hop, logged_clean hbad, identityLoad_close m hsrc]
    · rw [exec_imageLoad, execImageLoad, command_ok ht ho hs hm hcmd hop, logged_bad hbad,
        closeCommand_error m (imageLoad_none (sourceBad_none hbad))]
    · rw [exec_statement, execStatement, command_ok ht ho hs hm hcmd hop, logged_bad hbad,
        closeCommand_error m (submit_none (sourceBad_none hbad))]
    · rw [exec_identityLoad, execIdentityLoad, command_ok ht ho hs hm hcmd hop, logged_bad hbad,
        identityLoad_none (sourceBad_none hbad)]
      rfl

end Sys2Proof.Machine
end

section
/-! What the ports, the lodges, the sensors, the scrubber and power do (R19, R245, R391 to R396, R419 to R427), and the requests for
attestation (R373, R425). -/

namespace Sys2Proof.Machine

/-! ### Ports -/

theorem port?_fin (s : State) (port : Fin 24) : s.port? port = some s.fab.ports[port] := dif_pos port.isLt

section
variable {s : State} {port : Fin 24}

theorem exec_portFailure (hf : s.fab.ports[port].failed = false) (hw : portWired port = true) (hp : s.mgmt.powered = true) :
    exec (.portFailure port) s =
      .next ((s.commitTo (s.modPort port (fun p => { p with failed := true, fail := satInc p.fail }))).portEvent port) := by
  show execPortFailure port s = _
  simp only [execPortFailure, port?_fin, hf, hw, hp, Bool.not_true, Bool.or_self, Bool.false_eq_true, if_false]

/-- A port that is not wired, or whose die is held in reset, does not fail. -/
theorem exec_portFailure_idle (h : portWired port = false ∨ s.mgmt.powered = false) : exec (.portFailure port) s = .next s := by
  have hidle : (s.fab.ports[port].failed || !portWired port || !s.mgmt.powered) = true := by
    rcases h with h | h <;> rw [h] <;> simp
  show execPortFailure port s = _
  simp only [execPortFailure, port?_fin, hidle, if_true]

theorem exec_portEventResend {t : Nat} (he : s.fab.ports[port].event = some t) (hd : t + 2 ^ 20 ≤ s.activeCycles) :
    exec (.portEventResend port) s = .next (s.worked.portEvent port) := by
  have hsent : (s.port? port).bind (fun p => p.event) = some t := by rw [port?_fin, Option.bind_some, he]
  show execPortEventResend port s = _
  simp only [execPortEventResend, hsent, if_neg (Nat.not_lt.2 hd)]

theorem exec_portTrainingComplete (ht : s.fab.ports[port].training = true) (hp : s.mgmt.powered = true) :
    exec (.portTrainingComplete port) s =
      .next (s.commitTo (s.modPort port (fun p => { p with training := false, failed := false }))) := by
  show execPortTrainingComplete port s = _
  simp only [execPortTrainingComplete, port?_fin, ht, hp, Bool.and_self, if_true]

end

/-! ### Lodges and heat -/

theorem exec_heartbeat {s : State} (h : s.mgmt.lastBeat + 2 ^ 20 ≤ s.activeCycles) : exec .heartbeat s =
    .next (s.worked.commitTo (s.worked.modMgmt (fun g =>
      { g with heartbeat := g.heartbeat + 1#64, lastBeat := s.worked.activeCycles, beatSeen := g.heartbeat + 1#64, beatAt := s.worked.standbyCycles }))) :=
  if_neg (Nat.not_lt.2 h)

/-- The state in which a reading of the hottest sensor is recorded (R424). -/
def State.sampled (s : State) (tenths : Nat) : State :=
  s.worked.modMgmt (fun g =>
    { g with temp := BitVec.ofNat 16 tenths, sampledAt := s.worked.activeCycles, thermal := g.thermalStep tenths, trip := g.trip || decide (1100 ≤ tenths) })

theorem exec_thermalSample {s : State} (tenths : Nat) (h : s.mgmt.sampledAt + 2 ^ 20 ≤ s.activeCycles) : exec (.thermalSample tenths) s =
    .next (if 1100 ≤ tenths then (s.sampled tenths).moduleReset else s.sampled tenths) := if_neg (Nat.not_lt.2 h)

/-- From 100 °C the thermal limit goes down by 150 W, to 1,800 W at the least. -/
theorem thermalStep_hot (g : Mgmt) {tenths : Nat} (h : 1000 ≤ tenths) : g.thermalStep tenths = max 1800 (min g.cap g.thermal - 150) := if_pos h

/-- The trip at 110 °C: a module reset, with THERMTRIP written where the module has power. -/
theorem sampled_trip (s : State) {tenths : Nat} (h : 1100 ≤ tenths) :
    (s.sampled tenths).moduleReset.mgmt.trip = s.mgmt.powered ∧ (s.sampled tenths).moduleReset.mgmt.fused = s.mgmt.fused := by
  refine ⟨?_, ?_⟩
  · show ((s.worked.mgmt.trip || decide (1100 ≤ tenths)) && s.worked.mgmt.powered) = s.mgmt.powered
    rw [decide_eq_true h, Bool.or_true, Bool.true_and, worked_mgmt]
  · show s.worked.mgmt.fused = s.mgmt.fused
    rw [worked_mgmt]

/-! ### Scrub and the device memory BAR -/

theorem logErrors_mem (l : List Loc) (s : State) : (l.foldl (fun s l => s.logError l 0) s).mem = s.mem := by
  induction l generalizing s with
  | nil => rfl
  | cons x l ih => exact ih (s.logError x 0)

/-- Whether the scrubber reads a physical address: n bytes of a stack from pa on. -/
def scrubs (stack pa n a : Nat) : Bool := decide (pa ≤ a) && decide (a < pa + n) && decide ((Config.stackOf a).val = stack)

/-- The state in which the errors found, not known before, are recorded (R393). -/
def State.scrubbed (s s1 : State) (stack pa n : Nat) (found : List Nat) : State :=
  { s1 with mem := { s1.mem with
    bad := s1.mem.bad ++ (found.filter (fun a => scrubs stack pa n a && !s.mem.bad.contains ⟨.dev, a⟩)).eraseDups.map (fun a => Loc.mk .dev a) } }

theorem exec_scrub {s s1 : State} {stack pa n : Nat} {found : List Nat} (hp : s.mgmt.powered = true) (hs : s.spend 3 stack n = (true, s1)) :
    ∃ l : List Loc, exec (.scrub stack pa n found) s =
      .next (l.foldl (fun s l => s.logError l 0) (s.scrubbed s1 stack pa n found)) := by
  refine ⟨(s.scrubbed s1 stack pa n found).mem.bad.filter (fun l => l.space == .dev && scrubs stack pa n l.addr), ?_⟩
  show execScrub stack pa n found s = _
  simp only [execScrub, hp, hs, Bool.not_true, Bool.false_eq_true, if_false, State.scrubbed, scrubs]

/-- An error found is listed, whether it was known or is new. -/
theorem scrubbed_bad {s s1 : State} {stack pa n a : Nat} {found : List Nat} (hs : s.spend 3 stack n = (true, s1)) (ha : a ∈ found)
    (hin : scrubs stack pa n a = true) : ⟨.dev, a⟩ ∈ (s.scrubbed s1 stack pa n found).mem.bad := by
  have hmem : s1.mem = s.mem := by
    have hspend : (s.spend 3 stack n).2.mem = s.mem := by rw [(spend_eq s 3 stack n).1]
    rw [hs] at hspend
    exact hspend
  refine List.mem_append.2 ?_
  by_cases hknown : (⟨.dev, a⟩ : Loc) ∈ s.mem.bad
  · left; rw [hmem]; exact hknown
  · right
    refine List.mem_map_of_mem (List.mem_eraseDups.2 (List.mem_filter.2 ⟨ha, ?_⟩))
    rw [hin, Bool.true_and, Bool.not_eq_true', List.contains_eq_mem, decide_eq_false hknown]

section
variable {s : State} {off n : Nat} {l : Loc} (hp : s.mgmt.powered = true) (hr : off + n ≤ 2 ^ 52) (hl : s.place (s.bar2 + off) n = .at l)
include hp hr hl

theorem exec_barWrite (data : List Byte) : exec (.deviceMemoryBarAccess off n (some data)) s = .next (s.engineWrite gatehousePav l (data.take n)) := by
  have hin : ¬ ((!s.mgmt.powered) = true ∨ 2 ^ 52 < off + n) := by rw [hp]; simp only [Bool.not_true, Bool.false_eq_true, false_or]; omega
  show execDeviceMemoryBarAccess off n (some data) s = _
  simp only [execDeviceMemoryBarAccess, if_neg hin, hl]

theorem exec_barRead (hb : s.firstBad l n = none) : exec (.deviceMemoryBarAccess off n none) s =
    .next ((s.engineRead gatehousePav l n).1.emit (.barData (s.engineRead gatehousePav l n).2)) := by
  have hin : ¬ ((!s.mgmt.powered) = true ∨ 2 ^ 52 < off + n) := by rw [hp]; simp only [Bool.not_true, Bool.false_eq_true, false_or]; omega
  show execDeviceMemoryBarAccess off n none s = _
  simp only [execDeviceMemoryBarAccess, if_neg hin, hl, hb]

end

/-! ### Attestation -/

/-- The state after an answer, of which the management registers were g: one more answer, and what is sent. -/
def State.attested (s : State) (m : Master) (g : Mgmt) (code : Nat) (x : BitVec 384) : State :=
  State.emit { s.worked with mgmt := { g with answers := s.mgmt.answers + 1 } } (.attest m code x)

theorem answerOpen_worked (s : State) (m : Master) (request code arg : Nat) :
    s.worked.answerOpen m request code arg = s.attested m s.mgmt code (Config.spdmAnswer request arg s.mgmt.answers) := by
  rw [State.answerOpen, worked_mgmt]
  exact attest_worked s m code _

theorem answerError_worked (s : State) (m : Master) (why : Nat) :
    s.worked.answerError m why = s.attested m s.mgmt 0x7F (BitVec.ofNat 384 why) := attest_worked s m 0x7F _

/-- An answer with which the session of its master changes. -/
theorem session_attest (s : State) (m : Master) (b : Option Session) (code : Nat) (x : BitVec 384) :
    (s.worked.modMgmt (fun g => g.setSession m b)).attestTo m code x = s.attested m (s.mgmt.setSession m b) code x := by
  rw [State.modMgmt, worked_mgmt]
  exact attestTo_worked s (s.mgmt.setSession m b) m code x rfl

theorem session_answerOpen (s : State) (m : Master) (b : Option Session) (request code arg : Nat) :
    (s.worked.modMgmt (fun g => g.setSession m b)).answerOpen m request code arg =
      s.attested m (s.mgmt.setSession m b) code (Config.spdmAnswer request arg s.mgmt.answers) := by
  have hanswers : (s.worked.modMgmt (fun g => g.setSession m b)).mgmt.answers = s.mgmt.answers := by
    show s.worked.mgmt.answers = _
    rw [worked_mgmt]
  rw [State.answerOpen, hanswers, session_attest]

section
variable {s : State} (m : Master) (ht : s.takingOver = false)
include ht

theorem exec_getVersion : exec (.getVersion m) s = .next (s.attested m s.mgmt 0x04 (Config.spdmAnswer 0x84 0 s.mgmt.answers)) := by
  show execGetVersion m s = _
  rw [execGetVersion, request_works m _ ht, answerOpen_worked]

theorem exec_getCapabilities : exec (.getCapabilities m) s = .next (s.attested m s.mgmt 0x61 (Config.spdmAnswer 0xE1 0 s.mgmt.answers)) := by
  show execGetCapabilities m s = _
  rw [execGetCapabilities, request_works m _ ht, answerOpen_worked]

theorem exec_negotiateAlgorithms : exec (.negotiateAlgorithms m true) s =
    .next (s.attested m s.mgmt 0x63 (Config.spdmAnswer 0xE3 0 s.mgmt.answers)) ∧
    exec (.negotiateAlgorithms m false) s = .next (s.attested m s.mgmt 0x7F (BitVec.ofNat 384 1)) := by
  refine ⟨?_, ?_⟩
  · show execNegotiateAlgorithms m true s = _
    rw [execNegotiateAlgorithms, request_works m _ ht, if_pos rfl, answerOpen_worked]
  · show execNegotiateAlgorithms m false s = _
    rw [execNegotiateAlgorithms, request_works m _ ht, if_neg Bool.false_ne_true, answerError_worked]

theorem exec_getDigests : exec (.getDigests m) s = .next (s.attested m s.mgmt 0x01 (Config.spdmAnswer 0x81 0 s.mgmt.answers)) := by
  show execGetDigests m s = _
  rw [execGetDigests, request_works m _ ht, answerOpen_worked]

/-- The chain stands in slot 0 only. -/
theorem exec_getCertificate : exec (.getCertificate m 0) s = .next (s.attested m s.mgmt 0x02 (Config.spdmAnswer 0x82 0 s.mgmt.answers)) ∧
    ∀ k, k ≠ 0 → exec (.getCertificate m k) s = .next (s.attested m s.mgmt 0x7F (BitVec.ofNat 384 1)) := by
  refine ⟨?_, fun k hk => ?_⟩
  · show execGetCertificate m 0 s = _
    rw [execGetCertificate, request_works m _ ht, if_pos rfl, answerOpen_worked]
  · show execGetCertificate m k s = _
    rw [execGetCertificate, request_works m _ ht, if_neg hk, answerError_worked]

theorem exec_challenge (n : Nat) : exec (.challenge m 0 n) s = .next (s.attested m s.mgmt 0x03 (Config.spdmAnswer 0x83 n s.mgmt.answers)) ∧
    ∀ k, k ≠ 0 → exec (.challenge m k n) s = .next (s.attested m s.mgmt 0x7F (BitVec.ofNat 384 1)) := by
  refine ⟨?_, fun k hk => ?_⟩
  · show execChallenge m 0 n s = _
    rw [execChallenge, request_works m _ ht, if_pos rfl, answerOpen_worked]
  · show execChallenge m k n s = _
    rw [execChallenge, request_works m _ ht, if_neg hk, answerError_worked]

theorem exec_getMeasurements {k : Nat} {x : BitVec 384} (hx : s.mgmt.measurement k = some x) :
    exec (.getMeasurements m k) s = .next (s.attested m s.mgmt 0x60 x) := by
  show execGetMeasurements m k s = _
  rw [execGetMeasurements, request_works m _ ht, worked_mgmt, hx]
  exact congrArg Host.Outcome.next (attest_worked s m 0x60 x)

theorem exec_keyExchange (x : Nat) : exec (.keyExchange m x) s = .next
    (s.attested m (s.mgmt.setSession m (some ⟨masterCode m, x, false⟩)) 0x64 (Config.spdmAnswer 0xE4 x s.mgmt.answers)) := by
  show execKeyExchange m x s = _
  rw [execKeyExchange, request_works m _ ht, session_answerOpen]

/-- FINISH of the session that KEY_EXCHANGE began. -/
theorem exec_finish {c x : Nat} (v : Nat) (hs : s.mgmt.session m = some ⟨c, x, false⟩) : exec (.finish m v) s = .next
    (if Config.finishOk x v then
      s.attested m (s.mgmt.setSession m (some ⟨masterCode m, x, true⟩)) 0x65 (Config.spdmAnswer 0xE5 v s.mgmt.answers)
    else s.attested m (s.mgmt.setSession m none) 0x7F (BitVec.ofNat 384 6)) := by
  show execFinish m v s = _
  rw [execFinish, request_works m _ ht, worked_mgmt, hs, ← session_answerOpen, ← session_attest]
  exact (apply_ite Host.Outcome.next _ _ _).symm

theorem exec_finish_none (v : Nat) (hs : s.mgmt.session m = none) :
    exec (.finish m v) s = .next (s.attested m s.mgmt 0x7F (BitVec.ofNat 384 1)) := by
  show execFinish m v s = _
  rw [execFinish, request_works m _ ht, worked_mgmt, hs, ← answerError_worked]

theorem exec_endSession {c x : Nat} (hs : s.mgmt.session m = some ⟨c, x, true⟩) : exec (.endSession m) s = .next
    (s.attested m (s.mgmt.setSession m none) 0x6C (Config.spdmAnswer 0xEC 0 s.mgmt.answers)) := by
  show execEndSession m s = _
  rw [execEndSession, request_works m _ ht, worked_mgmt, hs, ← session_answerOpen]

theorem exec_endSession_none (hs : s.mgmt.session m = none) :
    exec (.endSession m) s = .next (s.attested m s.mgmt 0x7F (BitVec.ofNat 384 1)) := by
  show execEndSession m s = _
  rw [execEndSession, request_works m _ ht, worked_mgmt, hs, ← answerError_worked]

theorem exec_spdmUnsupportedRequest (code : Nat) :
    exec (.spdmUnsupportedRequest m code) s = .next (s.attested m s.mgmt 0x7F (BitVec.ofNat 384 7)) := by
  show execSpdmUnsupportedRequest m code s = _
  rw [execSpdmUnsupportedRequest, request_works m _ ht, answerError_worked]

/-- Sensor 1 is the hottest die's. -/
theorem exec_hottestSensor : exec (.pldmSensorRequest m 1) s = .next (s.worked.emit (.sensor m 1 (s.mgmt.temp.setWidth 32))) := by
  show execPldmSensorRequest m 1 s = _
  rw [execPldmSensorRequest, request_works m _ ht, if_pos rfl, worked_mgmt]

end

/-- Settles O60: events by what each comes to, requests for attestation by the answer after the firmware's work. -/
theorem managementEvents : Obligations.ManagementEvents := by
  refine ⟨fun s => ?_, fun s m => ⟨fun ht i hi => ?_, fun ht => ?_⟩⟩
  · obtain ⟨_, hmem, _, hplots, _⟩ := worked_fields s
    refine ⟨fun port => ⟨exec_portFailure, exec_portFailure_idle, fun t => exec_portEventResend, exec_portTrainingComplete⟩,
      fun hbeat => ⟨_, exec_heartbeat hbeat, ?_⟩, fun hseen hat => if_pos ⟨hseen, hat⟩, fun hoff => ⟨_, rfl, takeover_fields hoff⟩,
      fun tenths hdue => ⟨fun hlow => ⟨_, (exec_thermalSample tenths hdue).trans (congrArg Host.Outcome.next (if_neg (Nat.not_le.2 hlow))),
          rfl, fun hhot => ?_, hmem, hplots⟩,
        fun hhigh => ⟨_, (exec_thermalSample tenths hdue).trans (congrArg Host.Outcome.next (if_pos hhigh)),
          (sampled_trip s hhigh).1, rfl, rfl, rfl, (sampled_trip s hhigh).2⟩⟩,
      fun stack pa n found s1 hp hspend => ?_,
      ⟨_, rfl, rfl, rfl, rfl, rfl, rfl, rfl, rfl, rfl, rfl⟩, ⟨_, rfl, rfl, rfl, rfl, rfl⟩,
      fun hp => congrArg Host.Outcome.next (if_neg (Bool.eq_false_iff.1 hp)),
      fun off n l data hp hr hl => ⟨exec_barWrite hp hr hl data, exec_barRead hp hr hl⟩⟩
    · show s.worked.mgmt.heartbeat + 1#64 = _ ∧ s.worked.mgmt.version + 1#64 = _ ∧ s.worked.mgmt.eastActive = _
      rw [worked_mgmt]
      exact ⟨rfl, rfl, rfl⟩
    · show s.worked.mgmt.thermalStep tenths = _
      rw [worked_mgmt]
      exact thermalStep_hot s.mgmt hhot
    · obtain ⟨l, hscrub⟩ := exec_scrub (found := found) (pa := pa) hp hspend
      refine ⟨_, hscrub, fun a ha hlo hhi hstack => ?_⟩
      rw [logErrors_mem]
      exact scrubbed_bad hspend ha (by simp only [scrubs, hlo, hhi, hstack, decide_true, Bool.and_self])
  · simp only [List.mem_cons, List.not_mem_nil, or_false] at hi
    rcases hi with rfl | rfl | rfl | rfl | rfl | rfl | rfl <;> exact if_pos ht
  · obtain ⟨hoffered, hother⟩ := exec_negotiateAlgorithms m ht
    exact ⟨exec_getVersion m ht, exec_getCapabilities m ht, hoffered, hother, exec_getDigests m ht, (exec_getCertificate m ht).1,
      fun n => (exec_challenge m ht n).1, fun k n hk => ⟨(exec_getCertificate m ht).2 k hk, (exec_challenge m ht n).2 k hk⟩,
      fun k x hx => exec_getMeasurements m ht hx, rfl, rfl, exec_keyExchange m ht,
      fun c x v hs => ⟨fun hok => (exec_finish m ht v hs).trans (congrArg Host.Outcome.next (if_pos hok)),
        fun hbad => (exec_finish m ht v hs).trans (congrArg Host.Outcome.next (if_neg (Bool.eq_false_iff.1 hbad)))⟩,
      fun c x hs => exec_endSession m ht hs, fun hs => ⟨exec_endSession_none m ht hs, fun x => exec_finish_none m ht x hs⟩,
      exec_spdmUnsupportedRequest m ht, exec_hottestSensor m ht⟩

end Sys2Proof.Machine
end
